-- ==== Sys2Proof/Word.lean ====
section
/-!
DEFINITION. The words of the machine: sizes (R3), sparse tables in canonical form, the operand shapes of the
instruction formats (R55 to R61) and the payloads that a message of the machine carries.
-/

namespace Sys2Proof

abbrev Byte := BitVec 8
abbrev W64 := BitVec 64
abbrev Vec := BitVec 512
abbrev Sheaf := BitVec 3072
/-- A register field of R55: six bits. -/
abbrev Reg := BitVec 6
/-- A predicate number, k0 to k15 (R56). -/
abbrev KReg := BitVec 4

/-- A table that lists only the entries that differ from its default, by strictly rising key. Memory is
`Sparse Byte`, which is `List Host.Cell`. -/
abbrev Sparse (α : Type) := List (Nat × α)

/-- What the table holds at a key; an unlisted key reads as the default `d`. -/
def Sparse.get {α : Type} (d : α) : Sparse α → Nat → α
  | [], _ => d
  | (j, v) :: m, k => if j = k then v else Sparse.get d m k

/-- Lists an entry at its key's place. -/
def Sparse.insert {α : Type} : Sparse α → Nat → α → Sparse α
  | [], k, v => [(k, v)]
  | (j, w) :: m, k, v =>
    if k < j then (k, v) :: (j, w) :: m
    else if j = k then (k, v) :: m
    else (j, w) :: Sparse.insert m k v

/-- Writes one entry and keeps the canonical form: writing the default removes the entry. -/
def Sparse.put {α : Type} [DecidableEq α] (d : α) (m : Sparse α) (k : Nat) (v : α) : Sparse α :=
  if v = d then m.filter fun x => x.1 ≠ k else m.insert k v

/-- The canonical form: keys strictly rising from `lo` on, and no entry equal to the default. -/
def Sparse.wfFrom {α : Type} [DecidableEq α] (d : α) : Nat → Sparse α → Bool
  | _, [] => true
  | lo, (j, v) :: m => decide (lo ≤ j) && decide (v ≠ d) && Sparse.wfFrom d (j + 1) m

def Sparse.wf {α : Type} [DecidableEq α] (d : α) (m : Sparse α) : Bool := Sparse.wfFrom d 0 m

/-- One thread slot of one core, by global core number (R14) and slot number. -/
structure Tid where
  core : Nat
  slot : Nat
deriving DecidableEq, Repr, Inhabited

/-- Length of an instruction (R52). -/
inductive Len where
  | w64 | w96 | w128
deriving DecidableEq, Repr, Inhabited

/-- The common fields of every instruction but its registers (R55). -/
structure Hdr where
  len   : Len
  guard : KReg
  neg   : Bool
  wait  : BitVec 3
deriving DecidableEq, Repr, Inhabited

/-- Operand B of the reg format (R58): a register, or the 64-bit pattern of the immediate. -/
inductive Src where
  | reg (r : Reg)
  | imm (v : W64)
deriving DecidableEq, Repr, Inhabited

/-- A branch target that an instruction names by register or relative to pc (R247, R324). -/
inductive Target where
  | reg (r : Reg)
  | rel (off : BitVec 32)
deriving DecidableEq, Repr, Inhabited

/-- The element formats of R29; the reserved code 0xF names none. -/
inductive Fmt where
  | i8 | n8 | i16 | n16 | i32 | n32 | f32 | f16 | bf16 | e4m3 | e5m2 | e3m2 | e2m3 | e2m1 | q16
deriving DecidableEq, Repr, Inhabited

/-- The rounding modes of R33. -/
inductive Rnd where
  | rne | rtz | rup | rdn
deriving DecidableEq, Repr, Inhabited

/-- The relations of CMP (R91). -/
inductive CmpRel where
  | eq | ne | lt | le | gt | ge | ltn | len | gtn | gen
deriving DecidableEq, Repr, Inhabited

/-- The relations of CMPF and VCMP (R92, R113). -/
inductive FRel where
  | eq | ne | lt | le | gt | ge | un | or
deriving DecidableEq, Repr, Inhabited

/-- The widths of SEXT and ZEXT (R90). -/
inductive ExtW where
  | b | h | w
deriving DecidableEq, Repr, Inhabited

/-- The three forms of PMOV (R95). -/
inductive PmovOp where
  | toK (d : KReg) (a : Reg)
  | toG (d : Reg) (a : KReg)
  | kk (d a : KReg)
deriving DecidableEq, Repr, Inhabited

/-- The two forms of VBCAST (R117). -/
inductive BcastOp where
  | scalar (a : Reg)
  | elem (a : Reg) (b : Src)
deriving DecidableEq, Repr, Inhabited

/-- The three forms of PCMP (R326). -/
inductive PcmpOp where
  | g (a : Reg)
  | v (a : Reg)
  | k (a : KReg)
deriving DecidableEq, Repr, Inhabited

/-- The qualifiers of the mem format (R59, R187, R194). -/
inductive Qual where
  | none | f | fc | e | k
deriving DecidableEq, Repr, Inhabited

/-- The delivery forms of TWDEAL and TWCAST (R240). -/
inductive DealForm where
  | near | raw | pka | pkb
deriving DecidableEq, Repr, Inhabited

/-- The system registers of R155. -/
inductive SysReg where
  | stat | ctxb | otpc | exb | ovh | region | pasid | supv | cdepth | part | tick | pd | ident
  | mctl | mstat | mlim | rfence | menv | waddr0 | wctl0 | waddr1 | wctl1
deriving DecidableEq, Repr, Inhabited

/-- Operands of the mem format (R59). `disp` is the displacement, sign-extended to 32 bits. -/
structure MemOps where
  d    : Reg
  a    : Reg
  b    : Reg
  x    : Bool
  sh   : BitVec 3
  size : BitVec 2
  vec  : Bool
  qual : Qual
  wc   : BitVec 2
  disp : BitVec 32
deriving DecidableEq, Repr, Inhabited

/-- Operands of the integer atomics (R203): `dw` is the size, `uns` the .n form. -/
structure AtomOps where
  d   : Reg
  a   : Reg
  b   : Src
  c   : Reg
  dw  : Bool
  uns : Bool
deriving DecidableEq, Repr, Inhabited

/-- Operands of AACC and the floating atomics (R205, R206). -/
structure FAtomOps where
  ty  : Fmt
  rnd : Rnd
  d   : Reg
  a   : Reg
  b   : Src
deriving DecidableEq, Repr, Inhabited

/-- Operands of the lane-wise vector instructions (R107). -/
structure VOps where
  ty  : Fmt
  rnd : Rnd
  sat : Bool
  d   : Reg
  a   : Reg
  b   : Src
  c   : Reg
deriving DecidableEq, Repr, Inhabited

/-- Operands of the tile-walk commands (R235). `bat` is the batten of the batten forms, 0 otherwise. -/
structure TwOps where
  q   : BitVec 3
  wc  : BitVec 2
  fe  : Bool
  bat : BitVec 4
  d   : Reg
  a   : Reg
  b   : Reg
  ext : W64
deriving DecidableEq, Repr, Inhabited

/-- Operands of RMUL, RTILE and RTILES (R141). `cnt` is pairs or terms minus 1; `d0` is the first digit of RMUL,
`rows` the row count minus 1 of RTILE and RTILES. -/
structure RafOps where
  ua   : BitVec 4
  ub   : BitVec 4
  pn   : BitVec 2
  cnt  : BitVec 16
  d0   : BitVec 12
  rows : BitVec 6
deriving DecidableEq, Repr, Inhabited

/-- Operands of REXT and REXTM (R143, R144). -/
structure RextOps where
  fmt : Fmt
  rnd : Rnd
  sat : Bool
  pn  : BitVec 2
  d   : Reg
  b   : Reg
deriving DecidableEq, Repr, Inhabited

/-- The new memory value of an atomic (R203, R206). -/
inductive AtomKind where
  | add | and | or | xor | min | max | swp | cas | fadd | fmin | fmax
deriving DecidableEq, Repr, Inhabited

/-- The destination of a load or atomic. -/
inductive Dst where
  | none
  | g (r : Reg)
  | v (r : Reg)
deriving DecidableEq, Repr, Inhabited

/-- What an access does at its target. -/
inductive AccKind where
  | ldc | stc | ld | ldn | pref | st | aacc
  | atom (k : AtomKind) (uns : Bool) (ty : Fmt) (rnd : Rnd)
  | rload | rstore
  | walk (write : Bool)
deriving DecidableEq, Repr, Inhabited

/-- One access beyond local memory in flight (R197 to R206, R406): who issued it, what it names, its bytes as a
little-endian number, its destination, and what the thread needs when it lands. -/
structure Acc where
  id     : Nat
  tid    : Tid
  bind   : BitVec 12
  pc     : W64
  len    : Nat
  kind   : AccKind
  qual   : Qual
  va     : Nat
  pa     : Nat
  n      : Nat
  data   : Nat
  data2  : Nat
  dst    : Dst
  wc     : BitVec 2
  issue  : Nat
  priv   : Bool
  pasid  : BitVec 20
  tenant : BitVec 6
deriving DecidableEq, Repr, Inhabited

/-- A fault (R343): its number, its sub-code, the address or handle it concerns and the INFO of R347. -/
structure Flt where
  code : BitVec 6
  sub  : BitVec 8 := 0
  addr : W64 := 0
  info : W64 := 0
deriving DecidableEq, Repr, Inhabited

/-- A decrement of a waiting-task entry on its way to the table (R331). -/
structure Dec where
  id     : Nat
  handle : W64
  k      : Nat
  tid    : Tid
  bind   : BitVec 12
  tenant : BitVec 6
  /-- true for CSIG, whose fault comes with its reply -/
  csig   : Bool
  d      : Reg
  pc     : W64
  len    : Nat := 8
deriving DecidableEq, Repr, Inhabited

/-- The operations that a request performs at a future's table (R251, R273, R286 to R292). -/
inductive FOp where
  | touch | touchp | resolve | tend (creq : Bool) | halt | fcancel | fpoison (code : BitVec 6)
  | kill (code : BitVec 6) | fstat | fdrop | dispatch | cancel
deriving DecidableEq, Repr, Inhabited

/-- A request to a future's table (R280). -/
structure FReq where
  id     : Nat
  op     : FOp
  handle : W64
  value  : W64
  carry  : Option Vec
  pc     : W64
  tid    : Tid
  bind   : BitVec 12
  park   : BitVec 26
  d      : Reg
  e      : KReg
  tenant : BitVec 6
  issue  : Nat
deriving DecidableEq, Repr, Inhabited

/-- A spawn that allocates at a table: SPAWNAT's request, or the spill request of a SPAWN (R278, R285). -/
structure SReq where
  id     : Nat
  tid    : Tid
  bind   : BitVec 12
  at_    : Bool
  target : Nat
  record : BitVec 512
  pc     : W64
  priv   : Bool
  team   : Nat
  d      : Reg
  region : W64
  tenant : BitVec 6
  issue  : Nat
  /-- the access ids that hold the task's dispatch (R285) -/
  after  : List Nat
deriving DecidableEq, Repr, Inhabited

/-- Where a soft error strikes (R195). -/
inductive ErrPlace where
  | local (core : Nat) (addr : Nat)
  | cstore (cluster : Nat) (addr : Nat)
  | phys (pa : Nat)
  /-- a unit of a line that a core's L1 holds, by its physical address -/
  | l1 (core : Nat) (pa : Nat)
  /-- a resident line of a slot's register cache (R335) -/
  | reg (core slot line : Nat)
deriving DecidableEq, Repr, Inhabited

/-- A request from a peer package (R377). -/
inductive PeerOp where
  | future (r : FReq)
  | decrement (d : Dec)
  /-- WAIT and CNTRD.wt of a thread of the asking package -/
  | wait (t : Tid) (id : Nat) (handle : W64)
  | waitRead (t : Tid) (id : Nat) (handle : W64) (d : Reg)
  /-- a flit of MSG, to a cluster store -/
  | flit (cluster addr : Nat) (data : Vec)
  /-- a message of a pull, or a piece of a push, of a command that the asking cluster runs -/
  | read (cluster id msg va n : Nat)
  | write (cluster id msg va n data : Nat) (tag : Tid) (bind : BitVec 12)
  /-- a revoke of words that a core of the package asked owns at the asking package's slice (R190) -/
  | revoke (core line : Nat) (words : BitVec 16)
  /-- NEXT of a park entry of the package asked, and a cancel request for its task (R271, R289) -/
  | parkNext (ref next : BitVec 26)
  | creq (ref : BitVec 26)
deriving DecidableEq, Repr, Inhabited

structure PeerReq where
  link   : Nat
  tenant : BitVec 6
  pasid  : BitVec 20
  op     : PeerOp
deriving DecidableEq, Repr, Inhabited

end Sys2Proof
end

