-- ==== Sys2Proof/Config.lean ====
section
/-!
DEFINITION. What an implementation fixes and the spec does not compute: the cryptography of R374 and R375 and the
package's secret, as constants without a body. No statement rests on their values (log entry 6: DESIGN CHOICE, safe).
-/

namespace Sys2Proof.Config

/-- The 256-bit secret that the PUF of D0 gives (R374). -/
opaque pufSecret : BitVec 256

/-- The ML-DSA-87 public key derived from a seed, 2592 bytes (R374). -/
opaque publicKey : BitVec 512 → List Byte

/-- The ML-DSA-87 signature of a digest under the key of a seed, 4627 bytes (R374, R375). -/
opaque signature : BitVec 512 → BitVec 512 → List Byte

/-- Does Riryn's signature at the end of an image verify (R374)? -/
opaque imageVerifies : List Byte → Bool

/-- The bytes of an image, by its first 64 bytes, and its sequence number (R374). -/
opaque imageSize : List Byte → Nat
opaque imageSeq : List Byte → W64

/-- The program that a firmware image carries, and the address at which it starts (R370; log entry 54: DESIGN CHOICE, unsafe). -/
opaque imageCode : List Byte → List Byte
opaque imageEntry : List Byte → W64

/-- What a configuration image carries (R365, R370): 0 PKGID, 1 PTBASE, 2 BRBASE, 3 the spare count, 4 the pool's base. -/
opaque imageField : List Byte → Nat → W64

/-- Values that the spec leaves open, one for each number (log entry 7: DESIGN CHOICE, safe). -/
opaque freeValue : Nat → BitVec 512


end Sys2Proof.Config
end

