-- ==== Sys2Proof/Machine/Numbers.lean ====
section
/-!
DEFINITION. The number formats of "Numbers" (R29 to R51): exact values, the one rounding, element packing, integer
images, the guard-width rule, reductions and the helper functions of R51.
-/

namespace Sys2Proof.Num

/-- R51 SIGNED: the n-bit field x read as two's complement. -/
def signed (x n : Nat) : Int :=
  let y := x % 2 ^ n
  if n ≠ 0 ∧ 2 ^ (n - 1) ≤ y then (y : Int) - (2 ^ n : Nat) else y

/-- R51 WRAP: v mod 2^n as an n-bit field. -/
def wrap (v : Int) (n : Nat) : Nat := (v % ((2 ^ n : Nat) : Int)).toNat

/-- R51 SAT. -/
def sat (v lo hi : Int) : Int := if v < lo then lo else if hi < v then hi else v

/-- R42 WIDTH: bits in the binary form of x; 0 for 0. -/
def width (x : Nat) : Nat := if x = 0 then 0 else Nat.log2 x + 1

/-- Integer square root by Newton's iteration, with fuel. -/
def isqrtLoop (n : Nat) : Nat → Nat → Nat
  | 0, x => x
  | f + 1, x => let y := (x + n / x) / 2
                if y < x then isqrtLoop n f y else x

def isqrt (n : Nat) : Nat :=
  if n = 0 then 0 else isqrtLoop n (2 * Nat.log2 n + 4) (2 ^ (Nat.log2 n / 2 + 1))

/-- R32, R34: exponent bits, fraction bits and bias of a format with an exponent field. -/
structure Shape where
  ebits : Nat
  mbits : Nat
  bias  : Nat

def shape : Fmt → Option Shape
  | .f32 => some ⟨8, 23, 127⟩
  | .f16 => some ⟨5, 10, 15⟩
  | .bf16 => some ⟨8, 7, 127⟩
  | .e4m3 => some ⟨4, 3, 7⟩
  | .e5m2 => some ⟨5, 2, 15⟩
  | .e3m2 => some ⟨3, 2, 3⟩
  | .e2m3 => some ⟨2, 3, 1⟩
  | .e2m1 => some ⟨2, 1, 1⟩
  | _ => none

/-- R29, R105: bits of one element in a vector; Q16 elements stand as decoded I16. -/
def bits : Fmt → Nat
  | .i8 | .n8 | .e4m3 | .e5m2 => 8
  | .i16 | .n16 | .f16 | .bf16 | .q16 => 16
  | .i32 | .n32 | .f32 => 32
  | .e3m2 | .e2m3 => 6
  | .e2m1 => 4

/-- R105: elements of a vector. -/
def count (f : Fmt) : Nat := if bits f = 6 then 64 else 512 / bits f

def isInt : Fmt → Bool
  | .i8 | .n8 | .i16 | .n16 | .i32 | .n32 => true
  | _ => false

def isSigned : Fmt → Bool
  | .i8 | .i16 | .i32 | .q16 => true
  | _ => false

/-- Has the format infinities, and has it NaN (R32, R34)? -/
def hasInf : Fmt → Bool
  | .f32 | .f16 | .bf16 | .e5m2 => true
  | _ => false

def hasNan : Fmt → Bool
  | .f32 | .f16 | .bf16 | .e5m2 | .e4m3 => true
  | _ => false

/-- R51 CANON. -/
def canon : Fmt → Nat
  | .f32 => 0x7FC00000
  | .f16 => 0x7E00
  | .bf16 => 0x7FC0
  | .e4m3 => 0x7F
  | .e5m2 => 0x7E
  | _ => 0

/-- The encoding of the largest finite magnitude (R32, R34). -/
def maxEnc : Fmt → Nat
  | .f32 => 0x7F7FFFFF
  | .f16 => 0x7BFF
  | .bf16 => 0x7F7F
  | .e4m3 => 0x7E
  | .e5m2 => 0x7B
  | .e3m2 => 0x1F
  | .e2m3 => 0x1F
  | .e2m1 => 0x7
  | _ => 0

/-- The encoding of +∞ where there is one. -/
def infEnc : Fmt → Nat
  | .f32 => 0x7F800000
  | .f16 => 0x7C00
  | .bf16 => 0x7F80
  | .e5m2 => 0x7C
  | _ => 0

def intLo (f : Fmt) : Int := if isSigned f then -((2 ^ (bits f - 1) : Nat) : Int) else 0
def intHi (f : Fmt) : Int :=
  if isSigned f then ((2 ^ (bits f - 1) : Nat) : Int) - 1 else ((2 ^ bits f : Nat) : Int) - 1

/-- R51 VALUE: an exact value. `fin s n e st` is (−1)^s times a magnitude: n × 2^e when `st` is false, and a value
strictly between n × 2^e and (n + 1) × 2^e when `st` is true, with n long enough to decide any rounding. -/
inductive Val where
  | nan
  | inf (neg : Bool)
  | zero (neg : Bool)
  | fin (neg : Bool) (n : Nat) (e : Int) (st : Bool)
deriving DecidableEq, Repr

def Val.mk (neg : Bool) (n : Nat) (e : Int) : Val := if n = 0 then .zero neg else .fin neg n e false

def Val.ofInt (v : Int) : Val := Val.mk (decide (v < 0)) v.natAbs 0

/-- R30 to R34: the value of an encoding. -/
def value (f : Fmt) (x : Nat) : Val :=
  match shape f with
  | none =>
    if isSigned f then Val.ofInt (signed x (bits f)) else Val.ofInt ((x % 2 ^ bits f : Nat) : Int)
  | some s =>
    let m := x % 2 ^ s.mbits
    let e := (x / 2 ^ s.mbits) % 2 ^ s.ebits
    let neg := (x / 2 ^ (s.mbits + s.ebits)) % 2 == 1
    let top := 2 ^ s.ebits - 1
    if f = .e4m3 ∧ e = top ∧ m = 7 then .nan
    else if hasInf f ∧ e = top then (if m = 0 then .inf neg else .nan)
    else if e = 0 then Val.mk neg m (1 - (s.bias : Int) - s.mbits)
    else .fin neg (2 ^ s.mbits + m) ((e : Int) - s.bias - s.mbits) false

def signBit (f : Fmt) : Nat := 2 ^ (bits f - 1)

def withSign (f : Fmt) (neg : Bool) (x : Nat) : Nat := if neg then x + signBit f else x

/-- R33: does the magnitude go up, when the part cut off compares with half an ulp as `c` says and is inexact when
`inexact`, and the last kept bit is `odd`? -/
def roundsUp (mode : Rnd) (neg inexact odd : Bool) (c : Ordering) : Bool :=
  match mode with
  | .rne => match c with
    | .gt => true
    | .eq => odd
    | .lt => false
  | .rtz => false
  | .rup => inexact && !neg
  | .rdn => inexact && neg

/-- The magnitude n × 2^e (`st` as in `Val.fin`) as a whole number of 2^q, rounded (R33). -/
def roundAt (mode : Rnd) (neg : Bool) (n : Nat) (e : Int) (st : Bool) (q : Int) : Nat :=
  if q ≤ e then
    let m := n * 2 ^ (e - q).toNat
    if roundsUp mode neg st (m % 2 == 1) .lt then m + 1 else m
  else
    let k := (q - e).toNat
    if width n + 1 < k then
      if roundsUp mode neg true false .lt then 1 else 0
    else
      let m := n / 2 ^ k
      let r := n % 2 ^ k
      let half := 2 ^ (k - 1)
      let c := if r < half then Ordering.lt else if r = half ∧ !st then .eq else .gt
      if roundsUp mode neg (st || r ≠ 0) (m % 2 == 1) c then m + 1 else m

/-- R47: what a finite value that overflows becomes. -/
def overflow (f : Fmt) (mode : Rnd) (satp neg : Bool) : Nat :=
  if satp then withSign f neg (maxEnc f)
  else if f = .e4m3 then canon f
  else if hasInf f then
    let toInf := match mode with
      | .rne => true
      | .rtz => false
      | .rup => !neg
      | .rdn => neg
    withSign f neg (if toInf then infEnc f else maxEnc f)
  else withSign f neg (maxEnc f)

/-- R51 ROUND, for conversions and extraction (R47). -/
def round (f : Fmt) (mode : Rnd) (satp : Bool) (v : Val) : Nat :=
  match shape f with
  | none =>
    match v with
    | .nan => 0
    | .zero _ => 0
    | .inf neg => wrap (if neg then intLo f else intHi f) (bits f)
    | .fin neg n e st =>
      let m : Int := roundAt mode neg n e st 0
      wrap (sat (if neg then -m else m) (intLo f) (intHi f)) (bits f)
  | some s =>
    match v with
    | .nan => canon f
    | .zero neg => withSign f neg 0
    | .inf neg =>
      if hasInf f ∧ !satp then withSign f neg (infEnc f)
      else if f = .e4m3 ∧ !satp then canon f
      else withSign f neg (maxEnc f)
    | .fin neg n e st =>
      let emin : Int := 1 - (s.bias : Int) - s.mbits
      let q := Max.max ((Nat.log2 n : Int) + e - s.mbits) emin
      let m := roundAt mode neg n e st q
      let enc := (q - emin).toNat * 2 ^ s.mbits + m
      if maxEnc f < enc then overflow f mode satp neg else withSign f neg enc

/-- R109: ROUND of an arithmetic result; an infinite exact result stays infinite whatever sat holds. -/
def roundArith (f : Fmt) (mode : Rnd) (satp : Bool) (v : Val) : Nat :=
  match v with
  | .inf neg => withSign f neg (infEnc f)
  | v => round f mode satp v

/-- The signed integer n × 2^(e − lo) of a finite value. -/
def scaled (neg : Bool) (n : Nat) (e lo : Int) : Int :=
  let m : Int := (n * 2 ^ (e - lo).toNat : Nat)
  if neg then -m else m

/-- R109: the exact sum, with the sign of an exact zero. -/
def add (mode : Rnd) : Val → Val → Val
  | .nan, _ => .nan
  | _, .nan => .nan
  | .inf a, .inf b => if a = b then .inf a else .nan
  | .inf a, _ => .inf a
  | _, .inf b => .inf b
  | .zero a, .zero b => if a = b then .zero a else .zero (mode == .rdn)
  | .zero _, y => y
  | x, .zero _ => x
  | .fin a n e _, .fin b m g _ =>
    let lo := Min.min e g
    let v := scaled a n e lo + scaled b m g lo
    if v = 0 then .zero (mode == .rdn) else .fin (decide (v < 0)) v.natAbs lo false

def neg : Val → Val
  | .nan => .nan
  | .inf a => .inf (!a)
  | .zero a => .zero (!a)
  | .fin a n e st => .fin (!a) n e st

def isNeg : Val → Bool
  | .nan => false
  | .inf a | .zero a | .fin a _ _ _ => a

def mul : Val → Val → Val
  | .nan, _ => .nan
  | _, .nan => .nan
  | .inf a, y => match y with
    | .zero _ => .nan
    | y => .inf (a != isNeg y)
  | x, .inf b => match x with
    | .zero _ => .nan
    | x => .inf (isNeg x != b)
  | .zero a, y => .zero (a != isNeg y)
  | x, .zero b => .zero (isNeg x != b)
  | .fin a n e _, .fin b m g _ => .fin (a != b) (n * m) (e + g) false

/-- The exact quotient; 96 further bits and a sticky bit decide every rounding of R109. -/
def div : Val → Val → Val
  | .nan, _ => .nan
  | _, .nan => .nan
  | .inf _, .inf _ => .nan
  | .inf a, y => .inf (a != isNeg y)
  | x, .inf b => .zero (isNeg x != b)
  | .zero _, .zero _ => .nan
  | .zero a, y => .zero (a != isNeg y)
  | x, .zero b => .inf (isNeg x != b)
  | .fin a n e _, .fin b m g _ =>
    let k := 96 + Nat.log2 m
    let t := n * 2 ^ k
    .fin (a != b) (t / m) (e - g - k) (t % m ≠ 0)

/-- R109, R110: the exact square root. -/
def sqrt : Val → Val
  | .nan => .nan
  | .inf a => if a then .nan else .inf false
  | .zero a => .zero a
  | .fin a n e _ =>
    if a then .nan
    else
      let k : Nat := if (e % 2 = 0) then 192 else 193
      let t := n * 2 ^ k
      let r := isqrt t
      .fin false r ((e - k) / 2) (r * r ≠ t)

/-- R119: 1 / √x, by squaring the reciprocal's square. -/
def rsqrt : Val → Val
  | .nan => .nan
  | .inf a => if a then .nan else .zero false
  | .zero a => .inf a
  | .fin a n e _ =>
    if a then .nan
    else
      let k : Nat := 2 * (Nat.log2 n + 96) + (if e % 2 = 0 then 0 else 1)
      let t := 2 ^ k
      let r := isqrt (t / n)
      .fin false r ((-e - k) / 2) (r * r * n ≠ t)

/-- The fixed-point precision of `exp2`. -/
def expPrec : Nat := 320

/-- 2^f for the fraction whose remaining bits are `f` of weight 2^(−j), times the product so far; `c` is
2^(2^(−j)) in fixed point. -/
def exp2Loop : Nat → Nat → Nat → Nat → Nat
  | 0, _, _, acc => acc
  | w + 1, f, c, acc =>
    let acc := if f / 2 ^ w % 2 = 1 then acc * c / 2 ^ expPrec else acc
    exp2Loop w f (isqrt (c * 2 ^ expPrec)) acc

/-- R119: the exact 2^x; for a non-integer x, 320 bits of it and a sticky bit. -/
def exp2 : Val → Val
  | .nan => .nan
  | .inf a => if a then .zero false else .inf false
  | .zero _ => .fin false 1 0 false
  | .fin a n e _ =>
    if 0 ≤ e then
      let v : Int := n * 2 ^ e.toNat
      .fin false 1 (if a then -v else v) false
    else
      let w := (-e).toNat
      let v : Int := if a then -(n : Int) else n
      let i := v / ((2 ^ w : Nat) : Int)
      let f := (v % ((2 ^ w : Nat) : Int)).toNat
      if f = 0 then .fin false 1 i false
      else .fin false (exp2Loop w f (isqrt (2 * 2 ^ (2 * expPrec))) (2 ^ expPrec)) (i - expPrec) true

/-- Order of two exact values that are numbers; −0 equals +0. -/
def less : Val → Val → Bool
  | .nan, _ => false
  | _, .nan => false
  | .inf a, .inf b => a && !b
  | .inf a, _ => a
  | _, .inf b => !b
  | .zero _, .zero _ => false
  | .zero _, .fin b _ _ _ => !b
  | .fin a _ _ _, .zero _ => a
  | .fin a n e _, .fin b m g _ =>
    let lo := Min.min e g
    decide (scaled a n e lo < scaled b m g lo)

def isNan : Val → Bool
  | .nan => true
  | _ => false

/-- R92, R113: the floating relations. -/
def frel (r : FRel) (x y : Val) : Bool :=
  let un := isNan x || isNan y
  let eq := !un && !less x y && !less y x
  match r with
  | .eq => eq
  | .ne => !eq
  | .lt => less x y
  | .le => less x y || eq
  | .gt => less y x
  | .ge => less y x || eq
  | .un => un
  | .or => !un

/-- R91, R113: the integer relations of CMP on exact readings. -/
def irel (r : CmpRel) (sa sb : Int) (ua ub : Nat) : Bool :=
  match r with
  | .eq => ua == ub
  | .ne => ua != ub
  | .lt => decide (sa < sb)
  | .le => decide (sa ≤ sb)
  | .gt => decide (sb < sa)
  | .ge => decide (sb ≤ sa)
  | .ltn => decide (ua < ub)
  | .len => decide (ua ≤ ub)
  | .gtn => decide (ub < ua)
  | .gen => decide (ub ≤ ua)

/-- R112: the smaller (or larger) of two floating encodings; −0 is smaller than +0, one NaN is passed over. -/
def fminmax (max : Bool) (f : Fmt) (a b : Nat) : Nat :=
  let x := value f a
  let y := value f b
  match isNan x, isNan y with
  | true, true => canon f
  | true, false => b
  | false, true => a
  | false, false =>
    let bLess := less y x || (!less x y && !isNeg x && isNeg y)
    if bLess != max then b else a

/-- Element j of a vector of elements of w bits (R105). -/
def elem (v : Nat) (w j : Nat) : Nat := v / 2 ^ (w * j) % 2 ^ w

/-- The row of n elements of w bits that `f` gives. -/
def pack (w n : Nat) (f : Nat → Nat) : Nat :=
  (List.range n).foldr (fun j acc => f j % 2 ^ w + 2 ^ w * acc) 0

/-- R106: is element j enabled under the lane mask? -/
def enabled (lm : Nat) (w j : Nat) : Bool := lm / 2 ^ (w * j / 8) % 2 == 1

/-- R106: enabled elements receive their result, disabled ones keep their contents; bits above the elements are those
of `old`. -/
def lanes (old : Vec) (w n : Nat) (lm : Nat) (f : Nat → Nat) : Vec :=
  BitVec.ofNat 512
    (pack w n (fun j => if enabled lm w j then f j else elem old.toNat w j)
      + old.toNat / 2 ^ (w * n) * 2 ^ (w * n))

/-- One level of the pairwise tree of R49. -/
def treeLevel (op : Nat → Nat → Nat) : List (Option Nat) → List (Option Nat)
  | a :: b :: l =>
    (match a, b with
     | some x, some y => some (op x y)
     | some x, none => some x
     | none, y => y) :: treeLevel op l
  | l => l

/-- R49 TREE over a row of 2^k places. -/
def tree (op : Nat → Nat → Nat) : Nat → List (Option Nat) → Option Nat
  | 0, l => l.headD none
  | k + 1, l => tree op k (treeLevel op l)

/-- R36: the levels of Q16. -/
def q16Level (c : Nat) : Int :=
  ([-127, -90, -69, -53, -39, -27, -16, -5, 5, 16, 27, 39, 53, 69, 90, 127] : List Int).getD (c % 16) 0

/-- R38, R51 IMAGE; none is NAN. Integer formats return their code, Q16 its decoded I16. -/
def image (f : Fmt) (x : Nat) : Option Int :=
  match shape f with
  | none => some (if isSigned f then signed x (bits f) else ((x % 2 ^ bits f : Nat) : Int))
  | some s =>
    match value f x with
    | .nan | .inf _ => none
    | _ =>
      let m := x % 2 ^ s.mbits
      let e := (x / 2 ^ s.mbits) % 2 ^ s.ebits
      let n : Int := if e = 0 then m else ((2 ^ s.mbits + m) * 2 ^ (e - 1) : Nat)
      some (if (x / 2 ^ (s.mbits + s.ebits)) % 2 == 1 then -n else n)

/-- R39: the limb of an E5M2 image that PD names (true: low); other formats are whole. -/
def limb (f : Fmt) (low : Bool) (n : Int) : Int :=
  if f = .e5m2 then
    let a := n.natAbs
    let l : Int := Int.ofNat (if low then a % 65536 else a / 65536)
    if n < 0 then -l else l
  else n

/-- R38: the offset c of an image; MXINT8 (kind 1) counts 6 (R130). -/
def imageC (f : Fmt) (low : Bool) (kind1 : Bool) : Int :=
  match f with
  | .e2m1 => 1
  | .e2m3 => 3
  | .e3m2 => 4
  | .e4m3 => 9
  | .e5m2 => if low then 16 else 0
  | .i8 => if kind1 then 6 else 0
  | _ => 0

/-- R38: the worst case m_max. -/
def worstOf (f : Fmt) (low : Bool) : Nat :=
  match f with
  | .e2m1 => 12
  | .e2m3 => 60
  | .e3m2 => 448
  | .e4m3 => 229376
  | .e5m2 => if low then 65535 else 57344
  | .i8 => 128
  | .n8 => 255
  | .i16 => 32768
  | .n16 => 65535
  | .q16 => 32385
  | _ => 0

/-- R44 WORST. -/
def worst (fa : Fmt) (la : Bool) (fb : Fmt) (lb : Bool) (k : Nat) : Nat :=
  let fm := fun (f : Fmt) => if f = .q16 then 2 ^ 24 - 1 else 1
  k * worstOf fa la * worstOf fb lb * fm fa * fm fb

/-- R42: is (pitch, L, mode) admissible? mode 0 DOT, 1 CONV, 2 FULL. -/
def admissible (p l mode ma mb : Nat) : Bool :=
  decide (width ma + 1 ≤ p) && decide (width mb + 1 ≤ p) && decide ((3072 / p) % l = 0) &&
  (match mode with
   | 0 => decide (4 ≤ l) && decide (width (l * ma * mb) + 1 ≤ p)
   | 1 => decide (width (l * ma * mb) + 1 ≤ p)
   | _ => decide (p * l ≤ 48))

/-- R51 SCALEXP; none is NAN. -/
def scalexp (e : Nat) : Option Int := if e % 256 = 255 then none else some (((e % 256 : Nat) : Int) - 127)

/-- R37, R51 FSPLIT: sign, significand and exponent of an FP32 scale; none for ±∞ and NaN. -/
def fsplit (x : Nat) : Option (Bool × Nat × Int) :=
  let e : Nat := x / 2 ^ 23 % 256
  let m : Nat := x % 2 ^ 23
  let s := x / 2 ^ 31 % 2 == 1
  if e = 255 then none
  else if e = 0 then some (s, m, -149)
  else some (s, 2 ^ 23 + m, (e : Int) - 150)

/-- R51 POLY of the segment of L slots of pitch p that starts at slot `s0`. -/
def poly (sheaf : Nat) (p l s0 : Nat) : Int :=
  (List.range l).foldl (fun y k => y + signed (elem sheaf p (s0 + k)) p * ((2 ^ (p * k) : Nat) : Int)) 0

/-- R51 DIGITS: the n balanced digits of y at pitch p, least first. -/
def digits (p : Nat) : Nat → Int → List Int
  | 0, _ => []
  | n + 1, y =>
    let d := signed (wrap y p) p
    d :: digits p n ((y - d) / ((2 ^ p : Nat) : Int))

/-- R50: a value rounded to a whole number of 2^(−64) and clamped as R205 gives. -/
def toX128 (mode : Rnd) (v : Val) : Int :=
  let hi : Int := ((2 ^ 127 : Nat) : Int) - 1
  match v with
  | .nan => 0
  | .zero _ => 0
  | .inf neg => if neg then -((2 ^ 127 : Nat) : Int) else hi
  | .fin neg n e st =>
    let m : Int := roundAt mode neg n (e + 64) st 0
    sat (if neg then -m else m) (-((2 ^ 127 : Nat) : Int)) hi

/-- R143: the extraction of digit i of a purlin whose digits count as 2^e. -/
def extract (nan : Nat → Bool) (digit : Nat → Int) (f : Fmt) (mode : Rnd) (satp : Bool) (e : Int) (i : Nat) : Nat :=
  if nan i then canon f
  else
    let d := digit i
    round f mode satp (if d = 0 then .zero false else .fin (decide (d < 0)) d.natAbs e false)

end Sys2Proof.Num
end

