-- ==== Sys2Proof/Machine/Flags.lean ====
section
/-!
DEFINITION. What a comparison leaves in predicates and what a guard reads: R62, R79, R91, R92, R93, R106, R113. The
machine has no flags register; a predicate of 64 bits plays the part.
-/

namespace Sys2Proof.Flags

/-- R79: all ones for true, zero for false. -/
def ofBool (t : Bool) : W64 := if t then BitVec.allOnes 64 else 0

/-- R62: a scalar instruction is enabled when bit 0 of its guard, inverted by neg, is 1. -/
def scalarGuard (k : W64) (neg : Bool) : Bool := k.getLsbD 0 != neg

/-- R106: the lane mask of a vector instruction. -/
def laneMask (k : W64) (neg : Bool) : W64 := if neg then ~~~k else k

/-- R91: the relation of CMP on two 64-bit patterns. -/
def cmp (r : CmpRel) (a b : W64) : Bool := Num.irel r a.toInt b.toInt a.toNat b.toNat

/-- R92: the relation of CMPF on the low bits of two patterns. -/
def cmpf (r : FRel) (ty : Fmt) (a b : W64) : Bool :=
  Num.frel r (Num.value ty (a.toNat % 2 ^ Num.bits ty)) (Num.value ty (b.toNat % 2 ^ Num.bits ty))

/-- R93: TST. -/
def tst (z : Bool) (a b : W64) : Bool := ((a &&& b) != 0) != z

/-- R113: the relation of VCMP on two elements. .un and .or do not exist on integers (they are not accepted). -/
def vcmp (r : FRel) (ty : Fmt) (a b : Nat) : Bool :=
  if Num.isInt ty then
    let x : Int := if Num.isSigned ty then Num.signed a (Num.bits ty) else a
    let y : Int := if Num.isSigned ty then Num.signed b (Num.bits ty) else b
    match r with
    | .eq => decide (x = y)
    | .ne => decide (x ≠ y)
    | .lt => decide (x < y)
    | .le => decide (x ≤ y)
    | .gt => decide (y < x)
    | .ge => decide (y ≤ x)
    | .un => false
    | .or => true
  else Num.frel r (Num.value ty a) (Num.value ty b)

/-- R113: the predicate that receives t_j in each byte lane of each enabled element j, and keeps its other bits. -/
def lanes (old : W64) (w n : Nat) (lm : W64) (t : Nat → Bool) : W64 :=
  BitVec.ofNat 64 (Num.pack 1 64 (fun i =>
    let j := i * 8 / w
    let hit := decide (j < n) && Num.enabled lm.toNat w j
    let bit := if hit then t j else old.getLsbD i
    bit.toNat))

end Sys2Proof.Flags
end

