-- ==== Sys2Proof/Syntax.lean ====
section
/-!
DEFINITION. The instructions and steps of the machine: one constructor per row of spec/opcode_table.json. The first
197 have an encoding (R66); FILLER is the filler word of R63; the rest are steps of the machine without a word
(spec/95_what_each_step_holds.md), whose operands name the place or the message they act on.
-/

namespace Sys2Proof

inductive Instr where
  -- scalar integer (R83 to R90)
  | add (h : Hdr) (d a : Reg) (b : Src)
  | sub (h : Hdr) (d a : Reg) (b : Src)
  | mul (h : Hdr) (d a : Reg) (b : Src)
  | mulh (h : Hdr) (d a : Reg) (b : Src)
  | mulhn (h : Hdr) (d a : Reg) (b : Src)
  | div (h : Hdr) (d a : Reg) (b : Src)
  | divn (h : Hdr) (d a : Reg) (b : Src)
  | rem (h : Hdr) (d a : Reg) (b : Src)
  | remn (h : Hdr) (d a : Reg) (b : Src)
  | and (h : Hdr) (d a : Reg) (b : Src)
  | or (h : Hdr) (d a : Reg) (b : Src)
  | xor (h : Hdr) (d a : Reg) (b : Src)
  | andn (h : Hdr) (d a : Reg) (b : Src)
  | orn (h : Hdr) (d a : Reg) (b : Src)
  | shl (h : Hdr) (d a : Reg) (b : Src)
  | shr (h : Hdr) (d a : Reg) (b : Src)
  | shra (h : Hdr) (d a : Reg) (b : Src)
  | rotr (h : Hdr) (d a : Reg) (b : Src)
  | clz (h : Hdr) (d a : Reg)
  | ctz (h : Hdr) (d a : Reg)
  | popc (h : Hdr) (d a : Reg)
  | brev (h : Hdr) (d a : Reg)
  | bext (h : Hdr) (signed : Bool) (d a : Reg) (b : Src)
  | bins (h : Hdr) (d a : Reg) (b : Src)
  | min (h : Hdr) (d a : Reg) (b : Src)
  | minn (h : Hdr) (d a : Reg) (b : Src)
  | max (h : Hdr) (d a : Reg) (b : Src)
  | maxn (h : Hdr) (d a : Reg) (b : Src)
  | adds (h : Hdr) (d a : Reg) (b : Src)
  | subs (h : Hdr) (d a : Reg) (b : Src)
  | sext (h : Hdr) (w : ExtW) (d a : Reg)
  | zext (h : Hdr) (w : ExtW) (d a : Reg)
  -- compare, predicate, select (R91 to R98); `e` is absent in the 64-bit immediate form
  | cmp (h : Hdr) (rel : CmpRel) (d : KReg) (e : Option KReg) (a : Reg) (b : Src)
  | cmpf (h : Hdr) (rel : FRel) (ty : Fmt) (d : KReg) (e : Option KReg) (a : Reg) (b : Src)
  | tst (h : Hdr) (z : Bool) (d : KReg) (e : Option KReg) (a : Reg) (b : Src)
  | pand (h : Hdr) (d a b : KReg)
  | por (h : Hdr) (d a b : KReg)
  | pxor (h : Hdr) (d a b : KReg)
  | pandn (h : Hdr) (d a b : KReg)
  | pnot (h : Hdr) (d a : KReg)
  | pmov (h : Hdr) (op : PmovOp)
  | pset (h : Hdr) (d : KReg) (imm : W64)
  | sel (h : Hdr) (d : Reg) (c : KReg) (a : Reg) (b : Src)
  | pcnt (h : Hdr) (ffs : Bool) (d : Reg) (a b : KReg)
  -- control flow (R99 to R102) and the words without effect (R63, R100)
  | br (h : Hdr) (off : BitVec 28)
  | jmp (h : Hdr) (a : Reg) (imm : Option W64)
  | call (h : Hdr) (d : Reg) (off : BitVec 28)
  | callr (h : Hdr) (d a : Reg) (imm : Option W64)
  | ret (h : Hdr) (a : Reg)
  | loop (h : Hdr) (d : Reg) (off : BitVec 28)
  | brq (h : Hdr) (z : Bool) (off : BitVec 28)
  | nop (h : Hdr)
  | filler (len : Len)
  | overlayTrap
  | registerFill (lines : List Nat)
  -- loads and stores (R196 to R202)
  | ldl (h : Hdr) (m : MemOps)
  | stl (h : Hdr) (m : MemOps)
  | ldc (h : Hdr) (m : MemOps)
  | stc (h : Hdr) (m : MemOps)
  | ld (h : Hdr) (m : MemOps)
  | ldn (h : Hdr) (m : MemOps)
  | st (h : Hdr) (m : MemOps)
  | pref (h : Hdr) (m : MemOps)
  -- atomics (R203 to R206) and ordering (R216, R217)
  | aadd (h : Hdr) (o : AtomOps)
  | aand (h : Hdr) (o : AtomOps)
  | aor (h : Hdr) (o : AtomOps)
  | axor (h : Hdr) (o : AtomOps)
  | amin (h : Hdr) (o : AtomOps)
  | amax (h : Hdr) (o : AtomOps)
  | aswp (h : Hdr) (o : AtomOps)
  | acas (h : Hdr) (o : AtomOps)
  | aacc (h : Hdr) (o : FAtomOps)
  | afadd (h : Hdr) (o : FAtomOps)
  | afmin (h : Hdr) (o : FAtomOps)
  | afmax (h : Hdr) (o : FAtomOps)
  | acq (h : Hdr)
  | acqC (h : Hdr) (a : Reg)
  | rel (h : Hdr)
  | fence (h : Hdr)
  | fenceQ (h : Hdr) (mask : BitVec 8)
  -- vector (R104 to R121)
  | vadd (h : Hdr) (o : VOps)
  | vsub (h : Hdr) (o : VOps)
  | vmul (h : Hdr) (o : VOps)
  | vfma (h : Hdr) (o : VOps)
  | vfms (h : Hdr) (o : VOps)
  | vfnma (h : Hdr) (o : VOps)
  | vdiv (h : Hdr) (o : VOps)
  | vsqrt (h : Hdr) (o : VOps)
  | vmin (h : Hdr) (o : VOps)
  | vmax (h : Hdr) (o : VOps)
  | vabs (h : Hdr) (o : VOps)
  | vneg (h : Hdr) (o : VOps)
  | vand (h : Hdr) (o : VOps)
  | vor (h : Hdr) (o : VOps)
  | vxor (h : Hdr) (o : VOps)
  | vshl (h : Hdr) (o : VOps)
  | vshr (h : Hdr) (o : VOps)
  | vshra (h : Hdr) (o : VOps)
  | vadds (h : Hdr) (o : VOps)
  | vsubs (h : Hdr) (o : VOps)
  | vmulh (h : Hdr) (o : VOps)
  | vcmp (h : Hdr) (rel : FRel) (ty : Fmt) (d : KReg) (e : Option KReg) (a : Reg) (b : Src)
  | vsel (h : Hdr) (ty : Fmt) (d : Reg) (c : KReg) (a : Reg) (b : Src)
  | vcvt (h : Hdr) (src dst : Fmt) (rnd : Rnd) (sat : Bool) (d a : Reg) (idx : BitVec 4)
  | vrsum (h : Hdr) (ty : Fmt) (rnd : Rnd) (sat : Bool) (d a : Reg)
  | vrmin (h : Hdr) (ty : Fmt) (d a : Reg)
  | vrmax (h : Hdr) (ty : Fmt) (d a : Reg)
  | vror (h : Hdr) (ty : Fmt) (d a : Reg)
  | vperm (h : Hdr) (ty : Fmt) (d a b : Reg)
  | vrot (h : Hdr) (ty : Fmt) (d a : Reg) (b : Src)
  | vbcast (h : Hdr) (ty : Fmt) (d : Reg) (op : BcastOp)
  | vins (h : Hdr) (ty : Fmt) (d a : Reg) (b : Src)
  | vext (h : Hdr) (ty : Fmt) (d a : Reg) (b : Src)
  | vmov (h : Hdr) (ty : Fmt) (d : Reg) (b : Src)
  | vrcp (h : Hdr) (ty : Fmt) (rnd : Rnd) (sat : Bool) (d a : Reg)
  | vrsq (h : Hdr) (ty : Fmt) (rnd : Rnd) (sat : Bool) (d a : Reg)
  | vexp (h : Hdr) (ty : Fmt) (rnd : Rnd) (sat : Bool) (d a : Reg)
  | vzip (h : Hdr) (ty : Fmt) (hi : Bool) (d a b : Reg)
  | vunzip (h : Hdr) (ty : Fmt) (odd : Bool) (d a b : Reg)
  | vlut (h : Hdr) (ty : Fmt) (d a b : Reg) (idx : BitVec 4)
  -- pack, rafter and purlin (R122 to R150)
  | pitch (h : Hdr) (b : Src)
  | vpack (h : Hdr) (fmt : Fmt) (side push : Bool) (u : BitVec 4) (a : Reg) (pos : BitVec 9)
  | vpacks (h : Hdr) (push : Bool) (u : BitVec 4) (a : Reg) (pos : BitVec 9)
  | pclaim (h : Hdr) (d : Reg) (pn : BitVec 2)
  | prel (h : Hdr) (pn : BitVec 2)
  | rclr (h : Hdr) (pn : BitVec 2)
  | rmul (h : Hdr) (o : RafOps)
  | rtile (h : Hdr) (o : RafOps)
  | rtiles (h : Hdr) (o : RafOps)
  | rext (h : Hdr) (o : RextOps) (idx : BitVec 12)
  | rextm (h : Hdr) (o : RextOps) (a : Reg) (row0 rows : BitVec 6) (off : W64)
  | rgst (h : Hdr) (d : Reg) (pn : BitVec 2) (hi : Bool)
  | rgld (h : Hdr) (pn : BitVec 2) (a b : Reg)
  | rbase (h : Hdr) (pn : BitVec 2) (a : Reg)
  | rfuse (h : Hdr) (pn : BitVec 2) (a : Reg)
  | rtest (h : Hdr) (d : Reg)
  | rsave (h : Hdr) (pn : BitVec 2) (a : Reg) (off : W64)
  | rload (h : Hdr) (pn : BitVec 2) (a : Reg) (off : W64)
  | sheafStep (core : Nat)
  | rfuseSourceRead (core : Nat)
  | rafterBackgroundTest (core rafter : Nat)
  -- queue registers and battens (R222 to R233), fork and rendezvous (R247 to R249)
  | qput (h : Hdr) (u : BitVec 3) (a : Reg)
  | qget (h : Hdr) (d : Reg) (u : BitVec 3)
  | qpeek (h : Hdr) (d : Reg) (u : BitVec 3)
  | qcnt (h : Hdr) (d : Reg) (u : BitVec 3)
  | qpredPush (h : Hdr) (a : KReg)
  | qpredPop (h : Hdr) (d : KReg)
  | bset (h : Hdr) (u : BitVec 4) (depth : BitVec 5) (feed : Bool) (drain : Option (Reg × W64))
  | bsetFree (h : Hdr) (u : BitVec 4)
  | bpush (h : Hdr) (u : BitVec 4)
  | bpop (h : Hdr) (u : BitVec 4) (n : BitVec 6)
  | bstat (h : Hdr) (d : Reg) (u : BitVec 4)
  | fork (h : Hdr) (d : Reg) (t : Target) (b : Reg)
  | rdv (h : Hdr) (u : BitVec 4) (n : BitVec 7)
  | rdvEnd (h : Hdr) (u : BitVec 4) (n : BitVec 7)
  | clusterRdvArrival (t : Tid) (point n : Nat) (fin : Bool)
  | rdvDepartureReply (t : Tid)
  -- tile walks (R234 to R246)
  | twget (h : Hdr) (o : TwOps)
  | twgetC (h : Hdr) (o : TwOps)
  | twgetRaw (h : Hdr) (o : TwOps)
  | twgetPka (h : Hdr) (o : TwOps)
  | twgetPkb (h : Hdr) (o : TwOps)
  | twput (h : Hdr) (o : TwOps)
  | twputC (h : Hdr) (o : TwOps)
  | twdeal (h : Hdr) (form : DealForm) (o : TwOps)
  | twcast (h : Hdr) (form : DealForm) (o : TwOps)
  | twremPush (h : Hdr) (o : TwOps)
  | twremPull (h : Hdr) (o : TwOps)
  | engineCommandStart (cluster port core queue : Nat)
  | engineFlitLanding (cluster port : Nat)
  | enginePermitReserve (cluster port : Nat)
  | commandCompletion (core id : Nat)
  -- tasks and futures (R251 to R294)
  | spawn (h : Hdr) (d a : Reg) (pc : W64)
  | spawnat (h : Hdr) (d a b : Reg) (pc : W64)
  | touch (h : Hdr) (d a b : Reg)
  | touchp (h : Hdr) (d : Reg) (e : KReg) (a b : Reg)
  | resolve (h : Hdr) (d a : Reg) (b : Src)
  | tend (h : Hdr) (a : Reg)
  | fcancel (h : Hdr) (d a : Reg)
  | fpoison (h : Hdr) (d a : Reg) (b : Src)
  | fstat (h : Hdr) (d a : Reg)
  | fdrop (h : Hdr) (a : Reg)
  | wakeDelivery (park : BitVec 26) (code : BitVec 6) (val : W64) (ent rank ready : Nat)
  | futureSpill (r : SReq)
  | spillAck (r : SReq) (ent : Nat)
  | park (t : Tid)
  | taskDispatchChoice (core : Nat)
  | dispatchRequest (core : Nat)
  | taskBinding (core : Nat)
  | prefetchReady (cluster id : Nat)
  -- counters and messages (R331 to R341), waiting tasks and scoreboards (R299 to R305)
  | csig (h : Hdr) (d a : Reg) (n : BitVec 20)
  | msg (h : Hdr) (d a b : Reg) (f : BitVec 3) (n : BitVec 20)
  | msgDelivery (cluster addr : Nat) (data : Vec)
  | waitingTaskDecrement (r : Dec)
  | releaseParkWait (cluster : Nat)
  | waitCounter (h : Hdr) (n : BitVec 2) (m : BitVec 8)
  | waitHandle (h : Hdr) (a : Reg)
  | cntrdWc (h : Hdr) (d : Reg) (n : BitVec 2)
  | cntrdPerf (h : Hdr) (d : Reg) (num : BitVec 4)
  | cntrdWt (h : Hdr) (d a : Reg)
  | cntrdSlot (h : Hdr) (d : Reg)
  | cntrdSlip (h : Hdr) (d : Reg)
  | cntrdBud (h : Hdr) (d : Reg) (kind : BitVec 3)
  | carm (h : Hdr) (d a b : Reg) (pc : W64)
  | sbdef (h : Hdr) (n : BitVec 2) (a : Reg)
  | sbdefFree (h : Hdr) (n : BitVec 2)
  | sbreg (h : Hdr) (d : Reg) (n : BitVec 2) (a b : Reg) (pc : W64)
  | sbret (h : Hdr) (n : BitVec 2) (a : Reg)
  -- containment and pairing (R324 to R326)
  | cro (h : Hdr) (mask : BitVec 8) (t : Target)
  | crc (h : Hdr)
  | pcmp (h : Hdr) (op : PcmpOp)
  | containmentUnwind (t : Tid)
  -- system (R174 to R182, R319, R320)
  | mfs (h : Hdr) (d : Reg) (r : SysReg) (field : Option (BitVec 6 × BitVec 6))
  | mts (h : Hdr) (r : SysReg) (b : Src)
  | repart (h : Hdr) (b : Src)
  | halt (h : Hdr)
  | yield (h : Hdr)
  | tlbinvAll (h : Hdr)
  | tlbinvPasid (h : Hdr) (a : Reg)
  | tlbinvPage (h : Hdr) (a b : Reg)
  | tlbinvRange (h : Hdr) (a b : Reg) (n : W64)
  | tlbinvRetire (h : Hdr) (a : Reg)
  | ctxld (h : Hdr) (a : Reg)
  | ctxst (h : Hdr) (a : Reg)
  | oret (h : Hdr)
  | brk (h : Hdr) (code : BitVec 12)
  -- landings and performs (R169, R185, R187, R190, R199, R204, R209, R344, R406)
  | deferredFault (t : Tid)
  | loadLanding (a : Acc)
  | ldnLanding (a : Acc)
  | clusterStorePerform (a : Acc)
  | clusterWaitPerform (cluster granule : Nat)
  | storeRegistration (a : Acc)
  | revoke (core line : Nat) (words : BitVec 16)
  | storeAck (core id : Nat)
  | atomicPerform (a : Acc)
  | sliceLineFill (a : Acc)
  | slateRefresh (die : Nat)
  | pageWalk (a : Acc)
  | formatRangeWrite (die ctl reg : Nat) (val : BitVec 256)
  | formatRangeApply (die ctl reg : Nat)
  -- slot clocks (R313, R334), margin (R171, R172), gating (R361), throttle (R369)
  | slotClockTick (mesh : Nat)
  | meshLinkRetry (mesh : Nat)
  | windowEnd (core : Nat)
  | settleEnd (core : Nat)
  | gatingEntry (core : Nat)
  | gatingWake (core : Nat)
  | gatingExit (core : Nat)
  | throttleDown
  | throttleUp
  -- packets and the supervisor (R346 to R351), pairs (R354), errors (R357, R358)
  | packetDelivery (core : Nat)
  | eventQueueWrite (core : Nat)
  | evqctlWrite (val : W64)
  | supervisorResume (t : Tid)
  | supervisorKill (t : Tid)
  | supervisorUnwind (t : Tid)
  | supervisorStop (t : Tid)
  | acterrClear (t : Tid)
  | afullWrite (core off : Nat) (val : W64)
  | apertureAccess (core off : Nat) (write : Option W64)
  | mismatchTimeout (t : Tid)
  | signatureCompare (team : Nat)
  | dirtyLineUe (line : Nat)
  | pageRetireRequest (cluster page : Nat)
  | ownerKill (t : Tid) (bind : BitVec 12)
  | bindingSweep (t : Tid)
  -- host queues, teams and placement (R256 to R265)
  | doorbell (q : Nat) (val : W64)
  | queueIdleUnmap (q : Nat)
  | ringFetch (q : Nat)
  | queueReset (q : Nat)
  | hostRegisterWrite (addr : Nat) (val : W64)
  | hostNop (q idx : Nat)
  | launch (q idx : Nat)
  | signal (q idx : Nat)
  | waitmem (q idx : Nat)
  | waitmemPoll (q idx : Nat)
  | teamPlacement (team : Nat)
  | seedBinding (team core : Nat)
  | teamCompletion (team : Nat)
  | placementAgeExpiry (team : Nat)
  | teamSwapOut (team : Nat)
  -- host commands of kinds 0x10 to 0x19 (R367) and the boundary (R370 to R377)
  | envelope (q idx : Nat)
  | qclear (q idx : Nat)
  | power (q idx : Nat)
  | step (q idx : Nat)
  | checkpoint (q idx : Nat)
  | restore (q idx : Nat)
  | attest (q idx : Nat)
  | tenant (q idx : Nat)
  | slotload (q idx : Nat)
  | fwstage (q idx : Nat)
  | peerRequest (r : PeerReq)
  | linkDown (link : Nat)
  | linkUp (link : Nat)
  | powerOn
  | coreReset (core : Nat)
  | softError (place : ErrPlace) (correctable : Bool)
  | sparePageCopy (page : Nat)
  | checkpointCompletion (q idx : Nat)
deriving DecidableEq, Repr, Inhabited

end Sys2Proof
end

