-- ==== Sys2Proof/Machine/State.lean ====
section
/-!
DEFINITION. The state of the package as plain data, the reasons for which a step stops, and the state after reset.
Every field is named in INVENTORY.md with the rule that gives it.
-/

namespace Sys2Proof.Machine

/-- An entry of the containment stack (R323). -/
structure CEntry where
  nst   : BitVec 32 := 0
  mask  : BitVec 8 := 0
  hpc   : W64 := 0
  valid : Bool := false
deriving DecidableEq, Repr, Inhabited

/-- The context of a thread: its registers (R75, R78, R80, R104, R122) and its system registers (R157 to R162). -/
structure Ctx where
  pc     : W64 := 0
  g      : Sparse W64 := []
  k      : Sparse W64 := []
  v      : Sparse Vec := []
  pd     : W64 := 0
  stat   : W64 := 0
  ctxb   : W64 := 0
  otpc   : W64 := 0
  region : W64 := 0
  pasid  : BitVec 20 := 0
  supv   : W64 := 0
  cdepth : BitVec 3 := 0
  wc     : Sparse (BitVec 8) := []
  waddr  : Sparse W64 := []
  wctl   : Sparse W64 := []
  stack  : Sparse CEntry := []
deriving DecidableEq, Repr, Inhabited

/-- Why a thread is in the waiting state (R20): until an event of the machine wakes it, or until the condition named
lets its access be tried again. -/
inductive Wait where
  /-- the landing, reply or completion that carries this number -/
  | event (id : Nat)
  /-- the wait field value of R55: 1 to 4 one counter, 5 all four -/
  | counters (w : BitVec 3)
  /-- wait counter n at most m (R329, R340) -/
  | counter (n : BitVec 2) (m : BitVec 8)
  /-- a change of one of these resources of the core: granules, queues, battens, points, command queues, the pair's
  structures (R187, R222); see Machine.Res -/
  | change (keys : List Nat)
  /-- nothing of R198 outstanding (R325) -/
  | quiet
  /-- a slot waiter of a future (R287): the wait ends at the wake, or when the task can park -/
  | future (id : Nat)
  /-- a rendezvous of the core (R249) -/
  | rendezvous
deriving DecidableEq, Repr, Inhabited

inductive SlotState where
  | empty
  | ready
  | waiting (w : Wait)
  | frozen
deriving DecidableEq, Repr, Inhabited

/-- The task that a thread runs (R26, R271, R272): its team and virtual core, its park reference, its future handle (0
without one), whether FORK created the thread, and whether the handle is a waiting-task handle. -/
structure Task where
  team   : BitVec 16
  vcore  : BitVec 11
  park   : BitVec 26
  handle : W64
  forked : Bool
  /-- cluster-store bytes ÷ 64 that its prefetch was charged (R332) -/
  csb    : Nat := 0
deriving DecidableEq, Repr, Inhabited

/-- A tile-walk command as it stands in its queue (R234 to R241): its form (fn and opcode), operands, the descriptor
copy of R236, the PD captured at issue and the ids of the commands that a join puts before it (R217). `entered` is set
at c + 3, `elig` is the cycle + 1 in which it became eligible, and `started` says that an engine has it. -/
structure Cmd where
  id    : Nat
  op    : BitVec 8
  fn    : BitVec 4
  fe    : Bool
  tid   : Tid
  bind  : BitVec 12
  /-- 0 to 7 a queue of the core; from 8 on a walk of the ridge for prefetch queue − 8 (R253) -/
  queue : Nat
  wc    : BitVec 2
  desc  : BitVec 512
  ma    : W64
  na    : W64
  bat   : BitVec 4
  pd    : W64
  priv  : Bool
  pasid : BitVec 20
  tenant : BitVec 6
  team  : BitVec 16
  after : List Nat := []
  entered : Bool := false
  elig  : Nat := 0
  started : Bool := false
deriving DecidableEq, Repr, Inhabited

/-- What a batten-filling engine holds, and a core's batten entry (R229). -/
structure BEntry where
  bytes : Sheaf := 0
  marks : BitVec 384 := 0
deriving DecidableEq, Repr, Inhabited

/-- A flit on its way to its destination (R242): the cycle in which it may land, its message, the near rows' cores, its
near address, its bytes, and the physical bytes that a TWREM writes. -/
structure Flit where
  due  : Nat
  msg  : Nat
  cores : List Nat
  near : Nat
  n    : Nat
  data : Nat
  dst  : List (Nat × Nat)
deriving DecidableEq, Repr, Inhabited

/-- A batten that a command fills (R238, R239), on every core named: the bytes of its row stream that have landed and
been requested, all its bytes, its entries, those reserved so far and those pushed. -/
structure Fill where
  cores : List Nat
  data  : Nat := 0
  len   : Nat := 0
  asked : Nat := 0
  total : Nat
  res   : Nat := 0
  pushed : Nat := 0
deriving DecidableEq, Repr, Inhabited

/-- A flit that waits at a router's output port (R312): its command, message, near address, bytes and destination, and
the cycle of its arrival there. -/
structure Leaving where
  id     : Nat
  msg    : Nat
  near   : Nat
  n      : Nat
  pieces : List (Nat × Nat)
  since  : Nat
deriving DecidableEq, Repr, Inhabited

/-- A running command of an engine (R242, R244): its port, its messages and how many of them it will deliver, the next
to request and from which cycle, the replies in hand (message, first landing, bytes, fault), the next to land, the
flits to land, the last landing, the batten fills, writes not acknowledged, and why it stops. -/
structure Run where
  cmd    : Cmd
  port   : Nat
  /-- from this cycle on the engine is free -/
  freeAt : Nat := 2 ^ 64
  limit  : Nat
  next   : Nat := 0
  leave  : Nat
  asking : Bool := false
  got    : List (Nat × Nat × Nat × Option Flt) := []
  dst    : List (Nat × List (Nat × Nat)) := []
  order  : Nat := 0
  flits  : List Flit := []
  last   : Nat
  fills  : List Fill := []
  acks   : Nat := 0
  /-- messages that have begun to land, and the cycle + 1 of the last landing -/
  begun  : Nat := 0
  landAt : Nat := 0
  waited : Nat := 0
  pushAt : Nat := 0
  pushN  : Nat := 0
  fault  : Option Flt := none
  /-- flits of a TWPUT that have yet to leave -/
  left   : Nat := 0
  /-- messages whose writes have begun to be performed, each with the fault that it met (R245) -/
  met    : List (Nat × Option Flt) := []
  /-- stopped by a kill, a reset or a teardown; and its completion is on its way -/
  stop   : Bool := false
  closed : Bool := false
deriving DecidableEq, Repr, Inhabited

/-- What an engine does next for one of its commands. -/
inductive EngEv where
  | send
  | arrive (msg : Nat) (pieces : List (Nat × Nat)) (slate : Bool)
  | read (msg : Nat) (pieces : List (Nat × Nat))
  | reply (msg data : Nat) (f : Option Flt)
  | leave (msg near n : Nat) (pieces : List (Nat × Nat))
  | ack (msg : Nat) (f : Option Flt)
  | translated (f : Option Flt)
  | write (a : Acc)
deriving DecidableEq, Repr, Inhabited

/-- An operation of the rafter bank (R129, R147, R148, R408). -/
inductive BankKind where
  | rmul | rtile | rtiles | rextm | rbase | rfuse | rtest | rsave | rload | rclr | prel
  | rgld (lo hi : W64)
deriving DecidableEq, Repr, Inhabited

/-- A queued or running operation: operands as captured at issue (`steps` per term, `pass` per pass), and its progress.
`taken` and `retired` count the steps of the running term, or the steps of R408; `failed` holds the steps that repeat
with their repeats; `go` is the cycle from which the term's steps may be taken, or in which the current step of R408
ends; `held` says that a step has passed and awaits a translation or the comparator. -/
structure BankOp where
  id     : Nat
  kind   : BankKind
  tid    : Tid
  len    : Nat
  pn     : BitVec 2
  issue  : Nat
  ua     : BitVec 4 := 0
  ub     : BitVec 4 := 0
  terms  : Nat := 1
  steps  : Nat := 0
  pass   : Nat := 1
  rows   : Nat := 0
  row0   : Nat := 0
  d0     : Nat := 0
  pd     : W64 := 0
  base   : W64 := 0
  stride : W64 := 0
  shift  : W64 := 0
  fmt    : Fmt := .i8
  rnd    : Rnd := .rne
  sat    : Bool := false
  d      : Reg := 0
  cstore : Bool := false
  src    : Nat × Nat := (0, 0)
  started : Bool := false
  term   : Nat := 0
  taken  : Nat := 0
  retired : Nat := 0
  failed : List (Nat × Nat) := []
  go     : Nat := 0
  scaled : Bool := false
  scaleA : Option Sheaf := none
  scaleB : Option Sheaf := none
  part   : Sparse Int := []
  marks  : BitVec 4096 := 0
  served : Bool := false
  held   : Bool := false
  landing : List Nat := []
  todo   : List Nat := []
  mask   : BitVec 32 := 0
deriving DecidableEq, Repr, Inhabited

/-- A read of RFUSE that waits at its source's bank queue (R148): the reading core, the purlin, and its arrival. -/
structure SrcRead where
  reader : Nat
  purlin : Nat
  at_    : Nat
deriving DecidableEq, Repr, Inhabited

/-- The background test of one rafter (R150): tests run, the window of the last one + 1, repeats of the current one, and
the cycle + 1 in which it was last tried. -/
structure BgTest where
  tests  : Nat := 0
  window : Nat := 0
  fails  : Nat := 0
  at_    : Nat := 0
deriving DecidableEq, Repr, Inhabited

/-- A purlin (R125) with its guard state (R126); `claims` holds the slots of claims that have not committed (R138), and
`readers` the cores whose RFUSE reads it (R148). -/
structure Purlin where
  digits  : Sparse (BitVec 96) := []
  nanMap  : BitVec 4096 := 0
  n       : BitVec 14 := 0
  base    : BitVec 12 := 0
  torn    : Bool := false
  claimed : Bool := false
  owner   : BitVec 4 := 0
  bound   : BitVec 95 := 0
  claims  : List Nat := []
  readers : List Nat := []
deriving DecidableEq, Repr, Inhabited

/-- An entry of a queue register and the pop that has reserved it (R225). -/
structure QEntry where
  val : Vec
  res : Option Nat
deriving DecidableEq, Repr, Inhabited

structure QReg where
  entries : List QEntry := []
  pres    : BitVec 6 := 0
  tag     : Option (BitVec 16) := none
deriving DecidableEq, Repr, Inhabited

/-- A batten (R229 to R231). `pushRes` and `popRes` are the reservations that RES does not count. `written` holds the
slots of the tail entry written since the last push (R314). -/
structure Batten where
  entries : Sparse BEntry := []
  pops    : BitVec 16 := 0
  head    : BitVec 5 := 0
  tail    : BitVec 5 := 0
  feed    : Bool := false
  drain   : Option W64 := none
  owned   : Bool := false
  owner   : BitVec 4 := 0
  depth   : BitVec 6 := 32
  res     : BitVec 6 := 0
  /-- the commands that hold the reservations, in ring order -/
  resq    : List Nat := []
  count   : BitVec 6 := 0
  pushRes : Nat := 0
  popRes  : Nat := 0
  half    : Nat := 0
  /-- pops in cycle popAt − 1 -/
  popAt   : Nat := 0
  popNow  : Nat := 0
  written : BitVec 3072 := 0
  /-- to be released once no command names the batten (R232) -/
  leaving : Bool := false
deriving DecidableEq, Repr, Inhabited

/-- R261: empty and unowned. -/
def Batten.idle (b : Batten) : Bool := b.count == 0 && b.res == 0 && b.pushRes == 0 && b.popRes == 0 && !b.owned

/-- A rendezvous point (R248), with the threads that have arrived and whether it is closing. -/
structure Point where
  busy    : Bool := false
  n       : BitVec 8 := 0
  arr     : BitVec 8 := 0
  closing : Bool := false
  waiters : List Tid := []
deriving DecidableEq, Repr, Inhabited

/-- A spawned task on its way to a slot: the Z4's copy of the record (R283), its team, region and priority, the park
entry it holds, and the accesses that must end before its dispatch (R285). -/
structure Queued where
  record : BitVec 512
  team   : BitVec 16
  region : W64
  prio   : BitVec 3
  after  : List Nat
deriving DecidableEq, Repr, Inhabited

/-- A ready entry (R254). `cl` and `park` are the cluster and the index of its park entry. -/
structure Ready where
  cl    : Nat
  prio  : BitVec 3
  cycle : Nat
  idx   : BitVec 32
  park  : Nat
  team  : BitVec 16
  after : List Nat
deriving DecidableEq, Repr, Inhabited

/-- Where a chosen task comes from (R251). -/
inductive Source where
  | ready (r : Ready)
  | deque (q : Queued)
deriving DecidableEq, Repr, Inhabited

/-- A dispatch in flight (R251): chosen in `at_`, bound no earlier than `due`; `answer` is the future's answer. -/
structure Dispatch where
  src    : Source
  at_    : Nat
  due    : Nat
  answer : Option Bool
deriving DecidableEq, Repr, Inhabited

/-- What an outstanding access is, for R198 and R209. -/
inductive OutKind where
  | store | load | ldn | atomic | msg
deriving DecidableEq, Repr, Inhabited

/-- An outstanding access; `line` is the physical line it names (R188), and `shared` says that other threads of the core
may have read the store from its L1, or follow it through a queue, a fork or a rendezvous (R209, R228). -/
structure Out where
  id   : Nat
  slot : Nat
  kind : OutKind
  line : Nat := 2 ^ 60
  shared : Bool := false
  /-- the register-cache line that its landing writes (R161) -/
  reg  : Option Nat := none
deriving DecidableEq, Repr, Inhabited

/-- A resident register-cache line (R161). The list is in order of use, least recent first. `used` is the cycle + 1 in
which the last instruction that names it issued. `past` names, by its park
reference, a context that YIELD pre-empted and whose line is still resident (R359). -/
structure RLine where
  slot  : Nat
  idx   : Nat
  dirty : Bool
  evict : Bool
  /-- a correctable error that nothing has consumed (R335) -/
  err   : Bool := false
  used  : Nat := 0
  past  : Option (BitVec 26) := none
deriving DecidableEq, Repr, Inhabited

/-- A line of the L1 (R188). The list is in order of use, least recent first. `filled` is the cycle + 1 of its last
fill. -/
structure L1Line where
  tag  : Nat
  own  : BitVec 16
  val  : BitVec 16
  data : Vec
  filled : Nat := 0
deriving DecidableEq, Repr, Inhabited

/-- A line that the L1 has requested, and what the core's slots have done to its bytes since (byte of the line, slot):
a store's byte, or none where an atomic changed it at the home slice (R188). -/
structure LineFill where
  id    : Nat
  line  : Nat
  bytes : List (Nat × Nat × Option Byte)
deriving DecidableEq, Repr, Inhabited

/-- A cached translation (R317): the leaf entry, the level that holds it and the PASID's tenant. -/
structure Tlb where
  pasid  : BitVec 20
  level  : Nat
  vpn    : Nat
  leaf   : W64
  tenant : BitVec 6
deriving DecidableEq, Repr, Inhabited

/-- An event packet or thread packet on its way (R346, R348); `slot` is none for an event packet. -/
structure Packet where
  bits : BitVec 512
  slot : Option Nat
  due  : Nat
  dest : W64
deriving DecidableEq, Repr, Inhabited

/-- What a request at a future's table comes to (R273, R286 to R292). -/
structure FAns where
  fault : Option Flt := none
  val   : W64 := 0
  hit   : Bool := false
  wait  : Bool := false
  won   : Bool := false
deriving DecidableEq, Repr, Inhabited

/-- A request of CARM, SBREG, SBDEF, SBDEF.FREE or SBRET to its cluster's tables (R296), `op` 0 to 4: the record of a
task, the count, tile or descriptor, and who arms. -/
structure WReq where
  id     : Nat
  op     : Nat
  tid    : Tid
  len    : Nat
  d      : Reg
  record : BitVec 512
  n      : W64
  board  : BitVec 2
  team   : BitVec 16
  rcb    : Nat
  prio   : BitVec 3
  tenant : BitVec 6
deriving DecidableEq, Repr, Inhabited

/-- A park entry (R271). `acked` is the cycle in which its image writes are acknowledged (R287); `told` says that the
outcome of a wake is on its way to its slot, so that the task does not park (R274). -/
structure Park where
  val   : W64 := 0
  next  : BitVec 26 := 0
  team  : BitVec 16 := 0
  core  : BitVec 11 := 0
  slot  : BitVec 4 := 0
  prio  : BitVec 3 := 0
  ocode : BitVec 6 := 0
  creq  : Bool := false
  pst   : BitVec 3 := 0
  acked : Nat := 0
  touch : Option FReq := none
  handle : W64 := 0
  region : W64 := 0
  res   : Bool := false
  csb   : Nat := 0
  digest : List (Nat × List Nat) := []
  told  : Bool := false
deriving DecidableEq, Repr, Inhabited

/-- R272: an entry that a task holds, or that is reserved for one. -/
def Park.used (p : Park) : Bool := p.pst != 0 || p.res

/-- What follows the binding of a context: the acquire of a new task's carry edge (R211, R283), or the end of the park
that the entry's copy describes (R286, R287). -/
inductive BindEnd where
  | fresh
  | acquire (carry : W64)
  | resume (e : Park)
deriving DecidableEq, Repr, Inhabited

/-- Effects that an issue holds until its verdict, performs and replies that have no row of their own in the table, and
the rows from GATING_WAKE on that the machine itself brings about: a step takes them by the meaning that exec gives the
row. -/
inductive Act where
  | wake (t : Tid) (id : Nat)
  | replayCount (core : Nat)
  | stepRepeat (core n : Nat)
  | landRepeat (core : Nat)
  | wakeKeys (core : Nat) (keys : List Nat)
  | localWrite (t : Tid) (addr n data : Nat)
  | localLoad (t : Tid) (dst : Dst) (addr n : Nat)
  | fullRestore (core addr n : Nat) (full : Bool)
  | acquireL1 (t : Tid) (desc : Option (BitVec 512))
  | localFill (t : Tid) (addr n data : Nat)
  | l1Store (a : Acc)
  | atomSend (a : Acc)
  | cstoreSend (a : Acc)
  | arrive (a : Acc)
  | ldnStart (a : Acc)
  | translated (a : Acc) (f : Option Flt)
  | walk (a : Acc) (level table : Nat)
  | deferFault (t : Tid) (bind : BitVec 12) (f : Flt)
  | qPush (core q : Nat) (val : Vec) (ok : Bool)
  | qPair (core q : Nat) (val : Vec) (team : BitVec 16)
  | qPop (core q id : Nat) (ok : Bool)
  | bPush (core b : Nat) (ok : Bool)
  | bPop (core b n : Nat) (ok : Bool)
  | bWrite (core b entry : Nat) (val mask : BEntry) (push ok : Bool)
  | coreReg (t : Tid) (r : SysReg) (v : W64)
  | join (core : Nat) (mask : BitVec 8)
  | enqueue (core q id : Nat)
  | dropPlace (core q id : Nat)
  | heads (core : Nat)
  | engines (cluster : Nat)
  | outPorts (cluster : Nat)
  | engine (cluster id : Nat) (e : EngEv)
  | permits (cluster : Nat)
  | rdvDepart (core point : Nat)
  | rdvUndo (core point : Nat)
  | rdvSend (t : Tid) (point n : Nat) (fin : Bool)
  | rdvReply (t : Tid) (f : Flt)
  | fork (t : Tid) (slot : Nat) (target arg : W64) (ok : Bool)
  | endThread (t : Tid) (kind : Nat) (value : W64)
  | futureSend (r : FReq)
  | future (cluster : Nat) (r : FReq)
  | recordAct (cluster : Nat) (r : FReq)
  | recordDone (cluster : Nat) (r : FReq)
  | futureReply (r : FReq) (a : FAns)
  | outcome (ref : BitVec 26) (code : BitVec 6) (val : W64) (ent rank : Nat)
  | spawnCommit (t : Tid) (ent : Nat) (q : Queued) (deque : Bool) (park : Option Nat) (ok : Bool)
  | spillSend (r : SReq)
  | spillRead (r : SReq) (ent : Nat)
  | spawnatSend (r : SReq)
  | spawnat (r : SReq)
  | spawnReply (r : SReq) (f : Option Flt) (handle : W64)
  | spawnRetry (cluster : Nat)
  | bind (t : Tid) (c : Ctx) (k : Task) (e : BindEnd)
  | decSend (r : Dec)
  | creq (park : BitVec 26) (tenant : BitVec 6)
  | msgSend (r : Dec) (src dst n : Nat)
  | waitingSend (r : WReq)
  | waiting (r : WReq)
  | tableReply (t : Tid) (id len : Nat) (d : Option (Reg × W64)) (f : Option Flt)
  | resume (t : Tid) (id len : Nat) (walks : List Nat)
  | waitRequest (cluster : Nat) (t : Tid) (id : Nat) (handle : W64) (tenant : BitVec 6)
  | waitReply (t : Tid) (id code : Nat) (handle : W64)
  | wtRead (cluster : Nat) (t : Tid) (id : Nat) (handle : W64) (d : Reg) (tenant : BitVec 6)
  | budRead (t : Tid) (id : Nat) (kind : BitVec 3) (d : Reg)
  | decReply (r : Dec) (f : Option Flt) (val : W64)
  | claim (core pn slot : Nat) (won ok : Bool)
  | release (core pn : Nat)
  | repart (core m : Nat)
  | ctxld (core slot : Nat)
  | ctxst (core slot : Nat)
  | yield (t : Tid) (issue : Nat)
  | tlbinv (t : Tid) (id size func : Nat) (pasid : BitVec 20) (va len : Nat)
  | rowStore (a : Acc)
  | resumeBank (core id : Nat) (f : Option Flt)
  | bankData (a : Acc)
  | bankEnd (t : Tid) (id len : Nat) (f : Option Flt)
  | raise (t : Tid) (f : Flt)
  | packet (bits : BitVec 512) (dest : W64)
  | seed (team core : Nat)
  | peer (r : PeerReq)
  | gatingEnd (core : Nat)
  | stopThread (t : Tid)
  | gatingWake (core : Nat)
  | evqctlWrite (val : W64)
  | supervisorResume (t : Tid)
  | supervisorKill (t : Tid)
  | supervisorUnwind (t : Tid)
  | supervisorStop (t : Tid)
  | acterrClear (t : Tid)
  | afullWrite (core off : Nat) (val : W64)
  | apertureAccess (core off : Nat) (write : Option W64)
  | dirtyLineUe (line : Nat)
  | pageRetireRequest (cluster page : Nat)
  | sparePageCopy (page : Nat)
  | ownerKill (t : Tid) (bind : BitVec 12)
  | bindingSweep (t : Tid)
  | doorbell (q : Nat) (val : W64)
  | hostWrite (addr : Nat) (val : W64)
  | queueReset (q : Nat)
  | command (q idx kind : Nat)
deriving DecidableEq, Repr, Inhabited

/-- What the agenda holds: a step of the table, an effect without a row, or what a thread of a pair presents to the
store comparator (R354): the words compared, their address, whether it is a store, and what goes out on a match. -/
inductive Ev where
  | run (i : Instr)
  | act (a : Act)
  | present (t : Tid) (words : List Nat) (addr : W64) (store : Bool) (a : Option Act)
deriving DecidableEq, Repr, Inhabited

/-- An event that takes place in cycle `due`; within a cycle by phase, then by the order of sending. -/
structure Pend where
  due   : Nat
  phase : Nat
  seq   : Nat
  ev    : Ev
deriving DecidableEq, Repr, Inhabited

/-- An entry of the store comparator (R354): what is compared, its address, and what goes out once. -/
structure Cmp where
  words : List Nat
  addr  : W64
  store : Bool
  act   : Option Act
  cycle : Nat
deriving DecidableEq, Repr, Inhabited

structure Slot where
  st       : SlotState := .empty
  ctx      : Ctx := {}
  elig     : Nat := 0
  bind     : BitVec 12 := 0
  replays  : Nat := 0
  task     : Option Task := none
  reserved : Bool := false
  deferred : List Flt := []
  skipWatch : Bool := false
  acterr   : Bool := false
  code     : BitVec 6 := 0
  sub      : BitVec 8 := 0
  spkt     : BitVec 512 := 0
  lvq      : List Vec := []
  /-- LDNs that a pair's thread has issued, values landed for the trailing thread, and its LDNs that await one: place,
  destination, counter and access (R201) -/
  ldns     : Nat := 0
  ldnVals  : List (Nat × Vec) := []
  ldnWait  : List (Nat × Dst × BitVec 2 × Nat) := []
  /-- a full or limited acquire that takes effect before the thread's next issue (R211) -/
  acq      : Option (Option Vec) := none
  presented : Bool := false
  cmp      : List Cmp := []
  released : Nat := 0
  /-- the supervisor's stop takes effect before the next issue (R349) -/
  stopping : Bool := false
  digest   : List (Nat × List Nat) := []
  /-- a fault that unwinds once nothing is outstanding (R325), and the cycle from which it may -/
  unwinding : Option (Flt × Nat) := none
  /-- a fault or a kill whose packet waits for the slot's place at the core (R348) -/
  raising  : Option Flt := none
  /-- a kill in progress (R349): its fault code -/
  killing  : Option (BitVec 6) := none
  /-- a departure of its rendezvous that awaits its pair's trailing thread: 0 of a core point, 1 of a cluster point -/
  granted  : Option Nat := none
  /-- the unwind in `unwinding` is the supervisor's (R349) -/
  force    : Bool := false
  /-- an outcome of a wake that landed before the TOUCH's "wait" reply (R274) -/
  outcome  : Option (BitVec 6 × W64) := none
  /-- the access ids whose reply a waiting TOUCH awaits: destination, descriptor address -/
  touch    : Option FReq := none
deriving DecidableEq, Repr, Inhabited

inductive CoreKind where
  | program | firmware | withheld
deriving DecidableEq, Repr, Inhabited

/-- Gating of a program core (R361): powered, entering since a cycle, gated, leaving since a cycle. -/
inductive Gate where
  | powered
  | entering (since : Nat) (latch : Bool)
  | gated
  | leaving (since : Nat)
deriving DecidableEq, Repr, Inhabited

structure Core where
  slots    : Sparse Slot := []
  lastServed : Nat := 15
  exb      : W64 := 0
  ovh      : W64 := 0
  part     : BitVec 2 := 0
  tickBase : W64 := 0
  menv     : BitVec 8 := 0xFF
  dnw      : BitVec 4 := 0
  win      : BitVec 5 := 16
  level    : BitVec 4 := 15
  insn     : BitVec 8 := 16
  quarLim  : BitVec 4 := 4
  stepLim  : BitVec 8 := 8
  rpl      : BitVec 8 := 64
  wrep     : BitVec 16 := 0
  wstep    : BitVec 16 := 0
  run      : BitVec 5 := 0
  clean    : BitVec 4 := 0
  settle   : Bool := false
  ceilhit  : Bool := false
  qcause   : Bool := false
  quar     : Bool := false
  rfence   : BitVec 32 := 0
  winStart : Nat := 0
  settleAt : Nat := 0
  /-- the cycle + 1 in which WREP last passed MLIM.RPL (R172) -/
  passedAt : Nat := 0
  mem      : Sparse Byte := []
  empty    : Sparse Bool := []
  prevAt   : Nat := 0
  prev     : List (Nat × Byte) := []
  rlines   : List RLine := []
  /-- the registers of pre-empted contexts whose lines are still resident (R359) -/
  ghosts   : List (BitVec 26 × Ctx) := []
  l1       : List L1Line := []
  tlb      : List Tlb := []
  purlins  : Sparse Purlin := []
  bank     : List BankOp := []
  /-- RLOADs whose steps are over and whose data have not all landed -/
  loading  : List BankOp := []
  /-- the cycle of the next bank cycle, where there is one -/
  bankAt   : Nat := 0
  /-- rafters that take a step in cycle bankUseAt − 1, and those fenced in cycle fenceAt − 1 -/
  bankUse  : BitVec 32 := 0
  bankUseAt : Nat := 0
  /-- the operation that left the bank last: its cycle plus 1, and its purlin (R148) -/
  bankDone : Nat × Nat := (0, 0)
  fenceNew : BitVec 32 := 0
  fenceAt  : Nat := 0
  reads    : List SrcRead := []
  bg       : Sparse BgTest := []
  /-- the window + 1 in which every unfenced rafter has been tested -/
  bgAll    : Nat := 0
  qregs    : Sparse QReg := []
  battens  : Sparse Batten := []
  cmdqs    : Sparse (List Cmd) := []
  joins    : List (BitVec 8 × List Nat) := []
  /-- queues that a fault holds: the slot that raises it, and the fault (R243) -/
  stalled  : Sparse (Option (Nat × Flt)) := []
  rdv      : Sparse Point := []
  deque    : List Queued := []
  dequeRes : Nat := 0
  perf     : Sparse W64 := []
  lwin     : BitVec 4 := 0
  fen      : Bool := false
  flogn    : BitVec 4 := 2
  fbase    : BitVec 13 := 0
  ftail    : BitVec 16 := 0
  pktSeq   : BitVec 16 := 0
  dropped  : BitVec 8 := 0
  pkts     : List Packet := []
  team     : Option (BitVec 16) := none
  vcore    : BitVec 11 := 0
  lastTenant : Option (BitVec 6) := none
  extents  : List (Nat × Nat) := []
  dispatch : Option Dispatch := none
  chosenAt : Nat := 0
  busyAt   : Nat := 0
  resetAt  : Nat := 0
  stopped  : Bool := false
  gate     : Gate := .powered
  stall    : Nat := 0
  issueAt  : Nat := 0
  late     : List Nat := []
  kind     : CoreKind := .program
  outs     : List Out := []
  fills    : List LineFill := []
deriving DecidableEq, Repr, Inhabited

/-- A directory entry of a home slice (R189); a listed line is VALID. `way` is the way of its set that holds it (R357),
and `used` the cycle of its last access. -/
structure SLine where
  dirty : Bool
  ownw  : BitVec 16
  opkg  : BitVec 8
  ocore : BitVec 11
  oslot : BitVec 4
  obind : BitVec 12
  way   : Nat := 0
  used  : Nat := 0
deriving DecidableEq, Repr, Inhabited

/-- An entry of a future table (R269). `res` is the thread that an uncommitted reservation or a finished spill holds the
entry for (R275, R278). -/
structure Future where
  gen   : BitVec 35 := 0
  state : BitVec 3 := 0
  drop  : Bool := false
  creq  : Bool := false
  fcode : BitVec 6 := 0
  head  : BitVec 26 := 0
  tail  : BitVec 26 := 0
  nwait : BitVec 20 := 0
  task  : BitVec 26 := 0
  rcb   : BitVec 46 := 0
  seq   : BitVec 32 := 0
  value : W64 := 0
  res   : Option Tid := none
  prior : BitVec 3 := 0
  held  : List FReq := []
deriving DecidableEq, Repr, Inhabited

/-- A waiting-task entry (R298). -/
structure WaitTask where
  record : BitVec 512 := 0
  rcb    : BitVec 46 := 0
  gen    : BitVec 35 := 0
  state  : BitVec 2 := 0
  count  : BitVec 20 := 0
  team   : BitVec 16 := 0
  prio   : BitVec 3 := 0
  park   : BitVec 26 := 0
  sbn    : BitVec 2 := 0
  sbl    : Bool := false
  region : W64 := 0
deriving DecidableEq, Repr, Inhabited

/-- A scoreboard (R301): its header and tile entries. -/
structure Board where
  owned : Bool := false
  team  : BitVec 16 := 0
  mask  : BitVec 25 := 0
  hm1   : BitVec 6 := 0
  wm1   : BitVec 6 := 0
  tiles : Sparse (BitVec 15) := []
deriving DecidableEq, Repr, Inhabited

/-- A task whose tiles the ridge fetches (R253): its tile descriptors or the fault of reading them, the walks that are
still running, and its charge of R332 in 64-byte units. -/
structure Prefetch where
  id     : Nat
  task   : Queued
  park   : Nat
  idx    : Nat
  descs  : List (BitVec 512) := []
  fault  : Option Flt := none
  walks  : Nat := 0
  csb    : Nat := 0
  charged : Bool := false
deriving DecidableEq, Repr, Inhabited

structure Cluster where
  mem      : Sparse Byte := []
  empty    : Sparse Bool := []
  held     : List Acc := []
  lastGran : Sparse Nat := []
  /-- requests that have arrived and await their cycle, in order of arrival: number, core (none for an engine and a
  message) and granules (R185) -/
  arrived  : List (Nat × Option Nat × List Nat) := []
  lastTenant : Option (BitVec 6) := none
  slice    : Sparse (Option SLine) := []
  badWays  : List Nat := []
  heldPages : List Nat := []
  pageWait : List Acc := []
  futures  : Sparse Future := []
  allocs   : BitVec 32 := 0
  parks    : Sparse Park := []
  /-- NEXT of the park entries of other packages that this cluster's table has written (R271) -/
  peerNext : Sparse (BitVec 26) := []
  /-- spilled records that change now, and the operations that wait for each, in order of arrival (R280, R281) -/
  recordBusy : List (W64 × List FReq) := []
  waits    : Sparse WaitTask := []
  waitHeld : List (Tid × Nat × W64) := []
  relWait  : List (Nat × Nat) := []
  boards   : Sparse Board := []
  rdv      : Sparse Point := []
  ready    : List Ready := []
  spawnHeld : List (SReq × Nat) := []
  prefetch : List Prefetch := []
  engines  : List Run := []
  /-- flits that wait at the router's output ports, in order of arrival (R312) -/
  leaving  : List Leaving := []
  /-- eligible walks of the ridge (R253) -/
  ridge    : List Cmd := []
  tlb2     : List Tlb := []
  tmem     : W64 := 1
  slots    : Sparse Byte := []
deriving DecidableEq, Repr, Inhabited

/-- A format-range register (R321), live and pending. -/
structure FmtRange where
  owner : BitVec 46 := 0
  count : BitVec 24 := 0
  valid : Bool := false
  bad   : Bool := false
  win   : W64 := 0
  src   : W64 := 0
  pend  : Option (BitVec 256) := none
  stage : Option (BitVec 256) := none
deriving DecidableEq, Repr, Inhabited

structure Die where
  slref   : BitVec 6 := 0
  cecc    : W64 := 0
  fmts    : Sparse FmtRange := []
  walkers : Nat := 0
  walkWait : List Acc := []
  /-- the cycle in which a refresh window ends (R192) -/
  refresh : Nat := 0
deriving DecidableEq, Repr, Inhabited

/-- The effective fields of a region (R306, R307) as a placement holds them. -/
structure Region where
  rcb      : Nat := 0
  tenant   : BitVec 6 := 0
  pasid    : BitVec 20 := 0
  prio     : BitVec 3 := 0
  privb    : Bool := false
  rmode    : BitVec 2 := 0
  dbg      : Bool := false
  supv     : W64 := 0
  cpol     : Bool := false
  mesh     : BitVec 16 := 0
  age      : Nat := 0
  sdepth   : Nat := 0
  parkbase : W64 := 0
  swapbase : W64 := 0
  consts   : List (Nat × Nat) := []
  peer     : BitVec 20 := 0
  /-- regions on the path with their own limit, per kind: THREADS, FUTURES, WAITS, CSB, NETSLOT -/
  limits   : List (Nat × Nat × Nat) := []
  top      : Nat := 0
deriving DecidableEq, Repr, Inhabited

inductive TeamState where
  | pending | loading | placed | swapped
deriving DecidableEq, Repr, Inhabited

/-- A team (R26, R260 to R265). -/
structure Team where
  st      : TeamState := .pending
  queue   : Nat := 0
  index   : Nat := 0
  region  : Region := {}
  n       : Nat := 1
  quota   : Nat := 1
  part    : BitVec 2 := 0
  priv    : Bool := false
  image   : W64 := 0
  arg     : W64 := 0
  caddr   : W64 := 0
  cval    : W64 := 0
  seedPc  : W64 := 0
  exb     : W64 := 0
  ovh     : W64 := 0
  code    : Nat × Nat := (0, 0)
  data    : Nat × Nat := (0, 0)
  cores   : List Nat := []
  /-- the cycle and the microsecond of its entry into the pending list -/
  entered : Nat := 0
  since   : Nat := 0
  /-- cores that have been loaded -/
  seeded  : Nat := 0
  /-- a swap in progress (R265) -/
  leaving : Bool := false
  /-- the cycle in which the walks that write its records end -/
  writes  : Option Nat := none
  /-- its cores as a swap left them: what their records do not hold -/
  held    : List Core := []
  /-- its queue is being reset (R259) -/
  reset   : Bool := false
  partner : Option (BitVec 16) := none
  second  : Bool := false
  shadow  : Sparse (Option Byte) := []
  digests : List (Nat × List (Nat × List Nat)) := []
  done    : Bool := false
deriving DecidableEq, Repr, Inhabited

/-- A sub-mesh, kept per tenant (R310, R313, R334). -/
structure Mesh where
  formed : Bool := false
  row0   : Nat := 0
  col0   : Nat := 0
  rows   : Nat := 0
  cols   : Nat := 0
  clock  : W64 := 0
  slip   : W64 := 0
  pause  : Nat := 0
  ticked : Nat := 0
  drain  : Option (BitVec 16) := none
  /-- the tenant's region control block, and the slot-table entries that it has loaded (R312) -/
  rcb    : Nat := 0
  slots  : Nat := 0
deriving DecidableEq, Repr, Inhabited

/-- A host command queue (R256). -/
structure HQueue where
  idle    : BitVec 20 := 1000
  lastsig : BitVec 47 := 0
  tail    : BitVec 17 := 0
  head    : BitVec 17 := 0
  err     : BitVec 4 := 0
  slot    : BitVec 9 := 0
  mapped  : Bool := false
  rstdone : Bool := false
  rst     : Bool := false
  en      : Bool := false
  logn    : BitVec 5 := 4
  ring    : W64 := 0
deriving DecidableEq, Repr, Inhabited

/-- A command that a host queue has started and that has not completed (R258): its ring entry, and the microsecond of
its last read, or the team or cycle that it awaits. -/
structure HCmd where
  queue : Nat
  index : Nat
  entry : BitVec 512
  kind  : BitVec 8
  at_   : Nat := 0
  /-- the cycle in which a WAITMEM's read is performed, and that in which the read that completes it lands -/
  reads : Option Nat := none
  lands : Option Nat := none
deriving DecidableEq, Repr, Inhabited

/-- An entry of the region budget table (R332). -/
structure Budget where
  rcb     : BitVec 46 := 0
  valid   : Bool := false
  csb     : BitVec 32 := 0
  netslot : BitVec 16 := 0
  waits   : BitVec 16 := 0
  futures : BitVec 18 := 0
  threads : BitVec 16 := 0
  /-- futures and threads reserved and not yet counted (R247, R251, R285) -/
  futRes  : Nat := 0
  thrRes  : Nat := 0
deriving DecidableEq, Repr, Inhabited

structure Pkg where
  pkgid   : BitVec 8 := 0
  hwin    : BitVec 20 := 0
  ptbase  : W64 := 0
  brbase  : W64 := 0
  spares  : BitVec 16 := 0
  spareAt : W64 := 0
  evqbase : W64 := 0
  head    : BitVec 16 := 0
  tail    : BitVec 16 := 0
  logn    : BitVec 4 := 6
  irq     : Bool := false
  en      : Bool := false
  irqs    : Nat := 0
deriving DecidableEq, Repr, Inhabited

structure Power where
  state : BitVec 3 := 0
  limit : Nat := 2800
  mhz   : Nat := 1200
deriving DecidableEq, Repr, Inhabited

/-- An outcome record (R371). -/
structure Outcome where
  detail  : W64 := 0
  bootseq : BitVec 32 := 0
  tries   : BitVec 16 := 0
  out     : BitVec 8 := 0
deriving DecidableEq, Repr, Inhabited

/-- Bring-up (R370): steps passed in this boot, the outcome records, what the records in flash map out (for each step,
and the cores of step 3), and the units mapped out in this boot. Inputs of the model (log entry 4: DESIGN CHOICE, unsafe) are the failing units
that each step finds, the failing cores, the failing rafters of each core, and the package at the far end of each link
(+ 1). -/
structure Boot where
  done    : Sparse Bool := []
  records : Sparse (Option Outcome) := []
  seq     : BitVec 32 := 0
  recorded : Sparse W64 := []
  outCores : List Nat := []
  faulty  : Sparse W64 := []
  badCores : List Nat := []
  badRafters : Sparse (BitVec 32) := []
  peers   : Sparse Nat := []
  outDies : List Nat := []
  outHbm  : List Nat := []
  outTier : List Nat := []
  outSlate : List Nat := []
  outCxl  : List Nat := []
deriving DecidableEq, Repr, Inhabited

/-- An image in flash (R374): its digest and sequence number; the program of a firmware image and where it starts; and
what a configuration image carries. -/
structure Image where
  digest : BitVec 512 := 0
  seq    : W64 := 0
  code   : List Byte := []
  entry  : W64 := 0
  pkgid  : BitVec 8 := 0
  ptbase : W64 := 0
  brbase : W64 := 0
  spares : BitVec 16 := 0
  spareAt : W64 := 0
deriving DecidableEq, Repr, Inhabited

structure Flash where
  firmware  : Image := {}
  config    : Image := {}
  firmware2 : Image := {}
  config2   : Image := {}
  seqFw     : W64 := 0
  seqCfg    : W64 := 0
  swapFw    : Bool := false
  swapCfg   : Bool := false
  /-- the certificate of the device public key -/
  cert      : List Byte := []
deriving DecidableEq, Repr, Inhabited

structure Link where
  up   : Bool := false
  peer : BitVec 8 := 0
deriving DecidableEq, Repr, Inhabited

/-- A message to a peer package (R376, R377): the key that chooses its link, the link that it has gone out on (none
while it waits for one), and the cycle in which it last went out. -/
structure LinkMsg where
  pkg  : Nat
  key  : Nat
  link : Option Nat
  ev   : Ev
  sent : Nat := 0
deriving DecidableEq, Repr, Inhabited

/-- A 64-bit unit with an error (R195): correctable or not. -/
inductive Err where
  | clean | correctable | uncorrectable
deriving DecidableEq, Repr, Inhabited

/-- The state of the package. Cores are listed by global number (R14), clusters by die × 36 + cluster. -/
structure State where
  /-- the core cycle, and the next core to be arbitrated in it -/
  now      : Nat
  scan     : Nat
  /-- the thread that issues -/
  cur      : Tid
  cores    : Sparse Core
  clusters : Sparse Cluster
  dies     : Sparse Die
  agenda   : List Pend
  seq      : Nat
  /-- inputs of the model: verdicts of shadow checks (true: fails), of step and landing checks, extra latencies, and
  the rafters that fail their next test -/
  verdicts   : List Bool
  stepChecks : List Bool
  slack      : List Nat
  rafterBad  : List (Nat × Nat)
  fresh    : Nat
  phys     : Sparse Byte
  errs     : Sparse Err
  /-- units of memory that a page's retirement has marked poisoned (R357) -/
  poison   : List Nat
  localErrs : Sparse Err
  storeErrs : Sparse Err
  /-- errors in the lines of the cores' L1s -/
  l1Errs   : Sparse Err
  retired  : Sparse Nat
  teams    : Sparse (Option Team)
  meshes   : Sparse Mesh
  hq       : Sparse HQueue
  hqWait   : List Nat
  hqRun    : List HCmd
  budgets  : Sparse Budget
  pkg      : Pkg
  hostMem  : Sparse Byte
  power    : Power
  boot     : Boot
  flash    : Flash
  links    : Sparse Link
  linkWait : List LinkMsg
  cxl      : Sparse Nat
  /-- device time (R5): microseconds, and the part of the next one that has passed, in units of 1 / clockUnits of one -/
  usec     : Nat
  usecPhase : Nat
  suspended : Bool
deriving DecidableEq, Repr, Inhabited

/-- Why the machine stops. No behaviour of the spec stops the package, so the one reason is a step that the machine
can never take: an event named with operands that name nothing (raised by no step of the machine itself; safe). -/
inductive Fault where
  | noSuchEvent
deriving DecidableEq, Repr, Inhabited

/-- Why a step has no meaning. -/
inductive Refusal where
  /-- an instruction that this model has not reached (raised by the arms of exec; safe) -/
  | notModelled (mnemonic : String)
deriving DecidableEq, Repr, Inhabited

/-- The machine right after power-on and reset (R19, R75 to R171, R188, R189, R195, R223 to R248, R256, R269 to R271,
R298, R332, R361, R365; log entry 3: DESIGN CHOICE, unsafe for the values that the spec does not give). Core 0 of each die is its firmware
core (R15). -/
def State.reset : State where
  now := 0
  scan := 0
  cur := ⟨0, 0⟩
  cores := [(0, { kind := .firmware }), (288, { kind := .firmware }), (576, { kind := .firmware }),
    (864, { kind := .firmware })]
  clusters := []
  dies := []
  agenda := []
  seq := 0
  verdicts := []
  stepChecks := []
  slack := []
  rafterBad := []
  fresh := 0
  phys := []
  errs := []
  poison := []
  localErrs := []
  storeErrs := []
  l1Errs := []
  retired := []
  teams := []
  meshes := []
  hq := []
  hqWait := []
  hqRun := []
  budgets := []
  pkg := {}
  hostMem := []
  power := {}
  boot := {}
  flash := {}
  links := []
  linkWait := []
  cxl := []
  usec := 0
  usecPhase := 0
  suspended := false

end Sys2Proof.Machine
end

