-- ==== Sys2Proof/Machine/Ops.lean ====
section
/-!
DEFINITION. The shared operations: places of the package, registers, bytes of memory, the agenda, the register cache
and context images (R160, R161), the margin ladder (R171 to R173), packets (R346 to R348), taking a fault (R345) and
the order in which an instruction issues (R62, R168).
-/

namespace Sys2Proof.Machine

/-! Places. -/

def State.core (s : State) (c : Nat) : Core := s.cores.get {} c
def State.setCore (s : State) (c : Nat) (v : Core) : State := { s with cores := s.cores.put {} c v }
def State.modCore (s : State) (c : Nat) (f : Core → Core) : State := s.setCore c (f (s.core c))
def State.cluster (s : State) (c : Nat) : Cluster := s.clusters.get {} c
def State.modCluster (s : State) (c : Nat) (f : Cluster → Cluster) : State :=
  { s with clusters := s.clusters.put {} c (f (s.cluster c)) }
def State.die (s : State) (d : Nat) : Die := s.dies.get {} d
def State.modDie (s : State) (d : Nat) (f : Die → Die) : State := { s with dies := s.dies.put {} d (f (s.die d)) }
def Core.slot (c : Core) (n : Nat) : Slot := c.slots.get {} n
def Core.modSlot (c : Core) (n : Nat) (f : Slot → Slot) : Core := { c with slots := c.slots.put {} n (f (c.slot n)) }
def State.slot (s : State) (t : Tid) : Slot := (s.core t.core).slot t.slot
def State.modSlot (s : State) (t : Tid) (f : Slot → Slot) : State := s.modCore t.core (·.modSlot t.slot f)
def State.ctx (s : State) (t : Tid) : Ctx := (s.slot t).ctx
def State.modCtx (s : State) (t : Tid) (f : Ctx → Ctx) : State := s.modSlot t fun x => { x with ctx := f x.ctx }
def State.setSt (s : State) (t : Tid) (v : SlotState) : State := s.modSlot t fun x => { x with st := v }

/-- R14: the cluster and the die of a core, and the die of a cluster; clusters are numbered die × 36 + cluster. -/
def clusterOf (core : Nat) : Nat := core / 8
def dieOf (core : Nat) : Nat := core / 288
def dieOfCluster (cl : Nat) : Nat := cl / 36

def State.team (s : State) (n : BitVec 16) : Option Team := s.teams.get none n.toNat
def State.setTeam (s : State) (n : Nat) (t : Option Team) : State := { s with teams := s.teams.put none n t }

/-- The team of a thread, and the region copy that its placement holds (R309). -/
def State.teamNo (s : State) (t : Tid) : BitVec 16 :=
  match (s.slot t).task with
  | some k => k.team
  | none => ((s.core t.core).team).getD 0
def State.regionOf (s : State) (t : Tid) : Region :=
  match s.team (s.teamNo t) with
  | some x => x.region
  | none => {}

/-- TICK (R159). -/
def State.tick (s : State) (c : Nat) : W64 := BitVec.ofNat 64 s.now - (s.core c).tickBase

/-! Registers. -/

/-- R75, R76: g0 reads zero and discards writes. -/
def Ctx.rg (c : Ctx) (r : Reg) : W64 := if r = 0 then 0 else c.g.get 0 r.toNat
def Ctx.wg (c : Ctx) (r : Reg) (v : W64) : Ctx := if r = 0 then c else { c with g := c.g.put 0 r.toNat v }
/-- R78: k15 reads all ones and discards writes. -/
def Ctx.rk (c : Ctx) (r : KReg) : W64 := if r = 15 then BitVec.allOnes 64 else c.k.get 0 r.toNat
def Ctx.wk (c : Ctx) (r : KReg) (v : W64) : Ctx := if r = 15 then c else { c with k := c.k.put 0 r.toNat v }
def Ctx.rv (c : Ctx) (r : Reg) : Vec := c.v.get 0 r.toNat
def Ctx.wv (c : Ctx) (r : Reg) (v : Vec) : Ctx := { c with v := c.v.put 0 r.toNat v }
/-- R58: operand B. -/
def Ctx.rs (c : Ctx) (b : Src) : W64 :=
  match b with
  | .reg r => c.rg r
  | .imm v => v
def Ctx.wdst (c : Ctx) (d : Dst) (data : Nat) : Ctx :=
  match d with
  | .none => c
  | .g r => c.wg r (BitVec.ofNat 64 data)
  | .v r => c.wv r (BitVec.ofNat 512 data)
def Ctx.rwc (c : Ctx) (n : BitVec 2) : BitVec 8 := c.wc.get 0 n.toNat
def Ctx.wwc (c : Ctx) (n : BitVec 2) (v : BitVec 8) : Ctx := { c with wc := c.wc.put 0 n.toNat v }

/-- The bits of STAT (R157). -/
def Ctx.priv (c : Ctx) : Bool := c.stat.getLsbD 0
def Ctx.paired (c : Ctx) : Bool := c.stat.getLsbD 1
def Ctx.trail (c : Ctx) : Bool := c.stat.getLsbD 2
def Ctx.creq (c : Ctx) : Bool := c.stat.getLsbD 3
def Ctx.ovl (c : Ctx) : Bool := c.stat.getLsbD 4
def Ctx.sstep (c : Ctx) : Bool := c.stat.getLsbD 5
def Ctx.prio (c : Ctx) : BitVec 3 := c.stat.extractLsb' 16 3
def Ctx.tenant (c : Ctx) : BitVec 6 := c.region.extractLsb' 58 6

/-- A word with one bit set to b. -/
def setBit (w : W64) (n : Nat) (b : Bool) : W64 :=
  if b then w ||| BitVec.twoPow 64 n else w &&& ~~~BitVec.twoPow 64 n

/-- A word with bits [lo + n − 1 : lo] set to v. -/
def setField (w : W64) (lo n : Nat) (v : Nat) : W64 :=
  let m : W64 := (BitVec.allOnes 64 >>> (64 - n)) <<< lo
  (w &&& ~~~m) ||| ((BitVec.ofNat 64 (v % 2 ^ n)) <<< lo)

def Ctx.setStat (c : Ctx) (n : Nat) (b : Bool) : Ctx := { c with stat := setBit c.stat n b }

/-- R56: registers that the partition mode admits. -/
def gCount (part : BitVec 2) : Nat := if part = 0 then 32 else 64
def vCount (part : BitVec 2) : Nat := if part = 0 then 16 else if part = 1 then 32 else 64
/-- R18: slots that the partition mode admits. -/
def slotCount (part : BitVec 2) : Nat := if part = 0 then 16 else if part = 1 then 8 else 4

/-! Bytes. -/

/-- n bytes at an address as a little-endian number (R2). -/
def peek (m : Sparse Byte) (a : Nat) : Nat → Nat
  | 0 => 0
  | n + 1 => (m.get 0 a).toNat + 256 * peek m (a + 1) n

def poke (m : Sparse Byte) (a : Nat) : Nat → Nat → Sparse Byte
  | 0, _ => m
  | n + 1, v => poke (m.put 0 a (BitVec.ofNat 8 v)) (a + 1) n (v / 256)

/-- Keys of the resources of a core that threads wait on. -/
def Res.granule (a : Nat) : Nat := a / 16
/-- What pushes of a queue register wait on: COUNT and PRES (R225). (Log entry 21: DEDUCED, unsafe.) -/
def Res.queue (q : Nat) : Nat := 100000 + q
/-- What its pops wait on: the entries and their reservations. (Log entry 21: DEDUCED, unsafe.) -/
def Res.queuePop (q : Nat) : Nat := 100050 + q
/-- What pushes of a batten wait on: COUNT, DEPTH and the pushes that are reserved (R231). (Log entry 21: DEDUCED, unsafe.) -/
def Res.batten (b : Nat) : Nat := 100100 + b
/-- What a BPOP waits on: the entries, those that are reserved, and those that the bank holds (R233). (Log entry 21: DEDUCED, unsafe.) -/
def Res.battenPop (b : Nat) : Nat := 100150 + b
def Res.point (p : Nat) : Nat := 100200 + p
def Res.cmdq (q : Nat) : Nat := 100300 + q
def Res.pair (slot : Nat) : Nat := 100400 + slot

/-- Bytes of local memory. The bytes from before this cycle's writes are kept for fetch (R54). -/
def State.localRead (s : State) (core a n : Nat) : Nat := peek (s.core core).mem a n
def State.localWrite (s : State) (core a n data : Nat) : State :=
  s.modCore core fun c =>
    let old := (List.range n).map fun j => (a + j, c.mem.get 0 (a + j))
    let keep := if c.prevAt = s.now then c.prev else []
    { c with
      mem := poke c.mem a n data, prevAt := s.now,
      prev := keep ++ old.filter fun x => !keep.any fun y => y.1 == x.1 }

/-- R54: a byte as a fetch of this cycle sees it. -/
def State.fetchByte (s : State) (core a : Nat) : Byte :=
  let c := s.core core
  if c.prevAt = s.now then
    match c.prev.find? (·.1 == a) with
    | some x => x.2
    | none => c.mem.get 0 a
  else c.mem.get 0 a

/-- R186: the FULL bits of the granules that n bytes at a touch. -/
def granules (a n : Nat) : List Nat := (List.range ((a + n - 1) / 16 + 1 - a / 16)).map (· + a / 16)
def allFull (e : Sparse Bool) (a n : Nat) : Bool := (granules a n).all fun g => !e.get false g
def allEmpty (e : Sparse Bool) (a n : Nat) : Bool := (granules a n).all fun g => e.get false g
def setFull (e : Sparse Bool) (a n : Nat) (full : Bool) : Sparse Bool :=
  (granules a n).foldl (fun e g => e.put false g (!full)) e

/-- R357: the physical page that serves an address: its spare, where one is mapped. -/
def State.mapped (s : State) (pa : Nat) : Nat :=
  let v := s.retired.get 0 (pa / 65536)
  if 2 ≤ v then (v - 2) * 65536 + pa % 65536 else pa

/-- R357: a page retired without a spare. -/
def State.isRetired (s : State) (pa : Nat) : Bool := s.retired.get 0 (pa / 65536) == 1

/-- A byte of physical memory as a team sees it: its shadow byte where it has written one (R219). -/
def State.physByte (s : State) (team : BitVec 16) (pa : Nat) : Byte :=
  let own := match s.team team with
    | some t => if t.partner.isSome then t.shadow.get none pa else none
    | none => none
  match own with
  | some b => b
  | none => s.phys.get 0 (s.mapped pa)

def State.physRead (s : State) (team : BitVec 16) (pa : Nat) : Nat → Nat
  | 0 => 0
  | n + 1 => (s.physByte team pa).toNat + 256 * s.physRead team (pa + 1) n

/-- Memory that dual-die teams shadow (R219): HBM, the second tier and the CXL extension. -/
def isShadowed (pa : Nat) : Bool := decide (pa < 0x80000000000)

/-- Log entry 46: DEDUCED, unsafe. -/
def State.physPut (s : State) (team : BitVec 16) (pa : Nat) (b : Byte) : State :=
  match s.team team with
  | some t =>
    if t.partner.isSome && isShadowed pa then
      s.setTeam team.toNat (some { t with shadow := t.shadow.put none pa (some b) })
    else { s with phys := s.phys.put 0 (s.mapped pa) b }
  | none => { s with phys := s.phys.put 0 (s.mapped pa) b }

def State.physWrite (s : State) (team : BitVec 16) (pa : Nat) : Nat → Nat → State
  | 0, _ => s
  | n + 1, v => (s.physPut team pa (BitVec.ofNat 8 v)).physWrite team (pa + 1) n (v / 256)

/-- R195: a store that overwrites whole 64-bit units clears their error. -/
def clearErrs (e : Sparse Err) (base a n : Nat) : Sparse Err :=
  (List.range ((a + n) / 8 - (a + 7) / 8)).foldl (fun e j => e.put .clean (base + (a + 7) / 8 + j) .clean) e

/-- R195: the worst error in the 64-bit units that n bytes at a touch. -/
def errIn (e : Sparse Err) (base a n : Nat) : Err :=
  let l := (List.range ((a + n - 1) / 8 + 1 - a / 8)).map fun j => e.get .clean (base + a / 8 + j)
  if l.contains .uncorrectable then .uncorrectable else if l.contains .correctable then .correctable else .clean

/-- Corrects the correctable errors in the units of n bytes at a; their number. -/
def fixErrs (e : Sparse Err) (base a n : Nat) : Sparse Err × Nat :=
  (List.range ((a + n - 1) / 8 + 1 - a / 8)).foldl (fun (e, k) j =>
    if e.get .clean (base + a / 8 + j) = .correctable then (e.put .clean (base + a / 8 + j) .clean, k + 1) else (e, k))
    (e, 0)

def localErrBase (core : Nat) : Nat := core * 49152
def storeErrBase (cl : Nat) : Nat := cl * 524288

/-! The agenda. -/

def before (a b : Pend) : Bool :=
  decide (a.due < b.due) || (a.due == b.due && (decide (a.phase < b.phase) || (a.phase == b.phase && decide (a.seq ≤ b.seq))))

/-- Log entry 2: DESIGN CHOICE, unsafe. -/
def insertPend (p : Pend) : List Pend → List Pend
  | [] => [p]
  | q :: l => if before q p then q :: insertPend p l else p :: q :: l

/-- The phases of one cycle, in the order in which they apply (log entry 2: DESIGN CHOICE, unsafe): landings, counter falls and pops (R231,
R330); verdicts and held effects (R168); requests that reach a target, those held back from an earlier cycle first, then in order of global core and slot number (R185,
R249, R281); and, after the cycle's issues, changes that no issue of the cycle sees (R172, R174). -/
def Phase.land : Nat := 0
/-- Log entry 2: DESIGN CHOICE, unsafe. -/
def Phase.commit : Nat := 1
/-- Log entry 2: DESIGN CHOICE, unsafe. -/
def Phase.again : Nat := 2
/-- Log entry 2: DESIGN CHOICE, unsafe. -/
def Phase.perform (t : Tid) : Nat := 3 + t.core * 16 + t.slot
/-- Log entry 2: DESIGN CHOICE, unsafe. (Log entry 11: DEDUCED, unsafe.) -/
def Phase.post : Nat := 100000
/-- The replays and repeats of a cycle, after the host's envelope change (R172). (Log entry 2: DESIGN CHOICE, unsafe.) -/
def Phase.count : Nat := 100001
/-- An MTS to a core register, after what the machine itself changes in its cycle (R172). (Log entry 2: DESIGN CHOICE, unsafe.) (log entry 34: DEDUCED, unsafe.) -/
def Phase.last : Nat := 100002
/-- The output ports of a router send after its engines have acted (R312). (Log entry 2: DESIGN CHOICE, unsafe.) -/
def Phase.ports (cl : Nat) : Nat := 19300 + cl
/-- Engines act after the cores' requests of a cycle, in port order (R185, R190). (Log entry 2: DESIGN CHOICE, unsafe.) -/
def Phase.engine (cl port : Nat) : Nat := 18500 + cl * 5 + port

def State.sched (s : State) (due phase : Nat) (ev : Ev) : State :=
  { s with agenda := insertPend ⟨due, phase, s.seq, ev⟩ s.agenda, seq := s.seq + 1 }
def State.landAt (s : State) (due : Nat) (i : Instr) : State := s.sched due Phase.land (.run i)
def State.actAt (s : State) (due : Nat) (a : Act) : State := s.sched due Phase.commit (.act a)
def State.runAt (s : State) (due : Nat) (i : Instr) : State := s.sched due Phase.commit (.run i)
def State.postAt (s : State) (due : Nat) (a : Act) : State := s.sched due Phase.count (.act a)
def State.performAt (s : State) (due : Nat) (t : Tid) (i : Instr) : State := s.sched due (Phase.perform t) (.run i)
def State.arriveAt (s : State) (due : Nat) (t : Tid) (a : Act) : State := s.sched due (Phase.perform t) (.act a)

/-- Extra latency of the next message, an input of the model (log entry 4: DESIGN CHOICE, unsafe). (Log entry 60: DEDUCED, unsafe.) -/
def State.delay (s : State) : Nat × State :=
  match s.slack with
  | [] => (0, s)
  | n :: l => (n, { s with slack := l })

/-- The check of a landing (R169) or of a step (R132), an input of the model (log entry 4: DESIGN CHOICE, unsafe): true when it fails. -/
def State.stepCheck (s : State) : Bool × State :=
  match s.stepChecks with
  | [] => (false, s)
  | b :: l => (b, { s with stepChecks := l })

/-- A number that names a message, and the counter's next value. (Log entry 7: DESIGN CHOICE, safe.) -/
def State.newId (s : State) : Nat × State := (s.fresh, { s with fresh := s.fresh + 1 })

/-- Makes ready the threads of a core that wait for a change of one of the resources (R20). (Log entry 21: DEDUCED, unsafe.) -/
def State.wakeKeys (s : State) (core : Nat) (keys : List Nat) : State :=
  s.modCore core fun c => { c with slots := c.slots.map fun (n, x) =>
    match x.st with
    | .waiting (.change ks) => if ks.any keys.contains then (n, { x with st := .ready }) else (n, x)
    | _ => (n, x) }

/-- R187: a thread that waits on a granule becomes ready in the cycle after its change. -/
def State.wakeNext (s : State) (core : Nat) (keys : List Nat) : State :=
  let waits := (s.core core).slots.any fun (_, x) => match x.st with
    | .waiting (.change ks) => ks.any keys.contains
    | _ => false
  if waits then s.sched (s.now + 1) Phase.land (.act (.wakeKeys core keys)) else s

/-- Sets FULL bits of a core's local memory. -/
def State.setLocalFull (s : State) (core a n : Nat) (full : Bool) : State :=
  (s.modCore core fun c => { c with empty := setFull c.empty a n full }).wakeNext core (granules a n)

/-! Links to peer packages (R376, R377). -/

/-- The link to a package, among those that reach it, that a key chooses. (Log entry 22: DESIGN CHOICE, unsafe.) -/
def State.linkTo (s : State) (pkg key : Nat) : Option Nat :=
  let l := s.links.filter fun x => x.2.up && x.2.peer.toNat == pkg
  (l[key % l.length]?).map (·.1)

/-- A message to a peer goes out, or waits for a link. (Log entry 22: DESIGN CHOICE, unsafe.) -/
def State.toPeer (s : State) (pkg key : Nat) (ev : Ev) : State :=
  { s with linkWait := s.linkWait ++ [{ pkg := pkg, key := key, link := s.linkTo pkg key, ev := ev, sent := s.now }] }

/-- The number that stands for the far side of a link where a core's number is asked for. (Log entry 56: DEDUCED, unsafe.) -/
def peerCore (link : Nat) : Nat := 4096 + link

/-! Reduced service (R371). -/

/-- Between bring-up steps 4 and 10 the package offers reduced service. -/
def State.reduced (s : State) : Bool := s.boot.done.get false 4 && !s.boot.done.get false 10

/-- A program core in reduced service: its LEVEL stays at 15, and some opcodes and accesses fault. -/
def State.heldBack (s : State) (core : Nat) : Bool := s.reduced && (s.core core).kind == .program

/-- R371: in reduced service an image in virtual memory has no target. -/
def State.imageFault (s : State) (t : Tid) : Option Flt :=
  let c := s.ctx t
  if s.heldBack t.core && !c.ctxb.getLsbD 63 then
    some { code := 7, sub := 3, addr := BitVec.ofNat 64 (c.ctxb.toNat / 2048 % 2 ^ 44 * 2048) }
  else none

/-! Counters of R335. -/

def State.count (s : State) (core n : Nat) (k : Nat := 1) : State :=
  s.modCore core fun c => { c with perf := c.perf.put 0 n (c.perf.get 0 n + BitVec.ofNat 64 k) }

/-! Packets (R346 to R348). -/

/-- The packet of an event of a thread; `kind` as R346 numbers it. -/
def State.threadPacket (s : State) (t : Tid) (kind : Nat) (f : Flt) : BitVec 512 :=
  let c := s.core t.core
  let x := c.slot t.slot
  let field (lo v : Nat) : Nat := v * 2 ^ lo
  BitVec.ofNat 512 (
    field 448 (s.tick t.core).toNat + field 384 f.info.toNat + field 320 f.addr.toNat + field 256 x.ctx.pc.toNat
    + field 240 (s.teamNo t).toNat + field 228 x.bind.toNat + field 224 (t.slot % 16) + field 213 (t.core % 2048)
    + field 205 s.pkg.pkgid.toNat + field 194 c.vcore.toNat + field 174 x.ctx.pasid.toNat
    + field 128 (x.ctx.region.toNat / 64 % 2 ^ 46)
    + field 64 ((x.task.map Task.handle).getD 0).toNat + field 40 f.sub.toNat + field 34 f.code.toNat
    + field 24 kind + field 8 c.pktSeq.toNat + c.dropped.toNat)

/-- The packet of an event of a core; in kinds 3 to 6 the fields from TEAM to HANDLE are zero (R346). (Log entry 10: DESIGN CHOICE, unsafe.) -/
def State.eventPacket (s : State) (core kind : Nat) (info addr : W64) : BitVec 512 :=
  let c := s.core core
  let place := if kind = 7 then core % 2048 * 2 ^ 213 + s.pkg.pkgid.toNat * 2 ^ 205 else 0
  BitVec.ofNat 512 ((s.tick core).toNat * 2 ^ 448 + info.toNat * 2 ^ 384 + addr.toNat * 2 ^ 320 + place + kind * 2 ^ 24 + c.pktSeq.toNat * 2 ^ 8 + c.dropped.toNat)

/-- R15: the firmware core of a die, the lowest core of kind firmware. (Log entry 10: DESIGN CHOICE, unsafe.) -/
def State.firmwareCore (s : State) (die : Nat) : Nat :=
  match (List.range 288).find? fun j => (s.core (die * 288 + j)).kind = .firmware with
  | some j => die * 288 + j
  | none => die * 288

/-- R348: the cycles from an event to the packet's write. -/
def State.packetTime (s : State) (core : Nat) (dest : W64) : Nat :=
  if dest.toNat / 2048 % 256 ≠ s.pkg.pkgid.toNat then 560
  else if dieOf (dest.toNat % 2048) = dieOf core then 60 else 80

/-- R348: puts a packet in its place at the sending core: one per slot, four for events; a fifth event is dropped. -/
def State.sendPacket (s : State) (core : Nat) (slot : Option Nat) (bits : BitVec 512) (dest : W64) : State :=
  let c := s.core core
  if slot.isNone ∧ 4 ≤ (c.pkts.filter (·.slot.isNone)).length then
    s.modCore core fun c => { c with dropped := if c.dropped = 255 then 255 else c.dropped + 1 }
  else
    let p : Packet := ⟨bits, slot, s.now + s.packetTime core dest, dest⟩
    s.modCore core fun c => { c with pkts := c.pkts ++ [p], pktSeq := c.pktSeq + 1, dropped := 0 }

def State.sendThread (s : State) (t : Tid) (kind : Nat) (f : Flt) : State :=
  let p := s.threadPacket t kind f
  (s.modSlot t fun x => { x with spkt := p, code := f.code, sub := f.sub }).sendPacket t.core (some t.slot) p
    (s.ctx t).supv

/-- Events of a core go to the supervisor of its die's firmware core: that core itself (R171, R360, log entry 10: DESIGN CHOICE, unsafe). -/
def State.sendEvent (s : State) (core kind : Nat) (info addr : W64) : State :=
  s.sendPacket core none (s.eventPacket core kind info addr)
    (BitVec.ofNat 64 (s.pkg.pkgid.toNat * 2048 + s.firmwareCore (dieOf core)))

/-! The margin ladder (R163 to R173). -/

def Core.floor (c : Core) : Nat := c.menv.toNat % 16
def Core.ceil (c : Core) : Nat := c.menv.toNat / 16

def Core.mctl (c : Core) : W64 :=
  BitVec.ofNat 64 (c.dnw.toNat * 2 ^ 16 + c.win.toNat * 2 ^ 8 + c.level.toNat)
def Core.mstat (c : Core) : W64 :=
  BitVec.ofNat 64 (c.wrep.toNat * 2 ^ 48 + c.wstep.toNat * 2 ^ 32 + c.run.toNat * 2 ^ 27 + c.clean.toNat * 2 ^ 23
    + c.settle.toNat * 8 + c.ceilhit.toNat * 4 + c.qcause.toNat * 2 + c.quar.toNat)
def Core.mlim (c : Core) : W64 :=
  BitVec.ofNat 64 (c.insn.toNat * 2 ^ 24 + c.quarLim.toNat * 2 ^ 16 + c.stepLim.toNat * 2 ^ 8 + c.rpl.toNat)

def Core.withheld (c : Core) : Bool := c.kind == .withheld
def Core.gated (c : Core) : Bool :=
  match c.gate with
  | .gated | .leaving _ => true
  | _ => false

/-- R171: sets LEVEL; a change of a powered core starts a window, sets SETTLE and sends the margin event. -/
def State.setLevel (s : State) (core level : Nat) : State :=
  let c := s.core core
  let level := if s.heldBack core then 15 else level
  if c.level.toNat = level then s
  else if c.gated || c.withheld then s.modCore core fun c => { c with level := BitVec.ofNat 4 level }
  else
    let s := s.modCore core fun c =>
      { c with level := BitVec.ofNat 4 level, wrep := 0, wstep := 0, clean := 0, settle := true, winStart := s.now,
               settleAt := s.now + 1200 }
    let c := s.core core
    s.sendEvent core 3 ((c.mctl &&& 0xFFFFF) ||| (c.mstat <<< 32)) 0

/-- R173: quarantine; a firmware core only holds LEVEL at CEIL and sends the event. -/
def State.quarantine (s : State) (core : Nat) (rafters : Bool) : State :=
  let c := s.core core
  let s := if c.kind = .firmware then s else s.modCore core fun c => { c with quar := true, qcause := rafters }
  let s := s.setLevel core c.ceil
  s.sendEvent core 5 (s.core core).mstat 0

/-- R172: the step-up; the event's MSTAT is that after the whole of it (R347). (Log entry 43: DEDUCED, unsafe.) -/
def State.stepUp (s : State) (core : Nat) : State :=
  let s := s.modCore core fun c => { c with run := if c.run = 31 then 31 else c.run + 1 }
  let c := s.core core
  let s := if c.level.toNat < c.ceil then s.setLevel core (c.level.toNat + 1)
    else s.modCore core fun c => { c with ceilhit := true, wrep := 0, wstep := 0, winStart := s.now }
  let lim := if c.quarLim = 0 then 16 else c.quarLim.toNat
  if lim ≤ c.run.toNat ∧ !c.quar then s.quarantine core false else s

/-- R166, R172: n replays (counter 2 of R335), step repeats (3) or landing repeats (4); counted only outside the settle
time, and in the window that is ending. The step-up follows once every replay of the cycle has been counted. -/
def State.countReplays (s : State) (core n kind : Nat) : State :=
  let s := s.count core kind n
  if (s.core core).settle then s
  else
    let add (x : BitVec 16) : BitVec 16 := BitVec.ofNat 16 (Min.min 65535 (x.toNat + n))
    let s := s.modCore core fun c => { c with wrep := add c.wrep, wstep := if kind = 3 then add c.wstep else c.wstep }
    if (s.core core).rpl.toNat < (s.core core).wrep.toNat then s.modCore core fun c => { c with passedAt := s.now + 1 } else s

/-! Context images and the register cache (R160, R161). -/

def Ctx.loc (c : Ctx) : Bool := c.ctxb.getLsbD 63
def Ctx.imageAddr (c : Ctx) : Nat := c.ctxb.toNat / 2048 % 2 ^ 44 * 2048
def imageSize (part : BitVec 2) : Nat := if part = 0 then 2048 else if part = 1 then 4096 else 8192

def tailImage (part : BitVec 2) (slot : Nat) : W64 :=
  BitVec.ofNat 64 (2 ^ 63 + 0x58000 + slot * imageSize part)

/-- A containment entry as its two dwords (R323). -/
def CEntry.lo (e : CEntry) : W64 := (e.hpc &&& ~~~3#64) ||| BitVec.ofNat 64 e.valid.toNat
def CEntry.hi (e : CEntry) : W64 := BitVec.ofNat 64 (e.nst.toNat * 2 ^ 32 + e.mask.toNat)
def CEntry.of (lo hi : W64) : CEntry :=
  { nst := BitVec.ofNat 32 (hi.toNat / 2 ^ 32), mask := BitVec.ofNat 8 hi.toNat, hpc := lo &&& ~~~3#64,
    valid := lo.getLsbD 0 }

/-- R160: the dword of the image at byte 8j, for the system part (j below 32). -/
def Ctx.sysWord (c : Ctx) (j : Nat) : W64 :=
  match j with
  | 0 => c.pc | 1 => c.pd | 2 => c.stat | 3 => c.ctxb | 4 => c.otpc | 5 => c.region | 6 => c.pasid.zeroExtend 64
  | 7 => c.supv | 8 => c.cdepth.zeroExtend 64
  | 9 => BitVec.ofNat 64 ((c.rwc 0).toNat + 2 ^ 8 * (c.rwc 1).toNat + 2 ^ 16 * (c.rwc 2).toNat + 2 ^ 24 * (c.rwc 3).toNat)
  | 10 => c.waddr.get 0 0 | 11 => c.wctl.get 0 0 | 12 => c.waddr.get 0 1 | 13 => c.wctl.get 0 1
  | j => if 16 ≤ j ∧ j < 24 then
      let e := c.stack.get {} ((j - 16) / 2)
      if j % 2 = 0 then e.lo else e.hi
    else 0

/-- R160: the dword of the image at byte 8j, j from 32 on: predicates, then g, then v registers. -/
def Ctx.imageWord (c : Ctx) (part : BitVec 2) (j : Nat) : W64 :=
  if j < 32 then c.sysWord j
  else if j < 48 then c.rk (BitVec.ofNat 4 (j - 32))
  else if j < 48 + gCount part then c.rg (BitVec.ofNat 6 (j - 48))
  else
    let i := j - 48 - gCount part
    (c.v.get 0 (i / 8)).extractLsb' (64 * (i % 8)) 64

/-- The context with the dword at byte 8j, j from 32 on, loaded. -/
def Ctx.loadWord (c : Ctx) (part : BitVec 2) (j : Nat) (x : W64) : Ctx :=
  if j < 32 then c
  else if j < 48 then c.wk (BitVec.ofNat 4 (j - 32)) x
  else if j < 48 + gCount part then c.wg (BitVec.ofNat 6 (j - 48)) x
  else
    let i := j - 48 - gCount part
    let old := (c.v.get 0 (i / 8)).toNat
    let sh := 2 ^ (64 * (i % 8))
    { c with v := c.v.put 0 (i / 8) (BitVec.ofNat 512 (old - old / sh % 2 ^ 64 * sh + x.toNat * sh)) }

/-- Lines of the register cache that an image has from its predicates on. -/
def lineCount (part : BitVec 2) : Nat := 6 + gCount part / 8 + vCount part

/-! Translation without effects, for the Z4's own accesses to images and records (R315, R316). -/

def rootOf (s : State) (pasid : BitVec 20) : Option (Nat × BitVec 6) :=
  let e := s.physRead 0 (s.pkg.ptbase.toNat + 16 * pasid.toNat) 16
  if e / 2 ^ 70 % 4 = 1 then some (e % 2 ^ 64, BitVec.ofNat 6 (e / 2 ^ 64)) else none

/-- Index width and low bit of each level (R316). -/
def levelShift (l : Nat) : Nat := if l = 1 then 39 else if l = 2 then 30 else if l = 3 then 21 else 16
def levelBits (l : Nat) : Nat := if l = 1 then 16 else if l = 4 then 5 else 9

inductive WalkEnd where
  | leaf (level : Nat) (entry : W64)
  | fault (sub : BitVec 8)
deriving DecidableEq, Repr

/-- R316: is a present entry of a level malformed? -/
def malformed (level : Nat) (e : W64) : Bool :=
  let v := e.toNat
  let addr := v / 256 % 2 ^ 44 * 256
  v / 2 ^ 52 ≠ 0 || v / 32 % 8 ≠ 0
    || (if e.getLsbD 1 then level == 1 || addr % 2 ^ levelShift level ≠ 0 else level == 4)

/-- R316, R318: the walk from a table, down the given levels. -/
def walkFrom (s : State) (va : Nat) : Nat → Nat → WalkEnd
  | 0, _ => .fault 1
  | n + 1, table =>
    let level := 4 - n
    let a := table + 8 * (va / 2 ^ levelShift level % 2 ^ levelBits level)
    if errIn s.errs 0 (s.mapped a) 8 = .uncorrectable then .fault 5
    else
      let e := BitVec.ofNat 64 (s.physRead 0 a 8)
      if !e.getLsbD 0 then .fault 0
      else if malformed level e then .fault 1
      else if e.getLsbD 1 then .leaf level e
      else walkFrom s va n (e.toNat / 256 % 2 ^ 44 * 256)

/-- The physical address of va under a leaf. -/
def leafAddr (level : Nat) (e : W64) (va : Nat) : Nat :=
  e.toNat / 256 % 2 ^ 44 * 256 + va % 2 ^ levelShift level

/-- Where the Z4 itself reaches a virtual address; none where the walk fails. -/
def State.virt (s : State) (pasid : BitVec 20) (va : Nat) : Option Nat :=
  match rootOf s pasid with
  | none => none
  | some (root, _) => match walkFrom s va 4 root with
    | .leaf level e => some (leafAddr level e va)
    | .fault _ => none

/-- What the Z4 reads for itself where nothing can be read, in this cycle at this address: a free value (log entry 7: DESIGN CHOICE, safe). (Log entry 26: DESIGN CHOICE, unsafe.) -/
def State.unread (s : State) (va : Nat) : Vec := Config.freeValue (2 ^ 200 + s.now * 2 ^ 64 + va)

/-- Bytes of an image: local memory or virtual memory, by LOC (R158). -/
def State.imageRead (s : State) (core : Nat) (c : Ctx) (off n : Nat) : Nat :=
  if c.loc then s.localRead core (c.imageAddr + off) n
  else match s.virt c.pasid (c.imageAddr + off) with
    | some pa => s.physRead 0 pa n
    | none => (s.unread (c.imageAddr + off)).toNat % 256 ^ n

def State.imageWrite (s : State) (core : Nat) (c : Ctx) (off n data : Nat) : State :=
  if c.loc then s.localWrite core (c.imageAddr + off) n data
  else match s.virt c.pasid (c.imageAddr + off) with
    | some pa => s.physWrite 0 pa n data
    | none => s

def lineData (c : Ctx) (part : BitVec 2) (idx : Nat) : Nat :=
  (List.range 8).foldr (fun j acc => (c.imageWord part (8 * idx + j)).toNat + 2 ^ 64 * acc) 0

/-- Writes one line of a context to its image. -/
def State.writeLine (s : State) (t : Tid) (idx : Nat) : State :=
  let c := s.ctx t
  s.imageWrite t.core c (64 * idx) 64 (lineData c (s.core t.core).part idx)

def RLine.is (l : RLine) (slot : Nat) : Bool := l.slot == slot && l.past.isNone

/-- R359: a dirty line of a pre-empted context goes to its park image. (Log entry 25: DEDUCED, unsafe.) -/
def State.writeGhost (s : State) (core : Nat) (p : BitVec 26) (l : RLine) : State :=
  match (s.core core).ghosts.find? (fun (g : BitVec 26 × Ctx) => g.1 == p) with
  | some (_, c) => if l.dirty then s.imageWrite core c (64 * l.idx) 64 (lineData c (s.core core).part l.idx) else s
  | none => s

/-- Loads one line of a context from its image. -/
def State.readLine (s : State) (t : Tid) (idx : Nat) : State :=
  let c := s.ctx t
  let part := (s.core t.core).part
  let d := s.imageRead t.core c (64 * idx) 64
  s.modCtx t fun c => (List.range 8).foldl
    (fun c j => c.loadWord part (8 * idx + j) (BitVec.ofNat 64 (d / 2 ^ (64 * j)))) c

/-- Writes every dirty line of a context to its image, and its system part; the lines stay, clean. -/
def State.flush (s : State) (t : Tid) : State :=
  let ls := (s.core t.core).rlines.filter fun (l : RLine) => l.is t.slot && l.dirty
  let s := ls.foldl (fun s l => s.writeLine t l.idx) s
  let s := (List.range 4).foldl (fun s i => s.writeLine t i) s
  s.modCore t.core fun c => { c with rlines := c.rlines.map fun (l : RLine) => if l.is t.slot then { l with dirty := false } else l }

/-- Forgets every line of a context without writing it back. -/
def State.dropLines (s : State) (t : Tid) : State :=
  s.modCore t.core fun c => { c with rlines := c.rlines.filter fun l => !l.is t.slot }

/-- R161: does an instruction in flight name the line: one that has issued and whose register results have not committed,
or whose landing is still to come? (log entry 25: DEDUCED, unsafe.) -/
def State.inFlight (s : State) (core : Nat) (l : RLine) : Bool :=
  let c := s.core core
  let x := c.slot l.slot
  l.past.isNone && (decide (s.now < l.used + 2)
    || (match x.st with
      | .waiting (.event _) | .waiting (.future _) | .waiting .rendezvous => l.used + 15 == x.elig
      | _ => false)
    || c.outs.any fun o => o.slot == l.slot && o.reg == some l.idx)

/-- R161: makes room for one line: evictable first, then the least recent clean, then the least recent dirty; never one
of `keep`, nor one that an instruction in flight names. -/
def State.makeRoom (s : State) (core : Nat) (keep : RLine → Bool) : State :=
  if (s.core core).rlines.length < 384 then s
  else
    let ls := (s.core core).rlines.filter fun l => !keep l && !s.inFlight core l
    let v := match ls.find? (·.evict) with
      | some l => some l
      | none => match ls.find? (fun (l : RLine) => !l.dirty) with
        | some l => some l
        | none => ls.head?
    match v with
    | none => s
    | some l =>
      let s := match l.past with
        | none => if l.dirty then s.writeLine ⟨core, l.slot⟩ l.idx else s
        | some p => s.writeGhost core p l
      s.modCore core fun c => { c with rlines := c.rlines.filter fun x => !(x.slot == l.slot && x.idx == l.idx && x.past == l.past) }

def Core.resident (c : Core) (slot idx : Nat) : Bool := c.rlines.any fun l => l.is slot && l.idx == idx

/-- Lines of the register cache that a context has: all of its image but the system part. -/
def contextLines (part : BitVec 2) : List Nat := (List.range (lineCount part)).drop 4

/-- R161: fills those of the lines of a thread that are absent. -/
def State.fillLines (s : State) (t : Tid) (lines : List Nat) : State :=
  lines.foldl (fun s idx =>
    if (s.core t.core).resident t.slot idx then s
    else
      let s := (s.makeRoom t.core fun l => l.is t.slot && lines.contains l.idx).readLine t idx
      s.modCore t.core fun c => { c with rlines := c.rlines ++ [{ slot := t.slot, idx := idx, dirty := false, evict := false }] }) s

/-- Marks lines of a thread as most recently used, in this cycle, and the written ones as dirty; their errors are
corrected (R335). -/
def touchLines (now slot : Nat) (rl : List RLine) (ls : List (Nat × Bool)) : List RLine :=
  ls.foldl (fun (rl : List RLine) x =>
    match rl.find? fun (l : RLine) => l.is slot && l.idx == x.1 with
    | none => rl
    | some l => (rl.filter fun y => !(y.is slot && y.idx == x.1)) ++ [{ l with dirty := l.dirty || x.2, evict := false, used := now + 1, err := false }]) rl

/-- An instruction of a slot names lines: they are touched, and the errors that it consumes are counted (R335). -/
def Core.nameLines (c : Core) (now slot : Nat) (ls : List (Nat × Bool)) : Core :=
  let n := (c.rlines.filter fun l => l.err && l.is slot && ls.any fun x => x.1 == l.idx).length
  { c with
    rlines := touchLines now slot c.rlines ls
    perf := if n = 0 then c.perf else c.perf.put 0 11 (c.perf.get 0 11 + BitVec.ofNat 64 n) }

/-- A landing writes a register of a thread: its line is dirty from then on (R161). -/
def State.dirtyLine (s : State) (t : Tid) (idx : Nat) : State :=
  s.modCore t.core fun c => { c with rlines := c.rlines.map fun l => if l.is t.slot && l.idx == idx then { l with dirty := true } else l }

/-! Registers that an instruction names (R56, R161). -/

inductive Use where
  | g (r : Reg) (w : Bool)
  | v (r : Reg) (w : Bool)
  | k (r : KReg) (w : Bool)
deriving DecidableEq, Repr

def rG (r : Reg) : Use := .g r false
def wG (r : Reg) : Use := .g r true
def rV (r : Reg) : Use := .v r false
def wV (r : Reg) : Use := .v r true
def rK (r : KReg) : Use := .k r false
def wK (r : KReg) : Use := .k r true
def rS (b : Src) : List Use :=
  match b with
  | .reg r => [rG r]
  | .imm _ => []
def rSV (b : Src) : List Use :=
  match b with
  | .reg r => [rV r]
  | .imm _ => []

/-- R56. -/
def Use.inRange (part : BitVec 2) : Use → Bool
  | .g r _ => decide (r.toNat < gCount part)
  | .v r _ => decide (r.toNat < vCount part)
  | .k _ _ => true

/-- The cache line that a landing's register lies in. -/
def dstLine (part : BitVec 2) : Dst → Option Nat
  | .none => none
  | .g r => if r = 0 then none else some (6 + r.toNat / 8)
  | .v r => some (6 + gCount part / 8 + r.toNat)

/-- A landing writes its register. -/
def State.landReg (s : State) (t : Tid) (d : Dst) (data : Nat) : State :=
  let s := s.modCtx t (·.wdst d data)
  match dstLine (s.core t.core).part d with
  | some l => s.dirtyLine t l
  | none => s

/-- The cache line of a register, and whether it is written; g0 and k15 have none. The system part of an image, lines 0
to 3, takes no part: it stands in the context and goes to the image with every flush. (log entry 62: DESIGN CHOICE, unsafe.) -/
def Use.line (part : BitVec 2) : Use → Option (Nat × Bool)
  | .g r w => if r = 0 then none else some (6 + r.toNat / 8, w)
  | .v r w => some (6 + gCount part / 8 + r.toNat, w)
  | .k r w => if r = 15 then none else some (4 + r.toNat / 8, w)

/-! Taking a fault (R345). -/

/-- R323: the MASK bit that catches a fault. -/
def maskBit (f : Flt) : Option Nat :=
  match f.code.toNat with
  | 9 => some 0
  | 18 => some 1
  | 13 => some 2
  | 14 => some 3
  | 7 => if f.sub = 5 then some 4 else none
  | 10 => some 5
  | 11 => some 6
  | 19 => some 7
  | _ => none

/-- The innermost open entry of the containment stack that catches a fault. -/
def Ctx.catcher (c : Ctx) (f : Flt) : Option Nat :=
  match maskBit f with
  | none => none
  | some b => (List.range 4).reverse.find? fun i =>
      decide (i < c.cdepth.toNat) && (c.stack.get {} i).valid && (c.stack.get {} i).mask.getLsbD b

/-- R347: INFO of the packets that carry more than the address. (Log entry 43: DEDUCED, unsafe.) -/
def State.faultInfo (s : State) (t : Tid) (f : Flt) : W64 :=
  if f.code = 19 then (s.core t.core).mstat
  else if f.code = 18 then BitVec.ofNat 64 (s.slot t).released
  else f.info

/-- R345, case 3, and R350: the thread freezes, and its dirty lines are written to its image. -/
def State.freeze (s : State) (t : Tid) : State :=
  (s.modSlot t fun x => { x with st := .frozen, stopping := false }).flush t

/-- R355: one packet reports a mismatch, from the leader's slot. -/
def State.report (s : State) (t : Tid) (kind : Nat) (f : Flt) : State :=
  if f.code = 18 && (s.ctx t).trail then s else s.sendThread t kind f

/-- R348: is the place of a slot's packets at its core free? -/
def State.placeFree (s : State) (t : Tid) : Bool := !(s.core t.core).pkts.any fun p => p.slot == some t.slot

/-- R345: the fault f of thread t. Where a packet of the slot still waits (R348), it is taken once that has left. It unwinds when an open containment entry catches it, kills where the region's CPOL
is 1, and freezes the thread otherwise; the packet is of kind 2, 1 or 0. Its pc stays at the instruction (R80). -/
def State.raise (s : State) (t : Tid) (f : Flt) : State :=
  let f := { f with info := s.faultInfo t f }
  let s := s.modSlot t fun x => { x with replays := 0 }
  if !s.placeFree t then s.modSlot t fun x => { x with st := .waiting .quiet, raising := some f }
  else match (s.ctx t).catcher f with
  | some _ => s.modSlot t fun x => { x with st := .waiting .quiet, unwinding := some (f, s.now) }
  | none =>
    if (s.regionOf t).cpol then
      ((s.report t 1 f).modSlot t fun x => { x with
        st := .waiting .quiet, killing := some (if f.code = 13 then f.info.truncate 6 else f.code) }).actAt s.now (.stopThread t)
    else (s.report t 0 f).freeze t

/-- R243: the queues that a disposed fault of the thread has held start again. -/
def State.unstall (s : State) (t : Tid) : State :=
  let left := (s.slot t).deferred
  let c := s.core t.core
  if c.stalled.any fun x => match x.2 with
      | some (n, f) => n == t.slot && !left.contains f
      | none => false then
    (s.modCore t.core fun c => { c with stalled := c.stalled.filter fun x => match x.2 with
      | some (n, f) => !(n == t.slot && !left.contains f)
      | none => false }).sched s.now Phase.commit (.act (.heads t.core))
  else s

/-- The register-cache line of g1 to g7. -/
def lowLine : Nat := 6

/-- R325, R353: the unwind to the innermost entry that catches the fault, or to entry i. It writes g1 to g3, whose line
is filled first where it is absent (R161). -/
def State.unwind (s : State) (t : Tid) (f : Flt) (i : Nat) : State :=
  let e := (s.ctx t).stack.get {} i
  let s := (s.fillLines t [lowLine]).dirtyLine t lowLine
  let s := s.modSlot t fun x =>
    let c := x.ctx
    let c := ((c.wg 1 (f.code.zeroExtend 64)).wg 2 f.addr).wg 3 (e.nst.zeroExtend 64)
    { x with
      st := .ready, unwinding := none
      ctx := { c with
        pc := e.hpc, cdepth := BitVec.ofNat 3 i
        stack := (List.range (4 - i)).foldl (fun m j => m.put {} (i + j) {}) c.stack } }
  (s.unstall t).report t 2 f

/-- R271, R198: is anything of the thread's loads, LDNs or atomics outstanding? -/
def State.quietThread (s : State) (t : Tid) : Bool :=
  !(s.core t.core).outs.any fun o => o.slot == t.slot && (o.kind == .load || o.kind == .ldn || o.kind == .atomic)

/-- R209, R407: does a release point of a slot wait for the access? A store of another slot counts where it committed to
the L1, in a line that the L1 holds or is fetching, or where its thread has since passed a point that orders only threads
of the core (R228). `lead` is the slot that a pair's stores stand under. (log entry 17: DEDUCED, unsafe.) -/
def Out.holds (o : Out) (slot lead : Nat) : Bool :=
  match o.kind with
  | .store | .msg => o.slot == slot || o.slot == lead || o.shared
  | .atomic => true
  | .ldn => o.slot == slot
  | .load => false

def Ctx.outSlot (c : Ctx) (slot : Nat) : Nat := if c.paired then slot % 8 else slot

/-- The accesses that a release point of thread t waits for. -/
def State.heldOuts (s : State) (t : Tid) : List Out :=
  (s.core t.core).outs.filter (·.holds t.slot ((s.ctx t).outSlot t.slot))

/-- R209: does a release point of thread t hold? (log entry 17: DEDUCED, unsafe.) -/
def State.releaseHeld (s : State) (t : Tid) : Bool := !(s.heldOuts t).isEmpty

/-- R228, R247, R249: what orders only threads of one core hands the stores of a thread on: any later release point of the
core waits for them. -/
def State.shareOuts (s : State) (t : Tid) : State :=
  let lead := (s.ctx t).outSlot t.slot
  s.modCore t.core fun c => { c with outs := c.outs.map fun o => if o.slot = t.slot ∨ o.slot = lead then { o with shared := true } else o }

/-- Log entry 17: DEDUCED, unsafe. -/
def State.addOut (s : State) (core : Nat) (o : Out) : State :=
  s.modCore core fun c => { c with outs := (c.outs.filter fun x => x.id ≠ o.id) ++ [o] }
def State.dropOut (s : State) (core id : Nat) : State :=
  s.modCore core fun c => { c with outs := c.outs.filter fun o => o.id ≠ id }

/-! Issue (R62, R168). -/

/-- What the execution of an instruction comes to: it completes at the next word or at a target, faults, waits to be
tried again (R20), waits for a landing with its request sent, holds (the turn is spent and nothing commits), or leaves
the thread as the state says. -/
inductive Step1 where
  | next (s : State)
  | jump (s : State) (pc : W64)
  | fault (f : Flt)
  | wait (w : Wait)
  | sent (s : State) (id : Nat)
  | hold (perf : Nat)
  | gone (s : State)

/-- A thread completes an instruction: its replays are forgotten. COMMITS (R335) rises with the verdict, two cycles
after the issue. -/
def State.retire (s : State) (t : Tid) (pc : W64) : State :=
  (s.modSlot t fun x => { x with replays := 0, skipWatch := false, ctx := { x.ctx with pc := pc } }).modCore t.core
    fun c => { c with late := (c.late.filter fun n => s.now < n) ++ [s.now + 2], perf := c.perf.put 0 1 (c.perf.get 0 1 + 1) }

/-- R157: WATCH (step) after an instruction that completes with SSTEP set; SSTEP is read after the instruction's own
effect, so the MTS that sets it raises the fault, and the one that clears it does not. (log entry 62: DESIGN CHOICE, unsafe.) -/
def State.stepped (s : State) (t : Tid) : State :=
  if (s.ctx t).sstep then s.raise t { code := 21, sub := 0 } else s

/-- An instruction of the current issue completes: as retire, with WATCH (step) at its verdict (R157); SSTEP is read as
`stepped` reads it. (Log entry 11: DEDUCED, unsafe.) (log entry 62: DESIGN CHOICE, unsafe.) -/
def State.finish (s : State) (t : Tid) (pc : W64) : State :=
  let s := s.retire t pc
  if (s.ctx t).sstep then s.actAt (s.now + 2) (.raise t { code := 21, sub := 0 }) else s

/-- R199, R286: a blocking access completes at its landing: pc advances and the thread becomes ready. -/
def State.land (s : State) (t : Tid) (pc : W64) (len : Nat) : State :=
  if (s.slot t).st = .empty then s
  else
    let s := match (s.slot t).st with
      | .waiting _ => s.setSt t .ready
      | _ => s
    (s.retire t (pc + BitVec.ofNat 64 len)).stepped t

/-- R168, R170: a failed verdict: the issue repeats at c + 16, or raises MARGIN after MLIM.INSN replays; the MSTAT of its
packet counts that verdict. -/
def State.replay (s : State) (t : Tid) : State :=
  let s := s.postAt (s.now + 2) (.replayCount t.core)
  if (s.core t.core).insn.toNat ≤ (s.slot t).replays then s.postAt (s.now + 2) (.raise t { code := 19, sub := 0 })
  else s.modSlot t fun x => { x with replays := x.replays + 1, st := .ready }

/-- The verdict of this issue, an input of the model (log entry 4: DESIGN CHOICE, unsafe): true when its shadow check fails. -/
def State.verdict (s : State) : Bool × State :=
  match s.verdicts with
  | [] => (false, s)
  | b :: l => (b, { s with verdicts := l })

/-- R55, R62: does the wait field name a counter that is not zero? -/
def Ctx.mustWait (c : Ctx) (w : BitVec 3) : Bool :=
  if w = 0 then false
  else if w.toNat < 5 then c.rwc (BitVec.ofNat 2 (w.toNat - 1)) ≠ 0
  else c.rwc 0 ≠ 0 || c.rwc 1 ≠ 0 || c.rwc 2 ≠ 0 || c.rwc 3 ≠ 0

/-- R162: the enabled watchpoint of a kind that `kinds` admits and that matches an address. -/
def Ctx.watchHit (c : Ctx) (kinds : Nat → Bool) (addr : W64) : Option Nat :=
  (List.range 2).find? fun n =>
    let w := c.wctl.get 0 n
    let ign := w.toNat / 16 % 64
    w.getLsbD 0 && kinds (w.toNat / 2 % 8) && addr >>> ign == (c.waddr.get 0 n) >>> ign

/-- The watchpoint fault of an access or transfer of the issuing thread, unless it resumed from one (R162). -/
def State.watch (s : State) (kinds : Nat → Bool) (addr : W64) : Option Flt :=
  if (s.slot s.cur).skipWatch then none
  else (s.ctx s.cur).watchHit kinds addr |>.map fun n => { code := 21, sub := BitVec.ofNat 8 (1 + n), addr := addr }

def isLoadKind (k : Nat) : Bool := k == 1 || k == 3
def isStoreKind (k : Nat) : Bool := k == 2 || k == 3
def isAnyKind (k : Nat) : Bool := k == 1 || k == 2 || k == 3

def bytesOf (h : Hdr) : Nat :=
  match h.len with
  | .w64 => 8
  | .w96 => 12
  | .w128 => 16

/-- The start of an issue: its turn and the core's cycle are spent (R19), and it is counted. -/
def State.beginIssue (s : State) : State :=
  let t := s.cur
  (({ s with scan := t.core + 1 } : State).count t.core 0).modCore t.core fun c =>
    { (c.modSlot t.slot fun x => { x with elig := s.now + 16 }) with
      lastServed := t.slot, stall := 0, issueAt := s.now + 1 }

/-- R170: an issue whose verdict passes ends the row of its thread's replays. -/
def State.calm (s : State) (t : Tid) : State := s.modSlot t fun x => { x with replays := 0 }

/-- R161: the turn becomes a register fill. -/
def State.fillTurn (s : State) (t : Tid) (lines : List Nat) : State := ((s.fillLines t lines).calm t).count t.core 5

/-- A fault is taken with the verdict of its issue (R168, R345). -/
def State.raiseLater (s : State) (t : Tid) (f : Flt) : State := s.actAt (s.now + 2) (.raise t f)

/-- What the outcome of an execution leaves, when its verdict passes. (Log entry 11: DEDUCED, unsafe.) -/
def State.settle (s : State) (t : Tid) (pc : W64) : Step1 → State
  | .next s' => s'.finish t pc
  | .jump s' pc => s'.finish t pc
  | .fault f => s.raiseLater t f
  | .wait w => (s.calm t).setSt t (.waiting w)
  | .sent s' id => (s'.calm t).setSt t (.waiting (.event id))
  | .hold n => (s.calm t).count t.core n
  | .gone s' => s'

/-- What the outcome leaves when its verdict fails: the state with any reservation the issue made, which its own acts
withdraw at c + 3. -/
def State.squash (s : State) : Step1 → State
  | .next s' => s'
  | .jump s' _ => s'
  | .sent s' _ => s'
  | .gone s' => s'
  | _ => s

/-- The decode faults of R62 step 3 that depend on the core and the context. -/
def State.decodeFault (s : State) (t : Tid) (uses : List Use) (kpriv : Bool) : Option Flt :=
  if !uses.all (·.inRange (s.core t.core).part) then some { code := 3 }
  else if kpriv && !(s.ctx t).priv then some { code := 4 }
  else none

/-- R62 and R168: the issue of an instruction by the current thread. `uses` names its registers, `kpriv` a privileged
opcode, `vec` a vector instruction (guarded by its lane mask, R106), `resv` one whose body reserves at issue (that body
is run with false when the verdict fails, and then only reserves; a trailing thread reserves nothing, unless `own` says
that each thread of a pair reserves for itself), `stepped` one of class S, which has no verdict. A
wait on counters comes before the issue and spends no turn. (Log entry 11: DEDUCED, unsafe.) -/
def issue (h : Hdr) (uses : List Use) (body : Bool → State → Step1) (s : State)
    (kpriv vec resv stepped own : Bool := false) : Host.Outcome State Fault Refusal :=
  let t := s.cur
  let x := s.ctx t
  let uses := rK h.guard :: uses
  let bad := s.decodeFault t uses kpriv
  if bad.isNone && x.mustWait h.wait then .next (s.setSt t (.waiting (.counters h.wait)))
  else
    let c := s.core t.core
    let pc := x.pc + BitVec.ofNat 64 (bytesOf h)
    let lines := uses.filterMap (·.line c.part)
    let missing := (lines.map (·.1)).filter fun i => !c.resident t.slot i
    let s := s.beginIssue
    let (fails, s) := if stepped then (false, s) else s.verdict
    .next <| match bad with
    | some f => if fails then s.replay t else s.raiseLater t f
    | none =>
      if !missing.isEmpty then
        (if fails then s.replay t
         else match s.imageFault t with
           | some f => s.raiseLater t f
           | none => s.fillTurn t (lines.map (·.1)))
      else
        let s := s.modCore t.core (·.nameLines s.now t.slot lines)
        match s.watch (· == 0) x.pc with
        | some f => if fails then s.replay t else s.raiseLater t f
        | none =>
          let on := if vec then Flags.laneMask (x.rk h.guard) h.neg ≠ 0 else Flags.scalarGuard (x.rk h.guard) h.neg
          if !on then (if fails then s.replay t else s.finish t pc)
          else if fails then (if resv && (own || !(x.paired && x.trail)) then (s.squash (body false s)).replay t else s.replay t)
          else s.settle t pc (body true s)

/-- An instruction that writes only registers of its context and completes at the next word. -/
def compute (h : Hdr) (uses : List Use) (f : Ctx → Ctx) (s : State) (vec : Bool := false) :
    Host.Outcome State Fault Refusal :=
  issue h uses (fun _ s => .next (s.modCtx s.cur f)) s (vec := vec)

end Sys2Proof.Machine
end

