-- ==== Sys2Proof/Machine/Operands.lean ====
section
/-!
DEFINITION. The operand forms: two-source and one-source scalar forms, predicate destinations (R91), the effective
address of the mem format (R59), register targets (R99), and vector elements under the lane mask (R106, R107).
-/

namespace Sys2Proof.Machine

/-- R83: gD from gA and gB or the immediate. -/
def scalar2 (h : Hdr) (d a : Reg) (b : Src) (f : W64 → W64 → W64) (s : State) : Host.Outcome State Fault Refusal :=
  compute h (rG a :: wG d :: rS b) (fun c => c.wg d (f (c.rg a) (c.rs b))) s

/-- R87: gD from gA. -/
def scalar1 (h : Hdr) (d a : Reg) (f : W64 → W64) (s : State) : Host.Outcome State Fault Refusal :=
  compute h [rG a, wG d] (fun c => c.wg d (f (c.rg a))) s

/-- R91: t to kD, and its complement to kE where the field is present. -/
def Ctx.wk2 (c : Ctx) (d : KReg) (e : Option KReg) (t : Bool) : Ctx :=
  let c := c.wk d (Flags.ofBool t)
  match e with
  | some e => c.wk e (Flags.ofBool !t)
  | none => c

def useE (e : Option KReg) : List Use :=
  match e with
  | some e => [wK e]
  | none => []

/-- R91 to R93: a test of gA and gB into two predicates. -/
def test2 (h : Hdr) (d : KReg) (e : Option KReg) (a : Reg) (b : Src) (f : W64 → W64 → Bool) (s : State) :
    Host.Outcome State Fault Refusal :=
  compute h (rG a :: wK d :: useE e ++ rS b) (fun c => c.wk2 d e (f (c.rg a) (c.rs b))) s

/-- R94: kD from kA and kB. -/
def pred2 (h : Hdr) (d a b : KReg) (f : W64 → W64 → W64) (s : State) : Host.Outcome State Fault Refusal :=
  compute h [rK a, rK b, wK d] (fun c => c.wk d (f (c.rk a) (c.rk b))) s

/-- R60: a target relative to pc. -/
def relTarget (pc : W64) (off : BitVec 28) : W64 := pc + 4 * off.signExtend 64

/-- R99: a register target that is not a multiple of 4 raises ALIGN. -/
def misaligned (t : W64) : Bool := t.extractLsb' 0 2 ≠ 0

def alignFault (addr : W64) : Flt := { code := 5, addr := addr }
def protFault (sub : BitVec 8) (addr : W64 := 0) : Flt := { code := 6, sub := sub, addr := addr }

/-- R59: the effective address of the mem format. -/
def Ctx.ea (c : Ctx) (m : MemOps) : W64 :=
  let base := c.rg m.a + m.disp.signExtend 64
  if m.x then base + (c.rg m.b) <<< m.sh.toNat else base

/-- R197: the bytes that a mem instruction moves. -/
def accessBytes (m : MemOps) : Nat := if m.vec then 64 else 2 ^ m.size.toNat

def memUses (m : MemOps) (load : Bool) : List Use :=
  rG m.a :: rG m.b :: [if m.vec then .v m.d load else .g m.d load]

/-- R106: the lane mask of an instruction. -/
def Ctx.lm (c : Ctx) (h : Hdr) : W64 := Flags.laneMask (c.rk h.guard) h.neg

/-- R107: element j of operand B: of v[B], or the low bits of the immediate. -/
def Ctx.bElem (c : Ctx) (b : Src) (w j : Nat) : Nat :=
  match b with
  | .reg r => Num.elem (c.rv r).toNat w j
  | .imm v => v.toNat % 2 ^ w

/-- R106, R107: each enabled element of v[D] receives f of elements a, b and c. -/
def vector3 (h : Hdr) (o : VOps) (useC : Bool) (f : Nat → Nat → Nat → Nat) (s : State) :
    Host.Outcome State Fault Refusal :=
  let w := Num.bits o.ty
  let n := Num.count o.ty
  compute h (rV o.a :: wV o.d :: rSV o.b ++ (if useC then [rV o.c] else [])) (vec := true) (fun c =>
    let a := (c.rv o.a).toNat
    let cc := (c.rv o.c).toNat
    c.wv o.d (Num.lanes (c.rv o.d) w n (c.lm h).toNat fun j =>
      f (Num.elem a w j) (c.bElem o.b w j) (Num.elem cc w j))) s

/-- As vector3, with the one operand v[A]: the fields of the others name no register (R161). -/
def vector1 (h : Hdr) (o : VOps) (f : Nat → Nat) (s : State) : Host.Outcome State Fault Refusal :=
  compute h [rV o.a, wV o.d] (vec := true) (fun c =>
    c.wv o.d (Num.lanes (c.rv o.d) (Num.bits o.ty) (Num.count o.ty) (c.lm h).toNat fun j =>
      f (Num.elem (c.rv o.a).toNat (Num.bits o.ty) j))) s

/-- As vector3, each element j from the whole of v[A] and the operand's context. -/
def vectorMap (h : Hdr) (ty : Fmt) (d : Reg) (uses : List Use) (f : Ctx → Nat → Nat) (s : State) :
    Host.Outcome State Fault Refusal :=
  compute h (wV d :: uses) (vec := true) (fun c =>
    c.wv d (Num.lanes (c.rv d) (Num.bits ty) (Num.count ty) (c.lm h).toNat (f c))) s

end Sys2Proof.Machine
end

