-- ==== Sys2Proof/Machine/Control.lean ====
section
/-!
DEFINITION. Control flow: opcodes 0x30 to 0x37 but BRQ (R99 to R101), the filler (R63), the overlay trap (R53, R181)
and the register fill (R161).
-/

namespace Sys2Proof.Machine

/-- R99, R162: a transfer to t: ALIGN, then the watchpoints of the kind (4 for RET, 5 for CALL and CALLR; 6 never
matches), then the effect. -/
def transfer (s : State) (kind : Nat) (t : W64) (s' : State) : Step1 :=
  if misaligned t then .fault (alignFault t)
  else match s.watch (· == kind) t with
    | some f => .fault f
    | none => .jump s' t

/-- R100: the target of the register forms. -/
def regTarget (c : Ctx) (a : Reg) (imm : Option W64) : W64 := c.rg a + imm.getD 0

def execBr (h : Hdr) (off : BitVec 28) (s : State) :=
  issue h [] (fun _ s => .jump s (relTarget (s.ctx s.cur).pc off)) s
def execJmp (h : Hdr) (a : Reg) (imm : Option W64) (s : State) :=
  issue h [rG a] (fun _ s => transfer s 6 (regTarget (s.ctx s.cur) a imm) s) s
def execCall (h : Hdr) (d : Reg) (off : BitVec 28) (s : State) :=
  issue h [wG d] (fun _ s =>
    let c := s.ctx s.cur
    transfer s 5 (relTarget c.pc off) (s.modCtx s.cur (·.wg d (c.pc + 8)))) s
def execCallr (h : Hdr) (d a : Reg) (imm : Option W64) (s : State) :=
  issue h [rG a, wG d] (fun _ s =>
    let c := s.ctx s.cur
    transfer s 5 (regTarget c a imm) (s.modCtx s.cur (·.wg d (c.pc + 8)))) s
def execRet (h : Hdr) (a : Reg) (s : State) :=
  issue h [rG a] (fun _ s => transfer s 4 (regTarget (s.ctx s.cur) a none) s) s

/-- R101. -/
def execLoop (h : Hdr) (d : Reg) (off : BitVec 28) (s : State) :=
  issue h [wG d] (fun _ s =>
    let c := s.ctx s.cur
    let n := c.rg d - 1
    let s' := s.modCtx s.cur (·.wg d n)
    if n ≠ 0 then .jump s' (relTarget c.pc off) else .next s') s

def execNop (h : Hdr) (s : State) := issue h [] (fun _ s => .next s) s

/-- R63: a filler takes one turn, is checked like any other issue (R65), and does nothing. (Log entry 11: DEDUCED, unsafe.) -/
def execFiller (len : Len) (s : State) : Host.Outcome State Fault Refusal :=
  let s := s.beginIssue
  let (fails, s) := s.verdict
  let n : Nat := match len with
    | .w64 => 8
    | .w96 => 12
    | .w128 => 16
  .next (if fails then s.replay s.cur else s.finish s.cur ((s.ctx s.cur).pc + BitVec.ofNat 64 n))

/-- R181: the overlay trap of the current thread. It spends the turn; it is no instruction of R168. (Log entry 11: DEDUCED, unsafe.) -/
def execOverlayTrap (s : State) : Host.Outcome State Fault Refusal :=
  let s := s.beginIssue
  let t := s.cur
  let c := s.ctx t
  if c.ovl then .next (s.raiseLater t (protFault 16 c.pc))
  else .next ((s.modCtx t fun c => { c.setStat 4 true with otpc := c.pc &&& ~~~3#64 }).retire t (s.core t.core).ovh)

/-- R161: a turn that fills the named lines of the current thread. -/
def execRegisterFill (lines : List Nat) (s : State) : Host.Outcome State Fault Refusal :=
  let s := s.beginIssue
  let (fails, s) := s.verdict
  .next (if fails then s.replay s.cur else s.fillTurn s.cur lines)

end Sys2Proof.Machine
end

