-- ==== Sys2Proof/Machine/Device.lean ====
section
/-!
DEFINITION. Device control space: its map (R364), the package registers (R365), the host queue descriptors (R256), the
region budget table (R332), the debug windows (R351) and the die registers (R192, R310, R312, R321, R336).
-/

namespace Sys2Proof.Machine

def devBase : Nat := 0xF0000000000
def isDevice (pa : Nat) : Bool := decide (devBase ≤ pa) && decide (pa < 2 ^ 44)

/-- Where an address of the space leads. -/
inductive DevPlace where
  | pkg (off : Nat)
  | doorbell (q : Nat)
  | descriptor (q word : Nat)
  | budget (n word : Nat)
  | window (core off : Nat)
  | slref (die : Nat)
  | cecc (die : Nat)
  | format (die ctl reg word : Nat)
  | tmem (cluster : Nat)
  | slots (cluster off : Nat)
  | none
deriving DecidableEq, Repr

def devPlace (pa : Nat) : DevPlace :=
  let o := pa - devBase
  if pa < devBase then .none
  else if o < 0x28 then .pkg o
  else if o = 0x1000 ∨ o = 0x1008 then .pkg o
  else if 0x1000000 ≤ o ∧ o < 0x1080000 then .doorbell ((o - 0x1000000) / 8)
  else if 0x2000000 ≤ o ∧ o < 0x2400000 then .descriptor ((o - 0x2000000) / 64) (o / 8 % 8)
  else if 0x3000000 ≤ o ∧ o < 0x3020000 then .budget ((o - 0x3000000) / 32) (o / 8 % 4)
  else if 0x40000000 ≤ o ∧ o < 0x40000000 + 1152 * 0x10000 then .window ((o - 0x40000000) / 0x10000) (o % 0x10000)
  else if 0x80000000 ≤ o ∧ o < 0x84000000 then
    let d := (o - 0x80000000) / 0x1000000
    let x := o % 0x1000000
    if x = 0x100 then .slref d
    else if x = 0x180 then .cecc d
    else if 0x1000 ≤ x ∧ x < 0x1600 then .format d ((x - 0x1000) / 0x100) (x / 0x20 % 8) (x / 8 % 4)
    else if 0x4000 ≤ x ∧ x < 0x4120 then .tmem (d * 36 + (x - 0x4000) / 8)
    else if 0x10000 ≤ x ∧ x < 0x10000 + 36 * 0x800 ∧ x % 0x800 < 0x500 then
      .slots (d * 36 + (x - 0x10000) / 0x800) (x % 0x800)
    else .none
  else .none

/-- Dword j of a number. -/
def dword (v j : Nat) : W64 := BitVec.ofNat 64 (v / 2 ^ (64 * j))
def setDword (v : Nat) (j : Nat) (x : W64) : Nat := v - v / 2 ^ (64 * j) % 2 ^ 64 * 2 ^ (64 * j) + x.toNat * 2 ^ (64 * j)
/-- Bits [lo + n − 1 : lo] of a dword. -/
def bits (v : W64) (lo n : Nat) : Nat := v.toNat / 2 ^ lo % 2 ^ n

def HQueue.word (q : HQueue) : Nat → W64
  | 0 => q.ring
  | 1 => BitVec.ofNat 64 (q.logn.toNat * 2 ^ 32 + q.en.toNat * 2 ^ 37 + q.rst.toNat * 2 ^ 38 + q.rstdone.toNat * 2 ^ 39
      + q.mapped.toNat * 2 ^ 40 + q.slot.toNat * 2 ^ 41 + q.err.toNat * 2 ^ 50)
  | 2 => BitVec.ofNat 64 q.head.toNat
  | 3 => BitVec.ofNat 64 (q.tail.toNat + q.lastsig.toNat * 2 ^ 17)
  | 4 => BitVec.ofNat 64 (q.idle.toNat * 2 ^ 24)
  | _ => 0

def clamp (lo hi v : Nat) : Nat := if v < lo then lo else if hi < v then hi else v

/-- R256: a host write of one dword of a descriptor. Bits [5:0] of a written RING are cleared: the rule has RING a multiple
of 64 and gives no answer to another value. (log entry 62: DESIGN CHOICE, unsafe.) -/
def HQueue.write (q : HQueue) (j : Nat) (v : W64) : HQueue :=
  match j with
  | 0 => if q.en then q else { q with ring := v &&& ~~~63#64 }
  | 1 =>
    let r := bits v 38 1 = 1
    let q' := if q.en then q else { q with logn := BitVec.ofNat 5 (clamp 4 16 (bits v 32 5)), err := BitVec.ofNat 4 (bits v 50 4) }
    { q' with en := bits v 37 1 = 1, rst := q.rst || r, rstdone := q.rstdone && !r }
  | 2 => if q.en then q else { q with head := BitVec.ofNat 17 v.toNat }
  | 4 => { q with idle := if bits v 24 20 = 0 then 1 else BitVec.ofNat 20 (bits v 24 20) }
  | _ => q

def Budget.num (b : Budget) : Nat :=
  b.rcb.toNat * 2 ^ 210 + b.valid.toNat * 2 ^ 209 + b.csb.toNat * 2 ^ 177 + b.netslot.toNat * 2 ^ 161
    + b.waits.toNat * 2 ^ 145 + b.futures.toNat * 2 ^ 127 + b.threads.toNat * 2 ^ 111

/-- R321: the live fields, with PEND and BAD. -/
def FmtRange.num (r : FmtRange) : Nat :=
  r.owner.toNat * 2 ^ 210 + r.count.toNat * 2 ^ 186 + r.pend.isSome.toNat * 2 ^ 185 + r.valid.toNat * 2 ^ 184
    + r.bad.toNat * 2 ^ 183 + r.win.toNat * 2 ^ 64 + r.src.toNat

def Pkg.evqctl (p : Pkg) : W64 :=
  BitVec.ofNat 64 (p.head.toNat * 2 ^ 32 + p.tail.toNat * 2 ^ 16 + p.logn.toNat * 4 + p.irq.toNat * 2 + p.en.toNat)

def slotCode (x : Slot) : Nat :=
  match x.st with
  | .empty => 0
  | .ready => 1
  | .waiting _ => 2
  | .frozen => 3

/-- R351: SSTAT. -/
def Slot.sstat (x : Slot) : W64 :=
  BitVec.ofNat 64 (slotCode x + x.code.toNat * 2 ^ 3 + x.sub.toNat * 2 ^ 9 + x.acterr.toNat * 2 ^ 17
    + x.bind.toNat * 2 ^ 18)

def Core.wcore (c : Core) : W64 :=
  BitVec.ofNat 64 (c.level.toNat + c.quar.toNat * 16 + c.gated.toNat * 32
    + ((List.range 16).foldl (fun n j => n + (if (c.slot j).st = .frozen then 2 ^ (6 + j) else 0)) 0))

def Core.fring (c : Core) : W64 :=
  BitVec.ofNat 64 (c.fen.toNat + c.flogn.toNat * 2 + c.fbase.toNat * 2 ^ 6 + c.ftail.toNat * 2 ^ 24)

/-- R351: a dword of AFULL: the FULL bits of the granules of page LWIN. -/
def Core.afull (c : Core) (off : Nat) : W64 :=
  if 11 < c.lwin.toNat then 0
  else BitVec.ofNat 64 (Num.pack 1 64 fun j =>
    (!(c.empty.get false (c.lwin.toNat * 2048 + (off - 0x2000) * 8 + j))).toNat)

def State.windowRead (s : State) (core off : Nat) : W64 :=
  let c := s.core core
  if off = 0 then c.wcore
  else if off = 8 then BitVec.ofNat 64 c.lwin.toNat
  else if off = 0x10 then c.fring
  else if 0x1000 ≤ off ∧ off < 0x1400 ∧ off % 0x40 = 0 then (c.slot ((off - 0x1000) / 0x40)).sstat
  else if 0x1800 ≤ off ∧ off < 0x1C00 then dword (c.slot ((off - 0x1800) / 0x40)).spkt.toNat (off / 8 % 8)
  else if 0x2000 ≤ off ∧ off < 0x2100 then c.afull off
  else if 0x8000 ≤ off then
    if 11 < c.lwin.toNat then 0 else BitVec.ofNat 64 (s.localRead core (0x8000 * c.lwin.toNat + (off - 0x8000)) 8)
  else 0

/-- A dword of device control space; unlisted addresses read zero (R364). -/
def State.devRead (s : State) (pa : Nat) : W64 :=
  match devPlace (pa / 8 * 8) with
  | .pkg 0 => s.pkg.pkgid.zeroExtend 64
  | .pkg 8 => BitVec.ofNat 64 (s.pkg.hwin.toNat * 2 ^ 32)
  | .pkg 0x10 => s.pkg.ptbase
  | .pkg 0x18 => s.pkg.brbase
  | .pkg 0x20 => s.pkg.spares.zeroExtend 64
  | .pkg 0x1000 => s.pkg.evqbase
  | .pkg 0x1008 => s.pkg.evqctl
  | .pkg _ | .doorbell _ | .none => 0
  | .descriptor q j => (s.hq.get {} q).word j
  | .budget n j => dword (s.budgets.get {} n).num j
  | .window c o => s.windowRead c o
  | .slref d => (s.die d).slref.zeroExtend 64
  | .cecc d => (s.die d).cecc
  | .format d c r j => dword ((s.die d).fmts.get {} (c * 8 + r)).num j
  | .tmem c => (s.cluster c).tmem
  | .slots c o => BitVec.ofNat 64 (peek (s.cluster c).slots o 8)

/-- R361: a wake of a gated core: latched while it enters gating; at once it starts the exit of a gated one. -/
def State.wake (s : State) (core : Nat) : State :=
  match (s.core core).gate with
  | .entering since _ => s.modCore core fun c => { c with gate := .entering since true }
  | .gated => s.actAt s.now (.gatingWake core)
  | _ => s

/-- R361: a read of a core's debug window wakes the core. -/
def State.wakeWindow (s : State) (pa : Nat) : State :=
  match devPlace (pa / 8 * 8) with
  | .window core _ => s.wake core
  | _ => s

def State.windowWrite (s : State) (core off : Nat) (v : W64) : State :=
  let s := s.wake core
  if off = 8 then s.modCore core fun c => { c with lwin := BitVec.ofNat 4 v.toNat }
  else if off = 0x10 then s.modCore core fun c =>
    { c with fen := v.getLsbD 0, flogn := BitVec.ofNat 4 (clamp 2 12 (bits v 1 4)), fbase := BitVec.ofNat 13 (bits v 6 13) }
  else if 0x1000 ≤ off ∧ off < 0x1400 ∧ off % 0x40 = 8 then
    let t : Tid := ⟨core, (off - 0x1000) / 0x40⟩
    match bits v 0 3 with
    | 0 => s.actAt s.now (.acterrClear t)
    | 1 => s.actAt s.now (.supervisorResume t)
    | 2 => s.actAt s.now (.supervisorKill t)
    | 3 => s.actAt s.now (.supervisorUnwind t)
    | 4 => s.actAt s.now (.supervisorStop t)
    | _ => s.modSlot t fun x => { x with acterr := true }
  else if 0x2000 ≤ off ∧ off < 0x2100 then s.actAt s.now (.afullWrite core off v)
  else if 0x8000 ≤ off then s.actAt s.now (.apertureAccess core off (some v))
  else s

/-- R364: a dword store into device control space, by the host or by a context that may reach it. A format range takes
the pending value with its last dword (log entry 12: DESIGN CHOICE, unsafe). What the spec's tables list as changed by a
host write alone (R256, R365) a context's store leaves as it is (R6). -/
def State.devWrite (s : State) (host : Bool) (pa : Nat) (v : W64) : State :=
  match devPlace (pa / 8 * 8) with
  | .pkg 8 => if host then { s with pkg := { s.pkg with hwin := BitVec.ofNat 20 (bits v 32 20) } } else s
  | .pkg 0x1000 => if s.pkg.en || !host then s else { s with pkg := { s.pkg with evqbase := v &&& ~~~63#64 } }
  | .pkg 0x1008 => if host then s.actAt s.now (.evqctlWrite v) else s
  | .doorbell q => s.actAt s.now (.doorbell q v)
  | .descriptor q j =>
    if !host then s else
    let old := s.hq.get {} q
    let new := old.write j v
    let s := { s with hq := s.hq.put {} q new }
    if new.rst && !old.rst then s.actAt s.now (.queueReset q) else s
  | .window c o => s.windowWrite c o v
  | .format d c r j =>
    let key := c * 8 + r
    let old := (s.die d).fmts.get {} key
    let stage := setDword (match old.stage with
      | some x => x.toNat
      | none => old.num) j v
    if j = 3 then
      (s.modDie d fun x => { x with fmts := x.fmts.put {} key { old with stage := none } }).runAt s.now
        (.formatRangeWrite d c r (BitVec.ofNat 256 stage))
    else s.modDie d fun x => { x with fmts := x.fmts.put {} key { old with stage := some (BitVec.ofNat 256 stage) } }
  | .slots c o => s.modCluster c fun x => { x with slots := poke x.slots o 8 v.toNat }
  | _ => s

/-- R351, R364: may a context make this access of device control space? -/
def devCheck (c : Ctx) (pa n : Nat) (plain : Bool) (va : W64) : Option Flt :=
  if devPlace (pa / 8 * 8) = .none then some (protFault 0 va)
  else if !c.priv then some (protFault 6 va)
  else if !plain || n = 64 then some (protFault 0 va)
  else if n ≠ 8 then some (alignFault va)
  else none

end Sys2Proof.Machine
end

