-- ==== Sys2Proof/Machine/Memory.lean ====
section
/-!
DEFINITION. What the loads, stores and atomics share: physical places (R191), format ranges (R322), the checks of
R191 to R194 and R316, the TLBs and the page walk (R317, R318), the L1 (R188), acquires (R210, R214), home slices
(R189, R190) and paired threads (R354).
-/

namespace Sys2Proof.Machine

/-! Places. -/

inductive Place where
  | hbm (stack : Nat)
  | tier (ctl : Nat)
  | cxl (port : Nat)
  | slate (die : Nat)
  | device
  | none
deriving DecidableEq, Repr

/-- R191, R370: where a physical address leads; a unit that is mapped out is no target. (Log entry 5: DESIGN CHOICE, unsafe.) -/
def State.place (s : State) (pa : Nat) : Place :=
  let out (d : Nat) := s.boot.outDies.contains d
  if pa < 0x6000000000 then
    let k := pa / 0xC00000000
    if out (k / 2) || s.boot.outHbm.contains k then .none else .hbm k
  else if 0x20000000000 ≤ pa ∧ pa < 0x38000000000 then
    let k := (pa - 0x20000000000) / 0x1800000000
    if out (k / 4) || s.boot.outTier.contains k then .none else .tier k
  else if 0x40000000000 ≤ pa ∧ pa < 0x80000000000 then
    let p := (pa - 0x40000000000) / 0x20000000000
    if s.boot.outCxl.contains p || decide (s.cxl.get 0 p ≤ pa % 0x20000000000) then .none else .cxl p
  else if 0x80000000000 ≤ pa ∧ pa < 0x80180000000 then
    let d := (pa - 0x80000000000) / 0x60000000
    if out d || s.boot.outSlate.contains d then .none else .slate d
  else if isDevice pa then .device
  else .none

/-- R191: the owning die. -/
def dieOfPlace (pa : Nat) : Place → Nat
  | .hbm k => k / 2
  | .tier k => k / 4
  | .cxl p => if p = 0 then 0 else 3
  | .slate d => d
  | .device => match devPlace pa with
      | .window c _ => dieOf c
      | .slref d | .cecc d | .format d _ _ _ => d
      | .tmem c | .slots c _ => dieOfCluster c
      | _ => 0
  | .none => 0

/-- R189: the home cluster of an address. -/
def State.home (s : State) (pa : Nat) : Nat := dieOfPlace pa (s.place pa) * 36 + pa / 4096 % 36

/-- R406: the extra cycles of a core's access when its target is on another die. -/
def State.far (s : State) (core pa : Nat) : Nat := if dieOfPlace pa (s.place pa) = dieOf core then 0 else 20

/-- R406: from a slice's request for a line to its arrival. (Log entry 58: DEDUCED, unsafe.) (log entry 60: DEDUCED, unsafe.) -/
def State.fillTime (s : State) (pa : Nat) : Nat :=
  match s.place pa with
  | .hbm _ => 80
  | _ => 200

/-- The memory controller of an address, as its die's number × 6 + R321's number. -/
def controllerOf (p : Place) : Option (Nat × Nat) :=
  match p with
  | .hbm k => some (k / 2, k % 2)
  | .tier k => some (k / 4, 2 + k % 4)
  | _ => none

/-- R314: WATCH (hazard). (Log entry 38: DEDUCED, unsafe.) -/
def hazard (sub : BitVec 8) (a : Nat) : Flt := { code := 21, sub := sub, addr := BitVec.ofNat 64 a }

/-! Format ranges (R193, R322). -/

def State.ranges (s : State) (pa : Nat) : List FmtRange :=
  match controllerOf (s.place pa) with
  | none => []
  | some (d, n) => ((List.range 8).map fun j => (s.die d).fmts.get {} (n * 8 + j)).filter (·.valid)

def FmtRange.inWindow (r : FmtRange) (pa : Nat) : Bool :=
  decide (r.win.toNat ≤ pa) && decide (pa < r.win.toNat + 512 * r.count.toNat)
def FmtRange.inSource (r : FmtRange) (pa : Nat) : Bool :=
  decide (r.src.toNat ≤ pa) && decide (pa < r.src.toNat + 136 * r.count.toNat)

/-- R193: does an access touch a format range? -/
def State.inFormat (s : State) (pa n : Nat) : Bool :=
  (s.ranges pa).any fun r => r.inWindow pa || r.inWindow (pa + n - 1) || r.inSource pa || r.inSource (pa + n - 1)

def State.window (s : State) (pa : Nat) : Option FmtRange := (s.ranges pa).find? (·.inWindow pa)

/-- R37: the I16 image of element e of the superblock at an address. -/
def State.q16Image (s : State) (team : BitVec 16) (sb e : Nat) : Nat :=
  let code := (s.physByte team (sb + e / 2)).toNat / (if e % 2 = 0 then 1 else 16) % 16
  let scale : Nat := (s.physByte team (sb + 128 + e / 64)).toNat
  Num.wrap (Num.q16Level code * scale) 16

/-- A byte as a load sees it: decoded in a format window (R322). -/
def State.loadByte (s : State) (team : BitVec 16) (pa : Nat) : Byte :=
  match s.window pa with
  | some r =>
    let o := pa - r.win.toNat
    BitVec.ofNat 8 (s.q16Image team (r.src.toNat + 136 * (o / 512)) (o % 512 / 2) / (if o % 2 = 0 then 1 else 256))
  | none => s.physByte team pa

def State.loadBytes (s : State) (team : BitVec 16) (pa : Nat) : Nat → Nat
  | 0 => 0
  | n + 1 => (s.loadByte team pa).toNat + 256 * s.loadBytes team (pa + 1) n

/-- R195: the worst error that an access of n bytes consumes. -/
def State.errAt (s : State) (pa n : Nat) : Err :=
  match s.window pa with
  | some r =>
    let o := pa - r.win.toNat
    let sb := s.mapped (r.src.toNat + 136 * (o / 512))
    let codes := errIn s.errs 0 (sb + o % 512 / 4) ((o % 512 + n - 1) / 4 + 1 - o % 512 / 4)
    let scale := errIn s.errs 0 (sb + 128 + o % 512 / 128) 1
    if codes = .uncorrectable || scale = .uncorrectable then .uncorrectable else .clean
  | none => errIn s.errs 0 (s.mapped pa) n

/-- R357: has any of n bytes an uncorrectable error that is no mark of an earlier retirement? Such a mark is data of the
memory, which no access finds again. (log entry 47: DEDUCED, unsafe.) -/
def State.freshErr (s : State) (pa n : Nat) : Bool :=
  let a := s.mapped pa
  (List.range ((a + n - 1) / 8 + 1 - a / 8)).any fun j => s.errs.get .clean (a / 8 + j) == .uncorrectable && !s.poison.contains (a / 8 + j)

/-- R336: corrects the correctable errors of n bytes of physical memory, counted at the die that owns them. -/
def State.correctAt (s : State) (pa n : Nat) : State :=
  let (e, k) := fixErrs s.errs 0 (s.mapped pa) n
  if k = 0 then s
  else ({ s with errs := e }).modDie (dieOfPlace pa (s.place pa)) fun d => { d with cecc := d.cecc + BitVec.ofNat 64 k }

/-- R195, R336: corrects what n bytes consume: the codes and the scale of a format window's source, or the bytes
themselves. -/
def State.correct (s : State) (pa n : Nat) : State :=
  match s.window pa with
  | some r =>
    let o := pa - r.win.toNat
    let sb := r.src.toNat + 136 * (o / 512)
    (s.correctAt (sb + o % 512 / 4) ((o % 512 + n - 1) / 4 + 1 - o % 512 / 4)).correctAt (sb + 128 + o % 512 / 128) 1
  | none => s.correctAt pa n

/-- R195: the ends of n bytes at an address that cover a 64-bit unit in part, which a store merges. -/
def partialUnits (pa n : Nat) : List Nat :=
  ((if pa % 8 ≠ 0 || n < 8 then [pa / 8 * 8] else []) ++ if (pa + n) % 8 ≠ 0 then [(pa + n) / 8 * 8] else []).eraseDups

/-- R195, R336: a store corrects what it merges. -/
def State.mergeCorrect (s : State) (pa n : Nat) : State := (partialUnits pa n).foldl (fun s u => s.correctAt u 8) s

/-- R336: corrects the correctable errors of n bytes of a cluster store, counted at its die. -/
def State.fixStore (s : State) (cl a n : Nat) : State :=
  let (e, k) := fixErrs s.storeErrs (storeErrBase cl) a n
  if k = 0 then s
  else ({ s with storeErrs := e }).modDie (dieOfCluster cl) fun d => { d with cecc := d.cecc + BitVec.ofNat 64 k }

/-- Errors of a core's L1 (R195), by the physical address of the unit. -/
def l1ErrBase (core : Nat) : Nat := core * 2 ^ 49
def State.l1Err (s : State) (core pa n : Nat) : Err := errIn s.l1Errs (l1ErrBase core) pa n

/-- R335: corrects what n bytes of the core's L1 consume. -/
def State.fixL1 (s : State) (core pa n : Nat) : State :=
  let (e, k) := fixErrs s.l1Errs (l1ErrBase core) pa n
  if k = 0 then s else ({ s with l1Errs := e }).count core 11 k

/-! Checks of a translated access. -/

inductive AccMode where
  | load | const | store | atomic
deriving DecidableEq, Repr

def AccMode.writes (m : AccMode) : Bool := m == .store || m == .atomic

/-- R194: do n bytes at a virtual address lie in, or touch, a constant range of the region? -/
def Region.constHolds (r : Region) (va n : Nat) : Bool :=
  r.consts.any fun (b, l) => decide (b ≤ va) && decide (va + n ≤ b + l)
def Region.constMeets (r : Region) (va n : Nat) : Bool :=
  r.consts.any fun (b, l) => decide (b < va + n) && decide (va < b + l)

/-- Every byte of n from va lies in some constant range. -/
def Region.constCovers (r : Region) (va n : Nat) : Bool :=
  r.constHolds va n || (List.range n).all fun j => r.constHolds (va + j) 1

/-- R316, R191 to R194, R364: the checks of an access whose leaf is known. -/
def State.checkLeaf (s : State) (r : Region) (priv : Bool) (c : Ctx) (mode : AccMode) (va pa n : Nat) (leaf : W64) :
    Option Flt :=
  let a := BitVec.ofNat 64 va
  if (if mode.writes then !leaf.getLsbD 3 else !leaf.getLsbD 2) || (leaf.getLsbD 4 && !priv) then some (protFault 6 a)
  else match s.place pa with
    | .none => some { code := 7, sub := 3, addr := a }
    | .slate _ => some (protFault 3 a)
    | .device => devCheck c pa n (mode == .load || mode == .store) a
    | _ =>
      if mode.writes && s.inFormat pa n then some (protFault 4 a)
      else if mode == .const && !r.constCovers va n then some (protFault 5 a)
      else if mode.writes && r.constMeets va n then some (protFault 5 a)
      else none

def accMode (k : AccKind) (q : Qual) : AccMode :=
  match k with
  | .st | .rstore | .walk true => .store
  | .aacc | .atom _ _ _ _ => .atomic
  | _ => if q = .k then .const else .load

/-! Translation (R317). -/

def Tlb.hits (e : Tlb) (pasid : BitVec 20) (va : Nat) : Bool :=
  e.pasid == pasid && e.vpn == va / 2 ^ levelShift e.level

def findTlb (l : List Tlb) (pasid : BitVec 20) (va : Nat) : Option Tlb := l.find? fun e => e.hits pasid va

/-- The oldest translation gives way (log entry 8: DESIGN CHOICE, unsafe). -/
def pushTlb (cap : Nat) (l : List Tlb) (e : Tlb) : List Tlb :=
  let l := l.filter fun x => !(x.pasid == e.pasid && x.level == e.level && x.vpn == e.vpn)
  (if cap ≤ l.length then l.drop 1 else l) ++ [e]

/-- A translation that the first level answers: the physical address, or the fault of R315, R316 or R191 to R194. -/
def State.resolve (s : State) (a : Acc) (e : Tlb) : Except Flt Nat :=
  let pa := leafAddr e.level e.leaf a.va
  if e.tenant ≠ a.tenant then .error { code := 8, addr := BitVec.ofNat 64 a.va }
  else match s.checkLeaf (s.regionOf a.tid) a.priv (s.ctx a.tid) (accMode a.kind a.qual) a.va pa a.n e.leaf with
    | some f => .error f
    | none => .ok pa

/-- R27: the latency of a walker's read. (Log entry 36: DEDUCED, unsafe.) -/
def State.walkTime (s : State) (die pa : Nat) : Nat :=
  let far := if dieOfPlace pa (s.place pa) = die then 0 else 40
  let base := if ((s.cluster (s.home pa)).slice.get none (pa / 64)).isSome then 120 else 120 + s.fillTime pa
  base + far

def entryAddr (va level table : Nat) : Nat := table + 8 * (va / 2 ^ levelShift level % 2 ^ levelBits level)

/-- R315, R320: the PASID's state and tenant, as a walk for tenant t finds them. -/
def State.pasidFault (s : State) (pasid : BitVec 20) (tenant : BitVec 6) (va : Nat) : Option Flt :=
  match rootOf s pasid with
  | none => some { code := 7, sub := 4, addr := BitVec.ofNat 64 va }
  | some (_, t) => if t ≠ tenant then some { code := 8, addr := BitVec.ofNat 64 va } else none

/-- A walker starts the walk of an access. (Log entry 36: DEDUCED, unsafe.) -/
def State.startWalk (s : State) (a : Acc) : State :=
  match s.pasidFault a.pasid a.tenant a.va, rootOf s a.pasid with
  | none, some (root, _) =>
    let d := dieOf a.tid.core
    (s.modDie d fun x => { x with walkers := x.walkers + 1 }).actAt
      (s.now + s.walkTime d (entryAddr a.va 1 root)) (.walk a 1 root)
  | some f, _ => s.actAt s.now (.translated a (some f))
  | none, none => s

/-- Waiting requests take the walkers that are free, first come first served (R317); one whose PASID faults takes none,
and the next has its turn. (Log entry 36: DEDUCED, unsafe.) -/
def State.takeWalkers (s : State) (die : Nat) : Nat → State
  | 0 => s
  | n + 1 =>
    match (s.die die).walkWait with
    | [] => s
    | a :: l =>
      if 64 ≤ (s.die die).walkers then s
      else ((s.modDie die fun x => { x with walkWait := l }).startWalk a).takeWalkers die n

/-- A walk ends, and its walker is free. (Log entry 36: DEDUCED, unsafe.) -/
def State.endWalk (s : State) (die : Nat) : State :=
  let s := s.modDie die fun x => { x with walkers := x.walkers - 1 }
  s.takeWalkers die (s.die die).walkWait.length

/-- Log entry 8: DESIGN CHOICE, unsafe. -/
def State.fillTlbs (s : State) (a : Acc) (level : Nat) (leaf : W64) : State :=
  let e : Tlb := ⟨a.pasid, level, a.va / 2 ^ levelShift level, leaf, a.tenant⟩
  let s := s.modCluster (clusterOf a.tid.core) fun c => { c with tlb2 := pushTlb 8192 c.tlb2 e }
  match a.kind with
  | .walk _ => s
  | _ => s.modCore a.tid.core fun c => { c with tlb := pushTlb 256 c.tlb e }

/-- R317: a first-level miss reaches the second level; a miss there takes a walker. -/
def execPageWalk (a : Acc) (s : State) : Host.Outcome State Fault Refusal :=
  let cl := clusterOf a.tid.core
  let d := dieOf a.tid.core
  .next <| match findTlb (s.cluster cl).tlb2 a.pasid a.va with
  | some e => (match a.kind with
      | .walk _ => s
      | _ => s.modCore a.tid.core fun c => { c with tlb := pushTlb 256 c.tlb e }).actAt s.now (.translated a none)
  | none =>
    if 64 ≤ (s.die d).walkers then s.modDie d fun x => { x with walkWait := x.walkWait ++ [a] }
    else s.startWalk a

/-- R316, R318: a walker has read the entry of a level, corrected where that takes it (R336). -/
def State.walkStep (s : State) (a : Acc) (level table : Nat) : State :=
  let d := dieOf a.tid.core
  let pa := entryAddr a.va level table
  let s := if (s.pasidFault a.pasid a.tenant a.va).isSome then s else s.correct pa 8
  let stop (sub : BitVec 8) : State :=
    (s.endWalk d).actAt s.now (.translated a (some { code := 7, sub := sub, addr := BitVec.ofNat 64 a.va }))
  if (s.pasidFault a.pasid a.tenant a.va).isSome then stop 4
  else if s.errAt pa 8 = .uncorrectable then stop 5
  else
    let e := BitVec.ofNat 64 (s.physRead 0 pa 8)
    if !e.getLsbD 0 then stop 0
    else if malformed level e then stop 1
    else if e.getLsbD 1 then ((s.fillTlbs a level e).endWalk d).actAt s.now (.translated a none)
    else
      let next := e.toNat / 256 % 2 ^ 44 * 256
      s.actAt (s.now + s.walkTime d (entryAddr a.va (level + 1) next)) (.walk a (level + 1) next)

/-! The L1 (R188). -/

/-- The words of its line that n bytes at an address touch, and those that they cover. -/
def wordMask (f : Nat → Bool) : BitVec 16 := BitVec.ofNat 16 (Num.pack 1 16 fun w => (f w).toNat)
def wordsOf (pa n : Nat) : BitVec 16 :=
  let o := pa % 64
  wordMask fun w => decide (4 * w < o + n) && decide (o < 4 * w + 4)
def fullWords (pa n : Nat) : BitVec 16 :=
  let o := pa % 64
  wordMask fun w => decide (o ≤ 4 * w) && decide (4 * w + 4 ≤ o + n)

def setBytes (line : Vec) (o n data : Nat) : Vec :=
  let v := line.toNat
  BitVec.ofNat 512 (v - v / 2 ^ (8 * o) % 2 ^ (8 * n) * 2 ^ (8 * o) + data % 2 ^ (8 * n) * 2 ^ (8 * o))

def getBytes (line : Vec) (o n : Nat) : Nat := line.toNat / 2 ^ (8 * o) % 2 ^ (8 * n)

/-- R188: the bytes of a load that hits. -/
def Core.l1Load (c : Core) (pa n : Nat) : Option Nat :=
  match c.l1.find? (·.tag == pa / 64) with
  | some l => if l.val &&& wordsOf pa n = wordsOf pa n then some (getBytes l.data (pa % 64) n) else none
  | none => none

def Core.l1Touch (c : Core) (line : Nat) : Core :=
  { c with l1 := c.l1.filter (·.tag ≠ line) ++ c.l1.filter (·.tag == line) }

def Core.l1Map (c : Core) (line : Nat) (f : L1Line → L1Line) : Core :=
  { c with l1 := c.l1.map fun l => if l.tag = line then f l else l }

/-- Tells the fills in flight what a slot has made of n bytes since. -/
def Core.noteFills (c : Core) (slot pa n : Nat) (b : Nat → Option Byte) : Core :=
  { c with fills := c.fills.map fun f => if f.line = pa / 64 then
      { f with bytes := (List.range n).map (fun j => (pa % 64 + j, slot, b j)) ++ f.bytes } else f }

/-- R188: a store commits to the L1. (Log entry 18: DEDUCED, unsafe.) -/
def Core.l1Store (c : Core) (slot pa n data : Nat) : Core :=
  let c := c.l1Map (pa / 64) fun l =>
    { l with own := l.own ||| wordsOf pa n, val := l.val ||| fullWords pa n, data := setBytes l.data (pa % 64) n data }
  (c.noteFills slot pa n fun j => some (BitVec.ofNat 8 (data / 2 ^ (8 * j)))).l1Touch (pa / 64)

/-- R188: an atomic, AACC or engine write of the core clears VAL. -/
def Core.l1Clear (c : Core) (slot pa n : Nat) : Core :=
  (c.l1Map (pa / 64) fun l => { l with val := l.val &&& ~~~wordsOf pa n }).noteFills slot pa n fun _ => none

/-- May a line take a place of its set: the least recent line that no outstanding access names gives way. -/
def Core.l1Room (c : Core) (line : Nat) : Option Core :=
  let set := c.l1.filter fun l => l.tag % 64 == line % 64
  if c.l1.any (·.tag == line) || decide (set.length < 16) then some c
  else match set.find? fun l => !(c.outs.any (·.line == l.tag) || c.fills.any (·.line == l.tag)) with
    | none => none
    | some v => some { c with l1 := c.l1.filter (·.tag ≠ v.tag) }

/-- R188: a fetched line, with the bytes that the core has stored since its request left. -/
def Core.l1Fill (c : Core) (now line : Nat) (data : Vec) (good : BitVec 16) (since : List (Nat × Nat × Option Byte)) : Core :=
  let data := since.foldr (fun x d => match x.2.2 with
    | some b => setBytes d x.1 1 b.toNat
    | none => d) data
  let gone := since.foldr (fun x m => if x.2.2.isNone then m ||| wordsOf x.1 1 else m) 0
  let own := match c.l1.find? (·.tag == line) with
    | some l => l.own
    | none => 0
  { c with l1 := c.l1.filter (·.tag ≠ line) ++ [⟨line, own, good &&& ~~~gone, data, now + 1⟩] }

/-! Acquires (R210, R214). -/

def Core.keeps (c : Core) (line : Nat) : Bool :=
  c.extents.any fun (b, l) => decide (b ≤ 64 * line) && decide (64 * line < b + l)

def Core.acquire (c : Core) (which : Nat → Bool) : Core :=
  { c with l1 := c.l1.map fun l => if which l.tag && !c.keeps l.tag then { l with val := l.val &&& l.own } else l }

/-- R214: a cached translation that serves a context: one that would fault is a miss. -/
def State.serves (s : State) (c : Ctx) (e : Tlb) (va : Nat) : Bool :=
  e.tenant == c.tenant && e.leaf.getLsbD 2 && (!e.leaf.getLsbD 4 || c.priv) && s.place (leafAddr e.level e.leaf va) != .none

/-- The pages of [va, last] that the first-level TLB holds for a context, with the physical bytes they give: none on a
miss, or past the sixteenth page. -/
def coverPages (s : State) (c : Ctx) (tlb : List Tlb) (last : Nat) : Nat → Nat → Option (List (Nat × Nat × Nat × Nat))
  | 0, _ => none
  | fuel + 1, va =>
    match (findTlb tlb c.pasid va).filter (s.serves c · va) with
    | none => none
    | some e =>
      let size := 2 ^ levelShift e.level
      let stop := (va / size + 1) * size
      let pa := leafAddr e.level e.leaf va
      let here := (e.level, e.vpn, pa, Min.min (last + 1) stop - va)
      if last < stop then some [here]
      else match coverPages s c tlb last fuel stop with
        | none => none
        | some l => some (here :: l)

/-- R214: what a limited acquire covers; none for a full one. -/
def limitedExtents (s : State) (c : Ctx) (tlb : List Tlb) (desc : BitVec 512) : Option (List (Nat × Nat)) :=
  let es := (List.range 4).map fun j => (getBytes desc (16 * j) 8, getBytes desc (16 * j + 8) 8)
  let used := es.filter fun e => e.2 ≠ 0
  if used.any fun e => decide (2 ^ 55 ≤ e.1 + e.2 - 1) then none
  else
    let rs := used.map fun e => coverPages s c tlb (e.1 + e.2 - 1) 17 e.1
    if rs.any (·.isNone) then none
    else
      let l := (rs.filterMap id).flatten
      let pages := (l.map fun x => (x.1, x.2.1)).eraseDups
      if 16 < pages.length then none else some (l.map fun x => (x.2.2.1, x.2.2.2))

/-- R214: the lines that an acquire of thread t with a descriptor covers. -/
def State.acquired (s : State) (t : Tid) (desc : Option (BitVec 512)) (line : Nat) : Bool :=
  match desc.bind (limitedExtents s (s.ctx t) (s.core t.core).tlb) with
  | none => true
  | some l => l.any fun (b, n) => decide (b < 64 * line + 64) && decide (64 * line < b + n)

/-- R210, R214: an acquire that thread t makes on its core. -/
def State.acquire (s : State) (t : Tid) (desc : Option (BitVec 512)) : State :=
  s.modCore t.core (·.acquire (s.acquired t desc))

/-- R211: an acquire of the cycle before this one: a line that has been filled since is not in it. -/
def State.acquireBefore (s : State) (t : Tid) (desc : Option (BitVec 512)) : State :=
  s.modCore t.core fun c =>
    c.acquire fun line => s.acquired t desc line && !c.l1.any fun l => l.tag == line && l.filled == s.now + 1

/-- R211: the acquire of a thread whose first issue this is. -/
def State.firstAcquire (s : State) (t : Tid) : State :=
  match (s.slot t).acq with
  | none => s
  | some d => (s.acquireBefore t d).modSlot t fun x => { x with acq := none }

/-! Home slices (R189, R190). -/

/-- The directory key of a line: a team's shadow of it is a line of its own (R219). (Log entry 46: DEDUCED, unsafe.) -/
def State.lineKey (s : State) (team : BitVec 16) (pa : Nat) : Nat :=
  let own := match s.team team with
    | some t => t.partner.isSome && isShadowed pa
    | none => false
  pa / 64 + (if own then (team.toNat + 1) * 2 ^ 46 else 0)

def State.slineAt (s : State) (team : BitVec 16) (pa : Nat) : Option SLine :=
  (s.cluster (s.home pa)).slice.get none (s.lineKey team pa)

/-- R190: the revoke of a line's words at its owner's core, and the cycle in which it lands. A core of another package is
reached over a link. (log entry 56: DEDUCED, unsafe.) -/
def State.revokeLine (s : State) (pa : Nat) (l : SLine) : State × Nat :=
  if l.ownw = 0 then (s, s.now)
  else if l.opkg ≠ s.pkg.pkgid then
    (s.toPeer l.opkg.toNat (pa / 64)
      (.act (.peer ⟨0, 0, 0, .revoke l.ocore.toNat (pa / 64) l.ownw⟩)), s.now + 560)
  else
    let due := s.now + 60 + s.far l.ocore.toNat pa
    (s.landAt due (.revoke l.ocore.toNat (pa / 64) l.ownw), due)

/-- R189, R357: a slice of 2 MiB has 16 ways of 128 KiB, 2048 sets; the lines that a set holds. (Log entry 9: DESIGN CHOICE, unsafe.) -/
def Cluster.sliceSet (c : Cluster) (key : Nat) : List (Nat × SLine) :=
  c.slice.filterMap fun x => if x.1 % 2048 = key % 2048 then x.2.map fun l => (x.1, l) else none

/-- The line of a set that was accessed longest ago, the lowest way of equals. -/
def oldestLine (l : List (Nat × SLine)) : Option (Nat × SLine) :=
  l.foldl (fun best x => match best with
    | none => some x
    | some b => if x.2.used < b.2.used ∨ (x.2.used = b.2.used ∧ x.2.way < b.2.way) then some x else some b) none

/-- R189: a line leaves its slice; what it has written back is in memory already, and its OWNW is revoked, since the
slice forgets it. (Log entry 9: DESIGN CHOICE, unsafe.) -/
def State.evictSline (s : State) (cl key : Nat) (l : SLine) : State :=
  (s.revokeLine (key % 2 ^ 46 * 64) l).1.modCluster cl fun c => { c with slice := c.slice.put none key none }

/-- R189, R357: the way that a new line of a slice takes: the lowest free one that is not quarantined, or that of the line
accessed longest ago, which leaves; a dirty one with an uncorrectable error is handled by its owner tag first. None where
every way is quarantined. (Log entry 9: DESIGN CHOICE, unsafe.) -/
def State.sliceWay (s : State) (cl key : Nat) : Option (Nat × State) :=
  let c := s.cluster cl
  let set := c.sliceSet key
  let ways := (List.range 16).filter fun w => !c.badWays.contains w
  match ways.find? fun w => set.all fun x => x.2.way ≠ w with
  | some w => some (w, s)
  | none =>
    let bad (x : Nat × SLine) : Bool := x.2.dirty && s.freshErr (x.1 % 2 ^ 46 * 64) 64
    let mine := set.filter fun x => ways.contains x.2.way
    match oldestLine (mine.filter fun x => !bad x) with
    | some (k, l) =>
      let s := (mine.filter fun x => bad x && decide (x.2.used < l.used)).foldl (fun s x => s.actAt s.now (.dirtyLineUe x.1)) s
      some (l.way, s.evictSline cl k l)
    | none => none

/-- A directory entry is written, and counts as accessed in this cycle; a line that the slice does not hold takes a way.
(Log entry 9: DESIGN CHOICE, unsafe.) -/
def State.setSline (s : State) (team : BitVec 16) (pa : Nat) (l : Option SLine) : State :=
  let cl := s.home pa
  let key := s.lineKey team pa
  let put (s : State) (l : Option SLine) : State := s.modCluster cl fun c => { c with slice := c.slice.put none key l }
  match l, (s.cluster cl).slice.get none key with
  | none, _ => put s none
  | some l, some old => put s (some { l with way := old.way, used := s.now })
  | some l, none => match s.sliceWay cl key with
    | some (w, s) => put s (some { l with way := w, used := s.now })
    | none => s

/-- A clean line, which no context owns. -/
def SLine.clean : SLine := { dirty := false, ownw := 0, opkg := 0, ocore := 0, oslot := 0, obind := 0 }

/-- R189: a line enters its slice from memory, unless the slice holds it; either way it counts as accessed. -/
def State.fillSline (s : State) (team : BitVec 16) (pa : Nat) : State :=
  s.setSline team pa (some ((s.slineAt team pa).getD .clean))

/-- R190: an access that is not a context's store writes a dirty line back before it goes on, and revokes its words; the
cycle in which the revoke lands. -/
def State.cleanSline (s : State) (team : BitVec 16) (pa : Nat) : State × Nat :=
  match s.slineAt team pa with
  | some l =>
    let (s, due) := if l.dirty then s.revokeLine pa l else (s, s.now)
    (s.setSline team pa (some { l with dirty := false, ownw := 0 }), due)
  | none => (s.setSline team pa (some .clean), s.now)

/-- R190: the registration of a store that a context makes: a dirty line of another owner is written back and revoked
first; the cycle in which the revoke lands. -/
def State.registerSline (s : State) (team : BitVec 16) (pa n : Nat) (pkg : BitVec 8) (t : Tid) (bind : BitVec 12) : State × Nat :=
  let mine (l : SLine) : Bool := l.opkg == pkg && l.ocore.toNat == t.core && l.oslot.toNat == t.slot && l.obind == bind
  let (s, due, ownw) : State × Nat × BitVec 16 := match s.slineAt team pa with
    | some l =>
      if l.dirty && !mine l then
        let (s, due) := s.revokeLine pa l
        (s, due, 0)
      else (s, s.now, l.ownw)
    | none => (s, s.now, 0)
  (s.setSline team pa (some
    { dirty := true, ownw := ownw ||| wordsOf pa n, opkg := pkg, ocore := BitVec.ofNat 11 t.core,
      oslot := BitVec.ofNat 4 t.slot, obind := bind }), due)

def SLine.ownedBy (l : SLine) (pkg : BitVec 8) (t : Tid) (bind : BitVec 12) : Bool :=
  l.opkg == pkg && l.ocore.toNat == t.core && l.oslot.toNat == t.slot && l.obind == bind

def execRevoke (core line : Nat) (words : BitVec 16) (s : State) : Host.Outcome State Fault Refusal :=
  .next (s.modCore core fun c =>
    (c.l1Map line fun l => { l with own := l.own &&& ~~~words, val := l.val &&& ~~~words }))

/-! Paired threads (R354). -/

def Ctx.isLead (c : Ctx) : Bool := c.paired && !c.trail
def Ctx.isTrail (c : Ctx) : Bool := c.paired && c.trail
def partner (t : Tid) : Tid := ⟨t.core, if t.slot < 8 then t.slot + 8 else t.slot - 8⟩
def leadOf (t : Tid) : Tid := ⟨t.core, t.slot % 8⟩
def pairKey (t : Tid) : Nat := Res.pair (t.slot % 8)

/-- Values passed and not yet taken. -/
def State.lvqFull (s : State) (t : Tid) : Bool :=
  let x := s.slot (leadOf t)
  decide (32 ≤ x.lvq.length + x.ldnVals.length)
def State.cmpFull (s : State) (t : Tid) : Bool := decide (16 ≤ (s.slot t).cmp.length)

/-- The leader passes a value to the load-value queue. -/
def State.pass (s : State) (t : Tid) (v : Nat) : State :=
  if (s.ctx t).isLead then
    (s.modSlot t fun x => { x with lvq := x.lvq ++ [BitVec.ofNat 512 v] }).wakeKeys t.core [pairKey t]
  else s

/-- The trailer takes a value, or waits for one. -/
def State.take (s : State) (t : Tid) (k : Nat → State → Step1) : Step1 :=
  match (s.slot (leadOf t)).lvq with
  | [] => .wait (.change [pairKey t])
  | v :: l => k v.toNat ((s.modSlot (leadOf t) fun x => { x with lvq := l }).wakeKeys t.core [pairKey t])

/-- A request of a pair goes out once, when the comparator has found both equal; without a pair it goes out alone. -/
def State.emit (s : State) (t : Tid) (delay : Nat) (words : List Nat) (addr : W64) (store : Bool) (a : Act) : State :=
  let c := s.ctx t
  if c.paired then
    s.sched (s.now + delay) Phase.commit (.present t words addr store (if c.trail then none else some a))
  else s.actAt (s.now + delay) a

/-- R323: a store that the thread commits counts in every open entry. -/
def Ctx.countStore (c : Ctx) : Ctx :=
  { c with stack := (List.range c.cdepth.toNat).foldl (fun m i =>
      let e := m.get {} i
      if e.valid then m.put {} i { e with nst := if e.nst = BitVec.allOnes 32 then e.nst else e.nst + 1 } else m) c.stack }

def State.countStore (s : State) (t : Tid) : State :=
  if (s.ctx t).paired then s else s.modCtx t (·.countStore)

/-- The answer that a thread awaits from a request which it presents to the comparator. -/
def Act.asks : Act → Option Nat
  | .atomSend a => some a.id
  | .futureSend r => some r.id
  | .spillSend r | .spawnatSend r => some r.id
  | .decSend r | .msgSend r _ _ _ => some r.id
  | .waitingSend r => some r.id
  | .waitRequest _ _ id _ _ | .wtRead _ _ id _ _ _ | .budRead _ id _ _ => some id
  | _ => none

/-- R355: a mismatch: the entries of both threads go, those on their way to the comparator among them, and both threads
fault at their next issue; a thread that waits for the answer to a discarded request is ready. (Log entry 46: DEDUCED, unsafe.) -/
def State.mismatch (s : State) (t : Tid) (sub : BitVec 8) (addr : W64) : State :=
  let l := leadOf t
  let f : Flt := { code := 18, sub := sub, addr := addr }
  let shown (t : Tid) : List Act := ((s.slot t).cmp.filterMap Cmp.act) ++ s.agenda.filterMap fun p => match p.ev with
    | .present u _ _ _ a => if u = t then a else none
    | _ => none
  let one (s : State) (t : Tid) : State :=
    (s.modCore t.core fun c => { c with cmdqs := c.cmdqs.map fun (q, l) => (q, l.filter fun c => c.entered || c.tid ≠ t) }).modSlot t
      fun x => { x with
      cmp := [], presented := false, deferred := f :: x.deferred
      st := (match x.st with
        | .waiting (.change _) => .ready
        | .waiting (.event id) => if (shown t).any fun a => a.asks == some id then .ready else x.st
        | st => st) }
  let s := one (one s l) (partner l)
  { s with agenda := s.agenda.filter fun p => match p.ev with
    | .present u _ _ _ _ => u ≠ l && u ≠ partner l
    | _ => true }

/-- R354: an entry of thread t arrives; matched heads are released as one action. -/
def State.present (s : State) (t : Tid) (words : List Nat) (addr : W64) (store : Bool) (a : Option Act) : State :=
  let s := s.modSlot t fun x => { x with cmp := x.cmp ++ [⟨words, addr, store, a, s.now⟩] }
  let l := leadOf t
  match (s.slot l).cmp, (s.slot (partner l)).cmp with
  | x :: xs, y :: ys =>
    if x.words = y.words ∧ x.addr = y.addr ∧ x.store = y.store then
      let s := (s.modSlot l fun z => { z with cmp := xs, released := z.released + store.toNat }).modSlot (partner l)
        fun z => { z with cmp := ys, released := z.released + store.toNat }
      let s := if store then (s.modCtx l (·.countStore)).modCtx (partner l) (·.countStore) else s
      let s := s.wakeKeys t.core [pairKey t]
      match x.act with
      | some a => s.actAt s.now a
      | none => s
    else
      let ends (c : Cmp) : Bool := c.words.head? == some 26
      s.mismatch t (if ends x != ends y then 1 else 0) x.addr
  | _, _ => s

/-- R220: the record of a write to shadowed memory. (Log entry 48: DEDUCED, unsafe.) -/
def State.digest (s : State) (t : Tid) (id va pa n data : Nat) : State :=
  let dual := match s.team (s.teamNo t) with
    | some x => x.partner.isSome
    | none => false
  if dual && isShadowed pa then
    let bs (k v : Nat) : List Nat := (List.range k).map fun j => v / 2 ^ (8 * j) % 256
    s.modSlot t fun x => { x with digest := x.digest ++ [(id, bs 8 va ++ [n] ++ bs n data)] }
  else s

/-! Wait counters (R328 to R330). -/

def State.riseWc (s : State) (t : Tid) (n : BitVec 2) : State := s.modCtx t fun c => c.wwc n (c.rwc n + 1)

/-- A fall: a thread that waits on the counter's value becomes ready in that cycle. -/
def State.fallWc (s : State) (t : Tid) (n : BitVec 2) : State :=
  let s := s.modCtx t fun c => c.wwc n (c.rwc n - 1)
  let c := s.ctx t
  match (s.slot t).st with
  | .waiting (.counters w) => if c.mustWait w then s else s.setSt t .ready
  | .waiting (.counter k m) => if c.rwc k ≤ m then s.setSt t .ready else s
  | _ => s

/-- R344: a fault to be raised at the thread's next issue, if its binding still stands. (Log entry 20: DEDUCED, safe.) -/
def State.deferFault (s : State) (t : Tid) (bind : BitVec 12) (f : Flt) : State :=
  let x := s.slot t
  if x.st = .empty ∨ x.bind ≠ bind then s else s.modSlot t fun x => { x with deferred := x.deferred ++ [f] }

end Sys2Proof.Machine
end

