-- ==== Sys2Proof/Machine/LoadStore.lean ====
section
/-!
DEFINITION. Loads, stores, atomics and the ordering instructions, opcodes 0x40 to 0x56 (R183 to R217), and their
performs, landings and acknowledgements (R185 to R190, R199, R204, R209).
-/

namespace Sys2Proof.Machine

/-! What an access carries. `data2` of a load in flight holds the words of the fetched line that may be used, a fault
of the access, and its place among the LDNs of a pair's thread. -/

def packFault (f : Option Flt) : Nat :=
  match f with
  | none => 0
  | some f => 1 + f.sub.toNat + 256 * f.code.toNat
def unpackFault (v : Nat) (addr : Nat) : Option Flt :=
  if v = 0 then none
  else some { code := BitVec.ofNat 6 ((v - 1) / 256), sub := BitVec.ofNat 8 (v - 1), addr := BitVec.ofNat 64 addr }
def accGood (a : Acc) : BitVec 16 := BitVec.ofNat 16 a.data2
def accFault (a : Acc) : Option Flt := unpackFault (a.data2 / 2 ^ 16 % 2 ^ 32) a.va
def accIndex (a : Acc) : Nat := a.data2 / 2 ^ 48
def answer (a : Acc) (good : BitVec 16) (f : Option Flt) : Acc :=
  { a with data2 := good.toNat + 2 ^ 16 * packFault f + 2 ^ 48 * accIndex a }

/-- Is a load of the L1 (a fetch of a whole line)? -/
def fetches (k : AccKind) : Bool := k == .ld || k == .ldn || k == .pref || k == .rload

/-- The access of the issuing instruction. -/
def State.newAcc (s : State) (h : Hdr) (kind : AccKind) (qual : Qual) (va n : Nat) (dst : Dst) (wc : BitVec 2)
    (data data2 : Nat) : Acc × State :=
  let (id, s) := s.newId
  let t := s.cur
  let c := s.ctx t
  ({ id := id, tid := t, bind := (s.slot t).bind, pc := c.pc, len := bytesOf h, kind := kind, qual := qual, va := va,
     pa := va, n := n, data := data, data2 := data2, dst := dst, wc := wc, issue := s.now, priv := c.priv,
     pasid := c.pasid, tenant := c.tenant }, s)

def dstOf (m : MemOps) : Dst := if m.vec then .v m.d else .g m.d
def Ctx.storeData (c : Ctx) (m : MemOps) : Nat :=
  if m.vec then (c.rv m.d).toNat else (c.rg m.d).toNat % 2 ^ (8 * accessBytes m)

/-! Local memory (R183, R184, R187). -/

/-- R183. -/
def localFault (c : Ctx) (exb : W64) (ea n : Nat) (store : Bool) : Option Flt :=
  let a := BitVec.ofNat 64 ea
  if 0x60000 < ea + n then some (protFault 0 a)
  else if ea < exb.toNat && !(store && (c.ovl || c.priv)) then some (protFault 1 a)
  else if 0x58000 < ea + n && !c.priv then some (protFault 2 a)
  else none

/-- R195: an error that n bytes of local memory would consume; a store consumes the units it covers in part. (Log entry 19: DEDUCED, unsafe.) -/
def State.localErr (s : State) (core a n : Nat) : Err := errIn s.localErrs (localErrBase core) a n
/-- Log entry 19: DEDUCED, unsafe. -/
def fixLocal (s : State) (core a n : Nat) : State :=
  let (e, k) := fixErrs s.localErrs (localErrBase core) a n
  if k = 0 then s else ({ s with localErrs := e }).count core 11 k

/-- Log entry 19: DEDUCED, unsafe. -/
def ueFault (a : Nat) (sub : BitVec 8 := 0) : Flt := { code := 9, sub := sub, addr := BitVec.ofNat 64 a }

def qualMatches (e : Sparse Bool) (q : Qual) (a n : Nat) : Bool :=
  match q with
  | .f | .fc => allFull e a n
  | .e => allEmpty e a n
  | _ => true

/-- R314: does a thread of the core wait on a granule of the access? -/
def Core.granuleWaited (c : Core) (a n : Nat) : Bool :=
  let ks := granules a n
  c.slots.any fun (_, x) => match x.st with
    | .waiting (.change keys) => keys.any ks.contains
    | _ => false

/-- R314: a plain write of an empty granule that a thread waits on is a hazard in debug mode. (Log entry 38: DEDUCED, unsafe.) -/
def State.localHazard (s : State) (t : Tid) (a n : Nat) : Bool :=
  let c := s.core t.core
  (s.regionOf t).dbg && (granules a n).any fun g => c.empty.get false g && c.granuleWaited (g * 16) 16

/-- A local store takes place: its bytes, and its place in the open containment entries. -/
def State.localCommit (s : State) (t : Tid) (a n data : Nat) : State :=
  ({ s.localWrite t.core a n data with localErrs := clearErrs s.localErrs (localErrBase t.core) a n }).countStore t

/-- R201: a pair's STL.e goes out: the data and the .e change at once. A granule that has filled meanwhile is awaited.
(Log entry 46: DEDUCED, unsafe.) -/
def State.localFill (s : State) (t : Tid) (a n data : Nat) : State :=
  if allEmpty (s.core t.core).empty a n then (s.setLocalFull t.core a n true).localCommit t a n data
  else s.actAt (s.now + 1) (.localFill t a n data)

/-- R197: the address, its alignment and the watchpoints of a data access. -/
def withAddress (m : MemOps) (kinds : Nat → Bool) (s : State) (k : W64 → Nat → Step1) : Step1 :=
  let ea := (s.ctx s.cur).ea m
  let n := accessBytes m
  if ea.toNat % n ≠ 0 then .fault (alignFault ea)
  else match s.watch kinds ea with
    | some f => .fault f
    | none => k ea n

def execLdl (h : Hdr) (m : MemOps) (s : State) :=
  issue h (memUses m true) (resv := m.qual == .fc) (fun ok s =>
    withAddress m isLoadKind s fun ea n =>
      let t := s.cur
      let c := s.ctx t
      let a := ea.toNat
      match localFault c (s.core t.core).exb a n false with
      | some f => .fault f
      | none =>
        if c.isTrail then s.take t fun v s => .next (s.modCtx t (·.wdst (dstOf m) v))
        else if c.isLead && s.lvqFull t then .wait (.change [pairKey t])
        else if !qualMatches (s.core t.core).empty m.qual a n then .wait (.change (granules a n))
        else if s.localErr t.core a n = .uncorrectable then .fault (ueFault a)
        else
          let slow := if (s.regionOf t).dbg && m.qual ≠ .none then 4 else 0
          let s := if m.qual = .fc then s.setLocalFull t.core a n false else s
          if !ok then .next (s.actAt (s.now + 3) (.fullRestore t.core a n true))
          else
            let s := fixLocal s t.core a n
            let v := s.localRead t.core a n
            let s := if slow = 0 then s.modCtx t (·.wdst (dstOf m) v) else s.actAt (s.now + slow) (.localLoad t (dstOf m) a n)
            let s := if m.qual = .none then s else s.actAt (s.now + 2 + slow) (.acquireL1 t none)
            .next (s.pass t v)) s

def execStl (h : Hdr) (m : MemOps) (s : State) :=
  issue h (memUses m false) (resv := m.qual == .e) (fun ok s =>
    withAddress m isStoreKind s fun ea n =>
      let t := s.cur
      let c := s.ctx t
      let a := ea.toNat
      let data := c.storeData m
      match localFault c (s.core t.core).exb a n true with
      | some f => .fault f
      | none =>
        if c.paired && s.cmpFull t then .wait (.change [pairKey t])
        else if n < 8 && s.localErr t.core a n = .uncorrectable then .fault (ueFault a)
        else if m.qual = .e && !c.isTrail then
          if !allEmpty (s.core t.core).empty a n then .wait (.change (granules a n))
          else if s.releaseHeld t then .hold 6
          else
            let slow := if (s.regionOf t).dbg then 4 else 0
            if c.paired then .next (if ok then s.emit t (3 + slow) [1, n, data] ea true (.localFill t a n data) else s)
            else
              let s := s.setLocalFull t.core a n true
              if !ok then .next (s.actAt (s.now + 3) (.fullRestore t.core a n false))
              else .next (s.emit t (3 + slow) [1, n, data] ea true (.localWrite t a n data))
        else if m.qual = .none && s.localHazard t a n then .fault (hazard 6 a)
        else .next (s.emit t (if m.qual = .e then 3 else 2) [1, n, data] ea true (.localWrite t a n data))) s

/-! The cluster store (R185, R187). -/

/-- Sets FULL bits of a cluster store; held requests are tried from the next cycle on. -/
def State.setStoreFull (s : State) (cl a n : Nat) (full : Bool) : State :=
  let s := s.modCluster cl fun c => { c with empty := setFull c.empty a n full }
  (granules a n).foldl (fun s g =>
    if (s.cluster cl).held.any fun x => (granules x.va x.n).contains g then
      s.sched (s.now + 1) Phase.again (.run (.clusterWaitPerform cl g))
    else s) s

def Cluster.busy (c : Cluster) (now a n : Nat) : Bool := (granules a n).any fun g => c.lastGran.get 0 g == now + 1

/-- R185, R208: must a request wait for its cycle? One to a granule that has served an access in this cycle does, and one
behind an earlier arrival that waits, for one of its granules or from its own core. -/
def Cluster.queues (c : Cluster) (now id : Nat) (core : Option Nat) (a n : Nat) : Bool :=
  c.busy now a n || (c.arrived.takeWhile fun x => x.1 != id).any fun x =>
    (core.isSome && x.2.1 == core) || (granules a n).any x.2.2.contains

/-- A request takes its place among the arrivals that wait. -/
def State.queueUp (s : State) (cl id : Nat) (core : Option Nat) (a n : Nat) : State :=
  s.modCluster cl fun c =>
    { c with arrived := if c.arrived.any (·.1 == id) then c.arrived else c.arrived ++ [(id, core, granules a n)] }

/-- A request has its cycle. -/
def State.unqueue (s : State) (cl id : Nat) : State :=
  if (s.cluster cl).arrived.isEmpty then s
  else s.modCluster cl fun c => { c with arrived := c.arrived.filter fun x => x.1 ≠ id }

/-- R185: an access serves its granules in this cycle. -/
def State.useGranules (s : State) (cl a n : Nat) : State :=
  s.modCluster cl fun c => { c with lastGran := (granules a n).foldl (fun m g => m.put 0 g (s.now + 1)) c.lastGran }

/-- A load's answer leaves for its core. (Log entry 58: DEDUCED, unsafe.) -/
def State.reply (s : State) (a : Acc) (time : Nat) : State :=
  let (d, s) := s.delay
  s.landAt (s.now + time + d) (if a.kind = .ldn then .ldnLanding a else .loadLanding a)

/-- An access is performed at its cluster store. -/
def State.storePerform (s : State) (cl : Nat) (a : Acc) : State :=
  let c := s.cluster cl
  let s := s.useGranules cl a.va a.n
  let bad := errIn s.storeErrs (storeErrBase cl) a.va a.n
  if a.kind = .stc then
    let s := s.dropOut a.tid.core a.id
    if bad = .uncorrectable ∧ a.n < 8 then s.deferFault a.tid a.bind (ueFault a.va)
    else
      let s := if (s.regionOf a.tid).dbg && a.qual = .none && !allFull c.empty a.va a.n
          && c.held.any (fun x => x.kind == .ldc && (granules x.va x.n).any (granules a.va a.n).contains)
        then s.deferFault a.tid a.bind (hazard 6 a.va) else s
      let s := if a.n < 8 then s.fixStore cl a.va a.n else s
      let s := { s with storeErrs := clearErrs s.storeErrs (storeErrBase cl) a.va a.n }
      let s := s.modCluster cl fun c => { c with mem := poke c.mem a.va a.n a.data }
      if a.qual = .e then s.setStoreFull cl a.va a.n true else s
  else if bad = .uncorrectable then s.reply (answer a 0 (some (ueFault a.va))) 24
  else
    let s := s.fixStore cl a.va a.n
    let s := if a.qual = .fc then s.setStoreFull cl a.va a.n false else s
    s.reply { a with data := peek c.mem a.va a.n } 24

/-- R185, R187: a request arrives: it waits for its granule's cycle in its place, is performed, or is held. -/
def execClusterStorePerform (a : Acc) (s : State) : Host.Outcome State Fault Refusal :=
  let cl := clusterOf a.tid.core
  let c := s.cluster cl
  .next <|
    if c.queues s.now a.id (some a.tid.core) a.va a.n then
      (s.queueUp cl a.id (some a.tid.core) a.va a.n).sched (s.now + 1) Phase.again (.run (.clusterStorePerform a))
    else if qualMatches c.empty a.qual a.va a.n then (s.unqueue cl a.id).storePerform cl a
    else (s.unqueue cl a.id).modCluster cl fun c => { c with held := c.held ++ [a] }

/-- R187: the first request held on a granule that now matches is performed. -/
def execClusterWaitPerform (cluster granule : Nat) (s : State) : Host.Outcome State Fault Refusal :=
  let c := s.cluster cluster
  let mine (x : Acc) : Bool := (granules x.va x.n).contains granule && qualMatches c.empty x.qual x.va x.n
  .next <| match c.held.find? mine with
    | none => s
    | some a =>
      let again (s : State) : State := s.sched (s.now + 1) Phase.again (.run (.clusterWaitPerform cluster granule))
      if c.busy s.now a.va a.n then again s
      else again ((s.modCluster cluster fun c => { c with held := c.held.filter fun x => x.id ≠ a.id }).storePerform cluster a)

/-- Log entry 19: DEDUCED, unsafe. -/
def storeFault (ea : W64) (n : Nat) : Option Flt := if 0x400000 < ea.toNat + n then some (protFault 0 ea) else none

def execLdc (h : Hdr) (m : MemOps) (s : State) :=
  issue h (memUses m true) (fun _ s =>
    withAddress m isLoadKind s fun ea n =>
      let t := s.cur
      let c := s.ctx t
      match storeFault ea n with
      | some f => .fault f
      | none =>
        if c.isTrail then s.take t fun v s => .next (s.modCtx t (·.wdst (dstOf m) v))
        else if c.isLead && s.lvqFull t then .wait (.change [pairKey t])
        else
          let slow := if (s.regionOf t).dbg && m.qual ≠ .none then 4 else 0
          let (a, s) := s.newAcc h .ldc m.qual ea.toNat n (dstOf m) 0 0 0
          .sent ((s.addOut t.core { id := a.id, slot := t.slot, kind := .load }).performAt (s.now + 24 + slow) t
            (.clusterStorePerform a)) a.id) s

def execStc (h : Hdr) (m : MemOps) (s : State) :=
  issue h (memUses m false) (fun _ s =>
    withAddress m isStoreKind s fun ea n =>
      let t := s.cur
      let c := s.ctx t
      match storeFault ea n with
      | some f => .fault f
      | none =>
        if c.paired && s.cmpFull t then .wait (.change [pairKey t])
        else if m.qual = .e && s.releaseHeld t then .hold 6
        else
          let data := c.storeData m
          let (a, s) := s.newAcc h .stc m.qual ea.toNat n .none 0 data 0
          .next (s.emit t 3 [2, n, data] ea true (.cstoreSend a))) s

/-- What stands for the line of an outstanding access to the cluster store, which names no physical line. -/
def storeLine : Nat := 2 ^ 61

/-- R198, R209: a cluster store leaves; it is outstanding until it is performed. -/
def State.cstoreSend (s : State) (a : Acc) (ahead : Nat := 3) : State :=
  let slow := if (s.regionOf a.tid).dbg && a.qual = .e then 4 else 0
  ((s.addOut a.tid.core { id := a.id, slot := a.tid.slot, kind := .store, line := storeLine }).countStore a.tid).performAt
    (s.now + 24 - ahead + slow) a.tid (.clusterStorePerform a)

/-! Virtual loads (R188, R197 to R200). -/

/-- A load that misses: its fetch leaves in cycle `base`. -/
def State.fetchLine (s : State) (a : Acc) (base : Nat) : State :=
  let s := if isDevice a.pa then s
    else (s.count a.tid.core 14).modCore a.tid.core fun c => { c with fills := c.fills ++ [⟨a.id, a.pa / 64, []⟩] }
  s.arriveAt (base + 60 + s.far a.tid.core a.pa) a.tid (.arrive a)

/-- A first-level miss (R317). (Log entry 36: DEDUCED, unsafe.) -/
def State.missTlb (s : State) (a : Acc) : State := (s.count a.tid.core 15).runAt (Max.max s.now (a.issue + 24)) (.pageWalk a)

def execLd (h : Hdr) (m : MemOps) (s : State) :=
  issue h (memUses m true) (fun _ s =>
    withAddress m isLoadKind s fun ea n =>
      let t := s.cur
      let c := s.ctx t
      if ea.toNat / 2 ^ 55 ≠ 0 then .fault { code := 7, sub := 2, addr := ea }
      else if c.isTrail then s.take t fun v s => .next (s.modCtx t (·.wdst (dstOf m) v))
      else if c.isLead && s.lvqFull t then .wait (.change [pairKey t])
      else
        let (a, s) := s.newAcc h .ld m.qual ea.toNat n (dstOf m) 0 0 0
        let out (line : Nat) (s : State) : State := s.addOut t.core { id := a.id, slot := t.slot, kind := .load, line := line }
        match findTlb (s.core t.core).tlb a.pasid a.va with
        | none => .sent (out (2 ^ 60) (s.missTlb a)) a.id
        | some e => match s.resolve a e with
          | .error f => .fault f
          | .ok pa =>
            match if isDevice pa then none else (s.core t.core).l1Load pa n with
            | some v =>
              if s.l1Err t.core pa n = .uncorrectable then .fault (ueFault a.va)
              else .next ((((s.fixL1 t.core pa n).modCore t.core (·.l1Touch (pa / 64))).modCtx t (·.wdst (dstOf m) v)).pass t v)
            | none => .sent (out (pa / 64) (s.fetchLine { a with pa := pa } s.now)) a.id) s

/-- R199: at the limit of its counter an LDN does not execute. -/
def execLdn (h : Hdr) (m : MemOps) (s : State) :=
  issue h (memUses m true) (fun _ s =>
    let t := s.cur
    let c := s.ctx t
    if c.rwc m.wc = 255 then .wait (.counter m.wc 254)
    else withAddress m isLoadKind s fun ea n =>
      if ea.toNat / 2 ^ 55 ≠ 0 then .fault { code := 7, sub := 2, addr := ea }
      else if c.isLead && s.lvqFull t then .wait (.change [pairKey t])
      else
        let idx := (s.slot t).ldns
        let (a, s) := s.newAcc h .ldn m.qual ea.toNat n (dstOf m) m.wc 0 (2 ^ 48 * idx)
        let s := if c.paired then s.modSlot t fun x => { x with ldns := idx + 1 } else s
        let s := s.addOut t.core { id := a.id, slot := t.slot, kind := .ldn, reg := dstLine (s.core t.core).part a.dst }
        .next (s.actAt (s.now + 3) (.ldnStart a))) s

/-- The end of an LDN: its bytes or its deferred fault, and its counter's fall. (Log entry 58: DEDUCED, unsafe.) -/
def State.ldnEnd (s : State) (a : Acc) (v : Except Flt Nat) : State :=
  let t := a.tid
  let s := s.dropOut t.core a.id
  let x := s.slot t
  if x.st = .empty ∨ x.bind ≠ a.bind then s
  else
    let s := match v with
      | .error f => s.deferFault t a.bind f
      | .ok v =>
        let s := s.landReg t a.dst v
        if !x.ctx.isLead then s
        else
          let p := partner t
          match (s.slot p).ldnWait.find? (fun (w : Nat × Dst × BitVec 2 × Nat) => w.1 == accIndex a) with
          | some (_, d, wc, id) => (((s.landReg p d v).dropOut p.core id).modSlot p fun y =>
              { y with ldnWait := y.ldnWait.filter (·.1 ≠ accIndex a) }).fallWc p wc
          | none => s.modSlot t fun y => { y with ldnVals := y.ldnVals ++ [(accIndex a, BitVec.ofNat 512 v)] }
    s.fallWc t a.wc

/-- R199, R200: a load that does not block has its translation. -/
def State.looseLoad (s : State) (a : Acc) (base : Nat) (e : Tlb) : State :=
  match s.resolve a e with
  | .error f => if a.kind = .pref then s else s.ldnEnd a (.error f)
  | .ok pa =>
    let a := { a with pa := pa }
    match if isDevice pa then none else (s.core a.tid.core).l1Load pa a.n with
    | some v =>
      let s := s.modCore a.tid.core (·.l1Touch (pa / 64))
      if a.kind = .pref then s
      else if s.l1Err a.tid.core pa a.n = .uncorrectable then s.ldnEnd a (.error (ueFault a.va))
      else (s.fixL1 a.tid.core pa a.n).ldnEnd a (.ok v)
    | none => if a.kind = .pref && isDevice pa then s else s.fetchLine a base

/-- R199: the request of an LDN leaves, and its counter rises. -/
def State.ldnStart (s : State) (a : Acc) : State :=
  let t := a.tid
  let s := s.riseWc t a.wc
  if (s.ctx t).isTrail then
    let l := leadOf t
    match (s.slot l).ldnVals.find? (·.1 == accIndex a) with
    | some (_, v) =>
      ((((s.dropOut t.core a.id).modSlot l fun x => { x with ldnVals := x.ldnVals.filter (·.1 ≠ accIndex a) }).landReg t
        a.dst v.toNat).fallWc t a.wc).wakeKeys t.core [pairKey t]
    | none => s.modSlot t fun x => { x with ldnWait := x.ldnWait ++ [(accIndex a, a.dst, a.wc, a.id)] }
  else match findTlb (s.core t.core).tlb a.pasid a.va with
    | none => s.missTlb a
    | some e => s.looseLoad a a.issue e

def execPref (h : Hdr) (m : MemOps) (s : State) :=
  issue h [rG m.a, rG m.b] (fun _ s =>
    let t := s.cur
    let ea := (s.ctx t).ea m
    if ea.toNat % 8 ≠ 0 ∨ ea.toNat / 2 ^ 55 ≠ 0 ∨ (s.ctx t).isTrail then .next s
    else
      let (a, s) := s.newAcc h .pref m.qual ea.toNat 8 .none 0 0 0
      match findTlb (s.core t.core).tlb a.pasid a.va with
      | none => .next (s.missTlb a)
      | some e => .next (s.looseLoad a s.now e)) s

/-! Virtual stores (R188, R190, R198, R209). -/

/-- A store whose checks have passed commits at c + 3. -/
def State.storeGo (s : State) (a : Acc) : State :=
  s.emit a.tid 3 [3, a.n, a.data] (BitVec.ofNat 64 a.va) true (.l1Store a)

def execSt (h : Hdr) (m : MemOps) (s : State) :=
  issue h (memUses m false) (fun _ s =>
    withAddress m isStoreKind s fun ea n =>
      let t := s.cur
      let c := s.ctx t
      if ea.toNat / 2 ^ 55 ≠ 0 then .fault { code := 7, sub := 2, addr := ea }
      else if c.paired && s.cmpFull t then .wait (.change [pairKey t])
      else
        let (a, s) := s.newAcc h .st m.qual ea.toNat n .none 0 (c.storeData m) 0
        match findTlb (s.core t.core).tlb a.pasid a.va with
        | none => .sent (s.missTlb a) a.id
        | some e => match s.resolve a e with
          | .error f => .fault f
          | .ok pa => .next (s.storeGo { a with pa := pa })) s

/-- R188, R198: a store commits to the L1 and leaves for its home slice. -/
def State.l1Store (s : State) (a : Acc) (ahead : Nat := 3) : State :=
  let t := a.tid
  let held := (s.core t.core).l1.any (·.tag == a.pa / 64) || (s.core t.core).fills.any (·.line == a.pa / 64)
  let s := if isDevice a.pa then s
    else
      let s := if a.n < 8 then s.fixL1 t.core a.pa a.n else s
      { s.modCore t.core (·.l1Store t.slot a.pa a.n a.data) with l1Errs := clearErrs s.l1Errs (l1ErrBase t.core) a.pa a.n }
  let s := s.addOut t.core { id := a.id, slot := t.slot, kind := .store, line := a.pa / 64, shared := held }
  ((s.countStore t).digest t a.id a.va a.pa a.n a.data).performAt (s.now + 60 - ahead + s.far t.core a.pa) t (.storeRegistration a)

/-- R209, R407: the acknowledgement of a store or AACC leaves, with the fault it met. -/
def State.ack (s : State) (a : Acc) (after : Nat) (f : Option Flt) : State :=
  let (d, s) := s.delay
  let due := Max.max (s.now + 60 + s.far a.tid.core a.pa) after + d
  if a.kind = .walk true then s.sched due Phase.land (.act (.engine (clusterOf a.tid.core) (accIndex a) (.ack a.len f)))
  else
  let s := match f with
    | none => s
    | some f => s.sched due Phase.land (.act (.deferFault a.tid a.bind f))
  s.landAt due (.storeAck a.tid.core a.id)

/-- R195: an error found in a dirty line is handled by its owner tag (R357). -/
def State.dirtyUe (s : State) (team : BitVec 16) (pa : Nat) : State :=
  match s.slineAt team pa with
  | some l => if l.dirty && s.freshErr (pa / 64 * 64) 64 then s.actAt s.now (.dirtyLineUe (s.lineKey team pa)) else s
  | none => s

/-- R357: would the write-back of a dirty line meet an uncorrectable error? (log entry 19: DEDUCED, unsafe.) -/
def State.badWriteBack (s : State) (team : BitVec 16) (pa : Nat) (p : SLine → Bool) : Bool :=
  match s.slineAt team pa with
  | some l => l.dirty && p l && s.freshErr (pa / 64 * 64) 64
  | none => false

/-- R357: does a store merge its bytes into a bad unit of a dirty line? It finds the error, and consumes no byte. (log entry 19: DEDUCED, unsafe.) -/
def State.badMerge (s : State) (team : BitVec 16) (pa n : Nat) : Bool :=
  match s.slineAt team pa with
  | some l => l.dirty && (partialUnits pa n).any fun u => s.freshErr u 8
  | none => false

/-- R190: a store registers at its home slice. It raises no fault there but UE (1) (R407): where it covers a bad unit in
part, the unit stays bad. (Log entry 18: DEDUCED, unsafe.) (log entry 19: DEDUCED, unsafe.) -/
def execStoreRegistration (a : Acc) (s : State) : Host.Outcome State Fault Refusal :=
  let t := a.tid
  let team := s.teamNo t
  let s := if a.kind = .walk true then s.modCore t.core (·.l1Clear t.slot a.pa a.n) else s
  .next <|
    if isDevice a.pa then (s.devWrite false a.pa (BitVec.ofNat 64 a.data)).ack a 0 none
    else if (s.cluster (s.home a.pa)).heldPages.contains (a.pa / 65536) then
      s.modCluster (s.home a.pa) fun c => { c with pageWait := c.pageWait ++ [a] }
    else if s.isRetired a.pa then s.ack a 0 (some (ueFault a.va 1))
    else if (s.badWriteBack team a.pa fun l => !l.ownedBy s.pkg.pkgid t a.bind) || s.badMerge team a.pa a.n then
      (s.dirtyUe team a.pa).sched s.now (Phase.perform t) (.run (.storeRegistration a))
    else
      let s := s.mergeCorrect a.pa a.n
      let s := { s with errs := clearErrs s.errs 0 (s.mapped a.pa) a.n }
      let (s, due) := (s.physWrite team a.pa a.n a.data).registerSline team a.pa a.n s.pkg.pkgid t a.bind
      s.ack a due none

/-- R209: a store or AACC is acknowledged. -/
def execStoreAck (core id : Nat) (s : State) : Host.Outcome State Fault Refusal := .next (s.dropOut core id)

/-! Performs at a home slice (R190, R204, R406). -/

/-- R188, R195: a load reads its line at its home slice. -/
def State.loadPerform (s : State) (a : Acc) : State :=
  let team := s.teamNo a.tid
  let far := s.far a.tid.core a.pa
  let line := a.pa / 64 * 64
  if s.isRetired a.pa then s.reply (answer a 0 (some (ueFault a.va 1))) (60 + far)
  else if s.errAt a.pa a.n = .uncorrectable then
    (s.dirtyUe team a.pa).reply (answer a 0 (some (ueFault a.va))) (60 + far)
  else
    let s := if s.badWriteBack team a.pa (fun _ => true) then s.dirtyUe team a.pa else s
    let s := (s.fillSline team a.pa).correct a.pa a.n
    let good := wordMask fun w => s.errAt (line + 4 * w) 4 ≠ .uncorrectable
    s.reply (answer { a with data := s.loadBytes team line 64 } good none) (60 + far)

/-- R203 to R206: the new value of an atomic on n bytes, its operands a.data and a.data2. -/
def atomNew (k : AccKind) (n old b c : Nat) : Nat :=
  let w := 8 * n
  match k with
  | .atom .add _ _ _ | .aacc => (old + b) % 2 ^ w
  | .atom .and _ _ _ => old &&& b
  | .atom .or _ _ _ => old ||| b
  | .atom .xor _ _ _ => old ^^^ b
  | .atom .min uns _ _ =>
    if uns then Min.min old b else if Num.signed b w < Num.signed old w then b else old
  | .atom .max uns _ _ =>
    if uns then Max.max old b else if Num.signed old w < Num.signed b w then b else old
  | .atom .swp _ _ _ => b
  | .atom .cas _ _ _ => if old = b then c else old
  | .atom .fadd _ ty rnd => Num.roundArith ty rnd false (Num.add rnd (Num.value ty old) (Num.value ty b))
  | .atom .fmin _ ty _ => Num.fminmax false ty old b
  | .atom .fmax _ ty _ => Num.fminmax true ty old b
  | _ => old

/-- R220: the record of an AACC has its sum, whether its thread runs or has ended. (Log entry 48: DEDUCED, unsafe.) -/
def State.digestSum (s : State) (t : Tid) (team : BitVec 16) (id new : Nat) : State :=
  let fix (l : List (Nat × List Nat)) : List (Nat × List Nat) := l.map fun d => if d.1 = id then
    (d.1, d.2.take 9 ++ (List.range 16).map fun j => new / 2 ^ (8 * j) % 256) else d
  let s := s.modSlot t fun x => { x with digest := fix x.digest }
  match s.team team with
  | some x => if x.digests.isEmpty then s
      else s.setTeam team.toNat (some { x with digests := x.digests.map fun d => (d.1, fix d.2) })
  | none => s

/-- Log entry 18: DEDUCED, unsafe. -/
def execAtomicPerform (a : Acc) (s : State) : Host.Outcome State Fault Refusal :=
  let t := a.tid
  let team := s.teamNo t
  let far := s.far t.core a.pa
  let unit := a.pa / 8 * 8
  let size := if a.n = 16 then 16 else 8
  let bad (s : State) (f : Flt) : State :=
    if a.kind = .aacc then s.ack a 0 (some f) else s.reply (answer a 0 (some f)) (60 + far)
  .next <|
    if s.isRetired a.pa then bad s (ueFault a.va 1)
    else if s.errAt unit size = .uncorrectable then bad (s.dirtyUe team a.pa) (ueFault a.va)
    else if s.badWriteBack team a.pa (fun _ => true) then (s.dirtyUe team a.pa).arriveAt s.now t (.arrive a)
    else
      let (s, due) := (s.correct unit size).cleanSline team a.pa
      let old := s.physRead team a.pa a.n
      let new := atomNew a.kind a.n old a.data a.data2
      let s := s.physWrite team a.pa a.n new
      if a.kind = .aacc then (s.digestSum t team a.id new).ack a due none
      else (s.digest t a.id a.va a.pa a.n new).reply (answer { a with data := old } 0 none) (60 + far)

/-- R351: the local bytes that the aperture shows at an address. (Log entry 18: DEDUCED, unsafe.) -/
def State.aperture (s : State) (pa : Nat) : Option (Nat × Nat) :=
  match devPlace (pa / 8 * 8) with
  | .window core off =>
    let n := (s.core core).lwin.toNat
    if 0x8000 ≤ off ∧ n ≤ 11 then some (core, 0x8000 * n + (off - 0x8000)) else none
  | _ => none

/-- R406: an access reaches its home. -/
def State.arrive (s : State) (a : Acc) : State :=
  if isDevice a.pa then
    let far := s.far a.tid.core a.pa
    let s := s.wakeWindow a.pa
    let s := match s.aperture a.pa with
      | some (core, addr) => fixLocal s core addr 8
      | none => s
    let bad : Bool := match s.aperture a.pa with
      | some (core, addr) => s.localErr core addr 8 == .uncorrectable
      | none => false
    s.reply (if bad then answer a 0 (some (ueFault a.va)) else answer { a with data := (s.devRead a.pa).toNat } 0 none) (60 + far)
  else if (s.cluster (s.home a.pa)).heldPages.contains (a.pa / 65536) then
    s.modCluster (s.home a.pa) fun c => { c with pageWait := c.pageWait ++ [a] }
  else
    let held := (s.slineAt (s.teamNo a.tid) a.pa).isSome
    if a.kind = .aacc || (held && !fetches a.kind) then s.sched s.now (Phase.perform a.tid) (.run (.atomicPerform a))
    else if held then s.loadPerform a
    else s.performAt (s.now + s.fillTime a.pa) a.tid (.sliceLineFill a)

/-- R189, R406: the line that an access missed has arrived from memory, and the access is performed. -/
def execSliceLineFill (a : Acc) (s : State) : Host.Outcome State Fault Refusal :=
  let s := s.fillSline (s.teamNo a.tid) a.pa
  if fetches a.kind then .next (s.loadPerform a) else execAtomicPerform a s

/-! Landings (R169, R188, R199). -/

/-- R188: a fetched line enters the L1, with a valid code; not where the L1 awaits it no more, since its team's cores
have been freed (R219). (Log entry 9: DESIGN CHOICE, unsafe.) -/
def State.enterLine (s : State) (a : Acc) : State :=
  let c := s.core a.tid.core
  match c.fills.find? (·.id == a.id) with
  | none => s
  | some f =>
    let c := { c with fills := c.fills.filter fun f => f.id ≠ a.id }
    if (accFault a).isSome then s.setCore a.tid.core c
    else match c.l1Room (a.pa / 64) with
      | none => s.setCore a.tid.core c
      | some c =>
        { s.setCore a.tid.core (c.l1Fill s.now (a.pa / 64) (BitVec.ofNat 512 a.data) (accGood a) f.bytes) with
          l1Errs := clearErrs s.l1Errs (l1ErrBase a.tid.core) (a.pa / 64 * 64) 64 }

/-- R188: a fill waits while every line of its set is named by an outstanding access. -/
def State.noRoom (s : State) (a : Acc) : Bool :=
  let c := s.core a.tid.core
  fetches a.kind && !(accFault a).isSome && !isDevice a.pa
    && ({ c with fills := c.fills.filter fun f => f.id ≠ a.id, outs := c.outs.filter fun o => o.id ≠ a.id }.l1Room (a.pa / 64)).isNone

/-- The bytes that an access's landing writes: those that stood at its home, and what other slots of the core have
stored since its request left (R218); a later store of its own thread is no part of it (R213). (Log entry 18: DEDUCED, unsafe.) -/
def State.landed (s : State) (a : Acc) : Nat :=
  if fetches a.kind && !isDevice a.pa then
    match (s.core a.tid.core).fills.find? (·.id == a.id) with
    | some f =>
      let line := f.bytes.foldr (fun x d => match x.2.2 with
        | some b => if x.2.1 = a.tid.slot then d else setBytes d x.1 1 b.toNat
        | none => d) (BitVec.ofNat 512 a.data)
      getBytes line (a.pa % 64) a.n
    | none => getBytes (BitVec.ofNat 512 a.data) (a.pa % 64) a.n
  else a.data % 2 ^ (8 * a.n)

/-- R169: a landing whose check fails is repeated in the next cycle. -/
def State.repeatLanding (s : State) (core : Nat) (i : Instr) : State :=
  (s.postAt s.now (.landRepeat core)).landAt (s.now + 1) i

def execLoadLanding (a : Acc) (s : State) : Host.Outcome State Fault Refusal :=
  let t := a.tid
  let (bad, s) := s.stepCheck
  .next <|
    if bad then s.repeatLanding t.core (.loadLanding a)
    else if s.noRoom a then s.landAt (s.now + 1) (.loadLanding a)
    else
      let v := s.landed a
      let s := s.dropOut t.core a.id
      let s := if fetches a.kind then s.enterLine a else s
      let x := s.slot t
      if a.kind = .rload then s.actAt s.now (.bankData { a with data := v })
      else if a.kind = .pref || x.st = .empty || x.bind ≠ a.bind then s
      else match (accFault a) with
        | some f => s.raise t f
        | none =>
          let s := (s.landReg t a.dst v).pass t v
          let s := if a.kind = .ldc && a.qual ≠ .none then s.acquire t none else s
          s.land t a.pc a.len

def execLdnLanding (a : Acc) (s : State) : Host.Outcome State Fault Refusal :=
  let t := a.tid
  let (bad, s) := s.stepCheck
  .next <|
    if bad then s.repeatLanding t.core (.ldnLanding a)
    else if s.noRoom a then s.landAt (s.now + 1) (.ldnLanding a)
    else
      let v := s.landed a
      (s.enterLine a).ldnEnd a (match (accFault a) with
        | some f => .error f
        | none => .ok v)

/-! Atomics (R203 to R206). -/

/-- An atomic whose checks have passed: its request leaves at c + 3. -/
def State.atomGo (s : State) (a : Acc) : State :=
  let s := if (s.ctx a.tid).paired then s
    else s.addOut a.tid.core { id := a.id, slot := a.tid.slot, kind := .atomic, line := a.pa / 64 }
  s.emit a.tid 3 [4, a.n, a.data, a.data2] (BitVec.ofNat 64 a.va) (a.kind == .aacc) (.atomSend a)

/-- R188, R204, R205: the request leaves the core. -/
def State.atomSend (s : State) (a : Acc) : State :=
  let t := a.tid
  let s := s.modCore t.core (·.l1Clear t.slot a.pa a.n)
  let s := s.addOut t.core { id := a.id, slot := t.slot, kind := .atomic, line := a.pa / 64 }
  let s := if a.kind = .aacc then s.digest t a.id a.va a.pa 16 0 else s
  s.arriveAt (s.now + 57 + s.far t.core a.pa) t (.arrive a)

/-- R204: the issue of an atomic on n bytes; `dst` is none for AACC, which does not wait. -/
def atomicIssue (h : Hdr) (uses : List Use) (kind : AccKind) (a : Reg) (n : Nat) (dst : Dst) (data data2 : Ctx → Nat)
    (s : State) : Host.Outcome State Fault Refusal :=
  issue h (rG a :: uses) (fun _ s =>
    let t := s.cur
    let c := s.ctx t
    let ea := c.rg a
    if ea.toNat % n ≠ 0 then .fault (alignFault ea)
    else match s.watch (if kind = .aacc then isStoreKind else isAnyKind) ea with
      | some f => .fault f
      | none =>
        if ea.toNat / 2 ^ 55 ≠ 0 then .fault { code := 7, sub := 2, addr := ea }
        else if c.isTrail && (s.slot t).presented then
          s.take t fun v s => .next ((s.modCtx t (·.wdst dst v)).modSlot t fun x => { x with presented := false })
        else if (c.paired && s.cmpFull t) || (c.isLead && s.lvqFull t) then .wait (.change [pairKey t])
        else
          let (a, s) := s.newAcc h kind .none ea.toNat n dst 0 (data c) (data2 c)
          if c.isTrail && kind ≠ .aacc then
            .gone (((s.atomGo a).modSlot t fun x => { x with presented := true }).setSt t (.waiting (.change [pairKey t])))
          else match findTlb (s.core t.core).tlb a.pasid a.va with
            | none => .sent (s.missTlb a) a.id
            | some e => match s.resolve a e with
              | .error f => .fault f
              | .ok pa =>
                let a := { a with pa := pa }
                if kind = .aacc then .next (s.atomGo a) else .sent (s.atomGo a) a.id) s

def intAtom (h : Hdr) (o : AtomOps) (k : AtomKind) (s : State) : Host.Outcome State Fault Refusal :=
  let n := if o.dw then 8 else 4
  atomicIssue h (wG o.d :: rG o.c :: rS o.b) (.atom k o.uns .i32 .rne) o.a n (.g o.d)
    (fun c => (c.rs o.b).toNat % 2 ^ (8 * n)) (fun c => (c.rg o.c).toNat % 2 ^ (8 * n)) s

def execAadd (h : Hdr) (o : AtomOps) (s : State) := intAtom h o .add s
def execAand (h : Hdr) (o : AtomOps) (s : State) := intAtom h o .and s
def execAor (h : Hdr) (o : AtomOps) (s : State) := intAtom h o .or s
def execAxor (h : Hdr) (o : AtomOps) (s : State) := intAtom h o .xor s
def execAmin (h : Hdr) (o : AtomOps) (s : State) := intAtom h o .min s
def execAmax (h : Hdr) (o : AtomOps) (s : State) := intAtom h o .max s
def execAswp (h : Hdr) (o : AtomOps) (s : State) := intAtom h o .swp s
def execAcas (h : Hdr) (o : AtomOps) (s : State) := intAtom h o .cas s

def floatAtom (h : Hdr) (o : FAtomOps) (k : AtomKind) (s : State) : Host.Outcome State Fault Refusal :=
  let n := Num.bits o.ty / 8
  atomicIssue h (wG o.d :: rS o.b) (.atom k false o.ty o.rnd) o.a n (.g o.d)
    (fun c => (c.rs o.b).toNat % 2 ^ (8 * n)) (fun _ => 0) s

def execAfadd (h : Hdr) (o : FAtomOps) (s : State) := floatAtom h o .fadd s
def execAfmin (h : Hdr) (o : FAtomOps) (s : State) := floatAtom h o .fmin s
def execAfmax (h : Hdr) (o : FAtomOps) (s : State) := floatAtom h o .fmax s

/-- R205: the addend, as a 128-bit number. -/
def aaccAddend (ty : Fmt) (rnd : Rnd) (b : Nat) : Nat :=
  Num.wrap (Num.toX128 rnd (Num.value ty (b % 2 ^ Num.bits ty))) 128

def execAacc (h : Hdr) (o : FAtomOps) (s : State) :=
  atomicIssue h (rS o.b) .aacc o.a 16 .none (fun c => aaccAddend o.ty o.rnd (c.rs o.b).toNat) (fun _ => 0) s

/-- R317: a request has its translation, or the fault of it. -/
def State.translated (s : State) (a : Acc) (f : Option Flt) : State :=
  let t := a.tid
  let x := s.slot t
  if a.kind = .walk true ∨ a.kind = .walk false then s.actAt s.now (.engine (clusterOf t.core) (accIndex a) (.translated f))
  else if x.st = .empty ∨ x.bind ≠ a.bind then s.dropOut t.core a.id
  else if a.kind = .rload ∨ a.kind = .rstore then s.actAt s.now (.resumeBank t.core (accIndex a) f)
  else match f with
    | some f =>
      if a.kind = .pref then s
      else if a.kind = .ldn then s.ldnEnd a (.error f)
      else (s.dropOut t.core a.id).raise t f
    | none => match findTlb (s.core t.core).tlb a.pasid a.va with
      | none => s.missTlb { a with issue := s.now }
      | some e =>
        let a := { a with issue := s.now }
        if a.kind = .ldn || a.kind = .pref then s.looseLoad a s.now e
        else match s.resolve a e with
          | .error f => (s.dropOut t.core a.id).raise t f
          | .ok pa =>
            let a := { a with pa := pa }
            match a.kind with
            | .ld =>
              match if isDevice pa then none else (s.core t.core).l1Load pa a.n with
              | some v =>
                let s := s.dropOut t.core a.id
                if s.l1Err t.core pa a.n = .uncorrectable then s.raise t (ueFault a.va)
                else (((s.fixL1 t.core pa a.n).landReg t a.dst v).pass t v).land t a.pc a.len
              | none =>
                (s.addOut t.core { id := a.id, slot := t.slot, kind := .load, line := pa / 64 }).fetchLine a s.now
            | .st => (s.storeGo a).land t a.pc a.len
            | .aacc => (s.atomGo a).land t a.pc a.len
            | _ => s.atomGo a

/-! Ordering (R216, R217). -/

/-- R214, R195: the read of a carry descriptor corrects what it consumes, as an LDL of 64 bytes does. -/
def State.fixCarry (s : State) (t : Tid) (a : W64) : State := if a = 0 then s else fixLocal s t.core a.toNat 64

/-- R214: the checks of a carry descriptor's address at issue, and the descriptor. -/
def State.carry (s : State) (t : Tid) (a : W64) : Except Flt (Option (BitVec 512)) :=
  if a = 0 then .ok none
  else if a.toNat % 64 ≠ 0 then .error (alignFault a)
  else match localFault (s.ctx t) (s.core t.core).exb a.toNat 64 false with
    | some f => .error f
    | none =>
      if s.localErr t.core a.toNat 64 = .uncorrectable then .error (ueFault a.toNat)
      else .ok (some (BitVec.ofNat 512 (s.localRead t.core a.toNat 64)))

/-- An acquire at c + 3; a pair's is made by its leading thread. -/
def State.acquireLater (s : State) (t : Tid) (d : Option (BitVec 512)) : State :=
  if (s.ctx t).isTrail then s else s.actAt (s.now + 3) (.acquireL1 t d)

def execAcq (h : Hdr) (s : State) := issue h [] (fun _ s => .next (s.acquireLater s.cur none)) s
def execAcqC (h : Hdr) (a : Reg) (s : State) :=
  issue h [rG a] (fun _ s =>
    let addr := (s.ctx s.cur).rg a
    match s.carry s.cur addr with
    | .error f => .fault f
    | .ok d => .next ((s.fixCarry s.cur addr).acquireLater s.cur d)) s
def execRel (h : Hdr) (s : State) :=
  issue h [] (fun _ s => if s.releaseHeld s.cur then .hold 6 else .next s) s
def execFence (h : Hdr) (s : State) :=
  issue h [] (fun _ s => if s.releaseHeld s.cur then .hold 6 else .next (s.acquireLater s.cur none)) s
def execFenceQ (h : Hdr) (mask : BitVec 8) (s : State) :=
  issue h [] (fun _ s =>
    if (s.ctx s.cur).isTrail then .next s else .next (s.actAt (s.now + 3) (.join s.cur.core mask))) s

end Sys2Proof.Machine
end

