-- ==== Sys2Proof/Machine/Accept.lean ====
section
/-!
DEFINITION. Which field values each instruction accepts (R57 and the descriptions): the checks that WellFormed states
and that the decoder makes. A word that fails one raises ILLEGAL. Steps of the machine that have no word accept any
operands.
-/

namespace Sys2Proof.Accept

def l64 (h : Hdr) : Bool := h.len == .w64
def l128 (h : Hdr) : Bool := h.len == .w128
def l64or96 (h : Hdr) : Bool := h.len != .w128
def l64or128 (h : Hdr) : Bool := h.len != .w96

/-- R55, R63: the wait field is at most 5, and guard 15 with neg 1 is the filler. -/
def hdr (h : Hdr) : Bool := decide (h.wait.toNat ≤ 5) && !(h.guard == 15#4 && h.neg)

/-- R58: the immediate is one that the length can hold. -/
def src (h : Hdr) : Src → Bool
  | .reg _ => true
  | .imm v => match h.len with
    | .w64 => v == (v.truncate 12).signExtend 64
    | .w96 => v == (v.truncate 32).signExtend 64
    | .w128 => true

def isReg : Src → Bool
  | .reg _ => true
  | .imm _ => false

def isImm (s : Src) : Bool := !isReg s

/-- R58: the C and E fields are absent in the 64-bit form with an immediate. -/
def hasCE (h : Hdr) (s : Src) : Bool := isReg s || h.len != .w64

/-- R91: E is present exactly where the form has it, and D = E names only k15. -/
def dest2 (h : Hdr) (s : Src) (d : KReg) : Option KReg → Bool
  | none => !hasCE h s
  | some e => hasCE h s && (d != e || d == 15#4)

/-- R110: the integer and floating types, and those of data movement (R117) and of VCVT (R115). -/
def intTy (t : Fmt) : Bool := t == .i8 || t == .n8 || t == .i16 || t == .i32 || t == .n32
def floatTy (t : Fmt) : Bool := t == .f32 || t == .f16 || t == .bf16
def signedTy (t : Fmt) : Bool := t == .i8 || t == .i16 || t == .i32
def moveTy (t : Fmt) : Bool := intTy t || floatTy t || t == .e4m3 || t == .e5m2
def cvtTy (t : Fmt) : Bool := t != .n16 && t != .q16

/-- A vector instruction of two or three operands: lengths, types, and which of rnd, sat, b and c it uses. -/
def vec (h : Hdr) (o : VOps) (ty useRnd useSat unary useC : Bool) : Bool :=
  hdr h && l64or96 h && src h o.b && ty && (useRnd || o.rnd == .rne) && (useSat || !o.sat)
    && (!unary || o.b == .reg 0) && (if useC then hasCE h o.b else o.c == 0)

def vint (h : Hdr) (o : VOps) (ty : Bool) : Bool := vec h o ty false false false false

/-- R110: rnd and sat are used by the floating types only. -/
def varith (h : Hdr) (o : VOps) (useC : Bool) : Bool :=
  vec h o (intTy o.ty || floatTy o.ty) (floatTy o.ty) (floatTy o.ty) false useC

/-- R196: the mem format. -/
def mem (h : Hdr) (m : MemOps) (quals : Qual → Bool) (useWc : Bool) : Bool :=
  hdr h && l64or96 h && quals m.qual && (!m.vec || m.size == 3#2) && (useWc || m.wc == 0)
    && (m.x || (m.b == 0 && m.sh == 0))
    && (h.len == .w96 || m.disp == (m.disp.truncate 15).signExtend 32)

def qualLoad (q : Qual) : Bool := q == .none || q == .f || q == .fc
def qualStore (q : Qual) : Bool := q == .none || q == .e
def qualVirt (q : Qual) : Bool := q == .none || q == .k

/-- R203: an integer atomic. -/
def atomic (h : Hdr) (o : AtomOps) (useUns useC : Bool) : Bool :=
  hdr h && l64or96 h && src h o.b && (useUns || !o.uns) && (if useC then hasCE h o.b else o.c == 0)

/-- R205, R206. -/
def fatomic (h : Hdr) (o : FAtomOps) (ty useRnd useD : Bool) : Bool :=
  hdr h && l64or96 h && src h o.b && ty && (useRnd || o.rnd == .rne) && (useD || o.d == 0)

def aaccTy (t : Fmt) : Bool := floatTy t || t == .i32

/-- R235: fields of a tile-walk command: FE where the form accepts it, a batten or a near base. -/
def tw (h : Hdr) (o : TwOps) (useFe useBat : Bool) : Bool :=
  hdr h && l128 h && (useFe || !o.fe) && (if useBat then o.b == 0 else o.bat == 0)

/-- R141. -/
def raf (h : Hdr) (o : RafOps) (tile : Bool) : Bool :=
  hdr h && l64or96 h && o.ua != o.ub
    && (if tile then o.d0 == 0 && (h.len == .w96 || decide (o.cnt.toNat < 64))
        else o.rows == 0 && decide (o.cnt.toNat < 64)
          && (h.len == .w96 || o.d0 == (o.d0 >>> 4) <<< 4))

/-- R143: the destination formats of REXT and REXTM. -/
def rextFmt (t : Fmt) : Bool := t != .n16 && t != .q16

/-- R136: the element formats of VPACK. -/
def vpackFmt (t : Fmt) : Bool :=
  t == .i8 || t == .n8 || t == .i16 || t == .e4m3 || t == .e5m2 || t == .e3m2 || t == .e2m3 || t == .e2m1 || t == .q16

/-- R155: the registers that MTS writes. -/
def mtsReg (r : SysReg) : Bool :=
  match r with
  | .region | .pasid | .supv | .cdepth | .part | .pd | .ident | .menv => false
  | _ => true

/-- R95, R326: the lengths and operands of the small forms. -/
def ok : Instr → Bool
  | .add h _ _ b | .sub h _ _ b | .mul h _ _ b | .mulh h _ _ b | .mulhn h _ _ b | .div h _ _ b | .divn h _ _ b
  | .rem h _ _ b | .remn h _ _ b | .and h _ _ b | .or h _ _ b | .xor h _ _ b | .andn h _ _ b | .orn h _ _ b
  | .shl h _ _ b | .shr h _ _ b | .shra h _ _ b | .rotr h _ _ b | .min h _ _ b | .minn h _ _ b | .max h _ _ b
  | .maxn h _ _ b | .adds h _ _ b | .subs h _ _ b => hdr h && src h b
  | .clz h _ _ | .ctz h _ _ | .popc h _ _ | .brev h _ _ => hdr h && l64or96 h
  | .bext h _ _ _ b | .bins h _ _ b => hdr h && l64or96 h && src h b
  | .sext h _ _ _ | .zext h _ _ _ => hdr h && l64 h
  | .cmp h _ d e _ b => hdr h && src h b && dest2 h b d e
  | .cmpf h _ ty d e _ b => hdr h && src h b && dest2 h b d e && floatTy ty
  | .tst h _ d e _ b => hdr h && src h b && dest2 h b d e
  | .pand h _ _ _ | .por h _ _ _ | .pxor h _ _ _ | .pandn h _ _ _ | .pnot h _ _ => hdr h && l64 h
  | .pmov h _ => hdr h
  | .pset h _ v => hdr h && src h (.imm v)
  | .sel h _ _ _ b => hdr h && src h b && hasCE h b
  | .pcnt h _ _ _ _ => hdr h
  | .br h _ | .call h _ _ | .loop h _ _ | .brq h _ _ => hdr h && l64 h
  | .jmp h _ v | .callr h _ _ v => hdr h && l64 h && (match v with
      | none => true
      | some v => src h (.imm v))
  | .ret h _ => hdr h && l64 h
  | .nop h => hdr h
  | .filler _ => true
  | .ldl h m | .ldc h m => mem h m qualLoad false
  | .stl h m | .stc h m => mem h m qualStore false
  | .ld h m => mem h m qualVirt false
  | .ldn h m => mem h m qualVirt true
  | .st h m => mem h m (· == .none) false
  | .pref h m => mem h m qualVirt false && m.d == 0 && m.size == 3#2 && !m.vec
  | .aadd h o | .aand h o | .aor h o | .axor h o | .aswp h o => atomic h o false false
  | .amin h o | .amax h o => atomic h o true false
  | .acas h o => atomic h o false true
  | .aacc h o => fatomic h o (aaccTy o.ty) (floatTy o.ty) false
  | .afadd h o => fatomic h o (floatTy o.ty) true true
  | .afmin h o | .afmax h o => fatomic h o (floatTy o.ty) false true
  | .acq h | .acqC h _ | .rel h | .fence h => hdr h && l64 h
  | .fenceQ h m => hdr h && l64 h && m != 0
  | .vadd h o | .vsub h o | .vmul h o => varith h o false
  | .vfma h o | .vfms h o | .vfnma h o => varith h o true
  | .vdiv h o => vec h o (floatTy o.ty) true true false false
  | .vsqrt h o => vec h o (floatTy o.ty) true true true false
  | .vmin h o | .vmax h o => vint h o (intTy o.ty || floatTy o.ty)
  | .vabs h o | .vneg h o =>
    vec h o (signedTy o.ty || floatTy o.ty) false (signedTy o.ty) true false
  | .vand h o | .vor h o | .vxor h o | .vshl h o | .vshr h o | .vshra h o | .vadds h o | .vsubs h o | .vmulh h o =>
    vint h o (intTy o.ty)
  | .vcmp h r ty d e _ b => hdr h && l64or96 h && src h b && dest2 h b d e
      && (floatTy ty || (intTy ty && r != .un && r != .or))
  | .vsel h ty _ _ _ b => hdr h && l64or96 h && src h b && hasCE h b && moveTy ty
  | .vcvt h s d _ _ _ _ i => hdr h && l64or96 h && cvtTy s && cvtTy d
      && (if Num.count s = Num.count d then i == 0
          else decide ((i.toNat + 1) * Min.min (Num.count s) (Num.count d) ≤ Max.max (Num.count s) (Num.count d)))
  | .vrsum h ty rnd _ _ _ => hdr h && l64 h && (floatTy ty || (intTy ty && rnd == .rne))
  | .vrmin h ty _ _ | .vrmax h ty _ _ => hdr h && l64 h && (floatTy ty || intTy ty)
  | .vror h ty _ _ => hdr h && l64 h && intTy ty
  | .vperm h ty _ _ _ => hdr h && l64or96 h && moveTy ty
  | .vrot h ty _ _ b => hdr h && l64or96 h && src h b && moveTy ty
  | .vbcast h ty _ op => hdr h && l64or96 h && moveTy ty && (match op with
      | .scalar _ => true
      | .elem _ b => src h b)
  | .vins h ty _ _ b | .vext h ty _ _ b | .vmov h ty _ b => hdr h && l64or96 h && src h b && moveTy ty
  | .vrcp h ty _ _ _ _ | .vrsq h ty _ _ _ _ | .vexp h ty _ _ _ _ => hdr h && l64 h && floatTy ty
  | .vzip h ty _ _ _ _ | .vunzip h ty _ _ _ _ => hdr h && l64 h && moveTy ty
  | .vlut h ty _ _ b i => hdr h && l64 h && (moveTy ty || (ty == .q16 && b == 0))
      && decide ((i.toNat + 1) * Num.count ty ≤ 128)
  | .pitch h b => hdr h && l64or128 h && (isReg b || l128 h)
  | .vpack h f _ _ _ _ pos => hdr h && l64or96 h && vpackFmt f && (h.len == .w96 || decide (pos.toNat < 64))
  | .vpacks h _ _ _ pos => hdr h && l64or96 h && (h.len == .w96 || decide (pos.toNat < 6))
  | .pclaim h _ _ | .prel h _ | .rclr h _ | .rgst h _ _ _ | .rgld h _ _ _ | .rbase h _ _ | .rfuse h _ _
  | .rtest h _ => hdr h && l64 h
  | .rmul h o => raf h o false
  | .rtile h o | .rtiles h o => raf h o true
  | .rext h o i => hdr h && l64or96 h && rextFmt o.fmt
      && (if h.len = .w96 then decide (i.toNat + Num.count o.fmt ≤ 4096)
          else decide (i.toNat < 256) && decide (i.toNat * Num.count o.fmt < 4096))
  | .rextm h o _ r0 rs off => hdr h && h.len != .w64 && rextFmt o.fmt && decide (r0.toNat + rs.toNat < 64)
      && (h.len == .w128 || decide (off.toNat < 2 ^ 32))
  | .rsave h _ _ _ | .rload h _ _ _ => hdr h && l128 h
  | .qput h u _ | .qget h _ u => hdr h && l64 h && u != 7
  | .qpeek h _ _ | .qcnt h _ _ | .qpredPush h _ | .qpredPop h _ => hdr h && l64 h
  | .bset h _ _ _ dr => hdr h && (if dr.isSome then l128 h else l64 h)
  | .bsetFree h _ | .bpush h _ | .bpop h _ _ | .bstat h _ _ => hdr h && l64 h
  | .fork h _ t _ => hdr h && (match t with
      | .reg _ => l64 h
      | .rel _ => h.len == .w96)
  | .rdv h _ n | .rdvEnd h _ n => hdr h && l64or96 h && (h.len == .w96 || decide (n.toNat < 16))
  | .twget h o | .twgetC h o => tw h o true false
  | .twgetRaw h o | .twgetPka h o | .twgetPkb h o => tw h o false true
  | .twput h o | .twputC h o | .twremPush h o | .twremPull h o => tw h o false false
  | .twdeal h f o | .twcast h f o => tw h o (f == .near) (f != .near)
  | .spawn h _ _ pc | .spawnat h _ _ _ pc | .carm h _ _ _ pc | .sbreg h _ _ _ _ pc =>
    hdr h && l128 h && pc.truncate 2 == 0#2
  | .touch h _ _ _ | .touchp h _ _ _ _ | .tend h _ | .fcancel h _ _ | .fstat h _ _ | .fdrop h _ => hdr h && l64 h
  | .resolve h _ _ b | .fpoison h _ _ b => hdr h && l64 h && src h b
  | .csig h _ _ n => hdr h && l64or96 h && n != 0 && (h.len == .w96 || decide (n.toNat ≤ 64))
  | .msg h _ _ _ _ n => hdr h && l64or96 h && (h.len == .w96 || n == 1)
  | .waitCounter h _ _ | .waitHandle h _ | .cntrdWc h _ _ | .cntrdPerf h _ _ | .cntrdWt h _ _ | .cntrdSlot h _
  | .cntrdSlip h _ => hdr h && l64 h
  | .cntrdBud h _ k => hdr h && l64 h && decide (k.toNat ≤ 4)
  | .sbdef h _ _ | .sbdefFree h _ | .sbret h _ _ => hdr h && l64 h
  | .cro h m t => hdr h && m != 0 && (match t with
      | .reg _ => l64 h
      | .rel _ => h.len == .w96)
  | .crc h | .pcmp h _ => hdr h && l64 h
  | .mfs h _ _ f => hdr h && (match f with
      | none => l64 h
      | some (pos, len) => h.len == .w96 && decide (pos.toNat + len.toNat + 1 ≤ 64))
  | .mts h r b => hdr h && l64or96 h && src h b && mtsReg r
  | .repart h b => hdr h && l64 h && (match b with
      | .reg _ => true
      | .imm v => decide (v.toNat ≤ 2))
  | .halt h | .yield h | .tlbinvAll h | .tlbinvPasid h _ | .tlbinvPage h _ _ | .tlbinvRetire h _ | .ctxld h _
  | .ctxst h _ | .oret h | .brk h _ => hdr h && l64 h
  | .tlbinvRange h _ _ n => hdr h && l128 h && n != 0
  | _ => true

end Sys2Proof.Accept
end

