-- ==== Sys2Proof/WellFormed.lean ====
section
/-!
DEFINITION. Well-formed instructions: the field values and lengths that R52 to R67 and the descriptions accept. The
checks themselves stand in Sys2Proof.Accept.
-/

namespace Sys2Proof

/-- Every check of R57 on an instruction's fields passes. -/
def Instr.wf (i : Instr) : Bool := Accept.ok i

abbrev Instr.WellFormed (i : Instr) : Prop := i.wf = true

end Sys2Proof
end

