-- ==== Sys2Proof/Decode.lean ====
section
/-!
DEFINITION. Instruction words (R52 to R66): the fields of a word, the decoder, and the encoder written from the same
tables. A word decodes to i exactly when its fields read as i, i is well-formed and i's encoding gives the word back,
so that every reserved bit is zero (R57).
-/

namespace Sys2Proof

/-- The fields of R55: the common fields, bits [63:36], and the extension (0 where the length has none). -/
structure Raw where
  len   : Len
  guard : KReg
  neg   : Bool
  op    : BitVec 8
  wait  : BitVec 3
  d     : Reg
  a     : Reg
  b     : Reg
  mid   : BitVec 28
  ext   : W64
deriving DecidableEq, Repr, Inhabited

def Len.code : Len → BitVec 2
  | .w64 => 0
  | .w96 => 1
  | .w128 => 2

def Len.bytes : Len → Nat
  | .w64 => 8
  | .w96 => 12
  | .w128 => 16

/-- R52. -/
def lenOf (c : BitVec 2) : Option Len :=
  if c = 0 then some .w64 else if c = 1 then some .w96 else if c = 2 then some .w128 else none

/-- R55: the word of the fields. -/
def Raw.word (r : Raw) : BitVec 128 :=
  r.ext ++ (r.mid ++ (r.b ++ (r.a ++ (r.d ++ (r.wait ++ (r.op ++ (BitVec.ofBool r.neg ++ (r.guard ++ r.len.code))))))))

/-- The extension that an instruction of this length has. -/
def extOf (l : Len) (x : W64) : W64 :=
  match l with
  | .w64 => 0
  | .w96 => (x.truncate 32).zeroExtend 64
  | .w128 => x

/-- R52, R55: the fields of a word; none where bits [1:0] are 0b11. -/
def rawOf (w : BitVec 128) : Option Raw :=
  (lenOf (w.extractLsb' 0 2)).map fun l =>
    { len := l, guard := w.extractLsb' 2 4, neg := w.getLsbD 6, op := w.extractLsb' 7 8, wait := w.extractLsb' 15 3,
      d := w.extractLsb' 18 6, a := w.extractLsb' 24 6, b := w.extractLsb' 30 6, mid := w.extractLsb' 36 28,
      ext := extOf l (w.extractLsb' 64 64) }

def Raw.hdr (r : Raw) : Hdr := ⟨r.len, r.guard, r.neg, r.wait⟩

/-- R58: bits [63:36] of the reg format but i. -/
structure RegF where
  func : BitVec 8 := 0
  ty   : BitVec 4 := 0
  rnd  : BitVec 2 := 0
  sat  : Bool := false
  c    : Reg := 0
  e    : Reg := 0
deriving DecidableEq, Repr

def RegF.mid (f : RegF) (i : Bool) : BitVec 28 :=
  f.func ++ (f.ty ++ (f.rnd ++ (BitVec.ofBool f.sat ++ (BitVec.ofBool i ++ (f.c ++ f.e)))))

def RegF.ofMid (m : BitVec 28) : RegF :=
  { func := m.extractLsb' 20 8, ty := m.extractLsb' 16 4, rnd := m.extractLsb' 14 2, sat := m.getLsbD 13,
    c := m.extractLsb' 6 6, e := m.extractLsb' 0 6 }

/-- R61: bits [63:36] of the unit format. -/
structure UnitF where
  ua   : BitVec 4 := 0
  ub   : BitVec 4 := 0
  pn   : BitVec 2 := 0
  cnt  : BitVec 6 := 0
  fn   : BitVec 4 := 0
  imm8 : BitVec 8 := 0
deriving DecidableEq, Repr

def UnitF.mid (u : UnitF) : BitVec 28 := u.ua ++ (u.ub ++ (u.pn ++ (u.cnt ++ (u.fn ++ u.imm8))))

def UnitF.ofMid (m : BitVec 28) : UnitF :=
  { ua := m.extractLsb' 24 4, ub := m.extractLsb' 20 4, pn := m.extractLsb' 18 2, cnt := m.extractLsb' 12 6,
    fn := m.extractLsb' 8 4, imm8 := m.extractLsb' 0 8 }

/-- R29: the code of a format. -/
def Fmt.code : Fmt → BitVec 4
  | .i8 => 0x0 | .n8 => 0x1 | .i16 => 0x2 | .n16 => 0x3 | .i32 => 0x4 | .n32 => 0x5 | .f32 => 0x6 | .f16 => 0x7
  | .bf16 => 0x8 | .e4m3 => 0x9 | .e5m2 => 0xA | .e3m2 => 0xB | .e2m3 => 0xC | .e2m1 => 0xD | .q16 => 0xE

/-- R29; code 0xF is reserved, and reads as q16, which no re-encoding gives back. -/
def fmtOf (c : BitVec 4) : Fmt :=
  match c.toNat with
  | 0x0 => .i8 | 0x1 => .n8 | 0x2 => .i16 | 0x3 => .n16 | 0x4 => .i32 | 0x5 => .n32 | 0x6 => .f32 | 0x7 => .f16
  | 0x8 => .bf16 | 0x9 => .e4m3 | 0xA => .e5m2 | 0xB => .e3m2 | 0xC => .e2m3 | 0xD => .e2m1 | _ => .q16

/-- R33. -/
def Rnd.code : Rnd → BitVec 2
  | .rne => 0 | .rtz => 1 | .rup => 2 | .rdn => 3

def rndOf (c : BitVec 2) : Rnd :=
  match c.toNat with
  | 0 => .rne | 1 => .rtz | 2 => .rup | _ => .rdn

/-- R91. -/
def CmpRel.code : CmpRel → BitVec 8
  | .eq => 0 | .ne => 1 | .lt => 2 | .le => 3 | .gt => 4 | .ge => 5 | .ltn => 6 | .len => 7 | .gtn => 8 | .gen => 9

def cmpRelOf (c : BitVec 8) : CmpRel :=
  match c.toNat with
  | 0 => .eq | 1 => .ne | 2 => .lt | 3 => .le | 4 => .gt | 5 => .ge | 6 => .ltn | 7 => .len | 8 => .gtn | _ => .gen

/-- R92, R113. -/
def FRel.code : FRel → BitVec 8
  | .eq => 0 | .ne => 1 | .lt => 2 | .le => 3 | .gt => 4 | .ge => 5 | .un => 6 | .or => 7

def frelOf (c : BitVec 8) : FRel :=
  match c.toNat with
  | 0 => .eq | 1 => .ne | 2 => .lt | 3 => .le | 4 => .gt | 5 => .ge | 6 => .un | _ => .or

/-- R90: the type codes of SEXT; those of ZEXT are one higher. -/
def ExtW.code : ExtW → BitVec 4
  | .b => 0 | .h => 2 | .w => 4

def extWOf (c : BitVec 4) : ExtW :=
  match c.toNat / 2 with
  | 0 => .b | 1 => .h | _ => .w

/-- R59. -/
def Qual.code : Qual → BitVec 4
  | .none => 0 | .f => 1 | .fc => 2 | .e => 3 | .k => 4

def qualOf (c : BitVec 4) : Qual :=
  match c.toNat with
  | 0 => .none | 1 => .f | 2 => .fc | 3 => .e | _ => .k

/-- R155: the numbers of the system registers. -/
def SysReg.code : SysReg → BitVec 8
  | .stat => 0x00 | .ctxb => 0x01 | .otpc => 0x02 | .exb => 0x03 | .ovh => 0x04 | .region => 0x05 | .pasid => 0x06
  | .supv => 0x07 | .cdepth => 0x08 | .part => 0x09 | .tick => 0x0A | .pd => 0x0B | .ident => 0x0C | .mctl => 0x10
  | .mstat => 0x11 | .mlim => 0x12 | .rfence => 0x13 | .menv => 0x14 | .waddr0 => 0x18 | .wctl0 => 0x19
  | .waddr1 => 0x1A | .wctl1 => 0x1B

def sysRegOf (c : BitVec 8) : SysReg :=
  match c.toNat with
  | 0x00 => .stat | 0x01 => .ctxb | 0x02 => .otpc | 0x03 => .exb | 0x04 => .ovh | 0x05 => .region | 0x06 => .pasid
  | 0x07 => .supv | 0x08 => .cdepth | 0x09 => .part | 0x0A => .tick | 0x0B => .pd | 0x0C => .ident | 0x10 => .mctl
  | 0x11 => .mstat | 0x12 => .mlim | 0x13 => .rfence | 0x14 => .menv | 0x18 => .waddr0 | 0x19 => .wctl0
  | 0x1A => .waddr1 | _ => .wctl1

/-- R240: fn of TWDEAL and TWCAST. -/
def DealForm.code : DealForm → BitVec 4
  | .near => 0 | .raw => 2 | .pka => 3 | .pkb => 4

def dealFormOf (c : BitVec 4) : DealForm :=
  match c.toNat with
  | 0 => .near | 2 => .raw | 3 => .pka | _ => .pkb

/-- A predicate in a register field (R56). -/
def ofK (k : KReg) : Reg := k.zeroExtend 6
def toK (r : Reg) : KReg := r.truncate 4

/-! The encoder. -/

/-- A word of fields that no immediate or extension takes part in. -/
def enc (h : Hdr) (op : BitVec 8) (d a b : Reg) (mid : BitVec 28) (ext : W64 := 0) : Raw :=
  ⟨h.len, h.guard, h.neg, op, h.wait, d, a, b, mid, ext⟩

/-- R58: operand B, a register or the immediate of the instruction's length. -/
def encS (h : Hdr) (op : BitVec 8) (d a : Reg) (s : Src) (f : RegF := {}) : Raw :=
  match s with
  | .reg b => enc h op d a b (f.mid false)
  | .imm v => match h.len with
    | .w64 => enc h op d a 0 (RegF.mid { f with c := v.extractLsb' 6 6, e := v.extractLsb' 0 6 } true)
    | .w96 => enc h op d a 0 (f.mid true) ((v.truncate 32).zeroExtend 64)
    | .w128 => enc h op d a 0 (f.mid true) v

/-- As encS, for the forms whose register operand is A. -/
def encA (h : Hdr) (op : BitVec 8) (d : Reg) (s : Src) (f : RegF := {}) : Raw :=
  match s with
  | .reg a => enc h op d a 0 (f.mid false)
  | .imm v => encS h op d 0 (.imm v) f

def encR (h : Hdr) (op : BitVec 8) (d a b : Reg) (f : RegF := {}) : Raw := enc h op d a b (f.mid false)

def encU (h : Hdr) (op : BitVec 8) (d a b : Reg) (u : UnitF) (ext : W64 := 0) : Raw := enc h op d a b u.mid ext

/-- R59: the mem format. -/
def MemOps.mid (h : Hdr) (m : MemOps) : BitVec 28 :=
  m.qual.code ++ (m.size ++ (BitVec.ofBool m.vec ++ (m.sh ++ (BitVec.ofBool m.x ++ (m.wc ++
    (if h.len = .w96 then 0#15 else m.disp.truncate 15))))))

def encM (h : Hdr) (op : BitVec 8) (m : MemOps) : Raw :=
  enc h op m.d m.a m.b (m.mid h) (if h.len = .w96 then m.disp.zeroExtend 64 else 0)

def encV (h : Hdr) (op : BitVec 8) (o : VOps) : Raw :=
  encS h op o.d o.a o.b { ty := o.ty.code, rnd := o.rnd.code, sat := o.sat, c := o.c }

def encAt (h : Hdr) (op : BitVec 8) (o : AtomOps) : Raw :=
  encS h op o.d o.a o.b { func := 0#6 ++ (BitVec.ofBool o.uns ++ BitVec.ofBool o.dw), c := o.c }

def encF (h : Hdr) (op : BitVec 8) (o : FAtomOps) : Raw :=
  encS h op o.d o.a o.b { ty := o.ty.code, rnd := o.rnd.code }

def encTw (h : Hdr) (op : BitVec 8) (fn : BitVec 4) (o : TwOps) : Raw :=
  encU h op o.d o.a o.b
    { ua := o.q.zeroExtend 4, ub := o.wc.zeroExtend 4, fn := fn, imm8 := 0#3 ++ (BitVec.ofBool o.fe ++ o.bat) } o.ext

/-- R141. -/
def encMul (h : Hdr) (op : BitVec 8) (o : RafOps) : Raw :=
  if h.len = .w96 then
    encU h op 0 0 0 { ua := o.ua, ub := o.ub, pn := o.pn, cnt := o.cnt.truncate 6 } (o.d0.zeroExtend 64)
  else
    encU h op 0 0 0 { ua := o.ua, ub := o.ub, pn := o.pn, cnt := o.cnt.truncate 6, imm8 := o.d0.extractLsb' 4 8 }

def encTile (h : Hdr) (op : BitVec 8) (o : RafOps) : Raw :=
  if h.len = .w96 then
    encU h op 0 0 0 { ua := o.ua, ub := o.ub, pn := o.pn, imm8 := o.rows.zeroExtend 8 } (o.cnt.zeroExtend 64)
  else
    encU h op 0 0 0 { ua := o.ua, ub := o.ub, pn := o.pn, cnt := o.cnt.truncate 6, imm8 := o.rows.zeroExtend 8 }

/-- R143: rnd and sat in ub. -/
def RextOps.ub (o : RextOps) : BitVec 4 := 0#1 ++ (BitVec.ofBool o.sat ++ o.rnd.code)

def encK2 (h : Hdr) (op : BitVec 8) (d : KReg) (e : Option KReg) (a : Reg) (b : Src) (f : RegF) : Raw :=
  encS h op (ofK d) a b { f with e := ofK (e.getD 0) }

/-- The encoding of an instruction by the opcode map (R66); steps of the machine have no word. -/
def encode (i : Instr) : Option Raw :=
  match i with
  | .add h d a b => some (encS h 0x00 d a b)
  | .sub h d a b => some (encS h 0x01 d a b)
  | .mul h d a b => some (encS h 0x02 d a b)
  | .mulh h d a b => some (encS h 0x03 d a b)
  | .mulhn h d a b => some (encS h 0x04 d a b)
  | .div h d a b => some (encS h 0x05 d a b)
  | .divn h d a b => some (encS h 0x06 d a b)
  | .rem h d a b => some (encS h 0x07 d a b)
  | .remn h d a b => some (encS h 0x08 d a b)
  | .and h d a b => some (encS h 0x09 d a b)
  | .or h d a b => some (encS h 0x0A d a b)
  | .xor h d a b => some (encS h 0x0B d a b)
  | .andn h d a b => some (encS h 0x0C d a b)
  | .orn h d a b => some (encS h 0x0D d a b)
  | .shl h d a b => some (encS h 0x0E d a b)
  | .shr h d a b => some (encS h 0x0F d a b)
  | .shra h d a b => some (encS h 0x10 d a b)
  | .rotr h d a b => some (encS h 0x11 d a b)
  | .clz h d a => some (encR h 0x12 d a 0)
  | .ctz h d a => some (encR h 0x13 d a 0)
  | .popc h d a => some (encR h 0x14 d a 0)
  | .brev h d a => some (encR h 0x15 d a 0)
  | .bext h sg d a b => some (encS h 0x16 d a b { func := if sg then 1 else 0 })
  | .bins h d a b => some (encS h 0x17 d a b)
  | .min h d a b => some (encS h 0x18 d a b)
  | .minn h d a b => some (encS h 0x19 d a b)
  | .max h d a b => some (encS h 0x1A d a b)
  | .maxn h d a b => some (encS h 0x1B d a b)
  | .adds h d a b => some (encS h 0x1C d a b)
  | .subs h d a b => some (encS h 0x1D d a b)
  | .sext h x d a => some (encR h 0x1E d a 0 { ty := x.code })
  | .zext h x d a => some (encR h 0x1F d a 0 { ty := x.code ||| 1 })
  | .cmp h rel d e a b => some (encK2 h 0x20 d e a b { func := rel.code })
  | .cmpf h rel ty d e a b => some (encK2 h 0x21 d e a b { func := rel.code, ty := ty.code })
  | .tst h z d e a b => some (encK2 h 0x22 d e a b { func := if z then 1 else 0 })
  | .pand h d a b => some (encR h 0x23 (ofK d) (ofK a) (ofK b))
  | .por h d a b => some (encR h 0x24 (ofK d) (ofK a) (ofK b))
  | .pxor h d a b => some (encR h 0x25 (ofK d) (ofK a) (ofK b))
  | .pandn h d a b => some (encR h 0x26 (ofK d) (ofK a) (ofK b))
  | .pnot h d a => some (encR h 0x27 (ofK d) (ofK a) 0)
  | .pmov h (.toK d a) => some (encR h 0x28 (ofK d) a 0)
  | .pmov h (.toG d a) => some (encR h 0x28 d (ofK a) 0 { func := 1 })
  | .pmov h (.kk d a) => some (encR h 0x28 (ofK d) (ofK a) 0 { func := 2 })
  | .pset h d v => some (encS h 0x29 (ofK d) 0 (.imm v))
  | .sel h d c a b => some (encS h 0x2A d a b { c := ofK c })
  | .pcnt h ffs d a b => some (encR h 0x2B d (ofK a) (ofK b) { func := if ffs then 1 else 0 })
  | .br h off => some (enc h 0x30 0 0 0 off)
  | .jmp h a none => some (encR h 0x31 0 a 0)
  | .jmp h a (some v) => some (encS h 0x31 0 a (.imm v))
  | .call h d off => some (enc h 0x32 d 0 0 off)
  | .callr h d a none => some (encR h 0x33 d a 0)
  | .callr h d a (some v) => some (encS h 0x33 d a (.imm v))
  | .ret h a => some (encR h 0x34 0 a 0)
  | .loop h d off => some (enc h 0x35 d 0 0 off)
  | .brq h z off => some (enc h 0x36 (if z then 1 else 0) 0 0 off)
  | .nop h => some (enc h 0x37 0 0 0 0)
  | .filler l => some (enc ⟨l, 15, true, 0⟩ 0 0 0 0 0)
  | .ldl h m => some (encM h 0x40 m)
  | .stl h m => some (encM h 0x41 m)
  | .ldc h m => some (encM h 0x42 m)
  | .stc h m => some (encM h 0x43 m)
  | .ld h m => some (encM h 0x44 m)
  | .ldn h m => some (encM h 0x45 m)
  | .st h m => some (encM h 0x46 m)
  | .pref h m => some (encM h 0x47 m)
  | .aadd h o => some (encAt h 0x48 o)
  | .aand h o => some (encAt h 0x49 o)
  | .aor h o => some (encAt h 0x4A o)
  | .axor h o => some (encAt h 0x4B o)
  | .amin h o => some (encAt h 0x4C o)
  | .amax h o => some (encAt h 0x4D o)
  | .aswp h o => some (encAt h 0x4E o)
  | .acas h o => some (encAt h 0x4F o)
  | .aacc h o => some (encF h 0x50 o)
  | .afadd h o => some (encF h 0x51 o)
  | .afmin h o => some (encF h 0x52 o)
  | .afmax h o => some (encF h 0x53 o)
  | .acq h => some (encR h 0x54 0 0 0)
  | .acqC h a => some (encR h 0x54 0 a 0 { func := 1 })
  | .rel h => some (encR h 0x55 0 0 0)
  | .fence h => some (encR h 0x56 0 0 0)
  | .fenceQ h m => some (encS h 0x56 0 0 (.imm (m.zeroExtend 64)) { func := 1 })
  | .vadd h o => some (encV h 0x60 o)
  | .vsub h o => some (encV h 0x61 o)
  | .vmul h o => some (encV h 0x62 o)
  | .vfma h o => some (encV h 0x63 o)
  | .vfms h o => some (encV h 0x64 o)
  | .vfnma h o => some (encV h 0x65 o)
  | .vdiv h o => some (encV h 0x66 o)
  | .vsqrt h o => some (encV h 0x67 o)
  | .vmin h o => some (encV h 0x68 o)
  | .vmax h o => some (encV h 0x69 o)
  | .vabs h o => some (encV h 0x6A o)
  | .vneg h o => some (encV h 0x6B o)
  | .vand h o => some (encV h 0x6C o)
  | .vor h o => some (encV h 0x6D o)
  | .vxor h o => some (encV h 0x6E o)
  | .vshl h o => some (encV h 0x6F o)
  | .vshr h o => some (encV h 0x70 o)
  | .vshra h o => some (encV h 0x71 o)
  | .vadds h o => some (encV h 0x72 o)
  | .vsubs h o => some (encV h 0x73 o)
  | .vmulh h o => some (encV h 0x74 o)
  | .vcmp h rel ty d e a b => some (encK2 h 0x75 d e a b { func := rel.code, ty := ty.code })
  | .vsel h ty d c a b => some (encS h 0x76 d a b { ty := ty.code, c := ofK c })
  | .vcvt h s t rnd sat d a i => some (encR h 0x77 d a 0 { func := s.code ++ i, ty := t.code, rnd := rnd.code, sat := sat })
  | .vrsum h ty rnd sat d a => some (encR h 0x78 d a 0 { ty := ty.code, rnd := rnd.code, sat := sat })
  | .vrmin h ty d a => some (encR h 0x79 d a 0 { ty := ty.code })
  | .vrmax h ty d a => some (encR h 0x7A d a 0 { ty := ty.code })
  | .vror h ty d a => some (encR h 0x7B d a 0 { ty := ty.code })
  | .vperm h ty d a b => some (encR h 0x7C d a b { ty := ty.code })
  | .vrot h ty d a b => some (encS h 0x7D d a b { ty := ty.code })
  | .vbcast h ty d (.scalar a) => some (encR h 0x7E d a 0 { ty := ty.code })
  | .vbcast h ty d (.elem a b) => some (encS h 0x7E d a b { func := 1, ty := ty.code })
  | .vins h ty d a b => some (encS h 0x7F d a b { ty := ty.code })
  | .vext h ty d a b => some (encS h 0x80 d a b { ty := ty.code })
  | .vmov h ty d b => some (encA h 0x81 d b { ty := ty.code })
  | .vrcp h ty rnd sat d a => some (encR h 0x82 d a 0 { ty := ty.code, rnd := rnd.code, sat := sat })
  | .vrsq h ty rnd sat d a => some (encR h 0x83 d a 0 { ty := ty.code, rnd := rnd.code, sat := sat })
  | .vexp h ty rnd sat d a => some (encR h 0x84 d a 0 { ty := ty.code, rnd := rnd.code, sat := sat })
  | .vzip h ty hi d a b => some (encR h 0x85 d a b { func := if hi then 1 else 0, ty := ty.code })
  | .vunzip h ty odd d a b => some (encR h 0x86 d a b { func := if odd then 1 else 0, ty := ty.code })
  | .vlut h ty d a b i => some (encR h 0x87 d a b { func := 0#4 ++ i, ty := ty.code })
  | .pitch h b => some (encA h 0x90 0 b)
  | .vpack h f side push u a pos => some (if h.len = .w96 then
      encU h 0x91 0 a 0 { ua := u, fn := f.code, imm8 := BitVec.ofBool side ++ (BitVec.ofBool push ++ 0#6) } (pos.zeroExtend 64)
    else encU h 0x91 0 a 0 { ua := u, fn := f.code, imm8 := BitVec.ofBool side ++ (BitVec.ofBool push ++ pos.truncate 6) })
  | .vpacks h push u a pos => some (if h.len = .w96 then
      encU h 0x92 0 a 0 { ua := u, imm8 := 0#1 ++ (BitVec.ofBool push ++ 0#6) } (pos.zeroExtend 64)
    else encU h 0x92 0 a 0 { ua := u, imm8 := 0#1 ++ (BitVec.ofBool push ++ (0#3 ++ pos.truncate 3)) })
  | .pclaim h d p => some (encU h 0x93 d 0 0 { pn := p })
  | .prel h p => some (encU h 0x94 0 0 0 { pn := p })
  | .rclr h p => some (encU h 0x95 0 0 0 { pn := p })
  | .rmul h o => some (encMul h 0x96 o)
  | .rtile h o => some (encTile h 0x97 o)
  | .rtiles h o => some (encTile h 0x98 o)
  | .rext h o i => some (if h.len = .w96 then
      encU h 0x99 o.d 0 o.b { ub := o.ub, pn := o.pn, fn := o.fmt.code } (i.zeroExtend 64)
    else encU h 0x99 o.d 0 o.b { ub := o.ub, pn := o.pn, fn := o.fmt.code, imm8 := i.truncate 8 })
  | .rextm h o a r0 rs off => some (encU h 0x9A o.d a o.b { ub := o.ub, pn := o.pn, cnt := rs, fn := o.fmt.code, imm8 := r0.zeroExtend 8 } off)
  | .rgst h d p hi => some (encU h 0x9B d 0 0 { pn := p, fn := if hi then 1 else 0 })
  | .rgld h p a b => some (encU h 0x9C 0 a b { pn := p })
  | .rbase h p a => some (encU h 0x9D 0 a 0 { pn := p })
  | .rfuse h p a => some (encU h 0x9E 0 a 0 { pn := p })
  | .rtest h d => some (encU h 0x9F d 0 0 {})
  | .rsave h p a off => some (encU h 0xA0 0 a 0 { pn := p } off)
  | .rload h p a off => some (encU h 0xA1 0 a 0 { pn := p } off)
  | .qput h q a => some (encU h 0xB0 0 a 0 { ua := q.zeroExtend 4 })
  | .qget h d q => some (encU h 0xB1 d 0 0 { ua := q.zeroExtend 4 })
  | .qpeek h d q => some (encU h 0xB2 d 0 0 { ua := q.zeroExtend 4 })
  | .qcnt h d q => some (encU h 0xB3 d 0 0 { ua := q.zeroExtend 4 })
  | .qpredPush h a => some (encU h 0xB4 0 (ofK a) 0 { ua := 7 })
  | .qpredPop h d => some (encU h 0xB4 (ofK d) 0 0 { ua := 7, fn := 1 })
  | .bset h b dep fd none => some (encU h 0xB5 0 0 0 { ua := b, cnt := dep.zeroExtend 6, fn := if fd then 1 else 0 })
  | .bset h b dep fd (some (a, x)) => some (encU h 0xB5 0 a 0 { ua := b, cnt := dep.zeroExtend 6, fn := if fd then 1 else 0 } x)
  | .bsetFree h b => some (encU h 0xB5 0 0 0 { ua := b, fn := 2 })
  | .bpush h b => some (encU h 0xB6 0 0 0 { ua := b })
  | .bpop h b n => some (encU h 0xB7 0 0 0 { ua := b, cnt := n })
  | .bstat h d b => some (encU h 0xB8 d 0 0 { ua := b })
  | .fork h d (.reg a) b => some (encU h 0xB9 d a b {})
  | .fork h d (.rel o) b => some (encU h 0xB9 d 0 b {} (o.zeroExtend 64))
  | .rdv h p n => some (if h.len = .w96 then encU h 0xBA 0 0 0 { ua := p, fn := 0 } (n.zeroExtend 64)
    else encU h 0xBA 0 0 0 { ua := p, fn := 0, cnt := n.truncate 6 })
  | .rdvEnd h p n => some (if h.len = .w96 then encU h 0xBA 0 0 0 { ua := p, fn := 1 } (n.zeroExtend 64)
    else encU h 0xBA 0 0 0 { ua := p, fn := 1, cnt := n.truncate 6 })
  | .twget h o => some (encTw h 0xC0 0 o)
  | .twgetC h o => some (encTw h 0xC0 1 o)
  | .twgetRaw h o => some (encTw h 0xC0 2 o)
  | .twgetPka h o => some (encTw h 0xC0 3 o)
  | .twgetPkb h o => some (encTw h 0xC0 4 o)
  | .twput h o => some (encTw h 0xC1 0 o)
  | .twputC h o => some (encTw h 0xC1 1 o)
  | .twdeal h fm o => some (encTw h 0xC2 fm.code o)
  | .twcast h fm o => some (encTw h 0xC4 fm.code o)
  | .twremPush h o => some (encTw h 0xC3 0 o)
  | .twremPull h o => some (encTw h 0xC3 1 o)
  | .spawn h d a pc => some (encU h 0xD0 d a 0 {} pc)
  | .spawnat h d a b pc => some (encU h 0xD1 d a b {} pc)
  | .touch h d a b => some (encR h 0xD2 d a b)
  | .touchp h d k a b => some (encR h 0xD3 d a b { e := ofK k })
  | .resolve h d a b => some (encS h 0xD4 d a b)
  | .tend h a => some (encR h 0xD5 0 a 0)
  | .fcancel h d a => some (encR h 0xD6 d a 0)
  | .fpoison h d a b => some (encS h 0xD7 d a b)
  | .fstat h d a => some (encR h 0xD8 d a 0)
  | .fdrop h a => some (encR h 0xD9 0 a 0)
  | .csig h d a n => some (if h.len = .w96 then encU h 0xE0 d a 0 {} (n.zeroExtend 64)
    else encU h 0xE0 d a 0 { cnt := (n - 1).truncate 6 })
  | .msg h d a b fl n => some (encU h 0xE1 d a b { cnt := fl.zeroExtend 6 } (if h.len = .w96 then n.zeroExtend 64 else 0))
  | .waitCounter h n m => some (encU h 0xE2 0 0 0 { ua := n.zeroExtend 4, imm8 := m })
  | .waitHandle h a => some (encU h 0xE2 0 a 0 { fn := 1 })
  | .cntrdWc h d n => some (encU h 0xE3 d 0 0 { ua := n.zeroExtend 4 })
  | .cntrdPerf h d n => some (encU h 0xE3 d 0 0 { fn := 1, imm8 := n.zeroExtend 8 })
  | .cntrdWt h d a => some (encU h 0xE3 d a 0 { fn := 2 })
  | .cntrdSlot h d => some (encU h 0xE3 d 0 0 { fn := 3 })
  | .cntrdSlip h d => some (encU h 0xE3 d 0 0 { fn := 4 })
  | .cntrdBud h d k => some (encU h 0xE3 d 0 0 { fn := 5, imm8 := k.zeroExtend 8 })
  | .carm h d a b pc => some (encU h 0xE4 d a b {} pc)
  | .sbdef h n a => some (encU h 0xE5 0 a 0 { ua := n.zeroExtend 4 })
  | .sbdefFree h n => some (encU h 0xE5 0 0 0 { ua := n.zeroExtend 4, fn := 1 })
  | .sbreg h d n a b pc => some (encU h 0xE6 d a b { ua := n.zeroExtend 4 } pc)
  | .sbret h n a => some (encU h 0xE7 0 a 0 { ua := n.zeroExtend 4 })
  | .cro h m (.reg a) => some (encU h 0xE8 0 a 0 { imm8 := m })
  | .cro h m (.rel o) => some (encU h 0xE8 0 0 0 { imm8 := m } (o.zeroExtend 64))
  | .crc h => some (encU h 0xE9 0 0 0 {})
  | .pcmp h (.g a) => some (encR h 0xEA 0 a 0)
  | .pcmp h (.v a) => some (encR h 0xEA 0 a 0 { func := 1 })
  | .pcmp h (.k a) => some (encR h 0xEA 0 (ofK a) 0 { func := 2 })
  | .mfs h d g none => some (encR h 0xF0 d 0 0 { func := g.code })
  | .mfs h d g (some (p, l)) => some (enc h 0xF0 d 0 0 (RegF.mid { func := g.code } false) ((l ++ p).zeroExtend 64))
  | .mts h g b => some (encA h 0xF1 0 b { func := g.code })
  | .repart h b => some (encA h 0xF2 0 b)
  | .halt h => some (encR h 0xF3 0 0 0)
  | .yield h => some (encR h 0xF4 0 0 0)
  | .tlbinvAll h => some (encR h 0xF5 0 0 0)
  | .tlbinvPasid h a => some (encR h 0xF5 0 a 0 { func := 1 })
  | .tlbinvPage h a b => some (encR h 0xF5 0 a b { func := 2 })
  | .tlbinvRange h a b n => some (enc h 0xF5 0 a b (RegF.mid { func := 3 } false) n)
  | .tlbinvRetire h a => some (encR h 0xF5 0 a 0 { func := 4 })
  | .ctxld h a => some (encR h 0xF6 0 a 0)
  | .ctxst h a => some (encR h 0xF7 0 a 0)
  | .oret h => some (encR h 0xF8 0 0 0)
  | .brk h c => some (encS h 0xF9 0 0 (.imm (c.zeroExtend 64)))
  | _ => none

/-- The word of an instruction. -/
def encodeWord (i : Instr) : Option (BitVec 128) := (encode i).map Raw.word

/-! The decoder. -/

/-- R58: the immediate of the instruction's length. -/
def immOf (r : Raw) : W64 :=
  match r.len with
  | .w64 => (r.mid.truncate 12).signExtend 64
  | .w96 => (r.ext.truncate 32).signExtend 64
  | .w128 => r.ext

def hasImm (r : Raw) : Bool := r.mid.getLsbD 12

/-- R58: operand B. -/
def srcOf (r : Raw) : Src := if hasImm r then .imm (immOf r) else .reg r.b

/-- Operand A of the forms that take a register there or an immediate. -/
def srcA (r : Raw) : Src := if hasImm r then .imm (immOf r) else .reg r.a

/-- R58: the fields, with C and E absent in the 64-bit form with an immediate. -/
def regOf (r : Raw) : RegF :=
  let f := RegF.ofMid r.mid
  if hasImm r ∧ r.len = .w64 then { f with c := 0, e := 0 } else f

/-- R91: E where the form has it. -/
def destE (r : Raw) : Option KReg := if hasImm r ∧ r.len = .w64 then none else some (toK (regOf r).e)

def unitOf (r : Raw) : UnitF := UnitF.ofMid r.mid

/-- R59. -/
def memOf (r : Raw) : MemOps :=
  { d := r.d, a := r.a, b := r.b, x := r.mid.getLsbD 17, sh := r.mid.extractLsb' 18 3, size := r.mid.extractLsb' 22 2,
    vec := r.mid.getLsbD 21, qual := qualOf (r.mid.extractLsb' 24 4), wc := r.mid.extractLsb' 15 2,
    disp := if r.len = .w96 then r.ext.truncate 32 else (r.mid.truncate 15).signExtend 32 }

def atomOf (r : Raw) : AtomOps :=
  let f := regOf r
  { d := r.d, a := r.a, b := srcOf r, c := f.c, dw := f.func.getLsbD 0, uns := f.func.getLsbD 1 }

def fatomOf (r : Raw) : FAtomOps :=
  let f := regOf r
  { ty := fmtOf f.ty, rnd := rndOf f.rnd, d := r.d, a := r.a, b := srcOf r }

def vopsOf (r : Raw) : VOps :=
  let f := regOf r
  { ty := fmtOf f.ty, rnd := rndOf f.rnd, sat := f.sat, d := r.d, a := r.a, b := srcOf r, c := f.c }

/-- R235. -/
def twOf (r : Raw) : TwOps :=
  let u := unitOf r
  { q := u.ua.truncate 3, wc := u.ub.truncate 2, fe := u.imm8.getLsbD 4, bat := u.imm8.truncate 4, d := r.d, a := r.a,
    b := r.b, ext := r.ext }

/-- R143. -/
def rextOf (r : Raw) : RextOps :=
  let u := unitOf r
  { fmt := fmtOf u.fn, rnd := rndOf (u.ub.truncate 2), sat := u.ub.getLsbD 2, pn := u.pn, d := r.d, b := r.b }

/-- A register target in the 64-bit form, a word offset in the 96-bit form (R247, R324). -/
def targetOf (r : Raw) : Target := if r.len = .w96 then .rel (r.ext.truncate 32) else .reg r.a

/-- The fields of the scalar integer instructions (R66). -/
def readScalar (r : Raw) : Option Instr :=
  let h := r.hdr
  let f := regOf r
  let s := srcOf r
  match r.op.toNat with
  | 0x00 => some (.add h r.d r.a s)
  | 0x01 => some (.sub h r.d r.a s)
  | 0x02 => some (.mul h r.d r.a s)
  | 0x03 => some (.mulh h r.d r.a s)
  | 0x04 => some (.mulhn h r.d r.a s)
  | 0x05 => some (.div h r.d r.a s)
  | 0x06 => some (.divn h r.d r.a s)
  | 0x07 => some (.rem h r.d r.a s)
  | 0x08 => some (.remn h r.d r.a s)
  | 0x09 => some (.and h r.d r.a s)
  | 0x0A => some (.or h r.d r.a s)
  | 0x0B => some (.xor h r.d r.a s)
  | 0x0C => some (.andn h r.d r.a s)
  | 0x0D => some (.orn h r.d r.a s)
  | 0x0E => some (.shl h r.d r.a s)
  | 0x0F => some (.shr h r.d r.a s)
  | 0x10 => some (.shra h r.d r.a s)
  | 0x11 => some (.rotr h r.d r.a s)
  | 0x12 => some (.clz h r.d r.a)
  | 0x13 => some (.ctz h r.d r.a)
  | 0x14 => some (.popc h r.d r.a)
  | 0x15 => some (.brev h r.d r.a)
  | 0x16 => some (.bext h (f.func == 1) r.d r.a s)
  | 0x17 => some (.bins h r.d r.a s)
  | 0x18 => some (.min h r.d r.a s)
  | 0x19 => some (.minn h r.d r.a s)
  | 0x1A => some (.max h r.d r.a s)
  | 0x1B => some (.maxn h r.d r.a s)
  | 0x1C => some (.adds h r.d r.a s)
  | 0x1D => some (.subs h r.d r.a s)
  | 0x1E => some (.sext h (extWOf f.ty) r.d r.a)
  | 0x1F => some (.zext h (extWOf f.ty) r.d r.a)
  | _ => none

/-- The fields of the compare, predicate and control instructions (R66). -/
def readPredicate (r : Raw) : Option Instr :=
  let h := r.hdr
  let f := regOf r
  let s := srcOf r
  let e := destE r
  match r.op.toNat with
  | 0x20 => some (.cmp h (cmpRelOf f.func) (toK r.d) e r.a s)
  | 0x21 => some (.cmpf h (frelOf f.func) (fmtOf f.ty) (toK r.d) e r.a s)
  | 0x22 => some (.tst h (f.func == 1) (toK r.d) e r.a s)
  | 0x23 => some (.pand h (toK r.d) (toK r.a) (toK r.b))
  | 0x24 => some (.por h (toK r.d) (toK r.a) (toK r.b))
  | 0x25 => some (.pxor h (toK r.d) (toK r.a) (toK r.b))
  | 0x26 => some (.pandn h (toK r.d) (toK r.a) (toK r.b))
  | 0x27 => some (.pnot h (toK r.d) (toK r.a))
  | 0x28 => if f.func = 0 then some (.pmov h (.toK (toK r.d) r.a)) else if f.func = 1 then some (.pmov h (.toG r.d (toK r.a)))
    else some (.pmov h (.kk (toK r.d) (toK r.a)))
  | 0x29 => some (.pset h (toK r.d) (immOf r))
  | 0x2A => some (.sel h r.d (toK f.c) r.a s)
  | 0x2B => some (.pcnt h (f.func == 1) r.d (toK r.a) (toK r.b))
  | 0x30 => some (.br h r.mid)
  | 0x31 => some (.jmp h r.a (if r.mid.getLsbD 12 then some (immOf r) else none))
  | 0x32 => some (.call h r.d r.mid)
  | 0x33 => some (.callr h r.d r.a (if r.mid.getLsbD 12 then some (immOf r) else none))
  | 0x34 => some (.ret h r.a)
  | 0x35 => some (.loop h r.d r.mid)
  | 0x36 => some (.brq h (r.d == 1) r.mid)
  | 0x37 => some (.nop h)
  | _ => none

/-- The fields of the memory, atomic and ordering instructions (R66). -/
def readMemory (r : Raw) : Option Instr :=
  let h := r.hdr
  let f := regOf r
  match r.op.toNat with
  | 0x40 => some (.ldl h (memOf r))
  | 0x41 => some (.stl h (memOf r))
  | 0x42 => some (.ldc h (memOf r))
  | 0x43 => some (.stc h (memOf r))
  | 0x44 => some (.ld h (memOf r))
  | 0x45 => some (.ldn h (memOf r))
  | 0x46 => some (.st h (memOf r))
  | 0x47 => some (.pref h (memOf r))
  | 0x48 => some (.aadd h (atomOf r))
  | 0x49 => some (.aand h (atomOf r))
  | 0x4A => some (.aor h (atomOf r))
  | 0x4B => some (.axor h (atomOf r))
  | 0x4C => some (.amin h (atomOf r))
  | 0x4D => some (.amax h (atomOf r))
  | 0x4E => some (.aswp h (atomOf r))
  | 0x4F => some (.acas h (atomOf r))
  | 0x50 => some (.aacc h (fatomOf r))
  | 0x51 => some (.afadd h (fatomOf r))
  | 0x52 => some (.afmin h (fatomOf r))
  | 0x53 => some (.afmax h (fatomOf r))
  | 0x54 => if f.func = 0 then some (.acq h) else some (.acqC h r.a)
  | 0x55 => some (.rel h)
  | 0x56 => if f.func = 0 then some (.fence h) else some (.fenceQ h ((immOf r).truncate 8))
  | _ => none

/-- The fields of the vector instructions (R66). -/
def readVector (r : Raw) : Option Instr :=
  let h := r.hdr
  let f := regOf r
  let s := srcOf r
  let e := destE r
  match r.op.toNat with
  | 0x60 => some (.vadd h (vopsOf r))
  | 0x61 => some (.vsub h (vopsOf r))
  | 0x62 => some (.vmul h (vopsOf r))
  | 0x63 => some (.vfma h (vopsOf r))
  | 0x64 => some (.vfms h (vopsOf r))
  | 0x65 => some (.vfnma h (vopsOf r))
  | 0x66 => some (.vdiv h (vopsOf r))
  | 0x67 => some (.vsqrt h (vopsOf r))
  | 0x68 => some (.vmin h (vopsOf r))
  | 0x69 => some (.vmax h (vopsOf r))
  | 0x6A => some (.vabs h (vopsOf r))
  | 0x6B => some (.vneg h (vopsOf r))
  | 0x6C => some (.vand h (vopsOf r))
  | 0x6D => some (.vor h (vopsOf r))
  | 0x6E => some (.vxor h (vopsOf r))
  | 0x6F => some (.vshl h (vopsOf r))
  | 0x70 => some (.vshr h (vopsOf r))
  | 0x71 => some (.vshra h (vopsOf r))
  | 0x72 => some (.vadds h (vopsOf r))
  | 0x73 => some (.vsubs h (vopsOf r))
  | 0x74 => some (.vmulh h (vopsOf r))
  | 0x75 => some (.vcmp h (frelOf f.func) (fmtOf f.ty) (toK r.d) e r.a s)
  | 0x76 => some (.vsel h (fmtOf f.ty) r.d (toK f.c) r.a s)
  | 0x77 => some (.vcvt h (fmtOf (f.func.extractLsb' 4 4)) (fmtOf f.ty) (rndOf f.rnd) f.sat r.d r.a (f.func.extractLsb' 0 4))
  | 0x78 => some (.vrsum h (fmtOf f.ty) (rndOf f.rnd) f.sat r.d r.a)
  | 0x79 => some (.vrmin h (fmtOf f.ty) r.d r.a)
  | 0x7A => some (.vrmax h (fmtOf f.ty) r.d r.a)
  | 0x7B => some (.vror h (fmtOf f.ty) r.d r.a)
  | 0x7C => some (.vperm h (fmtOf f.ty) r.d r.a r.b)
  | 0x7D => some (.vrot h (fmtOf f.ty) r.d r.a s)
  | 0x7E => if f.func = 0 then some (.vbcast h (fmtOf f.ty) r.d (.scalar r.a)) else some (.vbcast h (fmtOf f.ty) r.d (.elem r.a s))
  | 0x7F => some (.vins h (fmtOf f.ty) r.d r.a s)
  | 0x80 => some (.vext h (fmtOf f.ty) r.d r.a s)
  | 0x81 => some (.vmov h (fmtOf f.ty) r.d (srcA r))
  | 0x82 => some (.vrcp h (fmtOf f.ty) (rndOf f.rnd) f.sat r.d r.a)
  | 0x83 => some (.vrsq h (fmtOf f.ty) (rndOf f.rnd) f.sat r.d r.a)
  | 0x84 => some (.vexp h (fmtOf f.ty) (rndOf f.rnd) f.sat r.d r.a)
  | 0x85 => some (.vzip h (fmtOf f.ty) (f.func == 1) r.d r.a r.b)
  | 0x86 => some (.vunzip h (fmtOf f.ty) (f.func == 1) r.d r.a r.b)
  | 0x87 => some (.vlut h (fmtOf f.ty) r.d r.a r.b (f.func.extractLsb' 0 4))
  | _ => none

/-- The fields of the pack, rafter and purlin instructions (R66). -/
def readPurlin (r : Raw) : Option Instr :=
  let h := r.hdr
  let u := unitOf r
  match r.op.toNat with
  | 0x90 => some (.pitch h (srcA r))
  | 0x91 => some (.vpack h (fmtOf u.fn) (u.imm8.getLsbD 7) (u.imm8.getLsbD 6) u.ua r.a
    (if r.len = .w96 then r.ext.truncate 9 else (u.imm8.truncate 6).zeroExtend 9))
  | 0x92 => some (.vpacks h (u.imm8.getLsbD 6) u.ua r.a (if r.len = .w96 then r.ext.truncate 9 else (u.imm8.truncate 3).zeroExtend 9))
  | 0x93 => some (.pclaim h r.d u.pn)
  | 0x94 => some (.prel h u.pn)
  | 0x95 => some (.rclr h u.pn)
  | 0x96 => some (.rmul h
    { ua := u.ua, ub := u.ub, pn := u.pn, cnt := u.cnt.zeroExtend 16,
      d0 := if r.len = .w96 then r.ext.truncate 12 else u.imm8 ++ 0#4, rows := 0 })
  | 0x97 => some (.rtile h
    { ua := u.ua, ub := u.ub, pn := u.pn,
      cnt := if r.len = .w96 then r.ext.truncate 16 else u.cnt.zeroExtend 16, d0 := 0, rows := u.imm8.truncate 6 })
  | 0x98 => some (.rtiles h
    { ua := u.ua, ub := u.ub, pn := u.pn,
      cnt := if r.len = .w96 then r.ext.truncate 16 else u.cnt.zeroExtend 16, d0 := 0, rows := u.imm8.truncate 6 })
  | 0x99 => some (.rext h (rextOf r) (if r.len = .w96 then r.ext.truncate 12 else u.imm8.zeroExtend 12))
  | 0x9A => some (.rextm h (rextOf r) r.a (u.imm8.truncate 6) u.cnt r.ext)
  | 0x9B => some (.rgst h r.d u.pn (u.fn == 1))
  | 0x9C => some (.rgld h u.pn r.a r.b)
  | 0x9D => some (.rbase h u.pn r.a)
  | 0x9E => some (.rfuse h u.pn r.a)
  | 0x9F => some (.rtest h r.d)
  | 0xA0 => some (.rsave h u.pn r.a r.ext)
  | 0xA1 => some (.rload h u.pn r.a r.ext)
  | _ => none

/-- The fields of the queue, batten, fork, rendezvous and tile-walk instructions (R66). -/
def readQueue (r : Raw) : Option Instr :=
  let h := r.hdr
  let u := unitOf r
  match r.op.toNat with
  | 0xB0 => some (.qput h (u.ua.truncate 3) r.a)
  | 0xB1 => some (.qget h r.d (u.ua.truncate 3))
  | 0xB2 => some (.qpeek h r.d (u.ua.truncate 3))
  | 0xB3 => some (.qcnt h r.d (u.ua.truncate 3))
  | 0xB4 => if u.fn = 0 then some (.qpredPush h (toK r.a)) else some (.qpredPop h (toK r.d))
  | 0xB5 => if u.fn = 2 then some (.bsetFree h u.ua)
    else some (.bset h u.ua (u.cnt.truncate 5) (u.fn == 1) (if r.len = .w128 then some (r.a, r.ext) else none))
  | 0xB6 => some (.bpush h u.ua)
  | 0xB7 => some (.bpop h u.ua u.cnt)
  | 0xB8 => some (.bstat h r.d u.ua)
  | 0xB9 => some (.fork h r.d (targetOf r) r.b)
  | 0xBA => let n : BitVec 7 := if r.len = .w96 then r.ext.truncate 7 else u.cnt.zeroExtend 7
    if u.fn = 1 then some (.rdvEnd h u.ua n) else some (.rdv h u.ua n)
  | 0xC0 => match u.fn.toNat with
    | 0 => some (.twget h (twOf r))
    | 1 => some (.twgetC h (twOf r))
    | 2 => some (.twgetRaw h (twOf r))
    | 3 => some (.twgetPka h (twOf r))
    | _ => some (.twgetPkb h (twOf r))
  | 0xC1 => if u.fn = 0 then some (.twput h (twOf r)) else some (.twputC h (twOf r))
  | 0xC2 => some (.twdeal h (dealFormOf u.fn) (twOf r))
  | 0xC3 => if u.fn = 0 then some (.twremPush h (twOf r)) else some (.twremPull h (twOf r))
  | 0xC4 => some (.twcast h (dealFormOf u.fn) (twOf r))
  | _ => none

/-- The fields of the task, future, counter and scoreboard instructions (R66). -/
def readTask (r : Raw) : Option Instr :=
  let h := r.hdr
  let f := regOf r
  let s := srcOf r
  let u := unitOf r
  match r.op.toNat with
  | 0xD0 => some (.spawn h r.d r.a r.ext)
  | 0xD1 => some (.spawnat h r.d r.a r.b r.ext)
  | 0xD2 => some (.touch h r.d r.a r.b)
  | 0xD3 => some (.touchp h r.d (toK f.e) r.a r.b)
  | 0xD4 => some (.resolve h r.d r.a s)
  | 0xD5 => some (.tend h r.a)
  | 0xD6 => some (.fcancel h r.d r.a)
  | 0xD7 => some (.fpoison h r.d r.a s)
  | 0xD8 => some (.fstat h r.d r.a)
  | 0xD9 => some (.fdrop h r.a)
  | 0xE0 => some (.csig h r.d r.a (if r.len = .w96 then r.ext.truncate 20 else u.cnt.zeroExtend 20 + 1))
  | 0xE1 => some (.msg h r.d r.a r.b (u.cnt.truncate 3) (if r.len = .w96 then r.ext.truncate 20 else 1))
  | 0xE2 => if u.fn = 0 then some (.waitCounter h (u.ua.truncate 2) u.imm8) else some (.waitHandle h r.a)
  | 0xE3 => match u.fn.toNat with
    | 0 => some (.cntrdWc h r.d (u.ua.truncate 2))
    | 1 => some (.cntrdPerf h r.d (u.imm8.truncate 4))
    | 2 => some (.cntrdWt h r.d r.a)
    | 3 => some (.cntrdSlot h r.d)
    | 4 => some (.cntrdSlip h r.d)
    | _ => some (.cntrdBud h r.d (u.imm8.truncate 3))
  | 0xE4 => some (.carm h r.d r.a r.b r.ext)
  | 0xE5 => if u.fn = 0 then some (.sbdef h (u.ua.truncate 2) r.a) else some (.sbdefFree h (u.ua.truncate 2))
  | 0xE6 => some (.sbreg h r.d (u.ua.truncate 2) r.a r.b r.ext)
  | 0xE7 => some (.sbret h (u.ua.truncate 2) r.a)
  | 0xE8 => some (.cro h u.imm8 (targetOf r))
  | 0xE9 => some (.crc h)
  | 0xEA => if f.func = 0 then some (.pcmp h (.g r.a)) else if f.func = 1 then some (.pcmp h (.v r.a)) else some (.pcmp h (.k (toK r.a)))
  | _ => none

/-- The fields of the system instructions (R66). -/
def readSystem (r : Raw) : Option Instr :=
  let h := r.hdr
  let f := regOf r
  match r.op.toNat with
  | 0xF0 => some (.mfs h r.d (sysRegOf f.func) (if r.len = .w96 then some (r.ext.extractLsb' 0 6, r.ext.extractLsb' 6 6) else none))
  | 0xF1 => some (.mts h (sysRegOf f.func) (srcA r))
  | 0xF2 => some (.repart h (srcA r))
  | 0xF3 => some (.halt h)
  | 0xF4 => some (.yield h)
  | 0xF5 => match f.func.toNat with
    | 0 => some (.tlbinvAll h)
    | 1 => some (.tlbinvPasid h r.a)
    | 2 => some (.tlbinvPage h r.a r.b)
    | 3 => some (.tlbinvRange h r.a r.b r.ext)
    | _ => some (.tlbinvRetire h r.a)
  | 0xF6 => some (.ctxld h r.a)
  | 0xF7 => some (.ctxst h r.a)
  | 0xF8 => some (.oret h)
  | 0xF9 => some (.brk h ((immOf r).truncate 12))
  | _ => none

/-- What the fields of a word read as, before the checks of R57. R63: the filler comes first. -/
def readRaw (r : Raw) : Option Instr :=
  if r.guard = 15 ∧ r.neg = true then some (.filler r.len)
  else if r.op.toNat < 0x20 then readScalar r
  else if r.op.toNat < 0x40 then readPredicate r
  else if r.op.toNat < 0x60 then readMemory r
  else if r.op.toNat < 0x90 then readVector r
  else if r.op.toNat < 0xB0 then readPurlin r
  else if r.op.toNat < 0xD0 then readQueue r
  else if r.op.toNat < 0xF0 then readTask r
  else readSystem r

/-- Is this what the word stands for? R63: a filler ignores its other bits; any other instruction is well-formed and
re-encodes to the same fields. -/
def confirms (r : Raw) (i : Instr) : Bool :=
  match i with
  | .filler _ => true
  | i => i.wf && encode i == some r

/-- The instruction that the fields stand for; none raises ILLEGAL (R62). -/
def decodeRaw (r : Raw) : Option Instr := (readRaw r).filter (confirms r)

/-- The instruction of a word; bits above its length play no part. -/
def decode (w : BitVec 128) : Option Instr := (rawOf w).bind decodeRaw

/-- Little-endian bytes as a word (R2). -/
def wordOfBytes : List Byte → BitVec 128
  | [] => 0
  | b :: l => (wordOfBytes l <<< 8) ||| b.zeroExtend 128

/-- The bytes of an instruction of n bytes, first at the lowest address. -/
def bytesOfWord (n : Nat) (w : BitVec 128) : List Byte := (List.range n).map fun j => w.extractLsb' (8 * j) 8

/-- The decoder on an instruction whose bits are w, numbered as the opcode table numbers them. -/
def decodeTableWord (nbits w : Nat) : Option Instr :=
  decode (wordOfBytes (bytesOfWord 16 (BitVec.ofNat 128 (w % 2 ^ nbits))))

end Sys2Proof
end

