-- ==== Sys2Proof/Machine/Pitch.lean ====
section
/-!
DEFINITION. The pitch descriptor: its fields and its admission (R122 to R124), and what the bank derives from it (R40,
R130).
-/

namespace Sys2Proof.Machine

/-! The fields of PD (R122). -/

def Pd.valid (d : W64) : Bool := d.getLsbD 63
def Pd.limb (d : W64) (sideB : Bool) : Bool := d.getLsbD (if sideB then 35 else 34)
def Pd.mb (d : W64) : Nat := bits d 30 4
def Pd.scaleBatten (d : W64) (sideB : Bool) : Nat := bits d (if sideB then 26 else 22) 4
def Pd.sparse (d : W64) : Nat := bits d 20 2
def Pd.mode (d : W64) : Nat := bits d 18 2
def Pd.l (d : W64) : Nat := 2 ^ bits d 15 3
def Pd.pitch (d : W64) : Nat := ([8, 12, 16, 24, 32, 48, 64] : List Nat).getD (bits d 12 3) 64
def Pd.kind (d : W64) (sideB : Bool) : Nat := bits d (if sideB then 10 else 8) 2
def Pd.fmtCode (d : W64) (sideB : Bool) : Nat := bits d (if sideB then 4 else 0) 4
def Pd.fmt (d : W64) (sideB : Bool) : Fmt := fmtOf (BitVec.ofNat 4 (Pd.fmtCode d sideB))

/-- S, G and the kept count of 16 (R40, R130, R142). -/
def Pd.slots (d : W64) : Nat := 3072 / Pd.pitch d
def Pd.segs (d : W64) : Nat := Pd.slots d / Pd.l d
def Pd.kept (d : W64) : Nat := if Pd.sparse d = 1 then 8 else if Pd.sparse d = 2 then 4 else 16

/-- R130: KT, the kept products per digit and term. -/
def Pd.kt (d : W64) : Nat :=
  if Pd.mode d ≠ 0 then Pd.l d
  else if Pd.kind d false = 1 ∨ Pd.kind d true = 1 then 32 * Pd.kept d / 16
  else if Pd.kind d false = 2 ∨ Pd.kind d true = 2 then 256 * Pd.kept d / 16
  else Pd.l d

def pdFormat (c : Nat) : Bool := decide (c ≤ 3) || (decide (9 ≤ c) && decide (c ≤ 14))

/-- R123, rule 3: the kind of a format. -/
def kindAdmits (fmt kind : Nat) : Bool :=
  if fmt = 14 then kind == 2
  else if kind = 2 then false
  else if kind = 1 then fmt == 0 || (decide (9 ≤ fmt) && decide (fmt ≤ 13))
  else true

def Pd.worst (d : W64) (sideB : Bool) : Nat := Num.worstOf (Pd.fmt d sideB) (Pd.limb d sideB)

/-- R123: the admission of a descriptor, whatever its bit 63. -/
def Pd.admits (d : W64) : Bool :=
  bits d 36 27 == 0 && decide (bits d 12 3 ≤ 6) && decide (bits d 15 3 ≤ 5) && decide (Pd.mode d ≤ 2) && decide (Pd.sparse d ≤ 2)
    && decide (Pd.kind d false ≤ 2) && decide (Pd.kind d true ≤ 2)
    && pdFormat (Pd.fmtCode d false) && pdFormat (Pd.fmtCode d true)
    && kindAdmits (Pd.fmtCode d false) (Pd.kind d false) && kindAdmits (Pd.fmtCode d true) (Pd.kind d true)
    && Num.admissible (Pd.pitch d) (Pd.l d) (Pd.mode d) (Pd.worst d false) (Pd.worst d true)
    && (Pd.mode d != 2 || (decide (Pd.fmtCode d false ≤ 3) && decide (Pd.fmtCode d true ≤ 3) && Pd.kind d false == 0
        && Pd.kind d true == 0 && Pd.sparse d == 0))
    && (Pd.sparse d == 0 || (Pd.mode d == 0 && Pd.l d % Pd.kept d == 0 && Pd.kt d % Pd.l d == 0))

/-- R122: what a write of PD other than PITCH leaves: the value, with valid cleared when the admission fails. -/
def admitPd (v : W64) : W64 := setBit (v &&& 0xFFFFFFFFF#64) 63 (v.getLsbD 63 && Pd.admits v)

/-- R123: what PITCH writes. -/
def pitched (v : W64) : W64 := setBit v 63 true

end Sys2Proof.Machine
end

