-- ==== Sys2Proof/Machine/Tables.lean ====
section
/-!
DEFINITION. What the tables of a cluster share: handles (R267, R268, R297), the times, routes and orders of requests
(R280, R281, R310, R311), region control blocks (R306 to R308), region budgets (R332, R333), park entries (R271,
R272), the ready queue (R254, R255), wakes (R274), the operations on futures and spilled records (R269, R273, R277,
R279) and the release of waiting tasks (R298, R300, R331).
-/

namespace Sys2Proof.Machine

/-! Handles. -/

def hTag (h : W64) : Nat := bits h 60 4
def hPkg (h : W64) : Nat := bits h 52 8
def hCluster (h : W64) : Nat := bits h 50 2 * 36 + bits h 44 6
def hEnt (h : W64) : Nat := bits h 35 9
def hGen (h : W64) : BitVec 35 := BitVec.ofNat 35 h.toNat

def State.mkHandle (s : State) (tag cl ent : Nat) (gen : BitVec 35) : W64 :=
  BitVec.ofNat 64 (tag * 2 ^ 60 + s.pkg.pkgid.toNat * 2 ^ 52 + cl / 36 * 2 ^ 50 + cl % 36 * 2 ^ 44 + ent * 2 ^ 35 + gen.toNat)

def isFuture (h : W64) : Bool := hTag h == 10 && decide (bits h 44 6 < 36)
def isWaiting (h : W64) : Bool := hTag h == 11 && decide (bits h 44 6 < 36) && decide (hEnt h < 256)

def handleFault (h : W64) : Flt := { code := 16, addr := h }
def tenantFault (h : W64) : Flt := { code := 8, addr := h }
def staleFault (h : W64) : Flt := { code := 15, addr := h }

/-- R376: a package that no live link reaches is unreachable. (Log entry 22: DESIGN CHOICE, unsafe.) -/
def State.reaches (s : State) (pkg : Nat) : Bool :=
  pkg == s.pkg.pkgid.toNat || s.links.any fun l => l.2.up && l.2.peer.toNat == pkg

/-- R268, R337: the checks of a handle at issue. -/
def State.checkHandle (s : State) (ok : W64 → Bool) (h : W64) : Option Flt :=
  if !ok h then some (handleFault h) else if !s.reaches (hPkg h) then some (tenantFault h) else none

/-! Times, routes and orders of requests. -/

/-- R280: cycles from an issue to the perform of its request, and from the perform to the landing of the reply. (Log entry 23: DEDUCED, unsafe.) -/
def performTime (core cl : Nat) : Nat :=
  if clusterOf core = cl then 24 else if dieOf core = dieOfCluster cl then 60 else 80
/-- Log entry 23: DEDUCED, unsafe. -/
def replyTime (core cl : Nat) : Nat :=
  if clusterOf core = cl then 24 else if dieOf core = dieOfCluster cl then 60 else 80

/-- From a table to another cluster. (Log entry 23: DEDUCED, unsafe.) (log entry 60: DEDUCED, unsafe.) -/
def messageTime (a b : Nat) : Nat := if a = b then 24 else if dieOfCluster a = dieOfCluster b then 60 else 80

/-- R310: the row and column of a cluster in the package's grid. -/
def gridRow (cl : Nat) : Nat := 6 * (cl / 36 / 2) + cl % 36 / 6
def gridCol (cl : Nat) : Nat := 6 * (cl / 36 % 2) + cl % 36 % 6
/-- Log entry 58: DEDUCED, unsafe. -/
def gridCluster (row col : Nat) : Nat := (row / 6 * 2 + col / 6) * 36 + row % 6 * 6 + col % 6

/-- Numbers from a to b, either way. (Log entry 58: DEDUCED, unsafe.) -/
def span (a b : Nat) : List Nat := (List.range (Max.max a b + 1 - Min.min a b)).map (· + Min.min a b)

/-- R311: does every router of the route from one cluster to another admit the tenant? The message moves to its target's
column first, then to its row. A peer's request enters at its target. (Log entry 58: DEDUCED, unsafe.) -/
def State.routeAdmits (s : State) (a b : Nat) (tenant : BitVec 6) : Bool :=
  let a := if a < 144 then a else b
  let ok (cl : Nat) : Bool := (s.cluster cl).tmem.getLsbD tenant.toNat
  (span (gridCol a) (gridCol b)).all (fun c => ok (gridCluster (gridRow a) c))
    && (span (gridRow a) (gridRow b)).all fun r => ok (gridCluster r (gridCol b))

/-- The router port through which a message from cluster a reaches cluster b: north 0, east 1, south 2, west 3. -/
def arrivalPort (a b : Nat) : Nat :=
  if gridRow a < gridRow b then 0
  else if gridRow b < gridRow a then 2
  else if gridCol b < gridCol a then 1
  else 3

/-- R281: own cores first, then the router ports in their order, then Cheust links, then dispatch requests. -/
def Phase.table (t : Tid) (cl : Nat) : Nat :=
  if clusterOf t.core = cl then Phase.perform t
  else if 4096 ≤ t.core then 98000 + (t.core - 4096)
  else 20000 + 18500 * arrivalPort (clusterOf t.core) cl + t.core * 16 + t.slot
def Phase.dispatch (core : Nat) : Nat := 99000 + core % 8

/-- R377: what goes to a peer: a request carries the tenant and the peer PASID of its region. -/
def peerEv (pasid : BitVec 20) (ev : Ev) : Ev :=
  match ev with
  | .act (.future _ r) => .act (.peer { link := 0, tenant := r.tenant, pasid := pasid, op := .future r })
  | .run (.waitingTaskDecrement r) => .act (.peer { link := 0, tenant := r.tenant, pasid := pasid, op := .decrement r })
  | .act (.waitRequest _ t id h n) => .act (.peer { link := 0, tenant := n, pasid := pasid, op := .wait t id h })
  | .act (.wtRead _ t id h d n) => .act (.peer { link := 0, tenant := n, pasid := pasid, op := .waitRead t id h d })
  | e => e

/-- A request leaves for the table of a handle; `ahead` cycles of its way have passed since its issue. A request to
another package goes to its peer (R282, R377). -/
def State.toTable (s : State) (t : Tid) (h : W64) (ahead : Nat) (ev : Ev) : State :=
  if hPkg h ≠ s.pkg.pkgid.toNat then s.toPeer (hPkg h) h.toNat (peerEv (s.regionOf t).peer ev)
  else s.sched (s.now + performTime t.core (hCluster h) - ahead) (Phase.table t (hCluster h)) ev

/-- A reply of a table lands at a core, or goes back to the peer that has asked. -/
def State.fromTable (s : State) (core cl extra : Nat) (a : Act) : State :=
  if 4096 ≤ core then s.toPeer ((s.links.get {} (core - 4096)).peer.toNat) (core - 4096) (.act a)
  else
  let (d, s) := s.delay
  s.sched (s.now + replyTime core cl + extra + d) Phase.land (.act a)

/-- R169: a reply is a landing: a failed check repeats it in the next cycle. -/
def State.checked (s : State) (core : Nat) (a : Act) (k : State → State) : State :=
  let (bad, s) := s.stepCheck
  if bad then (s.postAt s.now (.landRepeat core)).sched (s.now + 1) Phase.land (.act a) else k s

/-- Where a read of n bytes that the Z4 makes for a context leads: its physical address, or the fault it meets (R315,
R316, R191, R195, R357). -/
def State.readPlace (s : State) (pasid : BitVec 20) (tenant : BitVec 6) (priv : Bool) (va n : Nat) : Except Flt Nat :=
  let a := BitVec.ofNat 64 va
  match s.pasidFault pasid tenant va, rootOf s pasid with
  | some f, _ => .error f
  | none, none => .error { code := 7, sub := 4, addr := a }
  | none, some (root, _) => match (if va / 2 ^ 55 ≠ 0 then .fault 2 else walkFrom s va 4 root) with
    | .fault sub => .error { code := 7, sub := sub, addr := a }
    | .leaf level e =>
      let pa := leafAddr level e va
      if !e.getLsbD 2 || (e.getLsbD 4 && !priv) then .error (protFault 6 a)
      else match s.place pa with
        | .none => .error { code := 7, sub := 3, addr := a }
        | .slate _ => .error (protFault 3 a)
        | .device => .error (protFault 0 a)
        | _ =>
          if s.isRetired pa then .error { code := 9, sub := 1, addr := a }
          else if s.errAt pa n = .uncorrectable then .error { code := 9, addr := a }
          else .ok pa

/-! Region control blocks (R306 to R308). -/

def State.rcbField (s : State) (pa lo n : Nat) : Nat :=
  s.physRead 0 (pa + lo / 8) ((lo % 8 + n + 7) / 8) / 2 ^ (lo % 8) % 2 ^ n

/-- The physical addresses from a region up to its tenant. -/
def State.rcbPath (s : State) : Nat → Nat → List Nat
  | 0, _ => []
  | fuel + 1, pa =>
    let up := s.rcbField pa 0 64
    if up = 0 then [pa] else pa :: s.rcbPath fuel up

/-- The region of a path whose own value a group takes (R307). -/
def State.groupAt (s : State) (g : Nat) : List Nat → Nat
  | [] => 0
  | [p] => p
  | p :: l => if (s.rcbField p 64 16).testBit g then p else s.groupAt g l

def State.groupField (s : State) (path : List Nat) (g lo n : Nat) : Nat := s.rcbField (s.groupAt g path) lo n

/-- R307: PRIVB takes effect only where every ancestor's does. -/
def State.privb (s : State) : List Nat → Bool
  | [] => true
  | p :: l => s.groupField (p :: l) 1 131 1 == 1 && s.privb l

/-- The regions of a path that have their own limit in each kind (R308, R341): kind, RCB ÷ 64 and limit. -/
def State.ownLimits (s : State) (path : List Nat) : List (Nat × Nat × Nat) :=
  let kinds : List (Nat × Nat × Nat × Nat) := [(0, 6, 256, 16), (1, 7, 272, 18), (2, 8, 290, 16), (3, 10, 352, 32), (4, 9, 320, 16)]
  let top := path.getLastD 0
  kinds.flatMap fun (k, g, lo, n) =>
    (path.filter fun p => p == top || (s.rcbField p 64 16).testBit g).map fun p => (k, p / 64, s.rcbField p lo n)

/-- R309: the effective fields of the region at a physical address. -/
def State.readRegion (s : State) (pa : Nat) : Region :=
  let path := s.rcbPath 8 pa
  let top := path.getLastD pa
  let f := s.groupField path
  let own := s.rcbField top
  { rcb := pa / 64, tenant := BitVec.ofNat 6 (own 136 6), pasid := BitVec.ofNat 20 (f 4 144 20),
    prio := BitVec.ofNat 3 (f 0 128 3), privb := s.privb path, rmode := BitVec.ofNat 2 (f 2 132 2), dbg := f 3 134 1 == 1,
    supv := BitVec.ofNat 64 (f 5 192 19), cpol := f 5 165 1 == 1, mesh := BitVec.ofNat 16 (own 416 16), age := f 11 384 32,
    sdepth := own 512 32, parkbase := BitVec.ofNat 64 (f 12 544 64),
    swapbase := BitVec.ofNat 64 (f 13 608 64),
    consts := (List.range 4).map fun j => (f 14 (672 + 128 * j) 64, f 14 (736 + 128 * j) 64)
    peer := BitVec.ofNat 20 (f 15 1184 20), limits := s.ownLimits path, top := top }

/-- The region of an RCB field: the copy that a team's placement holds, or else what memory holds. -/
def State.regionByRcb (s : State) (rcb : Nat) : Region :=
  match s.teams.findSome? fun x => x.2.bind fun t => if t.region.rcb = rcb then some t.region else none with
  | some r => r
  | none => s.readRegion (rcb * 64)

/-- The top region control block of a tenant that has a team. -/
def State.tenantTop (s : State) (tenant : BitVec 6) : Option Nat :=
  s.teams.findSome? fun x => x.2.bind fun t => if t.region.tenant = tenant then some t.region.top else none

/-! Region budgets (R332, R333): kinds 0 THREADS, 1 FUTURES, 2 WAITS, 3 CSB, 4 NETSLOT. -/

def Budget.count (b : Budget) (kind : Nat) : Nat :=
  match kind with
  | 0 => b.threads.toNat
  | 1 => b.futures.toNat
  | 2 => b.waits.toNat
  | 3 => b.csb.toNat
  | _ => b.netslot.toNat

def Budget.setCount (b : Budget) (kind v : Nat) : Budget :=
  match kind with
  | 0 => { b with threads := BitVec.ofNat 16 v }
  | 1 => { b with futures := BitVec.ofNat 18 v }
  | 2 => { b with waits := BitVec.ofNat 16 v }
  | 3 => { b with csb := BitVec.ofNat 32 v }
  | _ => { b with netslot := BitVec.ofNat 16 v }

/-- A count with what is reserved and not yet counted. (Log entry 28: DEDUCED, unsafe.) -/
def Budget.used (b : Budget) (kind : Nat) : Nat :=
  b.count kind + (if kind = 0 then b.thrRes else if kind = 1 then b.futRes else 0)

def State.budget (s : State) (rcb : Nat) : Option (Nat × Budget) :=
  s.budgets.find? fun x => x.2.valid && x.2.rcb.toNat == rcb

def State.modBudgets (s : State) (r : Region) (kind : Nat) (f : Budget → Budget) : State :=
  { s with budgets := s.budgets.map fun (i, b) =>
      if b.valid && r.limits.any (fun x => x.1 == kind && x.2.1 == b.rcb.toNat) then (i, f b) else (i, b) }

/-- R333: is a charge of n admitted on the region's path? (log entry 28: DEDUCED, unsafe.) -/
def State.admits (s : State) (r : Region) (kind n : Nat) : Bool :=
  (r.limits.filter (·.1 == kind)).all fun (_, rcb, lim) =>
    lim == 0 || (match s.budget rcb with
      | some (_, b) => decide (b.used kind + n ≤ lim)
      | none => true)

/-- Log entry 28: DEDUCED, unsafe. -/
def State.charge (s : State) (r : Region) (kind n : Nat) : State :=
  s.modBudgets r kind fun b => b.setCount kind (b.count kind + n)
def State.uncharge (s : State) (r : Region) (kind n : Nat) : State :=
  s.modBudgets r kind fun b => b.setCount kind (b.count kind - n)
def State.reserveFut (s : State) (r : Region) : State := s.modBudgets r 1 fun b => { b with futRes := b.futRes + 1 }
def State.unreserveFut (s : State) (r : Region) : State := s.modBudgets r 1 fun b => { b with futRes := b.futRes - 1 }
def State.reserveThr (s : State) (r : Region) (n : Nat) : State := s.modBudgets r 0 fun b => { b with thrRes := b.thrRes + n }
def State.unreserveThr (s : State) (r : Region) (n : Nat) : State := s.modBudgets r 0 fun b => { b with thrRes := b.thrRes - n }

/-! Park entries (R271, R272). -/

def State.mkPark (s : State) (cl idx : Nat) : BitVec 26 :=
  BitVec.ofNat 26 (s.pkg.pkgid.toNat * 2 ^ 18 + cl / 36 * 2 ^ 16 + cl % 36 * 2 ^ 10 + idx)
def parkPkg (p : BitVec 26) : Nat := p.toNat / 2 ^ 18
def parkCluster (p : BitVec 26) : Nat := p.toNat / 2 ^ 16 % 4 * 36 + p.toNat / 2 ^ 10 % 64
def parkIdx (p : BitVec 26) : Nat := p.toNat % 1024

def State.parkAt (s : State) (cl i : Nat) : Park := (s.cluster cl).parks.get {} i
def State.modParkAt (s : State) (cl i : Nat) (f : Park → Park) : State :=
  s.modCluster cl fun c => { c with parks := c.parks.put {} i (f (c.parks.get {} i)) }
def State.park (s : State) (p : BitVec 26) : Park := s.parkAt (parkCluster p) (parkIdx p)
def State.modPark (s : State) (p : BitVec 26) (f : Park → Park) : State := s.modParkAt (parkCluster p) (parkIdx p) f

def Cluster.freePark (c : Cluster) : Option Nat :=
  (List.range 1024).find? fun i => !(c.parks.get {} i).used
def Cluster.freeParks (c : Cluster) : Nat := 1024 - (c.parks.filter (·.2.used)).length

/-- R300: while a release waits, a free park entry goes to it. -/
def Cluster.parkForTask (c : Cluster) : Option Nat := if c.relWait.isEmpty then c.freePark else none

/-- A park entry becomes free: of the fields of R271, only PST changes, and no cancel request outlives its task. A waiting
release takes a free entry in the next cycle (R300), and a held SPAWNAT is tried again in the next cycle: R252 names no
cycle for that. (log entry 62: DESIGN CHOICE, unsafe.) -/
def State.dropPark (s : State) (cl i : Nat) : State :=
  let s := s.modParkAt cl i fun p =>
    { val := p.val, next := p.next, team := p.team, core := p.core, slot := p.slot, prio := p.prio, ocode := p.ocode }
  let s := if (s.cluster cl).relWait.isEmpty then s else s.sched (s.now + 1) Phase.land (.run (.releaseParkWait cl))
  if (s.cluster cl).spawnHeld.isEmpty then s else s.sched (s.now + 1) Phase.again (.act (.spawnRetry cl))

/-! The ready queue (R254, R255). -/

def readyIndex (kind ent rank : Nat) : BitVec 32 := BitVec.ofNat 32 (kind * 2 ^ 29 + ent * 2 ^ 20 + rank)

def Ready.before (a b : Ready) : Bool :=
  decide (b.prio.toNat < a.prio.toNat) || (a.prio == b.prio && (decide (a.cycle < b.cycle)
    || (a.cycle == b.cycle && decide (a.idx.toNat ≤ b.idx.toNat))))

def insertReady (r : Ready) : List Ready → List Ready
  | [] => [r]
  | x :: l => if x.before r then x :: insertReady r l else r :: x :: l

/-- R361: a ready entry or a push wakes the gated cores that may dispatch it. (Log entry 40: DEDUCED, unsafe.) -/
def State.wakeTeam (s : State) (cl : Nat) (team : BitVec 16) : State :=
  (List.range 8).foldl (fun s j => if (s.core (8 * cl + j)).team = some team then s.wake (8 * cl + j) else s) s

def State.addReady (s : State) (cl : Nat) (r : Ready) : State :=
  (s.modCluster cl fun c => { c with ready := insertReady r c.ready }).wakeTeam cl r.team

/-! Wakes (R274). -/

/-- The outcome of a wake at a park entry. A slot waiter's outcome lands at the reply time of its cluster. -/
def State.deliverWake (s : State) (ref : BitVec 26) (code : BitVec 6) (val : W64) (ent rank ready : Nat) : State :=
  let cl := parkCluster ref
  let p := s.park ref
  match p.pst.toNat with
  | 1 | 4 => (s.modPark ref fun p => { p with told := true }).sched (Max.max s.now (ready + 24)) Phase.land (.act (.outcome ref code val ent rank))
  | 2 => (s.modPark ref fun p => { p with ocode := code, val := val, pst := 3 }).addReady cl
      { cl := cl, prio := p.prio, cycle := ready, idx := readyIndex 0 ent rank, park := parkIdx ref, team := p.team, after := [] }
  | 5 => s.dropPark cl (parkIdx ref)
  | _ => s

/-- The table of cluster `cl` reaches a waiter: at once in its own cluster, by a message elsewhere. A waiter that has not
parked when the wake takes place does not park (R274). -/
def State.sendWake (s : State) (cl : Nat) (ref : BitVec 26) (code : BitVec 6) (val : W64) (ent rank : Nat) : State :=
  let there := parkCluster ref
  let s := if parkPkg ref = s.pkg.pkgid.toNat ∧ ((s.park ref).pst = 1 ∨ (s.park ref).pst = 4) then
    s.modPark ref fun p => { p with told := true } else s
  if parkPkg ref ≠ s.pkg.pkgid.toNat then
    s.toPeer (parkPkg ref) ent (.run (.wakeDelivery ref code val ent rank s.now))
  else if there = cl then s.deliverWake ref code val ent rank s.now
  else s.landAt (s.now + messageTime cl there) (.wakeDelivery ref code val ent rank s.now)

/-- R277: does a park entry of this package belong to the tenant? A free one belongs to none. -/
def State.parkOpen (s : State) (ref : BitVec 26) (tenant : BitVec 6) : Bool :=
  let p := s.park ref
  p.pst != 0 && match s.team p.team with
    | some t => t.region.tenant == tenant
    | none => true

/-- R311: is a park entry's cluster reached from cluster `cl` by the tenant's messages? A peer's routers check for
themselves. -/
def State.parkReached (s : State) (cl : Nat) (ref : BitVec 26) (tenant : BitVec 6) : Bool :=
  parkPkg ref != s.pkg.pkgid.toNat || parkCluster ref == cl || s.routeAdmits cl (parkCluster ref) tenant

/-- R271, R274, R277: the waiters from a reference on; the walk stops at a free entry and at one of another tenant. An entry
of another package is judged there, where the wake message finds it; the walk goes on with the NEXT that this table gave
it. A wake that a router rejects is discarded (R311): no instruction has sent it. (Log entry 23: DEDUCED, unsafe.) -/
def State.wakeFrom (s : State) (cl ent : Nat) (tenant : BitVec 6) (code : BitVec 6) (val : W64) (rank : Nat) :
    Nat → BitVec 26 → State
  | 0, _ => s
  | n + 1, ref =>
    let there := parkPkg ref ≠ s.pkg.pkgid.toNat
    let next := if there then (s.cluster cl).peerNext.get 0 ref.toNat else (s.park ref).next
    if !there && !s.parkOpen ref tenant then s
    else
      let s := if s.parkReached cl ref tenant then s.sendWake cl ref code val ent rank else s
      s.wakeFrom cl ent tenant code val (rank + 1) n next

/-- Log entry 23: DEDUCED, unsafe. -/
def execWakeDelivery (park : BitVec 26) (code : BitVec 6) (val : W64) (ent rank ready : Nat) (s : State) :
    Host.Outcome State Fault Refusal := .next (s.deliverWake park code val ent rank ready)

/-! Operations on a future (R273, R286 to R292). -/

def Future.pending (f : Future) : Bool := f.state == 1 || f.state == 2
def Future.finished (f : Future) : Bool := f.state == 3 || f.state == 4 || f.state == 5

/-- R291. -/
def Future.word (f : Future) (spilled : Bool) : W64 :=
  BitVec.ofNat 64 (spilled.toNat * 2 ^ 62 + f.drop.toNat * 2 ^ 61 + f.creq.toNat * 2 ^ 60 + f.fcode.toNat * 2 ^ 54
    + f.nwait.toNat * 2 ^ 34 + f.state.toNat)

/-- The outcome that a wake of a finished future delivers: OCODE and VAL (R274). -/
def Future.outcome (f : Future) : BitVec 6 × W64 :=
  if f.state = 3 then (0, f.value) else if f.state = 4 then (14, 0) else (13, f.fcode.zeroExtend 64)

/-- An event finishes a future. -/
def Future.finish (f : Future) (st : BitVec 3) : Future := { f with state := st }

/-- R273: an operation on a future: what it leaves, and its answer. -/
def Future.act (f : Future) (r : FReq) (spilled : Bool) : Future × FAns :=
  match r.op with
  | .touch =>
    if f.state = 3 then (f, { val := f.value })
    else if f.state = 4 then (f, { fault := some { code := 14, addr := r.handle } })
    else if f.state = 5 then (f, { fault := some { code := 13, addr := r.handle, info := f.fcode.zeroExtend 64 } })
    else if f.nwait = BitVec.allOnes 20 then (f, { fault := some { code := 20, addr := r.handle } })
    else ({ f with
        head := if f.nwait = 0 then r.park else f.head, tail := r.park, nwait := f.nwait + 1 }, { wait := true })
  | .touchp => (f, if f.state = 3 then { val := f.value, hit := true } else { val := f.word spilled })
  | .resolve => if f.pending then ({ f with state := 3, value := r.value }, { val := 1 }) else (f, { val := 0 })
  | .tend creq =>
    if f.state ≠ 2 then (f, {})
    else if creq || f.creq then (f.finish 4, {})
    else ({ f with state := 3, value := r.value }, {})
  | .halt => (if f.state = 2 then f.finish 4 else f, {})
  | .fcancel =>
    (if f.state = 1 then f.finish 4 else if f.state = 2 then { f with creq := true } else f, { val := f.state.zeroExtend 64 })
  | .fpoison code => if f.pending then ({ f with state := 5, fcode := code }, { val := 1 }) else (f, { val := 0 })
  | .kill code => (if f.state = 2 then { f with state := 5, fcode := code } else f, {})
  | .fstat => (f, { val := f.word spilled })
  | .fdrop => (if f.finished then f.finish 0 else { f with drop := true }, {})
  | .cancel => (if f.pending then f.finish 4 else f, {})
  | .dispatch => if f.state = 1 then ({ f with state := 2, task := r.park }, { won := true }) else (f, { won := f.state == 3 })

/-- R279: the operation finds no future. -/
def staleAns (r : FReq) : FAns :=
  match r.op with
  | .fstat | .touchp | .fcancel => { val := 7 }
  | .dispatch => {}
  | _ => { fault := some (staleFault r.handle) }

def hasReply (r : FReq) : Bool :=
  match r.op with
  | .tend _ | .halt | .kill _ | .cancel => false
  | _ => true

/-- An answer goes back to the request's core, `extra` cycles late. The answer to a dispatch request of a core of the
cluster itself is known at once, unless it comes from a record (R251). -/
def State.answerFuture (s : State) (cl : Nat) (r : FReq) (a : FAns) (extra : Nat := 0) (record : Bool := false) : State :=
  if !hasReply r then s
  else if r.op = .dispatch ∧ clusterOf r.tid.core = cl ∧ !record then
    s.modCore r.tid.core fun c => { c with dispatch := c.dispatch.map fun d => { d with answer := some a.won } }
  else s.fromTable r.tid.core cl extra (.futureReply r a)

/-- A park request (R311) that a table sends to a park entry's package. -/
def State.parkPeer (s : State) (region : Region) (ref : BitVec 26) (op : PeerOp) : State :=
  s.toPeer (parkPkg ref) ref.toNat (.act (.peer { link := 0, tenant := region.tenant, pasid := region.peer, op := op }))

/-- R271: a toucher joins behind the last waiter, whose NEXT names it; an entry that is free or another tenant's is not
changed (R277). (Log entry 23: DEDUCED, unsafe.) -/
def State.linkWaiter (s : State) (cl : Nat) (region : Region) (last next : BitVec 26) : State :=
  if parkPkg last ≠ s.pkg.pkgid.toNat then
    (s.modCluster cl fun c => { c with peerNext := c.peerNext.put 0 last.toNat next }).parkPeer region last (.parkNext last next)
  else if s.parkOpen last region.tenant && s.parkReached cl last region.tenant then s.modPark last fun p => { p with next := next }
  else s

/-- R289: the cancel request of a running task goes to its park entry. (Log entry 23: DEDUCED, unsafe.) -/
def State.sendCancel (s : State) (cl : Nat) (region : Region) (ref : BitVec 26) : State :=
  if parkPkg ref ≠ s.pkg.pkgid.toNat then s.parkPeer region ref (.creq ref)
  else if s.parkReached cl ref region.tenant then
    s.actAt (s.now + messageTime cl (parkCluster ref)) (.creq ref region.tenant)
  else s

/-- What follows a change from `old` to `new`: the wake, the cancel request to a running task, the last waiter's NEXT. -/
def State.afterAct (s : State) (cl : Nat) (r : FReq) (old new : Future) : State :=
  let region := s.regionByRcb new.rcb.toNat
  let s := if r.op = .touch ∧ new.nwait ≠ old.nwait ∧ old.nwait ≠ 0 then s.linkWaiter cl region old.tail r.park else s
  let s := if r.op = .fcancel ∧ old.state = 2 then s.sendCancel cl region old.task else s
  if new.finished && old.pending then
    let (code, val) := new.outcome
    s.wakeFrom cl (hEnt r.handle) region.tenant code val 0 new.nwait.toNat new.head
  else s

/-- A finished entry has been woken: it has no waiters, and is free where DROP is 1. HEAD and TAIL keep what they held:
R269 lists the wake among what changes them, and no rule gives a value. (log entry 62: DESIGN CHOICE, unsafe.) -/
def Future.settled (f : Future) : Future :=
  if !f.finished then f else if f.drop then { f with state := 0, nwait := 0 } else { f with nwait := 0 }

def State.futureEntry (s : State) (cl ent : Nat) : Future := (s.cluster cl).futures.get {} ent
def State.setFuture (s : State) (cl ent : Nat) (f : Future) : State :=
  s.modCluster cl fun c => { c with futures := c.futures.put {} ent f }

/-! Spilled records (R277, R279). -/

/-- The virtual address of a handle's slot, and the PASID it is read under; none for a tenant without a team. -/
def State.spillSlot (s : State) (tenant : BitVec 6) (h : W64) : Option (Nat × BitVec 20) :=
  match s.tenantTop tenant with
  | none => none
  | some top =>
    let depth := s.rcbField top 512 32
    let slot := ((hGen h).toNat * 73728 + hCluster h * 512 + hEnt h) % depth
    some ((s.rcbField top 448 64 + 64 * slot) % 2 ^ 64, BitVec.ofNat 20 (s.rcbField top 144 20))

/-- Where a handle's slot lies, or the fault of reading it, and with `write` of writing it too (R278). PO of its leaf does
not matter: no rule gives the table a privilege. (log entry 62: DESIGN CHOICE, unsafe.) -/
def State.spillPlace (s : State) (tenant : BitVec 6) (h : W64) (write : Bool) : Except Flt Nat :=
  match s.spillSlot tenant h with
  | none => .error { code := 7, addr := h }
  | some (va, pasid) => match rootOf s pasid with
    | none => .error { code := 7, sub := 4, addr := BitVec.ofNat 64 va }
    | some (root, _) => match (if va / 2 ^ 55 ≠ 0 then .fault 2 else walkFrom s va 4 root) with
      | .fault sub => .error { code := 7, sub := sub, addr := BitVec.ofNat 64 va }
      | .leaf level e =>
        let pa := leafAddr level e va
        if !e.getLsbD 2 || (write && !e.getLsbD 3) then .error (protFault 6 (BitVec.ofNat 64 va))
        else match s.place pa with
          | .none => .error { code := 7, sub := 3, addr := BitVec.ofNat 64 va }
          | .slate _ => .error (protFault 3 (BitVec.ofNat 64 va))
          | .device => .error (protFault 0 (BitVec.ofNat 64 va))
          | _ =>
            if s.isRetired pa then .error { code := 9, sub := 1, addr := BitVec.ofNat 64 va }
            else if s.errAt pa 64 = .uncorrectable then .error { code := 9, addr := BitVec.ofNat 64 va }
            else .ok pa

def Future.record (f : Future) (h : W64) : Nat :=
  f.rcb.toNat * 2 ^ 238 + f.task.toNat * 2 ^ 212 + f.tail.toNat * 2 ^ 186 + f.head.toNat * 2 ^ 160 + f.nwait.toNat * 2 ^ 140
    + f.fcode.toNat * 2 ^ 133 + f.creq.toNat * 2 ^ 132 + f.drop.toNat * 2 ^ 131 + f.state.toNat * 2 ^ 128
    + f.value.toNat * 2 ^ 64 + h.toNat

def Future.ofRecord (v : Nat) : Future :=
  let b (lo n : Nat) := v / 2 ^ lo % 2 ^ n
  { rcb := BitVec.ofNat 46 (b 238 46), task := BitVec.ofNat 26 (b 212 26), tail := BitVec.ofNat 26 (b 186 26)
    head := BitVec.ofNat 26 (b 160 26), nwait := BitVec.ofNat 20 (b 140 20), fcode := BitVec.ofNat 6 (b 133 6)
    creq := b 132 1 == 1, drop := b 131 1 == 1, state := BitVec.ofNat 3 (b 128 3), value := BitVec.ofNat 64 (b 64 64)
    gen := BitVec.ofNat 35 v }

/-- The cycle of an operation on a spilled record: it acts on what the slot holds, or finds STALE. One that changes the
record is performed once the write is acknowledged, 120 cycles after the read (R280): `done` says that it has been. What
arrives meanwhile for the same handle waits (R281). (Log entry 23: DEDUCED, unsafe.) (log entry 24: DEDUCED, unsafe.) -/
def State.recordTurn (s : State) (cl : Nat) (r : FReq) (done : Bool) : State :=
  match s.spillPlace r.tenant r.handle false with
  | .error _ => s.answerFuture cl r (staleAns r) 0 true
  | .ok pa =>
    let s := s.correct pa 64
    let v := s.physRead 0 pa 64
    if v % 2 ^ 64 ≠ r.handle.toNat then s.answerFuture cl r (staleAns r) 0 true
    else
      let old := Future.ofRecord v
      if (s.regionByRcb old.rcb.toNat).tenant ≠ r.tenant then
        s.answerFuture cl r { fault := some (tenantFault r.handle) } 0 true
      else
        let (new, a) := old.act r true
        let kept := new.settled
        if kept = old then s.answerFuture cl r a 0 true
        else if !done then
          (s.modCluster cl fun c => { c with recordBusy := c.recordBusy ++ [(r.handle, [])] }).sched (s.now + 120)
            (Phase.table r.tid cl) (.act (.recordDone cl r))
        else
          let s := s.physWrite 0 pa 64 (kept.record (if kept.state = 0 then 0 else r.handle))
          (s.afterAct cl r old new).answerFuture cl r a 0 true

/-- The record of a handle has been read for an operation. -/
def State.recordAct (s : State) (cl : Nat) (r : FReq) : State :=
  if (s.cluster cl).recordBusy.any (·.1 == r.handle) then
    s.modCluster cl fun c => { c with recordBusy := c.recordBusy.map fun x => if x.1 = r.handle then (x.1, x.2 ++ [r]) else x }
  else s.recordTurn cl r false

/-- A changed record has been written; what has waited for it goes on, in order of arrival. -/
def State.recordDone (s : State) (cl : Nat) (r : FReq) : State :=
  let waits := ((s.cluster cl).recordBusy.filter (·.1 == r.handle)).flatMap (·.2)
  let s := (s.modCluster cl fun c => { c with recordBusy := c.recordBusy.filter (·.1 ≠ r.handle) }).recordTurn cl r true
  waits.foldl (fun s w => s.recordAct cl w) s

/-- An operation finds no entry for its handle, and turns to its slot. A handle with no record finds STALE at the table's
own figure: R280 adds the read's latency for a spilled record. (Log entry 23: DEDUCED, unsafe.) -/
def State.toRecord (s : State) (cl : Nat) (r : FReq) (phase : Nat) : State :=
  match s.spillPlace r.tenant r.handle false with
  | .error _ => s.answerFuture cl r (staleAns r) 0 true
  | .ok pa =>
    if s.physRead 0 pa 8 ≠ r.handle.toNat then s.answerFuture cl r (staleAns r)
    else s.sched (s.now + s.walkTime (dieOfCluster cl) pa) phase (.act (.recordAct cl r))

/-- R279, R282: a request is performed at its table. (Log entry 23: DEDUCED, unsafe.) -/
def State.futureAct (s : State) (cl : Nat) (r : FReq) : State :=
  let ent := hEnt r.handle
  let e := s.futureEntry cl ent
  let hit := e.gen = hGen r.handle
  if !s.routeAdmits (clusterOf r.tid.core) cl r.tenant then s.answerFuture cl r { fault := some (tenantFault r.handle) }
  else if e.state = 6 ∧ hit then s.setFuture cl ent { e with held := e.held ++ [r] }
  else if e.state ≠ 0 ∧ e.state ≠ 6 ∧ hit then
    let region := s.regionByRcb e.rcb.toNat
    if region.tenant ≠ r.tenant then s.answerFuture cl r { fault := some (tenantFault r.handle) }
    else
      let (new, a) := e.act r false
      let kept := new.settled
      let s := (s.setFuture cl ent kept).afterAct cl r e new
      let s := if kept.state = 0 ∧ e.state ≠ 0 then s.uncharge region 1 1 else s
      s.answerFuture cl r a
  else s.toRecord cl r (Phase.table r.tid cl)

/-! Allocation and spills (R275 to R278). -/

/-- The lowest free entry without a reservation. -/
def Cluster.freeFuture (c : Cluster) : Option Nat :=
  (List.range 512).find? fun i => (c.futures.get {} i).state == 0 && (c.futures.get {} i).res.isNone

/-- R276: the victim. -/
def State.victim (s : State) (cl : Nat) (region : Region) : Option Nat :=
  let c := s.cluster cl
  let byBudget := !s.admits region 1 1
  let cand := c.futures.filter fun x => x.2.state != 0 && x.2.state != 6 && x.2.res.isNone
    && (if byBudget then x.2.rcb.toNat == region.rcb else (s.regionByRcb x.2.rcb.toNat).tenant == region.tenant)
  let age (f : Future) : Nat := (c.allocs - f.seq).toNat
  let oldest (l : List (Nat × Future)) : Option Nat :=
    (l.foldl (fun (m : Option (Nat × Future)) x => match m with
      | none => some x
      | some y => if age y.2 < age x.2 then some x else some y) none).map (·.1)
  match oldest (cand.filter fun x => x.2.finished && x.2.nwait == 0) with
  | some i => some i
  | none => match oldest (cand.filter fun x => x.2.pending && x.2.nwait == 0) with
    | some i => some i
    | none => oldest (cand.filter fun x => x.2.pending && x.2.nwait != 0)

/-- R273: a reserved entry becomes QUEUED: the entry's handle. HEAD, TAIL and TASK stay (R269). -/
def State.allocate (s : State) (cl ent : Nat) (region : Region) : State × W64 :=
  let c := s.cluster cl
  let f := c.futures.get {} ent
  let f : Future := { f with
    gen := f.gen + 1, state := 1, drop := false, creq := false, fcode := 0, nwait := 0, rcb := BitVec.ofNat 46 region.rcb
    seq := c.allocs, value := 0, res := none, prior := 0, held := [] }
  let s := (s.setFuture cl ent f).modCluster cl fun c => { c with allocs := c.allocs + 1 }
  (s.charge region 1 1, s.mkHandle 10 cl ent f.gen)

/-! Waiting tasks (R297 to R300, R331). -/

def State.waitEntry (s : State) (cl i : Nat) : WaitTask := (s.cluster cl).waits.get {} i
def State.modWait (s : State) (cl i : Nat) (f : WaitTask → WaitTask) : State :=
  s.modCluster cl fun c => { c with waits := c.waits.put {} i (f (c.waits.get {} i)) }

/-- A released entry takes park entry p. -/
def State.takeRelease (s : State) (cl i cycle p : Nat) : State :=
  let w := s.waitEntry cl i
  let s := s.modWait cl i fun w => { w with park := s.mkPark cl p }
  (s.modParkAt cl p fun _ => { team := w.team, prio := w.prio, pst := 3, handle := s.mkHandle 11 cl i w.gen, region := w.region }).addReady cl
    { cl := cl, prio := w.prio, cycle := cycle, idx := readyIndex 1 i 0, park := p, team := w.team, after := [] }

/-- The WAITs held on an entry are answered (R340): code 0 released, 1 STALE. -/
def State.answerWaits (s : State) (cl i : Nat) (code : Nat) : State :=
  let mine (x : Tid × Nat × W64) : Bool := hEnt x.2.2 == i
  let l := (s.cluster cl).waitHeld
  let s := s.modCluster cl fun c => { c with waitHeld := c.waitHeld.filter fun x => !mine x }
  (l.filter mine).foldl (fun s x => s.fromTable x.1.core cl 0 (.waitReply x.1 x.2.1 code x.2.2)) s

/-- R300: an entry is released. -/
def State.releaseEntry (s : State) (cl i : Nat) : State :=
  let s := (s.modWait cl i fun w => { w with state := 2, count := 0 }).answerWaits cl i 0
  match (s.cluster cl).parkForTask with
  | some p => s.takeRelease cl i s.now p
  | none => s.modCluster cl fun c => { c with relWait := c.relWait ++ [(s.now, i)] }

/-- R300: releases that waited take free park entries, earliest first, then by entry number. -/
def takeWaiting (cl : Nat) : Nat → State → State
  | 0, s => s
  | n + 1, s =>
    let l := (s.cluster cl).relWait
    let first := l.foldl (fun (m : Option (Nat × Nat)) x => match m with
      | none => some x
      | some y => if x.1 < y.1 ∨ (x.1 = y.1 ∧ x.2 < y.2) then some x else some y) none
    match first, (s.cluster cl).freePark with
    | some x, some p =>
      takeWaiting cl n ((s.modCluster cl fun c => { c with relWait := c.relWait.filter (· ≠ x) }).takeRelease cl x.2 x.1 p)
    | _, _ => s

def execReleaseParkWait (cluster : Nat) (s : State) : Host.Outcome State Fault Refusal :=
  .next (takeWaiting cluster (s.cluster cluster).relWait.length s)

/-- R297: the entry that a handle finds. -/
def State.findWait (s : State) (cl : Nat) (h : W64) : Option WaitTask :=
  let w := s.waitEntry cl (hEnt h)
  if w.gen = hGen h ∧ w.state ≠ 0 then some w else none

/-- R331: a decrement of k: the fault it meets, or the count it leaves. -/
def State.decrement (s : State) (cl : Nat) (h : W64) (k : Nat) (tenant : BitVec 6) : State × Option Flt × Nat :=
  match s.findWait cl h with
  | none => (s, some (staleFault h), 0)
  | some w =>
    if (s.regionByRcb w.rcb.toNat).tenant ≠ tenant then (s, some (tenantFault h), 0)
    else if w.sbl then (s, some (protFault 13 h), 0)
    else if w.count.toNat < k then (s, some { code := 12, addr := h }, 0)
    else
      let c := w.count.toNat - k
      let s := s.modWait cl (hEnt h) fun w => { w with count := BitVec.ofNat 20 c }
      (if c = 0 then s.releaseEntry cl (hEnt h) else s, none, c)

/-- R331: a decrement is performed at its table, and its reply or acknowledgement leaves. -/
def execWaitingTaskDecrement (r : Dec) (s : State) : Host.Outcome State Fault Refusal :=
  let cl := hCluster r.handle
  let (s, f, c) : State × Option Flt × Nat :=
    if !s.routeAdmits (clusterOf r.tid.core) cl r.tenant then (s, some (tenantFault r.handle), 0)
    else if r.k = 0 then (s, none, 0) else s.decrement cl r.handle r.k r.tenant
  .next (s.fromTable r.tid.core cl 0 (.decReply r f (BitVec.ofNat 64 c)))

end Sys2Proof.Machine
end

