-- ==== Sys2Proof/Machine/Threads.lean ====
section
/-!
DEFINITION. Threads in slots: the context of R77 and its binding (R272, R358), the emptying of a slot (R127, R232),
parking (R287), pre-emption (R359), the reload of an image, and the kill of a thread (R349).
-/

namespace Sys2Proof.Machine

/-! Battens and purlins of a slot. -/

/-- R139 and PREL's effect (R138). -/
def State.clearPurlin (s : State) (core n : Nat) : State :=
  s.modCore core fun c => { c with purlins := c.purlins.put {} n {} }

def Core.ownedPurlins (c : Core) (slot : Nat) : List Nat :=
  (List.range 4).filter fun n => (c.purlins.get {} n).claimed && (c.purlins.get {} n).owner.toNat == slot

def Core.ownedBattens (c : Core) (slot : Nat) : List Nat :=
  (List.range 16).filter fun b => (c.battens.get {} b).owned && (c.battens.get {} b).owner.toNat == slot

/-- R240: the cores of a cluster that a command delivers to. -/
def dealCores (c : Cmd) : List Nat :=
  (List.range 8).filter (fun j => c.desc.getLsbD (48 + j)) |>.map (clusterOf c.tid.core * 8 + ·)

def Cmd.packs (c : Cmd) : Bool := c.op != 0xC1 && c.op != 0xC3 && (c.fn == 2 || c.fn == 3 || c.fn == 4)

/-- The cores whose batten a command names. -/
def Cmd.battenCores (c : Cmd) : List Nat :=
  if !c.packs then [] else if c.op = 0xC0 then [c.tid.core] else dealCores c

/-- R232: does a command that has not completed name the batten? -/
def State.battenNamed (s : State) (core b : Nat) : Bool :=
  (List.range 8).any fun j =>
    (s.core (clusterOf core * 8 + j)).cmdqs.any fun q => q.2.any fun c => c.bat.toNat == b && c.battenCores.contains core

/-- The release of a batten: every field returns to its reset value. -/
def State.freeBatten (s : State) (core b : Nat) : State :=
  (s.modCore core fun c => { c with battens := c.battens.put {} b {} }).wakeNext core [Res.batten b, Res.battenPop b]

/-- R232: the battens of a slot are released once the commands that name them have stopped. -/
def State.releaseBattens (s : State) (t : Tid) : State :=
  ((s.core t.core).ownedBattens t.slot).foldl (fun s b =>
    if s.battenNamed t.core b then
      s.modCore t.core fun c => { c with battens := c.battens.put {} b { c.battens.get {} b with leaving := true } }
    else s.freeBatten t.core b) s

/-- R314: a batten released with entries or reservations is a hazard in debug mode. -/
def State.battenHazard (s : State) (t : Tid) : Bool :=
  (s.regionOf t).dbg && ((s.core t.core).ownedBattens t.slot).any fun b =>
    ((s.core t.core).battens.get {} b).count != 0 || ((s.core t.core).battens.get {} b).res != 0

/-! Binding (R77, R272, R358). -/

/-- R154, R157, R159, R309: a new context of a region. -/
def State.newCtx (s : State) (r : Region) (core slot : Nat) (pc : W64) (priv trail : Bool) (seeds : List (Reg × W64)) : Ctx :=
  let c := s.core core
  let paired := r.rmode = 1
  let stat := BitVec.ofNat 64 (r.prio.toNat * 2 ^ 16 + (if trail then 4 else 0) + (if paired then 2 else 0)
    + (if priv || c.kind == .firmware then 1 else 0))
  let ctx : Ctx :=
    { pc := pc, stat := stat, ctxb := tailImage c.part slot, region := BitVec.ofNat 64 (r.tenant.toNat * 2 ^ 58 + r.rcb * 64)
      pasid := r.pasid, supv := r.supv }
  seeds.foldl (fun x (y : Reg × W64) => x.wg y.1 y.2) ctx

/-- R358. -/
def State.bindingAddr (s : State) (t : Tid) (bind : BitVec 12) : Nat :=
  s.pkg.brbase.toNat + ((t.core * 16 + t.slot) * 4096 + bind.toNat) * 32
def State.writeBinding (s : State) (t : Tid) (k : Task) (c : Ctx) (ended : Bool) : State :=
  let v := k.park.toNat * 2 ^ 192 + k.team.toNat * 2 ^ 176 + (c.region.toNat / 64 % 2 ^ 46) * 2 ^ 130 + ended.toNat * 2 ^ 129
    + k.handle.toNat * 2 ^ 64
  s.physWrite 0 (s.bindingAddr t (s.slot t).bind) 32 v

/-- A context is bound to an empty slot: it is ready in this cycle, and its reserved thread slot is charged. -/
def State.bindNow (s : State) (t : Tid) (c : Ctx) (k : Task) : State :=
  let s := s.modSlot t fun x =>
    { st := .ready, ctx := c, elig := x.elig, bind := x.bind + 1, task := some k, acterr := x.acterr, code := x.code,
      sub := x.sub, spkt := x.spkt }
  let s := s.modCore t.core fun y => { y with rlines := y.rlines.filter fun l => !l.is t.slot }
  let s := (s.unreserveThr (s.regionOf t) 1).charge (s.regionOf t) 0 1
  let s := if k.forked || c.trail then s else s.modPark k.park fun p =>
    { p with
      pst := 1, team := k.team, core := BitVec.ofNat 11 t.core, slot := BitVec.ofNat 4 t.slot, prio := (s.regionOf t).prio
      res := false, handle := k.handle }
  s.writeBinding t k c false

/-- R358: a binding whose number is about to reach 0 or 2048 waits for the sweep of the home slices. -/
def State.bindSlot (s : State) (t : Tid) (c : Ctx) (k : Task) (e : BindEnd) : State :=
  let num := (s.slot t).bind.toNat + 1
  let s := s.modSlot t fun x => { x with reserved := true }
  if num = 2048 ∨ num = 4096 then (s.actAt s.now (.bindingSweep t)).actAt (s.now + 4096) (.bind t c k e)
  else s.actAt s.now (.bind t c k e)

/-- R358: every home slice writes back the dirty lines of the slot whose binding number lies in the half that begins; one
with an uncorrectable error is handled by its owner tag (R357). -/
def execBindingSweep (t : Tid) (s : State) : Host.Outcome State Fault Refusal :=
  let low := (s.slot t).bind.toNat + 1 ≠ 2048
  let mine (l : SLine) : Bool := l.dirty && l.opkg == s.pkg.pkgid && l.ocore.toNat == t.core && l.oslot.toNat == t.slot
    && (decide (l.obind.toNat < 2048) == low)
  let bad (x : Nat × Option SLine) : Bool := match x.2 with
    | some l => mine l && s.freshErr (x.1 % 2 ^ 46 * 64) 64
    | none => false
  let found := s.clusters.flatMap fun x => (x.2.slice.filter bad).map (·.1)
  let s : State := { s with clusters := s.clusters.map fun (i, c) => (i, { c with slice := c.slice.map fun (k, l) =>
    (k, l.map fun (l : SLine) => if mine l && !bad (k, some l) then { l with dirty := false } else l) }) }
  .next (found.foldl (fun (s : State) k => s.actAt s.now (.dirtyLineUe k)) s)

/-- Does another thread that FORK created in the same task still run (R179, R247, R287)? -/
def State.hasForks (s : State) (t : Tid) : Bool :=
  match (s.slot t).task with
  | none => false
  | some k => (s.core t.core).slots.any fun (n, x) => decide (n ≠ t.slot) && x.st != .empty && (match x.task with
      | some y => y.park == k.park && y.forked && y.team == k.team && !(x.ctx.trail && n == t.slot + 8)
      | none => false)

/-! Emptying a slot. -/

/-- The slot loses its thread: claims and battens are released, and its lines are forgotten. An entry that a spill has left
reserved for the thread (R278) is free for others from then on: no rule says what becomes of it. (Log entry 25: DEDUCED, unsafe.)
(log entry 62: DESIGN CHOICE, unsafe.) -/
def State.emptySlot (s : State) (t : Tid) : State :=
  let r := s.regionOf t
  let s := ((s.core t.core).ownedPurlins t.slot).foldl (fun s n => s.clearPurlin t.core n) s
  let s := ((s.releaseBattens t).dropLines t).uncharge r 0 1
  let s := if (s.cluster (clusterOf t.core)).futures.any (·.2.res == some t) then s.unreserveFut r else s
  let s := s.modCluster (clusterOf t.core) fun c => { c with futures := c.futures.map fun (i, f) =>
    (i, if f.res == some t then { f with res := none } else f) }
  s.modSlot t fun x => { elig := x.elig, bind := x.bind, acterr := x.acterr, code := x.code, sub := x.sub, spkt := x.spkt }

/-- R220: the digest of a thread that ends takes its place by virtual core and slot, after those of its slot's earlier
threads. -/
def insertDigest (x : Nat × List (Nat × List Nat)) : List (Nat × List (Nat × List Nat)) → List (Nat × List (Nat × List Nat))
  | [] => [x]
  | y :: l => if y.1 ≤ x.1 then y :: insertDigest x l else x :: y :: l

/-- Log entry 48: DEDUCED, unsafe. -/
def State.keepDigest (s : State) (t : Tid) : State :=
  match s.team (s.teamNo t) with
  | some x =>
    if x.partner.isNone then s
    else
      let d := ((s.core t.core).vcore.toNat * 16 + t.slot, (s.slot t).digest)
      s.setTeam (s.teamNo t).toNat (some { x with digests := insertDigest d x.digests })
  | none => s

/-- A thread ends: its binding record says so, and the park entry of a dispatched thread becomes free, or abandoned while
it stands in a waiter list (R272). -/
def State.endSlot (s : State) (t : Tid) : State :=
  match (s.slot t).task with
  | none => s.emptySlot t
  | some k =>
    let s := if k.forked || (s.ctx t).trail then s else s.uncharge (s.regionOf t) 3 k.csb
    let waits := (s.park k.park).pst = 4 || (s.slot t).touch.isSome
    let s := (s.keepDigest t).writeBinding t k (s.ctx t) true
    let s :=
      if k.forked || (s.ctx t).trail then s
      else if waits then s.modPark k.park fun p => { p with pst := 5 }
      else s.dropPark (parkCluster k.park) (parkIdx k.park)
    s.emptySlot t

/-- R273: the request that the end of a task sends to its future; none for a task without one. -/
def State.tellFuture (s : State) (t : Tid) (k : Task) (op : FOp) (value : W64) (ahead : Nat) : State :=
  if hTag k.handle ≠ 10 then s
  else
    let (id, s) := s.newId
    let r : FReq :=
      { id := id, op := op, handle := k.handle, value := value, carry := none, pc := 0, tid := t, bind := (s.slot t).bind
        park := k.park, d := 0, e := 0, tenant := (s.ctx t).tenant, issue := s.now }
    s.toTable t k.handle ahead (.act (.future (hCluster k.handle) r))

/-- R178, R249, R290: the end of a thread at c + 3. `value` is TEND's operand, `op` the request to its task's future. -/
def State.endThread (s : State) (t : Tid) (op : Option FOp) (value : W64) : State :=
  let x := s.slot t
  if x.st = .empty then s
  else
    let one (s : State) (t : Tid) : State := s.endSlot t
    let s := match x.task, op with
      | some k, some op => s.tellFuture t k op value 3
      | _, _ => s
    if x.ctx.paired then one (one s t) (partner t) else one s t

/-! The kill of a thread (R349). -/

/-- R349: steps 3 and 4, once the landings of R198 are over. In debug mode a kill that releases a batten in use reports the
hazard (R314). (Log entry 45: DEDUCED, unsafe.) (Log entry 38: DEDUCED, unsafe.) -/
def State.finishKill (s : State) (t : Tid) (code : BitVec 6) : State :=
  let s := if s.battenHazard t && s.placeFree t then s.sendThread t 1 (hazard 5 0) else s
  let s := match (s.slot t).task with
    | some k => if (s.ctx t).trail then s else s.tellFuture t k (if k.forked then .fpoison code else .kill code) 0 0
    | none => s
  s.endSlot t

/-! Images (R158, R160, R180). -/

/-- R154, R180: the system part of an image as CTXLD loads it. (Log entry 37: DEDUCED, safe.) -/
def State.loadSystem (s : State) (core : Nat) (c : Ctx) (r : Region) : Ctx :=
  let w (j : Nat) : W64 := BitVec.ofNat 64 (s.imageRead core c (8 * j) 8)
  let stat := w 2 &&& 0x7003F#64
  let wcs := (w 9).toNat
  { c with
    pc := w 0 &&& ~~~3#64, pd := admitPd (w 1), stat := setBit stat 0 (stat.getLsbD 0 && r.privb), otpc := w 4 &&& ~~~3#64
    cdepth := (w 8).truncate 3
    wc := (List.range 4).foldl (fun (m : Sparse (BitVec 8)) j => m.put 0 j (BitVec.ofNat 8 (wcs / 256 ^ j))) []
    waddr := Sparse.put 0 (Sparse.put 0 [] 0 (w 10)) 1 (w 12)
    wctl := Sparse.put 0 (Sparse.put 0 [] 0 (w 11 &&& 0x3FF#64)) 1 (w 13 &&& 0x3FF#64)
    stack := (List.range 4).foldl (fun (m : Sparse CEntry) j => m.put {} j (CEntry.of (w (16 + 2 * j)) (w (17 + 2 * j)))) [] }

/-- A context reloaded from an image that the Z4 wrote (R156, R159, R287, R359): REGION, PASID and SUPV too. The image is
found under the PASID of the region. (Log entry 37: DEDUCED, safe.) -/
def State.reload (s : State) (core : Nat) (r : Region) (image : W64) : Ctx :=
  let base : Ctx := { ctxb := image, pasid := r.pasid }
  let w (j : Nat) : W64 := BitVec.ofNat 64 (s.imageRead core base (8 * j) 8)
  { s.loadSystem core base r with
    region := w 5 &&& 0xFC0FFFFFFFFFFFC0#64, pasid := (w 6).truncate 20, supv := w 7 &&& 0x7FFFF#64 }

/-- R271: the image area of a park entry. -/
def parkImage (r : Region) (ref : BitVec 26) (trail : Bool) : W64 :=
  r.parkbase + BitVec.ofNat 64 ((parkCluster ref * 1024 + parkIdx ref) * 16384 + (if trail then 8192 else 0))

/-- R309: PARKBASE is read at each use. (Log entry 26: DESIGN CHOICE, unsafe.) -/
def State.parkBase (s : State) (r : Region) : Region :=
  { r with parkbase := BitVec.ofNat 64 (s.groupField (s.rcbPath 8 (r.rcb * 64)) 12 544 64) }

/-- All lines of a context, written to the image that CTXB names. -/
def State.writeImage (s : State) (t : Tid) : State :=
  (List.range (lineCount (s.core t.core).part)).foldl (fun s i => s.writeLine t i) s

/-- The lines of a context that its slot does not hold, read from its image. -/
def State.readAbsent (s : State) (t : Tid) : State :=
  (contextLines (s.core t.core).part).foldl (fun s i => if (s.core t.core).resident t.slot i then s else s.readLine t i) s

/-- R158, R287, R359: a context moves to another image. The lines that are dirty go there; where CTXB named another image
until now, none of its lines stands in the new one, and all of them go. (Log entry 26: DESIGN CHOICE, unsafe.) -/
def State.moveImage (s : State) (t : Tid) (image : W64) : State :=
  if (s.ctx t).ctxb = image then s.flush t
  else ((s.readAbsent t).modCtx t fun c => { c with ctxb := image }).writeImage t

/-- R359: the lines of pre-empted context p on a core go to its park image and leave. -/
def State.flushGhost (s : State) (core : Nat) (p : BitVec 26) : State :=
  let ls := (s.core core).rlines.filter fun (l : RLine) => l.past == some p
  let s := ls.foldl (fun s l => s.writeGhost core p l) s
  s.modCore core fun c => { c with
    rlines := c.rlines.filter fun l => l.past ≠ some p, ghosts := c.ghosts.filter fun g => g.1 ≠ p }

/-! Parking (R287). -/

/-- R287: may the task of thread t park? (log entry 25: DEDUCED, unsafe.) -/
def State.canPark (s : State) (t : Tid) : Bool :=
  let x := s.slot t
  let idle (t : Tid) : Bool :=
    let c := s.ctx t
    ((s.core t.core).ownedPurlins t.slot).isEmpty && ((s.core t.core).ownedBattens t.slot).isEmpty && s.quietThread t
      && c.rwc 0 == 0 && c.rwc 1 == 0 && c.rwc 2 == 0 && c.rwc 3 == 0
  (match x.task with
    | some k => !k.forked && !s.hasForks t && !(s.park k.park).told
    | none => false) && idle t && (!x.ctx.paired || idle (partner t))

def isFutureWait (x : Slot) : Bool :=
  match x.st with
  | .waiting (.future _) => true
  | _ => false

/-- Log entry 25: DEDUCED, unsafe. -/
def State.parkSlot (s : State) (t : Tid) (image : W64) : State :=
  ((s.moveImage t image).dropLines t).emptySlot t

/-- R287: a waiting TOUCH parks its task. The image writes are acknowledged at the time of R209. -/
def execPark (t : Tid) (s : State) : Host.Outcome State Fault Refusal :=
  let x := s.slot t
  .next <| match x.task with
  | some k =>
    if !(isFutureWait x && s.canPark t) then s
    else
      let r := s.parkBase (s.regionOf t)
      let far := match s.virt r.pasid (parkImage r k.park false).toNat with
        | some pa => if dieOfPlace pa (s.place pa) = dieOf t.core then 0 else 40
        | none => 0
      let s := s.modPark k.park fun p =>
        { p with pst := 2, acked := s.now + 120 + far, touch := x.touch, region := BitVec.ofNat 64 r.rcb, handle := k.handle
                 digest := x.digest }
      let s := if x.ctx.paired then s.parkSlot (partner t) (parkImage r k.park true) else s
      (s.parkSlot t (parkImage r k.park false)).count t.core 0xD
  | none => s

/-! Pre-emption (R179, R359). -/

/-- R359: the thread leaves its slot; its lines stay, evictable. (Log entry 25: DEDUCED, unsafe.) -/
def State.preempt (s : State) (t : Tid) : State :=
  match (s.slot t).task with
  | none => s
  | some k =>
    let r := s.parkBase (s.regionOf t)
    let image := parkImage r k.park false
    let s := if (s.ctx t).ctxb = image then s else s.readAbsent t
    let moved := (s.ctx t).ctxb ≠ image
    let s := s.modCtx t fun c => { c with ctxb := image }
    let c := s.ctx t
    let held := ((s.core t.core).rlines.filter fun (l : RLine) => l.is t.slot).map RLine.idx
    let absent := if moved then (contextLines (s.core t.core).part).filter fun i => !held.contains i else []
    let s := (List.range 4 ++ absent).foldl (fun s i => s.writeLine t i) s
    let s := s.modCore t.core fun y => { y with
      ghosts := (k.park, c) :: y.ghosts.filter (fun g => g.1 ≠ k.park)
      rlines := y.rlines.map fun l =>
        if l.is t.slot then { l with evict := true, dirty := l.dirty || moved, past := some k.park } else l }
    let s := s.modPark k.park fun p =>
      { p with pst := 3, acked := s.now, touch := none, region := BitVec.ofNat 64 r.rcb, handle := k.handle, ocode := 0
               digest := (s.slot t).digest }
    (s.emptySlot t).addReady (clusterOf t.core)
      { cl := parkCluster k.park, prio := (s.regionOf t).prio, cycle := s.now, idx := readyIndex 3 (16 * (t.core % 8) + t.slot) 0
        park := parkIdx k.park, team := k.team, after := [] }

/-- A resumed context meets the lines of its own that are still resident on the core that binds it. -/
def State.meetGhost (s : State) (t : Tid) (p : BitVec 26) : State :=
  match (s.core t.core).ghosts.find? (fun (g : BitVec 26 × Ctx) => g.1 == p) with
  | none => s
  | some (_, old) =>
    (s.modCtx t fun c => { c with g := old.g, k := old.k, v := old.v }).modCore t.core fun y =>
      { y with
        ghosts := y.ghosts.filter fun g => g.1 ≠ p
        rlines := y.rlines.map fun l => if l.past = some p then { l with slot := t.slot, past := none } else l }

/-- A team that is swapped out: what is on its way to its slots waits until it returns. -/
def State.swappedOut (s : State) (team : BitVec 16) : Bool :=
  match s.team team with
  | some t => !t.held.isEmpty
  | none => false

/-- R289: a cancel request of a tenant reaches the task; a park entry that is not the tenant's is not changed (R277). -/
def State.cancelTask (s : State) (ref : BitVec 26) (tenant : BitVec 6) : State :=
  let p := s.park ref
  if !s.parkOpen ref tenant then s
  else if s.swappedOut p.team ∧ (p.pst = 1 ∨ p.pst = 4) then s.actAt (s.now + 16) (.creq ref tenant)
  else if p.pst = 1 ∨ p.pst = 4 then
    (s.core p.core.toNat).slots.foldl (fun s (x : Nat × Slot) => match x.2.task with
      | some k => if k.park = ref ∧ !k.forked ∧ x.2.st ≠ .empty then s.modCtx ⟨p.core.toNat, x.1⟩ (·.setStat 3 true) else s
      | none => s) s
  else if p.pst = 2 ∨ p.pst = 3 then s.modPark ref fun p => { p with creq := true }
  else s

end Sys2Proof.Machine
end

