-- ==== Sys2Proof/Machine/Tasks.lean ====
section
/-!
DEFINITION. Tasks and futures, opcodes 0xD0 to 0xD9 (R283 to R292), spills (R278), and the dispatch of tasks to slots
(R251 to R253, R294).
-/

namespace Sys2Proof.Machine

/-! Requests of a pair: both threads present the same words; the leader's request goes out on the match, and the
trailing thread takes the reply's value from the load-value queue (R284, R337). -/

/-- A request without a reply to wait for. -/
def State.pairSend (s : State) (t : Tid) (words : List Nat) (addr : W64) (a : Act) (k : State → Step1) : Step1 :=
  if (s.ctx t).paired && s.cmpFull t then .wait (.change [pairKey t]) else k (s.emit t 3 words addr false a)

/-- A request whose reply the thread waits for. -/
def State.pairAsk (s : State) (t : Tid) (words : List Nat) (addr : W64) (id : Nat) (a : Act) (put : Nat → Ctx → Ctx) : Step1 :=
  let c := s.ctx t
  if c.isTrail && (s.slot t).presented then
    s.take t fun v s => .next ((s.modCtx t (put v)).modSlot t fun x => { x with presented := false })
  else if (c.paired && s.cmpFull t) || (c.isLead && s.lvqFull t) then .wait (.change [pairKey t])
  else if c.isTrail then
    .gone (((s.emit t 3 words addr false a).modSlot t fun x => { x with presented := true }).setSt t (.waiting (.change [pairKey t])))
  else .sent (s.emit t 3 words addr false a) id

/-- A request that the leading thread makes alone, `leave` cycles after its issue. -/
def State.leadAsk (s : State) (t : Tid) (leave id : Nat) (a : Act) (put : Nat → Ctx → Ctx) : Step1 :=
  let c := s.ctx t
  if c.isTrail then s.take t fun v s => .next (s.modCtx t (put v))
  else if c.isLead && s.lvqFull t then .wait (.change [pairKey t])
  else .sent (s.actAt (s.now + leave) a) id

def putG (d : Reg) (v : Nat) (c : Ctx) : Ctx := c.wg d (BitVec.ofNat 64 v)

/-! Task records (R283). -/

def recNt (r : BitVec 512) : Nat := r.toNat / 2 ^ 384 % 8
def recCarry (r : BitVec 512) : W64 := r.extractLsb' 448 64
def recTiles (r : BitVec 512) : Nat := r.toNat / 2 ^ 390 % 2 ^ 58 * 64
def recHandle (r : BitVec 512) : W64 := r.extractLsb' 64 64
def recPc (r : BitVec 512) : W64 := r.extractLsb' 0 64 &&& ~~~3#64
def recPriv (r : BitVec 512) : Bool := r.getLsbD 0
def recSeeds (r : BitVec 512) : List (Reg × W64) :=
  [(1, r.extractLsb' 128 64), (2, r.extractLsb' 192 64), (3, r.extractLsb' 256 64), (4, r.extractLsb' 320 64), (5, recHandle r)]

/-- The Z4's copy of a record, its reserved bits zero. -/
def recordCopy (r : BitVec 512) (handle pc : W64) (priv : Bool) : BitVec 512 :=
  BitVec.ofNat 512 (r.toNat / 2 ^ 390 * 2 ^ 390 + r.toNat / 2 ^ 128 % 2 ^ 259 * 2 ^ 128 + handle.toNat * 2 ^ 64 + pc.toNat / 4 * 4 + priv.toNat)

/-- R283: your record, as a spawn reads and checks it at issue. -/
def State.taskRecord (s : State) (t : Tid) (a : W64) : Except Flt (BitVec 512) :=
  if a.toNat % 64 ≠ 0 then .error (alignFault a)
  else match localFault (s.ctx t) (s.core t.core).exb a.toNat 64 false with
    | some f => .error f
    | none =>
      if s.localErr t.core a.toNat 64 = .uncorrectable then .error (ueFault a.toNat)
      else
        let r := BitVec.ofNat 512 (s.localRead t.core a.toNat 64)
        if 4 < recNt r then .error (protFault 12 a) else .ok r

/-- R285: the accesses that hold the dispatch of a task spawned now. -/
def State.spawnAfter (s : State) (t : Tid) : List Nat := (s.heldOuts t).map (·.id)

/-- R195, R335: the read of a task record corrects what it consumes, as an LDL of 64 bytes does. -/
def State.fixRecord (s : State) (t : Tid) (a : W64) : State := fixLocal s t.core a.toNat 64

/-- Log entry 17: DEDUCED, unsafe. -/
def State.outstanding (s : State) (ids : List Nat) : Bool :=
  !ids.isEmpty && s.cores.any fun c => c.2.outs.any fun o => ids.contains o.id

/-! Where a spawned task goes (R252, R253). -/

/-- R254: the record of a task of kind 2 or 4 lies in its park entry's image area. -/
def State.storeRecord (s : State) (r : Region) (ref : BitVec 26) (rec : BitVec 512) : State :=
  let r := s.parkBase r
  match s.virt r.pasid (parkImage r ref false).toNat with
  | some pa => s.physWrite 0 pa 64 rec.toNat
  | none => s
def State.loadRecord (s : State) (r : Region) (ref : BitVec 26) : BitVec 512 :=
  let r := s.parkBase r
  match s.virt r.pasid (parkImage r ref false).toNat with
  | some pa => BitVec.ofNat 512 (s.physRead 0 pa 64)
  | none => s.unread (parkImage r ref false).toNat

/-- A task enters the ready queue with kind 2 or 4 and park entry p. -/
def State.readyTask (s : State) (cl kind idx p csb : Nat) (q : Queued) : State :=
  let ref := s.mkPark cl p
  let region := match s.team q.team with
    | some x => x.region
    | none => {}
  let s := s.modParkAt cl p fun _ =>
    { team := q.team, prio := q.prio, pst := 3, handle := recHandle q.record, region := q.region, csb := csb }
  (s.storeRecord region ref q.record).addReady cl
    { cl := cl, prio := q.prio, cycle := s.now, idx := readyIndex kind idx 0, park := p, team := q.team, after := q.after }

/-- R252: pushes at the newest end of a deque, which is the last place of the list. -/
def State.pushDeque (s : State) (core : Nat) (q : Queued) : State :=
  (List.range 8).foldl (fun s j =>
      let k := clusterOf core * 8 + j
      if (s.core k).team = some q.team then s.wake k else s)
    (s.modCore core fun c => { c with deque := c.deque ++ [q] })

def Core.dequeRoom (c : Core) : Bool := decide (c.deque.length + c.dequeRes < 64)

/-- The tile descriptors that a record names (R283), and the fault of reading them. -/
def State.tileDescs (s : State) (r : Region) (priv : Bool) (base : Nat) : Nat → List (BitVec 512) × Option Flt
  | 0 => ([], none)
  | n + 1 =>
    let (l, f) := s.tileDescs r priv base n
    match f, s.readPlace r.pasid r.tenant priv (base + 64 * n) 64 with
    | some f, _ => (l, some f)
    | none, .error f => (l, some f)
    | none, .ok pa => (l ++ [BitVec.ofNat 512 (s.physRead 0 pa 64)], none)

/-- R253, R283: a task that names tiles waits in the ridge with a park entry; its descriptors are read now. -/
def State.startPrefetch (s : State) (cl core slot p : Nat) (q : Queued) : State :=
  let (id, s) := s.newId
  let r := match s.team q.team with
    | some x => x.region
    | none => {}
  let (l, f) := s.tileDescs r (recPriv q.record && r.privb) (recTiles q.record) (recNt q.record)
  let s := (List.range (recNt q.record)).foldl (fun (s : State) j =>
    match s.readPlace r.pasid r.tenant (recPriv q.record && r.privb) (recTiles q.record + 64 * j) 64 with
    | .ok pa => s.correct pa 64
    | .error _ => s) s
  let s := s.modParkAt cl p fun e =>
    { e with res := true, team := q.team, prio := q.prio, handle := recHandle q.record, region := q.region }
  s.modCluster cl fun c => { c with prefetch := c.prefetch ++
    [{ id := id, task := q, park := p, idx := 16 * (core % 8) + slot, descs := l, fault := f }] }

/-! SPAWN (R278, R285). -/

def execSpawn (h : Hdr) (d a : Reg) (pc : W64) (s : State) :=
  issue h [rG a, wG d] (resv := true) (fun ok s =>
    let t := s.cur
    let x := s.ctx t
    match s.taskRecord t (x.rg a) with
    | .error f => .fault f
    | .ok rec =>
      let cl := clusterOf t.core
      let c := s.cluster cl
      let region := s.regionOf t
      if x.isTrail then
        if (s.slot t).presented then
          s.take t fun v s => .next ((s.modCtx t (putG d v)).modSlot t fun y => { y with presented := false })
        else if s.cmpFull t then .wait (.change [pairKey t])
        else .gone (((s.emit t 3 [20, rec.toNat, pc.toNat] 0 false (.wakeKeys t.core [])).modSlot t fun y =>
          { y with presented := true }).setSt t (.waiting (.change [pairKey t])))
      else if x.isLead && (s.cmpFull t || s.lvqFull t) then .wait (.change [pairKey t])
      else
        let held := c.futures.find? fun f => f.2.res == some t && f.2.state == 0
        match (match held with
          | some f => some f.1
          | none => if s.admits region 1 1 then c.freeFuture else none) with
        | none =>
          if !ok then .next s
          else
            let (id, s) := s.newId
            let r : SReq :=
              { id := id, tid := t, bind := (s.slot t).bind, at_ := false, target := t.core, record := rec, pc := x.pc, priv := x.priv,
                team := (s.teamNo t).toNat, d := d, region := x.region, tenant := x.tenant, issue := s.now, after := [] }
            .sent (s.actAt (s.now + 3) (.spillSend r)) id
        | some ent =>
          let s := if ok then s.fixRecord t (x.rg a) else s
          let toDeque := recNt rec = 0 && (s.core t.core).dequeRoom
          match (if toDeque then some 0 else c.parkForTask) with
          | none => .hold 7
          | some p =>
            let f : Future := c.futures.get {} ent
            let handle := s.mkHandle 10 cl ent (f.gen + 1)
            let s := if held.isSome then s else s.reserveFut region
            let s := s.setFuture cl ent { f with res := some t }
            let s := if toDeque then s.modCore t.core fun y => { y with dequeRes := y.dequeRes + 1 }
              else s.modParkAt cl p fun e => { e with res := true }
            let q : Queued :=
              { record := recordCopy rec handle pc (x.priv && region.privb), team := s.teamNo t, region := BitVec.ofNat 64 region.rcb,
                prio := region.prio, after := s.spawnAfter t }
            let commit : Act := .spawnCommit t ent q toDeque (if toDeque then none else some p) ok
            if !ok then .next (s.actAt (s.now + 3) commit)
            else
              let s := s.emit t 3 [20, rec.toNat, pc.toNat] 0 false commit
              .next ((s.modCtx t (·.wg d handle)).pass t handle.toNat)) s

/-- R259: is the team of a spawned task being reset, or gone? Its future is CANCELLED at once, and no task is queued. -/
def State.noMoreTasks (s : State) (team : BitVec 16) : Bool :=
  match s.team team with
  | some x => x.reset
  | none => true

/-- The entry of a task that is never queued: no thread can have touched it. -/
def State.cancelEntry (s : State) (cl ent : Nat) : State := s.setFuture cl ent { s.futureEntry cl ent with state := 4 }

/-- A SPAWNAT that waits for room in a deque or a park table is tried in the next cycle. -/
def State.roomAgain (s : State) (cl : Nat) : State :=
  if (s.cluster cl).spawnHeld.isEmpty then s else s.sched (s.now + 1) Phase.again (.act (.spawnRetry cl))

/-- R285: at c + 3 the task is created, or the reservations of a failed issue are withdrawn. -/
def State.spawnCommit (s : State) (t : Tid) (ent : Nat) (q : Queued) (deque : Bool) (park : Option Nat) (ok : Bool) : State :=
  let cl := clusterOf t.core
  let region := s.regionByRcb q.region.toNat
  let s := s.setFuture cl ent { s.futureEntry cl ent with res := none }
  let s := s.unreserveFut region
  let s := if deque then s.modCore t.core fun y => { y with dequeRes := y.dequeRes - 1 } else s
  if !ok then
    match park with
    | some p => s.dropPark cl p
    | none => s.roomAgain cl
  else if s.noMoreTasks q.team then
    let s := ((s.allocate cl ent region).1).cancelEntry cl ent
    match park with
    | some p => s.dropPark cl p
    | none => s
  else
    let s := (s.allocate cl ent region).1
    match park with
    | none => s.pushDeque t.core q
    | some p =>
      if recNt q.record ≠ 0 then s.startPrefetch cl t.core t.slot p q
      else s.readyTask cl 4 (16 * (t.core % 8) + t.slot) p 0 q

/-! Spills (R278). -/

/-- The answer to a spawn that waits. -/
def State.spawnAnswer (s : State) (cl : Nat) (r : SReq) (f : Option Flt) (handle : W64) : State :=
  s.fromTable r.tid.core cl 0 (.spawnReply r f handle)

/-- R278, steps 1 and 2: the victim is chosen, and its slot is read. -/
def State.startSpill (s : State) (cl : Nat) (r : SReq) : State :=
  let region := s.regionByRcb (r.region.toNat / 64 % 2 ^ 46)
  match s.victim cl region with
  | none => s.spawnAnswer cl r (some { code := 20 }) 0
  | some i =>
    let f := s.futureEntry cl i
    let h := s.mkHandle 10 cl i f.gen
    match s.spillPlace r.tenant h true with
    | .error e => s.spawnAnswer cl r (some e) 0
    | .ok pa =>
      (s.setFuture cl i { f with state := 6, prior := f.state }).sched (s.now + s.walkTime (dieOfCluster cl) pa)
        (Phase.table r.tid cl) (.act (.spillRead r i))

def execFutureSpill (r : SReq) (s : State) : Host.Outcome State Fault Refusal := .next (s.startSpill (clusterOf r.target) r)

/-- The victim has returned to its former state, and operations held meanwhile act on it, in order of arrival (R281). -/
def State.reopen (s : State) (cl : Nat) (l : List FReq) : State := l.foldl (fun s r => s.futureAct cl r) s

/-- The victim has been spilled, and operations held meanwhile turn to its record, in order of arrival (R278, R281). -/
def State.reopenRecord (s : State) (cl : Nat) (l : List FReq) : State :=
  l.foldl (fun s r => s.toRecord cl r Phase.again) s

/-- R278, steps 3 and 4: the slot has been read. -/
def State.spillRead (s : State) (r : SReq) (ent : Nat) : State :=
  let cl := clusterOf r.target
  let f := s.futureEntry cl ent
  let h := s.mkHandle 10 cl ent f.gen
  let back (s : State) (e : Flt) : State :=
    ((s.setFuture cl ent { f with state := f.prior, held := [] }).reopen cl f.held).spawnAnswer cl r (some e) 0
  match s.spillPlace r.tenant h true with
  | .error e => back s e
  | .ok pa =>
    let s := s.correct pa 64
    if s.physRead 0 pa 8 ≠ 0 then back s { code := 17, addr := h }
    else
      let s := s.physWrite 0 pa 64 (({ f with state := f.prior } : Future).record h)
      let far := if dieOfPlace pa (s.place pa) = dieOfCluster cl then 0 else 40
      s.sched (s.now + 120 + far) (Phase.table r.tid cl) (.run (.spillAck r ent))

/-! SPAWNAT (R252, R285). -/

/-- The task of a SPAWNAT finds its place at the target, or is held with its entry reserved. -/
def State.spawnatPlace (s : State) (r : SReq) (ent : Nat) : Option State :=
  let cl := clusterOf r.target
  let region := s.regionByRcb (r.region.toNat / 64 % 2 ^ 46)
  let slotNo := 16 * (r.tid.core % 8) + r.tid.slot
  let go (s : State) (k : Queued → State → State) : State :=
    let s := s.setFuture cl ent { s.futureEntry cl ent with res := none }
    let (s, handle) := s.allocate cl ent region
    let q : Queued :=
      { record := recordCopy r.record handle r.pc r.priv, team := BitVec.ofNat 16 r.team, region := BitVec.ofNat 64 region.rcb
        prio := region.prio, after := r.after }
    (k q s).spawnAnswer cl r none handle
  if s.noMoreTasks (BitVec.ofNat 16 r.team) then some (go s fun _ s => s.cancelEntry cl ent)
  else if recNt r.record = 0 && (s.core r.target).dequeRoom then some (go s fun q s => s.pushDeque r.target q)
  else match (s.cluster cl).parkForTask with
    | none => none
    | some p => some (go s fun q s =>
        if recNt q.record ≠ 0 then s.startPrefetch cl r.tid.core r.tid.slot p q else s.readyTask cl 4 slotNo p 0 q)

def State.spawnatTake (s : State) (r : SReq) (ent : Nat) : State :=
  match s.spawnatPlace r ent with
  | some s => s
  | none =>
    let cl := clusterOf r.target
    (s.setFuture cl ent { s.futureEntry cl ent with res := some r.tid }).modCluster cl fun c =>
      { c with spawnHeld := c.spawnHeld ++ [(r, ent)] }

/-- A SPAWNAT is performed at its target's table. (Log entry 28: DEDUCED, unsafe.) -/
def State.spawnatAct (s : State) (r : SReq) : State :=
  let cl := clusterOf r.target
  let region := s.regionByRcb (r.region.toNat / 64 % 2 ^ 46)
  if !s.routeAdmits (clusterOf r.tid.core) cl r.tenant then s.spawnAnswer cl r (some { code := 8 }) 0
  else match (if s.admits region 1 1 then (s.cluster cl).freeFuture else none) with
    | some ent => s.spawnatTake r ent
    | none => s.startSpill cl r

/-- Held SPAWNATs are tried again, in arrival order, after a deque or the park table of the cluster gains room. -/
def retrySpawns : Nat → List (SReq × Nat) → State → State
  | _, [], s => s
  | cl, (r, ent) :: l, s =>
    match s.spawnatPlace r ent with
    | none => retrySpawns cl l s
    | some s => retrySpawns cl l (s.modCluster cl fun c => { c with spawnHeld := c.spawnHeld.filter fun x => x.1.id ≠ r.id })

/-- R278, step 4: the record is acknowledged: the entry is free, and reserved for the spawning thread or taken by the
SPAWNAT. -/
def execSpillAck (r : SReq) (ent : Nat) (s : State) : Host.Outcome State Fault Refusal :=
  let cl := clusterOf r.target
  let f := s.futureEntry cl ent
  let region := s.regionByRcb f.rcb.toNat
  let s := s.setFuture cl ent { f with state := 0, res := none, prior := 0, held := [] }
  let s := s.uncharge region 1 1
  let s := s.reopenRecord cl f.held
  .next <|
    if r.at_ then s.spawnatTake r ent
    else
      let s := s.setFuture cl ent { s.futureEntry cl ent with res := some r.tid }
      (s.reserveFut (s.regionByRcb (r.region.toNat / 64 % 2 ^ 46))).spawnAnswer cl r none 0

/-- The core of the team that has a virtual core number (R250). -/
def State.coreOfTeam (s : State) (team : BitVec 16) (v : Nat) : Option Nat :=
  match s.team team with
  | some x => x.cores[v]?
  | none => none

def execSpawnat (h : Hdr) (d a b : Reg) (pc : W64) (s : State) :=
  issue h [rG a, rG b, wG d] (fun _ s =>
    let t := s.cur
    let x := s.ctx t
    match s.taskRecord t (x.rg a) with
    | .error f => .fault f
    | .ok rec => match s.coreOfTeam (s.teamNo t) (x.rg b).toNat with
      | none => .fault (protFault 12 (x.rg b))
      | some target =>
        let (id, s) := (s.fixRecord t (x.rg a)).newId
        let r : SReq :=
          { id := id, tid := t, bind := (s.slot t).bind, at_ := true, target := target, record := rec, pc := pc,
            priv := x.priv && (s.regionOf t).privb, team := (s.teamNo t).toNat, d := d, region := x.region, tenant := x.tenant
            issue := s.now, after := s.spawnAfter t }
        s.pairAsk t [21, rec.toNat, (x.rg b).toNat, pc.toNat] 0 id (.spawnatSend r) (putG d)) s

/-- The reply to a spawn that waited: SPAWN issues again; SPAWNAT completes. -/
def State.spawnLand (s : State) (r : SReq) (f : Option Flt) (handle : W64) : State :=
  let x := s.slot r.tid
  if x.st = .empty ∨ x.bind ≠ r.bind then s
  else match f with
    | some f => s.raise r.tid f
    | none =>
      if r.at_ then ((s.landReg r.tid (.g r.d) handle.toNat).pass r.tid handle.toNat).land r.tid (x.ctx.pc) 16
      else match x.st with
        | .waiting _ => s.setSt r.tid .ready
        | _ => s

/-! TOUCH to FDROP (R286 to R292). -/

def State.newFReq (s : State) (op : FOp) (handle value : W64) (carry : Option Vec) (d : Reg) (e : KReg) : FReq × State :=
  let (id, s) := s.newId
  let t := s.cur
  let c := s.ctx t
  ({ id := id, op := op, handle := handle, value := value, carry := carry, pc := c.pc, tid := t, bind := (s.slot t).bind,
     park := ((s.slot t).task.map Task.park).getD 0, d := d, e := e, tenant := c.tenant, issue := s.now }, s)

/-- R407: does the operation complete without its reply? -/
def looseReq (r : FReq) : Bool :=
  match r.op with
  | .resolve | .fcancel | .fpoison _ => r.d == 0
  | _ => false

/-- R280: a request leaves its core; the reply of one that does not wait holds a release point (R407). -/
def State.futureSend (s : State) (r : FReq) : State :=
  let s := if looseReq r then s.addOut r.tid.core { id := r.id, slot := r.tid.slot, kind := .msg } else s
  s.toTable r.tid r.handle (if r.op = .touchp ∨ r.op = .fstat then 1 else 3) (.act (.future (hCluster r.handle) r))

/-- R286, R214: where both the handle and the carry address are bad, the handle's fault is raised: no rule orders the
two. (log entry 62: DESIGN CHOICE, unsafe.) -/
def execTouch (h : Hdr) (d a b : Reg) (s : State) :=
  issue h [rG a, rG b, wG d] (fun _ s =>
    let t := s.cur
    let c := s.ctx t
    match s.checkHandle isFuture (c.rg a), s.carry t (c.rg b) with
    | some f, _ => .fault f
    | none, .error f => .fault f
    | none, .ok desc =>
      let (r, s) := (s.fixCarry t (c.rg b)).newFReq .touch (c.rg a) 0 desc d 0
      let s' := if c.isTrail then s else s.modSlot t fun x => { x with touch := some r, outcome := none }
      s'.leadAsk t 3 r.id (.futureSend r) (putG d)) s

def execTouchp (h : Hdr) (d : Reg) (e : KReg) (a b : Reg) (s : State) :=
  issue h [rG a, rG b, wG d, wK e] (fun _ s =>
    let t := s.cur
    let c := s.ctx t
    match s.checkHandle isFuture (c.rg a), s.carry t (c.rg b) with
    | some f, _ => .fault f
    | none, .error f => .fault f
    | none, .ok desc =>
      let (r, s) := (s.fixCarry t (c.rg b)).newFReq .touchp (c.rg a) 0 desc d e
      s.leadAsk t 1 r.id (.futureSend r) fun v c => (putG d v c).wk e (Flags.ofBool (v / 2 ^ 64 == 1))) s

def execFstat (h : Hdr) (d a : Reg) (s : State) :=
  issue h [rG a, wG d] (fun _ s =>
    let t := s.cur
    let c := s.ctx t
    if !isFuture (c.rg a) then .next (s.modCtx t (·.wg d (BitVec.twoPow 64 63)))
    else if !s.reaches (hPkg (c.rg a)) then .fault (tenantFault (c.rg a))
    else
      let (r, s) := s.newFReq .fstat (c.rg a) 0 none d 0
      s.leadAsk t 1 r.id (.futureSend r) (putG d)) s

/-- RESOLVE, FCANCEL and FPOISON, which do not wait with D = 0; `rel` takes a release hold. -/
def futureOp (h : Hdr) (d a : Reg) (b : List Use) (rel : Bool) (op : Ctx → FOp × W64) (tag : Nat) (s : State) :
    Host.Outcome State Fault Refusal :=
  issue h (rG a :: wG d :: b) (fun _ s =>
    let t := s.cur
    let c := s.ctx t
    match s.checkHandle isFuture (c.rg a) with
    | some f => .fault f
    | none =>
      if rel && s.releaseHeld t then .hold 6
      else
        let (o, v) := op c
        let (r, s) := s.newFReq o (c.rg a) v none d 0
        let words := [tag, (c.rg a).toNat, v.toNat]
        if d = 0 then s.pairSend t words (c.rg a) (.futureSend r) fun s =>
          .next (if c.paired then s else s.addOut t.core { id := r.id, slot := t.slot, kind := .msg })
        else s.pairAsk t words (c.rg a) r.id (.futureSend r) (putG d)) s

def execResolve (h : Hdr) (d a : Reg) (b : Src) (s : State) :=
  futureOp h d a (rS b) true (fun c => (.resolve, c.rs b)) 22 s
def execFcancel (h : Hdr) (d a : Reg) (s : State) := futureOp h d a [] false (fun _ => (.fcancel, 0)) 23 s
def execFpoison (h : Hdr) (d a : Reg) (b : Src) (s : State) :=
  futureOp h d a (rS b) false (fun c => (.fpoison ((c.rs b).truncate 6), (c.rs b) &&& 63)) 24 s

def execFdrop (h : Hdr) (a : Reg) (s : State) :=
  issue h [rG a] (fun _ s =>
    let t := s.cur
    let c := s.ctx t
    match s.checkHandle isFuture (c.rg a) with
    | some f => .fault f
    | none =>
      let (r, s) := s.newFReq .fdrop (c.rg a) 0 none 0 0
      s.pairAsk t [25, (c.rg a).toNat] (c.rg a) r.id (.futureSend r) fun _ c => c) s

/-- The thread has issued its last instruction: it leaves its slot at c + 3 (`kind` 1 TEND, 2 HALT). In debug mode it may
leave no batten in use (R314). -/
def State.lastIssue (s : State) (t : Tid) (kind : Nat) (value : W64) : Step1 :=
  let c := s.ctx t
  if s.battenHazard t then .fault (hazard 5 0)
  else
  let (id, s) := s.newId
  let send (s : State) : Step1 := .gone ((s.finish t (c.pc + 8)).setSt t (.waiting (.event id)))
  if c.paired then s.pairSend t [26, kind, value.toNat] 0 (.endThread (leadOf t) kind value) send
  else send (s.actAt (s.now + 3) (.endThread t kind value))

def execTend (h : Hdr) (a : Reg) (s : State) :=
  issue h [rG a] (fun _ s =>
    let t := s.cur
    let c := s.ctx t
    let forked := match (s.slot t).task with
      | some k => k.forked
      | none => false
    if forked then .fault (protFault 12)
    else if c.mustWait 5 then .wait (.counters 5)
    else if s.hasForks t || s.releaseHeld t then .hold 6
    else s.lastIssue t 1 (c.rg a)) s

/-! Replies. -/

/-- A TOUCH that delivers its value: the register, the acquire and the next word. -/
def State.touchDone (s : State) (t : Tid) (r : FReq) (v : W64) : State :=
  let s := (s.landReg t (.g r.d) v.toNat).pass t v.toNat
  let s := s.acquire t r.carry
  (s.modSlot t fun x => { x with touch := none, outcome := none }).land t r.pc 8

/-- R286: the outcome of a wake completes a waiting TOUCH. (Log entry 44: DEDUCED, unsafe.) -/
def State.touchOutcome (s : State) (t : Tid) (r : FReq) (code : BitVec 6) (v : W64) : State :=
  let s := match (s.slot t).task with
    | some k => s.modPark k.park fun p => { p with pst := if p.pst = 4 then 1 else p.pst, told := false }
    | none => s
  if code = 0 then s.touchDone t r v
  else (s.modSlot t fun x => { x with touch := none, outcome := none }).raise t
    { code := code, addr := r.handle, info := if code = 13 then v else 0 }

/-- R274: an outcome lands at the slots of a park entry's task; a task that has parked meanwhile is woken there. (Log entry 44: DEDUCED, unsafe.) -/
def State.outcomeLands (s : State) (ref : BitVec 26) (code : BitVec 6) (v : W64) (ent rank : Nat) : State :=
  let p := s.park ref
  if p.pst = 2 then s.deliverWake ref code v ent rank s.now
  else if s.swappedOut p.team then s.sched (s.now + 16) Phase.land (.act (.outcome ref code v ent rank))
  else
    let core := p.core.toNat
    let mine (x : Nat × Slot) : Bool := x.2.st != .empty && !x.2.ctx.trail && x.2.outcome.isNone
      && (match x.2.task, x.2.touch with
        | some k, some r => k.park == ref && hEnt r.handle == ent
        | _, _ => false)
    match (s.core core).slots.find? mine with
    | none => s
    | some (n, x) => match x.touch with
      | none => s
      | some r =>
        if isFutureWait x then s.touchOutcome ⟨core, n⟩ r code v
        else s.modSlot ⟨core, n⟩ fun y => { y with outcome := some (code, v) }

/-- The reply of a request at a future's table lands (R280, R284 to R292). -/
def State.futureLands (s : State) (r : FReq) (a : FAns) : State :=
  let t := r.tid
  let s := if looseReq r then s.dropOut t.core r.id else s
  let x := s.slot t
  if r.op = .dispatch then s.modCore t.core fun c => { c with dispatch := c.dispatch.map fun d => { d with answer := some a.won } }
  else if x.st = .empty ∨ x.bind ≠ r.bind then s
  else
    let loose := looseReq r
    match a.fault with
    | some f =>
      if loose then s.deferFault t r.bind f
      else (s.modSlot t fun x => { x with touch := none }).raise t f
    | none =>
      if loose then s
      else match r.op with
        | .touch =>
          if !a.wait then s.touchDone t r a.val
          else match x.outcome with
            | some (code, v) => s.touchOutcome t r code v
            | none =>
              let s := match x.task with
                | some k => s.modPark k.park fun p => if p.told then p else { p with pst := 4 }
                | none => s
              s.setSt t (.waiting (.future r.id))
        | .touchp =>
          let s := (s.landReg t (.g r.d) a.val.toNat).modCtx t (·.wk r.e (Flags.ofBool a.hit))
          let s := if r.e = 15 then s else s.dirtyLine t (4 + r.e.toNat / 8)
          let s := s.pass t (a.val.toNat + (if a.hit then 2 ^ 64 else 0))
          (if a.hit then s.acquire t r.carry else s).land t r.pc 8
        | .fdrop => (s.pass t 0).land t r.pc 8
        | _ => ((s.landReg t (.g r.d) a.val.toNat).pass t a.val.toNat).land t r.pc 8

/-! Dispatch (R251, R253, R294). -/

/-- The lowest slot that a task could take, among those that `ok` admits; in paired mode the lower of an empty pair. (Log entry 27: DEDUCED, unsafe.) -/
def Core.freeSlot (c : Core) (paired : Bool) (ok : Slot → Bool := fun _ => true) : Option Nat :=
  let free (n : Nat) : Bool := (c.slot n).st == .empty && !(c.slot n).reserved && ok (c.slot n)
  if paired then (List.range 8).find? fun j => free j && free (j + 8)
  else (List.range (slotCount c.part)).find? free

/-- R251: the lowest slot that is eligible (R19) in cycle `now`; where none is, the lowest one. (Log entry 27: DEDUCED, unsafe.) -/
def Core.bindingSlot (c : Core) (paired : Bool) (now : Nat) : Option Nat :=
  (c.freeSlot paired fun x => decide (x.elig ≤ now)).or (c.freeSlot paired)

def State.teamRegion (s : State) (team : BitVec 16) : Region :=
  match s.team team with
  | some x => x.region
  | none => {}

/-- R251: may a core choose a task in this cycle? -/
def State.mayChoose (s : State) (core : Nat) : Option (BitVec 16) :=
  let c := s.core core
  match c.team with
  | none => none
  | some team =>
    if c.dispatch.isSome || c.chosenAt == s.now + 1 || c.quar || c.stopped || c.gate != .powered || c.kind != .program
      || (c.freeSlot ((s.teamRegion team).rmode == 1)).isNone then none
    else some team

/-- R251: the first task of the ready queue or of the core's own deque that the order of sources yields. -/
def State.chooseOwn (s : State) (core : Nat) (team : BitVec 16) : Option (Source × Nat × Nat) :=
  let c := s.cluster (clusterOf core)
  let region := s.teamRegion team
  if !s.admits region 0 (if region.rmode = 1 then 2 else 1) then none
  else match c.ready.find? fun r => decide (r.cycle ≤ s.now) && r.team == team && !s.outstanding r.after with
    | some r => some (.ready r, 4, core)
    | none => match (s.core core).deque.getLast? with
      | some q => if c.parkForTask.isSome && q.team == team && !s.outstanding q.after then some (.deque q, 2, core) else none
      | none => none

/-- R252: does a core choose, in this cycle, the one entry that its deque holds, or has it? (log entry 27: DEDUCED, unsafe.) -/
def State.ownerTakes (s : State) (v : Nat) : Bool :=
  let c := s.core v
  (match s.mayChoose v with
    | none => false
    | some team => match s.chooseOwn v team with
      | some (.deque _, _, _) => c.deque.length == 1
      | _ => false)
    || (c.deque.isEmpty && c.chosenAt == s.now + 1 && match c.dispatch with
      | some ⟨.deque _, t, due, _⟩ => t == s.now && due == t + 2
      | _ => false)

/-- R251, order 3: the oldest entry of the deque of core v; `some none` where its owner takes it in this cycle, so that the
thief goes on only in the next one (R252). (Log entry 27: DEDUCED, unsafe.) -/
def State.steal (s : State) (v : Nat) (team : BitVec 16) : Option (Option (Source × Nat × Nat)) :=
  if (s.core v).team ≠ some team then none
  else if s.ownerTakes v then some none
  else match (s.core v).deque.head? with
    | some q => if q.team == team && !s.outstanding q.after then some (some (.deque q, 6, v)) else none
    | none => none

/-- R251: the first task that the order of sources yields. -/
def State.choose (s : State) (core : Nat) (team : BitVec 16) : Option (Source × Nat × Nat) :=
  let region := s.teamRegion team
  let near (k : Nat) : Nat := clusterOf core * 8 + (core + k) % 8
  match s.chooseOwn core team with
  | some x => some x
  | none =>
    if !s.admits region 0 (if region.rmode = 1 then 2 else 1) || (s.cluster (clusterOf core)).parkForTask.isNone then none
    else match s.steal (near 1) team with
      | some x => x
      | none => (s.steal (near 7) team).join

/-- R251: a core chooses a task; a task with a future that is dispatched for the first time asks its future. -/
def execTaskDispatchChoice (core : Nat) (s : State) : Host.Outcome State Fault Refusal :=
  .next <| match s.mayChoose core with
  | none => s
  | some team => match s.choose core team with
    | none => s
    | some (src, d, victim) =>
      let region := s.teamRegion team
      let s := s.reserveThr region (if region.rmode = 1 then 2 else 1)
      match src with
      | .ready r =>
        let cl := clusterOf core
        let s := s.modCluster cl fun c => { c with ready := c.ready.filter (· ≠ r) }
        let kind := r.idx.toNat / 2 ^ 29
        let asks := kind = 2 ∨ kind = 4
        let s := s.modCore core fun c => { c with
          chosenAt := s.now + 1, dispatch := some ⟨src, s.now, s.now + d, if asks then none else some true⟩ }
        if asks then s.sched s.now (Phase.dispatch core) (.run (.dispatchRequest core)) else s
      | .deque q =>
        let cl := clusterOf core
        let p := (s.cluster cl).parkForTask.getD 0
        let s := s.modParkAt cl p fun e =>
          { e with res := true, team := q.team, handle := recHandle q.record, region := q.region }
        let s := s.modCore victim fun c => { c with
          deque := if victim = core then c.deque.dropLast else c.deque.drop 1 }
        let s := if victim = core then s else s.count core 0xC
        let s := s.roomAgain cl
        (s.modCore core fun c => { c with chosenAt := s.now + 1, dispatch := some ⟨src, s.now, s.now + d, none⟩ }).sched s.now
          (Phase.dispatch core) (.run (.dispatchRequest core))

/-- The park entry that a dispatch in flight holds. -/
def State.dispatchPark (s : State) (core : Nat) (d : Dispatch) : Nat :=
  match d.src with
  | .ready r => r.park
  | .deque q =>
    let c := s.cluster (clusterOf core)
    ((List.range 1024).find? fun i => (c.parks.get {} i).res && (c.parks.get {} i).handle == recHandle q.record).getD 0

/-- The cluster of that entry. -/
def Dispatch.cl (d : Dispatch) (core : Nat) : Nat :=
  match d.src with
  | .ready r => r.cl
  | .deque _ => clusterOf core

def State.dispatchHandle (s : State) (d : Dispatch) : W64 :=
  match d.src with
  | .ready r => (s.parkAt r.cl r.park).handle
  | .deque q => recHandle q.record

/-- R251: the dispatch request of a core's choice. -/
def execDispatchRequest (core : Nat) (s : State) : Host.Outcome State Fault Refusal :=
  .next <| match (s.core core).dispatch with
  | none => s
  | some d =>
    let h := s.dispatchHandle d
    let team := match d.src with
      | .ready r => r.team
      | .deque q => q.team
    let (id, s) := s.newId
    let r : FReq :=
      { id := id, op := .dispatch, handle := h, value := 0, carry := none, pc := 0, tid := ⟨core, 0⟩, bind := 0
        park := s.mkPark (d.cl core) (s.dispatchPark core d), d := 0, e := 0, tenant := (s.teamRegion team).tenant, issue := s.now }
    if hPkg h = s.pkg.pkgid.toNat ∧ hCluster h = clusterOf core then s.futureAct (hCluster h) r
    else s.toTable ⟨core, 0⟩ h 0 (.act (.future (hCluster h) r))

/-- The acquire of a dispatched task (R211, R283): its descriptor is read at the dispatch, and it takes effect in the cycle
before the first issue. -/
def State.dispatchAcquire (s : State) (t : Tid) (carry : W64) : State :=
  match s.carry t carry with
  | .ok d => (s.fixCarry t carry).modSlot t fun x => { x with acq := some d }
  | .error _ => s.modSlot t fun x => { x with acq := some none }

/-- R390: lines of a bound context come to be resident, as many as find room. (Log entry 15: DESIGN CHOICE, unsafe.) -/
def State.prefill (s : State) (t : Tid) : State :=
  let c := s.core t.core
  s.fillLines t (((contextLines c.part).filter fun i => !c.resident t.slot i).take (384 - c.rlines.length))

/-- A new task starts in a slot. -/
def State.startTask (s : State) (t : Tid) (team : BitVec 16) (cl p : Nat) (rec : BitVec 512) (handle : W64) (csb : Nat) : State :=
  let region := s.teamRegion team
  let priv := recPriv rec && region.privb
  let k : Task := { team := team, vcore := (s.core t.core).vcore, park := s.mkPark cl p, handle := handle, forked := false, csb := csb }
  let c (n : Nat) (trail : Bool) : Ctx := s.newCtx region t.core n (recPc rec) priv trail (recSeeds rec)
  let s := s.bindSlot t (c t.slot false) k (.acquire (recCarry rec))
  if region.rmode = 1 then s.bindSlot (partner t) (c (t.slot + 8) true) k .fresh else s

/-- A parked or pre-empted task resumes in a slot. -/
def State.resumeTask (s : State) (t : Tid) (team : BitVec 16) (cl p : Nat) : State :=
  let ref := s.mkPark cl p
  let e := s.parkAt cl p
  let region := s.parkBase (s.teamRegion team)
  let k : Task := { team := team, vcore := (s.core t.core).vcore, park := ref, handle := e.handle, forked := false, csb := e.csb }
  let s := s.cores.foldl (fun s (c : Nat × Core) =>
    if c.1 ≠ t.core ∧ c.2.ghosts.any (fun g => g.1 == ref) then s.flushGhost c.1 ref else s) s
  let s := s.modPark ref fun p => { p with touch := none, ocode := 0, val := 0, digest := [] }
  let s := s.bindSlot t (s.reload t.core region (parkImage region ref false)) k (.resume e)
  if region.rmode = 1 then s.bindSlot (partner t) (s.reload t.core region (parkImage region ref true)) k (.resume e) else s

/-- What follows a binding: a resumed TOUCH completes before its task's first issue, with the lines of its context resident
(R286, R287, R390), and its acquire is that of R211. A pre-empted task that another core binds takes a full acquire, so
that it reads what it has written (R213). (Log entry 15: DESIGN CHOICE, unsafe.) (log entry 61: DEDUCED, unsafe.) -/
def State.afterBind (s : State) (t : Tid) (ref : BitVec 26) (b : BindEnd) : State :=
  match b with
  | .fresh => s
  | .acquire carry => s.dispatchAcquire t carry
  | .resume e =>
    let s := (s.meetGhost t ref).modSlot t fun x => { x with digest := e.digest }
    let s := if e.creq || (s.park ref).creq then s.modCtx t (·.setStat 3 true) else s
    let s := if (s.ctx t).isLead then s else s.modPark ref fun p => { p with creq := false }
    match e.touch with
    | none => if e.core.toNat = t.core then s else s.modSlot t fun x => { x with acq := some none }
    | some r =>
      let s := s.prefill t
      if e.ocode = 0 then
        ((s.landReg t (.g r.d) e.val.toNat).modSlot t fun x => { x with acq := some r.carry }).land t r.pc 8
      else s.raise t { code := e.ocode, addr := r.handle, info := if e.ocode = 13 then e.val else 0 }

/-- R77, R160: the image of a new context is written with its first values, and as many of its lines as find room are
resident (log entry 15: DESIGN CHOICE, unsafe). -/
def State.freshImage (s : State) (t : Tid) : State :=
  let c := s.ctx t
  let base := c.imageAddr
  let part := (s.core t.core).part
  let lines := lineCount part
  let held := fun (rl : List RLine) => (contextLines part).take (384 - rl.length)
  let s := s.modCore t.core fun y => { y with
    mem := (List.range (8 * lines)).foldl (fun m j =>
        let w := c.imageWord part j
        if w = 0 then m else poke m (base + 8 * j) 8 w.toNat)
      (y.mem.filter fun x => !(decide (base ≤ x.1) && decide (x.1 < base + 64 * lines)))
    rlines := y.rlines ++ (held y.rlines).map fun i =>
      { slot := t.slot, idx := i, dirty := false, evict := false } }
  { s with localErrs := clearErrs s.localErrs (localErrBase t.core) base (64 * lines) }

/-- The context is bound, and what follows. (Log entry 15: DESIGN CHOICE, unsafe.) -/
def State.bindContext (s : State) (t : Tid) (c : Ctx) (k : Task) (b : BindEnd) : State :=
  let s := s.bindNow t c k
  match b with
  | .resume _ => s.afterBind t k.park b
  | _ => (s.freshImage t).afterBind t k.park b

/-- R251, R294: the dispatch in flight binds its task, or discards it. -/
def execTaskBinding (core : Nat) (s : State) : Host.Outcome State Fault Refusal :=
  .next <| match (s.core core).dispatch with
  | none => s
  | some d =>
    let team := match d.src with
      | .ready r => r.team
      | .deque q => q.team
    let region := s.teamRegion team
    let n := if region.rmode = 1 then 2 else 1
    let p := s.dispatchPark core d
    let cl := d.cl core
    match d.answer with
    | none => s
    | some false =>
      (((s.modCore core fun c => { c with dispatch := none, chosenAt := 0 }).unreserveThr region n).uncharge region 3
        (s.parkAt cl p).csb).dropPark cl p
    | some true => match (s.core core).bindingSlot (region.rmode == 1) s.now with
      | none => s
      | some slot =>
        let s := s.modCore core fun c => { c with dispatch := none }
        let t : Tid := ⟨core, slot⟩
        let entry := s.parkAt cl p
        match d.src with
        | .deque q => s.startTask t team cl p q.record (recHandle q.record) 0
        | .ready r =>
          let kind := r.idx.toNat / 2 ^ 29
          if kind = 0 ∨ kind = 3 then s.resumeTask t team cl p
          else if kind = 1 then
            let i := r.idx.toNat / 2 ^ 20 % 512
            let w := s.waitEntry cl i
            let s := s.uncharge (s.regionByRcb w.rcb.toNat) 2 1
            (s.modWait cl i fun w => { w with state := 0 }).startTask t team cl p w.record 0 0
          else
            let rec_ := s.loadRecord region (s.mkPark cl p)
            s.startTask t team cl p rec_ (recHandle rec_) entry.csb

/-- Is the dispatch of a core ready to bind or to be discarded? -/
def State.bindsNow (s : State) (core : Nat) : Bool :=
  match (s.core core).dispatch with
  | none => false
  | some d =>
    let acked := match d.src with
      | .ready r => (s.parkAt r.cl r.park).acked
      | .deque _ => 0
    match d.answer with
    | none => false
    | some false => decide (d.due ≤ s.now)
    | some true => decide (d.due ≤ s.now) && decide (acked ≤ s.now) &&
        ((s.core core).freeSlot ((s.teamRegion ((s.core core).team.getD 0)).rmode == 1)).isSome

end Sys2Proof.Machine
end

