-- ==== Sys2Proof/Machine/Queue.lean ====
section
/-!
DEFINITION. Queue registers and the q7 branch, battens, fork and rendezvous: opcodes 0x36 and 0xB0 to 0xBA (R102, R222
to R233, R247 to R249).
-/

namespace Sys2Proof.Machine

/-! Queue registers (R223 to R228). -/

def qCap (q : Nat) : Nat := if q = 6 then 4 else if q = 7 then 32 else 8

def QReg.gres (r : QReg) : Nat := (r.entries.filter (·.res.isSome)).length

/-- R224. -/
def QReg.word (r : QReg) (q : Nat) : W64 :=
  BitVec.ofNat 64 (r.tag.isSome.toNat * 2 ^ 31 + qCap q * 2 ^ 24 + r.gres * 2 ^ 16 + r.pres.toNat * 2 ^ 8 + r.entries.length)

def State.qreg (s : State) (core q : Nat) : QReg := (s.core core).qregs.get {} q

/-- R222: the waiters whose state differs between two values of a queue register: of pushes, COUNT and PRES; of pops, the
entries and their reservations. (Log entry 21: DEDUCED, unsafe.) -/
def QReg.woken (q : Nat) (a b : QReg) : List Nat :=
  (if a.entries.length = b.entries.length ∧ a.pres = b.pres then [] else [Res.queue q])
    ++ if a.entries = b.entries then [] else [Res.queuePop q]

/-- A change of a queue register: the tag goes with the last entry and reservation (R223), and waiters are tested again
in the next cycle (R222). -/
def State.setQreg (s : State) (core q : Nat) (r : QReg) : State :=
  let r := if r.entries.isEmpty && r.pres == 0 then { r with tag := none } else r
  (s.modCore core fun c => { c with qregs := c.qregs.put {} q r }).wakeNext core (QReg.woken q (s.qreg core q) r)

/-- R223: a tagged queue used by a context of another team. -/
def State.qFault (s : State) (t : Tid) (q : Nat) : Option Flt :=
  match (s.qreg t.core q).tag with
  | some team => if team = s.teamNo t then none else some (protFault 8)
  | none => none

/-- R225: a push reserves; it commits, or is withdrawn, at c + 3. A pair's push reserves when the comparator has matched
it (R228). -/
def qPush (q : Nat) (val : Vec) (ok : Bool) (s : State) : Step1 :=
  let t := s.cur
  let r := s.qreg t.core q
  match s.qFault t q with
  | some f => .fault f
  | none =>
    if (s.ctx t).paired then
      if !ok then .next s
      else (s.shareOuts t).pairSend t [5, q, val.toNat] 0 (.qPair t.core q val (s.teamNo t)) .next
    else if qCap q ≤ r.entries.length + r.pres.toNat then .wait (.change [Res.queue q])
    else
      let tag := if r.entries.isEmpty && r.pres == 0 then some (s.teamNo t) else r.tag
      let s := (if ok then s.shareOuts t else s).setQreg t.core q { r with pres := r.pres + 1, tag := tag }
      .next (s.actAt (s.now + 3) (.qPush t.core q val ok))

/-- Log entry 21: DEDUCED, unsafe. -/
def State.qPushCommit (s : State) (core q : Nat) (val : Vec) (ok : Bool) : State :=
  let r := s.qreg core q
  s.setQreg core q { r with pres := r.pres - 1, entries := if ok then r.entries ++ [⟨val, none⟩] else r.entries }

/-- A matched push of a pair reserves and commits, once the queue has room. -/
def State.qPairCommit (s : State) (core q : Nat) (val : Vec) (team : BitVec 16) : State :=
  let r := s.qreg core q
  if qCap q ≤ r.entries.length + r.pres.toNat then s.sched (s.now + 1) Phase.again (.act (.qPair core q val team))
  else
    s.setQreg core q { r with
      entries := r.entries ++ [⟨val, none⟩], tag := if r.entries.isEmpty && r.pres == 0 then some team else r.tag }

/-- R225: a pop reserves the oldest unreserved entry; a peek only reads it. -/
def qPop (q : Nat) (reserve : Bool) (put : Vec → Ctx → Ctx) (ok : Bool) (s : State) : Step1 :=
  let t := s.cur
  let c := s.ctx t
  let r := s.qreg t.core q
  match s.qFault t q with
  | some f => .fault f
  | none =>
    if c.isTrail then s.take t fun v s => .next (s.modCtx t (put (BitVec.ofNat 512 v)))
    else if c.isLead && s.lvqFull t then .wait (.change [pairKey t])
    else match r.entries.find? (·.res.isNone) with
      | none => .wait (.change [Res.queuePop q])
      | some e =>
        let (id, s) := s.newId
        let s :=
          if !reserve then s
          else
            let i := (r.entries.takeWhile (·.res.isSome)).length
            (s.setQreg t.core q { r with entries := r.entries.set i { e with res := some id } }).actAt (s.now + 3)
              (.qPop t.core q id ok)
        if !ok then .next s else .next ((s.modCtx t (put e.val)).pass t e.val.toNat)

/-- Log entry 21: DEDUCED, unsafe. -/
def State.qPopCommit (s : State) (core q id : Nat) (ok : Bool) : State :=
  let r := s.qreg core q
  s.setQreg core q { r with
    entries := if ok then r.entries.filter (·.res ≠ some id)
      else r.entries.map fun e => if e.res = some id then { e with res := none } else e }

def qDst (u : BitVec 3) (d : Reg) : Use := if u = 6 then wV d else wG d
def qPut (u : BitVec 3) (d : Reg) (v : Vec) (c : Ctx) : Ctx := if u = 6 then c.wv d v else c.wg d (v.truncate 64)
def predOf (v : Vec) : W64 := Flags.ofBool (v.getLsbD 0)

def execQput (h : Hdr) (u : BitVec 3) (a : Reg) (s : State) :=
  issue h [if u = 6 then rV a else rG a] (resv := true) (fun ok s =>
    let c := s.ctx s.cur
    qPush u.toNat (if u = 6 then c.rv a else (c.rg a).zeroExtend 512) ok s) s
def execQget (h : Hdr) (d : Reg) (u : BitVec 3) (s : State) :=
  issue h [qDst u d] (resv := true) (fun ok s => qPop u.toNat true (qPut u d) ok s) s
def execQpeek (h : Hdr) (d : Reg) (u : BitVec 3) (s : State) :=
  issue h [qDst u d] (fun ok s => qPop u.toNat false (qPut u d) ok s) s
def execQcnt (h : Hdr) (d : Reg) (u : BitVec 3) (s : State) :=
  issue h [wG d] (fun _ s =>
    let t := s.cur
    let c := s.ctx t
    match s.qFault t u.toNat with
    | some f => .fault f
    | none =>
      if c.isTrail then s.take t fun v s => .next (s.modCtx t (putG d v))
      else if c.isLead && s.lvqFull t then .wait (.change [pairKey t])
      else
        let w := (s.qreg t.core u.toNat).word u.toNat
        .next ((s.modCtx t (·.wg d w)).pass t w.toNat)) s
def execQpredPush (h : Hdr) (a : KReg) (s : State) :=
  issue h [rK a] (resv := true) (fun ok s =>
    qPush 7 (if ((s.ctx s.cur).rk a).getLsbD 0 then 1 else 0) ok s) s
def execQpredPop (h : Hdr) (d : KReg) (s : State) :=
  issue h [wK d] (resv := true) (fun ok s => qPop 7 true (fun v c => c.wk d (predOf v)) ok s) s

/-- R102: BRQ pops q7, and branches when its bit is one, or zero with `z`. -/
def execBrq (h : Hdr) (z : Bool) (off : BitVec 28) (s : State) :=
  issue h [] (resv := true) (fun ok s =>
    let t := s.cur
    let go (bit : Bool) (s : State) : Step1 := if bit != z then .jump s (relTarget (s.ctx t).pc off) else .next s
    let first := ((s.qreg t.core 7).entries.find? (·.res.isNone)).map fun e => e.val.getLsbD 0
    if (s.ctx t).isTrail then
      match s.qFault t 7 with
      | some f => .fault f
      | none => s.take t fun v s => go (v % 2 == 1) s
    else match qPop 7 true (fun _ c => c) ok s with
      | .next s => go (first.getD false) s
      | r => r) s

/-! Battens (R229 to R233). -/

def State.batten (s : State) (core b : Nat) : Batten := (s.core core).battens.get {} b

/-- R222: the waiters whose state differs between two values of a batten. (Log entry 21: DEDUCED, unsafe.) -/
def Batten.woken (n : Nat) (a b : Batten) : List Nat :=
  (if a.count = b.count ∧ a.depth = b.depth ∧ a.pushRes = b.pushRes then [] else [Res.batten n])
    ++ if a.count = b.count ∧ a.popRes = b.popRes then [] else [Res.battenPop n]

def State.setBatten (s : State) (core b : Nat) (v : Batten) : State :=
  (s.modCore core fun c => { c with battens := c.battens.put {} b v }).wakeNext core (Batten.woken b (s.batten core b) v)

/-- R230. RES holds what engines have reserved: the table's row names BPOP's reservations too, and the text below it says
that they are not counted in RES. (Log entry 30: DEDUCED, unsafe.) -/
def Batten.word (b : Batten) : W64 :=
  BitVec.ofNat 64 (b.pops.toNat * 2 ^ 48 + b.head.toNat * 2 ^ 40 + b.tail.toNat * 2 ^ 32 + b.feed.toNat * 2 ^ 30
    + b.drain.isSome.toNat * 2 ^ 29 + b.owned.toNat * 2 ^ 28 + b.owner.toNat * 2 ^ 24 + b.depth.toNat * 2 ^ 16
    + b.res.toNat * 2 ^ 8 + b.count.toNat)

def Batten.at (b : Batten) (first k : Nat) : Nat := (first + k) % b.depth.toNat
def Batten.entry (b : Batten) (i : Nat) : BEntry := b.entries.get {} i

/-- R231: the drain handle's decrement, on behalf of the owner; it is outstanding until its reply (R407). -/
def State.drainSend (s : State) (core : Nat) (b : Batten) : State :=
  match b.drain with
  | none => s
  | some h =>
    let t : Tid := ⟨core, b.owner.toNat⟩
    let (id, s) := s.newId
    let r : Dec := { id := id, handle := h, k := 1, tid := t, bind := (s.slot t).bind, tenant := (s.ctx t).tenant, csig := false, d := 0, pc := 0 }
    (s.addOut core { id := id, slot := t.slot, kind := .msg }).toTable t h 0 (.run (.waitingTaskDecrement r))

/-- R231: n pops. -/
def State.popBatten (s : State) (core b n : Nat) : State :=
  let x := s.batten core b
  let gone := (List.range n).map fun k => x.at x.head.toNat k
  let x' := { x with
    entries := gone.foldl (fun m i => m.put {} i {}) x.entries, head := BitVec.ofNat 5 (x.at x.head.toNat n)
    count := x.count - BitVec.ofNat 6 n, pops := x.pops + BitVec.ofNat 16 n
    popAt := s.now + 1, popNow := n + (if x.popAt = s.now + 1 then x.popNow else 0) }
  let s := s.setBatten core b x'
  let s := if x.feed then s.actAt (s.now + 1) (.permits (clusterOf core)) else s
  if x'.count = 0 ∧ x'.res = 0 ∧ 0 < n then s.drainSend core x' else s

/-- R231: a push: the tail entry becomes visible, and in a thread-fed batten the entry after it, if one is free, reads zero
(an entry that a pop frees is zeroed then). -/
def State.pushBatten (s : State) (core b : Nat) : State :=
  let x := s.batten core b
  let next := x.at x.tail.toNat 1
  s.setBatten core b { x with
    count := x.count + 1, tail := BitVec.ofNat 5 next, written := 0, entries := if x.feed || decide (x.depth.toNat ≤ x.count.toNat + 1) then x.entries else x.entries.put {} next {} }

/-- R314: every batten push commits 1 cycle later in debug mode. -/
def State.pushDelay (s : State) (t : Tid) : Nat := if (s.regionOf t).dbg then 1 else 0

/-- R231: does the tail entry of an instruction that issues now exist, and which is it? A permit that a pop of this cycle
has returned can be reserved from the next cycle on. -/
def Batten.tailEntry (b : Batten) (now : Nat) : Option Nat :=
  let fresh := if b.popAt = now + 1 then b.popNow else 0
  if b.count.toNat + fresh + b.pushRes < b.depth.toNat then some (b.at b.tail.toNat b.pushRes) else none

def State.reservePush (s : State) (core b : Nat) : State :=
  let x := s.batten core b
  s.setBatten core b { x with pushRes := x.pushRes + 1 }

/-- A reserved push commits or is withdrawn. (Log entry 30: DEDUCED, unsafe.) -/
def State.bPushCommit (s : State) (core b : Nat) (ok : Bool) : State :=
  let x := s.batten core b
  let s := s.setBatten core b { x with pushRes := x.pushRes - 1 }
  if ok then s.pushBatten core b else s

def State.bPopCommit (s : State) (core b n : Nat) (ok : Bool) : State :=
  let x := s.batten core b
  let s := s.setBatten core b { x with popRes := x.popRes - n }
  if ok then s.popBatten core b n else s

/-- R232: what keeps BSET from changing a batten. -/
def State.bsetFault (s : State) (t : Tid) (b : Nat) : Bool :=
  let x := s.batten t.core b
  let other := x.owned && (let o : Tid := ⟨t.core, x.owner.toNat⟩
    (s.slot o).st != .empty && s.teamNo o != s.teamNo t)
  other || x.count != 0 || x.res != 0 || x.popRes != 0 || s.battenNamed t.core b
    || (!x.feed && x.entry x.tail.toNat != {})

def execBset (h : Hdr) (u : BitVec 4) (depth : BitVec 5) (feed : Bool) (drain : Option (Reg × W64)) (s : State) :=
  issue h (match drain with
    | some (a, _) => [rG a]
    | none => []) (fun _ s =>
    let t := s.cur
    let handle := drain.map fun (a, e) => (s.ctx t).rg a + e
    if (s.ctx t).isTrail then .next s
    else match handle with
      | some x => if hTag x ≠ 11 then .fault (handleFault x)
        else if s.bsetFault t u.toNat then .fault (protFault 9)
        else .next (s.setBatten t.core u.toNat
          { depth := BitVec.ofNat 6 (depth.toNat + 1), feed := feed, drain := some x, owned := true, owner := BitVec.ofNat 4 t.slot
            pushRes := (s.batten t.core u.toNat).pushRes })
      | none => if s.bsetFault t u.toNat then .fault (protFault 9)
        else .next (s.setBatten t.core u.toNat
          { depth := BitVec.ofNat 6 (depth.toNat + 1), feed := feed, owned := true, owner := BitVec.ofNat 4 t.slot
            pushRes := (s.batten t.core u.toNat).pushRes })) s

def execBsetFree (h : Hdr) (u : BitVec 4) (s : State) :=
  issue h [] (fun _ s =>
    let t := s.cur
    let x := s.batten t.core u.toNat
    if (s.ctx t).isTrail then .next s
    else if (s.regionOf t).dbg && (x.count != 0 || x.res != 0) then .fault { code := 21, sub := 5 }
    else if s.bsetFault t u.toNat then .fault (protFault 9)
    else .next (s.freeBatten t.core u.toNat)) s

def execBpush (h : Hdr) (u : BitVec 4) (s : State) :=
  issue h [] (resv := true) (fun ok s =>
    let t := s.cur
    let x := s.batten t.core u.toNat
    if x.feed then .fault (protFault 9)
    else if (s.ctx t).isTrail then .next s
    else if (x.tailEntry s.now).isNone then .wait (.change [Res.batten u.toNat])
    else
      let s := s.reservePush t.core u.toNat
      .next (s.actAt (s.now + 3 + s.pushDelay t) (.bPush t.core u.toNat ok))) s

/-- R129, R233: does an operation of the bank hold entries of a batten, which its steps have read and not yet popped? (Log entry 30: DEDUCED, unsafe.) -/
def Core.bankHolds (c : Core) (b : Nat) : Bool :=
  match c.bank with
  | op :: _ => decide (op.retired < op.taken)
      && (op.ua.toNat == b || op.ub.toNat == b || (op.kind == .rtiles && Pd.mb op.pd == b))
  | [] => false

/-- R233: the entries that a BPOP reserves are the oldest ones, so it waits while the bank holds these. -/
def execBpop (h : Hdr) (u : BitVec 4) (n : BitVec 6) (s : State) :=
  issue h [] (resv := true) (fun ok s =>
    let t := s.cur
    let x := s.batten t.core u.toNat
    let k := n.toNat + 1
    if x.depth.toNat < k then .fault (protFault 9)
    else if (s.ctx t).isTrail then .next s
    else if decide (x.count.toNat < x.popRes + k) || (s.core t.core).bankHolds u.toNat then .wait (.change [Res.battenPop u.toNat])
    else
      let s := s.setBatten t.core u.toNat { x with popRes := x.popRes + k }
      .next (s.sched (s.now + 3) Phase.land (.act (.bPop t.core u.toNat k ok)))) s

def execBstat (h : Hdr) (d : Reg) (u : BitVec 4) (s : State) :=
  issue h [wG d] (fun _ s =>
    let t := s.cur
    let c := s.ctx t
    if c.isTrail then s.take t fun v s => .next (s.modCtx t (putG d v))
    else if c.isLead && s.lvqFull t then .wait (.change [pairKey t])
    else
      let w := (s.batten t.core u.toNat).word
      .next ((s.modCtx t (·.wg d w)).pass t w.toNat)) s

/-! FORK (R247). -/

/-- R247: the slot that FORK takes, the lowest free one. (Log entry 27: DEDUCED, unsafe.) -/
def Core.forkSlot (c : Core) (paired : Bool) : Option Nat :=
  let free (n : Nat) : Bool := (c.slot n).st == .empty && !(c.slot n).reserved
  if paired then (List.range 8).find? fun j => free j && free (j + 8) else (List.range (slotCount c.part)).find? free

def targetOf (c : Ctx) (t : Target) : W64 :=
  match t with
  | .reg r => c.rg r
  | .rel off => c.pc + 4 * off.signExtend 64

def targetUses (t : Target) : List Use :=
  match t with
  | .reg r => [rG r]
  | .rel _ => []

def execFork (h : Hdr) (d : Reg) (tgt : Target) (b : Reg) (s : State) :=
  issue h (wG d :: rG b :: targetUses tgt) (resv := true) (fun ok s =>
    let t := s.cur
    let c := s.ctx t
    let pc := targetOf c tgt
    let region := s.regionOf t
    let n := if c.paired then 2 else 1
    if misaligned pc then .fault (alignFault pc)
    else if c.isTrail then s.take t fun v s => .next (s.modCtx t (putG d v))
    else if c.isLead && s.lvqFull t then .wait (.change [pairKey t])
    else match (if s.admits region 0 n then (s.core t.core).forkSlot c.paired else none) with
      | none => if !ok then .next s
          else .next ((s.modCtx t (·.wg d (BitVec.allOnes 64))).pass t (2 ^ 64 - 1))
      | some slot =>
        let keep (s : State) (j : Nat) : State := s.modSlot ⟨t.core, j⟩ fun x => { x with reserved := true }
        let s := (if c.paired then keep (keep s slot) (slot + 8) else keep s slot).reserveThr region n
        let s := s.actAt (s.now + 3) (.fork t slot pc (c.rg b) ok)
        if !ok then .next s else .next ((s.modCtx t (·.wg d (BitVec.ofNat 64 slot))).pass t slot)) s

/-- R247: the forked thread is bound at c + 3, or its slot is given back. -/
def State.forkCommit (s : State) (t : Tid) (slot : Nat) (target arg : W64) (ok : Bool) : State :=
  let c := s.ctx t
  let region := s.regionOf t
  let free (s : State) (j : Nat) : State := s.modSlot ⟨t.core, j⟩ fun x => { x with reserved := false }
  let s := if c.paired then free (free s slot) (slot + 8) else free s slot
  let back := s.unreserveThr region (if c.paired then 2 else 1)
  if !ok then back
  else match (s.slot t).task with
    | none => back
    | some k =>
      let one (s : State) (j : Nat) (trail : Bool) : State :=
        let x := s.newCtx region t.core j target (c.priv && region.privb) trail [(1, arg), (2, BitVec.ofNat 64 t.slot)]
        let keep : W64 := (c.stat &&& ~~~5#64) ||| (x.stat &&& 5#64)
        s.bindSlot ⟨t.core, j⟩ { x with stat := keep, region := c.region, pasid := c.pasid, supv := c.supv } { k with forked := true, csb := 0 } .fresh
      let s := one (s.shareOuts t) slot false
      if c.paired then one s (slot + 8) true else s

/-! Rendezvous (R248, R249). -/

def State.point (s : State) (core u : Nat) : Point := (s.core core).rdv.get {} u
def State.setPoint (s : State) (core u : Nat) (p : Point) : State :=
  s.modCore core fun c => { c with rdv := c.rdv.put {} u p }

/-- R248. -/
def Point.word (p : Point) : W64 := BitVec.ofNat 64 (p.busy.toNat * 2 ^ 16 + p.n.toNat * 2 ^ 8 + p.arr.toNat)

def isForked (s : State) (t : Tid) : Bool :=
  match (s.slot t).task with
  | some k => k.forked
  | none => false

/-- R249: a pair departs together: a trailing thread that arrives when its leader has been answered sets both off. (Log entry 41: DEDUCED, unsafe.) -/
def State.trailArrive (s : State) (t : Tid) (form : Nat) : Step1 :=
  let s := s.setSt t (.waiting .rendezvous)
  .gone (if (s.slot (leadOf t)).granted.isSome then s.actAt (s.now + 3) (.wake (leadOf t) form) else s)

/-- The end of a thread by RDV.END at c + 3; of a pair when both threads have reached it (R354). -/
def State.endArrive (s : State) (t : Tid) : State := s.emit t 3 [26, 0, 0] 0 false (.endThread t 0 0)

/-- R249: an arrival at a core point. A failed verdict withdraws it at c + 3. -/
def coreArrive (u n : Nat) (fin ok : Bool) (s : State) : Step1 :=
  let t := s.cur
  let c := s.ctx t
  let p := s.point t.core u
  if fin && !isForked s t then .fault (protFault 11)
  else if fin && c.paired && s.cmpFull t then .wait (.change [pairKey t])
  else if c.isTrail && fin then .gone (((s.endArrive t).finish t (c.pc + 8)).setSt t (.waiting .rendezvous))
  else if c.isTrail then (s.finish t (c.pc + 8)).trailArrive t 0
  else if p.closing then .wait (.change [Res.point u])
  else if p.busy && p.n.toNat ≠ n then .fault (protFault 11)
  else
    let last := p.arr.toNat + 1 = n
    let p := { p with busy := true, n := BitVec.ofNat 8 n, arr := p.arr + 1, closing := last }
    if !ok then .next ((s.setPoint t.core u p).actAt (s.now + 3) (.rdvUndo t.core u))
    else
      let s := (s.shareOuts t).setPoint t.core u { p with waiters := if fin then p.waiters else p.waiters ++ [t] }
      let s := if last then s.sched (s.now + 3) Phase.commit (.act (.rdvDepart t.core u)) else s
      let s := s.finish t (c.pc + 8)
      if fin then .gone ((s.setSt t (.waiting .rendezvous)).endArrive t)
      else .gone (s.setSt t (.waiting .rendezvous))

/-- R249: a withdrawn arrival leaves the point as it was. A point that closes on its account reopens, and where another
arrival has closed it, that one no longer brings ARR to N: the departure is called off. (Log entry 41: DEDUCED, unsafe.) -/
def State.rdvUndo (s : State) (core u : Nat) : State :=
  let p := s.point core u
  let arr := p.arr - 1
  let s : State := { s with agenda := s.agenda.filter fun e => e.ev ≠ .act (.rdvDepart core u) }
  (s.setPoint core u (if arr = 0 then { p with busy := false, n := 0, arr := 0, closing := false }
    else { p with arr := arr, closing := false })).wakeNext core [Res.point u]

/-- A thread that waited at a point goes on, with the acquire of R211. (Log entry 41: DEDUCED, unsafe.) -/
def State.rdvGo (s : State) (t : Tid) : State :=
  let one (s : State) (t : Tid) : State :=
    match (s.slot t).st with
    | .waiting .rendezvous => s.setSt t .ready
    | _ => s
  let s := s.acquire t none
  if !(s.ctx t).paired then one s t
  else if (s.slot (partner t)).st = .waiting .rendezvous then
    (one (one s t) (partner t)).modSlot t fun x => { x with granted := none }
  else s.modSlot t fun x => { x with granted := some 0 }

/-- R249: the departure from a core point. (Log entry 41: DEDUCED, unsafe.) -/
def State.rdvDepart (s : State) (core u : Nat) : State :=
  let p := s.point core u
  let s := p.waiters.foldl (fun s t => s.rdvGo t) s
  (s.setPoint core u {}).wakeNext core [Res.point u]

/-- R249: an arrival at a point of the cluster leaves at c + 3. -/
def clusterArrive (u n : Nat) (fin : Bool) (s : State) : Step1 :=
  let t := s.cur
  let c := s.ctx t
  if fin && !isForked s t then .fault (protFault 11)
  else if fin && c.paired && s.cmpFull t then .wait (.change [pairKey t])
  else if c.isTrail && fin then .gone (((s.endArrive t).finish t (c.pc + 12)).setSt t (.waiting .rendezvous))
  else if c.isTrail then s.trailArrive t 1
  else if s.releaseHeld t then .hold 6
  else
    let s := (s.setSt t (.waiting .rendezvous)).actAt (s.now + 3) (.rdvSend t u n fin)
    .gone (if fin then (s.finish t (c.pc + 12)).endArrive t else s)

def rdvIssue (h : Hdr) (u : BitVec 4) (n : BitVec 7) (fin : Bool) (s : State) : Host.Outcome State Fault Refusal :=
  issue h [] (resv := h.len == .w64) (fun ok s =>
    if h.len = .w64 then coreArrive u.toNat (n.toNat + 1) fin ok s
    else clusterArrive u.toNat (n.toNat + 1) fin s) s

def execRdv (h : Hdr) (u : BitVec 4) (n : BitVec 7) (s : State) := rdvIssue h u n false s
def execRdvEnd (h : Hdr) (u : BitVec 4) (n : BitVec 7) (s : State) := rdvIssue h u n true s

def State.rdvSend (s : State) (t : Tid) (u n : Nat) (fin : Bool) : State :=
  s.performAt (s.now + 21) t (.clusterRdvArrival t u n fin)

/-- A departure reply lands; a fault of the arrival lands the same way. -/
def State.rdvReply (s : State) (t : Tid) (f : Option Flt) : State :=
  match (s.slot t).st with
  | .waiting .rendezvous => match f with
    | some f => s.raise t f
    | none =>
      let one (s : State) (t : Tid) : State := match (s.slot t).st with
        | .waiting .rendezvous => s.land t (s.ctx t).pc 12
        | _ => s
      let s := s.acquire t none
      if !(s.ctx t).paired then one s t
      else if (s.slot (partner t)).st = .waiting .rendezvous then
        (one (one s t) (partner t)).modSlot t fun x => { x with granted := none }
      else s.modSlot t fun x => { x with granted := some 1 }
  | _ => s

def execRdvDepartureReply (t : Tid) (s : State) : Host.Outcome State Fault Refusal := .next (s.rdvReply t none)

/-- R249, R311: an arrival at a cluster point is performed, where the cluster's router admits its tenant. The fault of an
arrival whose thread has ended by RDV.END is raised at no one: no rule names a thread for it. (log entry 62: DESIGN CHOICE, unsafe.) -/
def execClusterRdvArrival (t : Tid) (point n : Nat) (fin : Bool) (s : State) : Host.Outcome State Fault Refusal :=
  let cl := clusterOf t.core
  let p : Point := (s.cluster cl).rdv.get {} point
  let put (s : State) (p : Point) : State := s.modCluster cl fun c => { c with rdv := c.rdv.put {} point p }
  .next <|
    if !s.routeAdmits cl cl (s.ctx t).tenant then (if fin then s else s.fromTable t.core cl 0 (.rdvReply t { code := 8 }))
    else if p.busy && p.n.toNat ≠ n then
      if fin then s else s.fromTable t.core cl 0 (.rdvReply t (protFault 11))
    else
      let p := { p with busy := true, n := BitVec.ofNat 8 n, arr := p.arr + 1, waiters := if fin then p.waiters else p.waiters ++ [t] }
      if p.arr.toNat < n then put s p
      else p.waiters.foldl (fun s w => s.landAt (s.now + 24) (.rdvDepartureReply w)) (put s {})

/-- R248: the kill of a thread that waits at a point takes its arrival back. (Log entry 41: DEDUCED, unsafe.) -/
def State.rdvKill (s : State) (t : Tid) : State :=
  let drop (p : Point) : Point :=
    if p.waiters.contains t then { p with waiters := p.waiters.filter (· ≠ t), arr := p.arr - 1 } else p
  let s := s.modCore t.core fun c => { c with rdv := c.rdv.map fun x => (x.1, drop x.2) }
  s.modCluster (clusterOf t.core) fun c => { c with rdv := c.rdv.map fun x => (x.1, drop x.2) }

end Sys2Proof.Machine
end

