-- ==== Sys2Proof/Machine/Rafter.lean ====
section
/-!
DEFINITION. Pack, rafter and purlin instructions, opcodes 0x90 to 0xA1, the bank's cycles and its background tests
(R122 to R153, R408).
-/

namespace Sys2Proof.Machine

/-! Purlins (R125 to R128). -/

def State.purlin (s : State) (core n : Nat) : Purlin := (s.core core).purlins.get {} n
def State.setPurlin (s : State) (core n : Nat) (p : Purlin) : State :=
  s.modCore core fun c => { c with purlins := c.purlins.put {} n p }

/-- R126: the guard state as a number; nan is 1 when any bit of the map is. -/
def Purlin.guard (p : Purlin) : Nat :=
  p.n.toNat * 2 ^ 114 + p.base.toNat * 2 ^ 102 + p.torn.toNat * 2 ^ 101 + (p.nanMap != 0).toNat * 2 ^ 100
    + p.claimed.toNat * 2 ^ 99 + p.owner.toNat * 2 ^ 95 + p.bound.toNat

/-- The fields that RGLD and RLOAD take from a guard state. -/
def Purlin.setGuard (p : Purlin) (v : Nat) : Purlin :=
  { p with
    n := BitVec.ofNat 14 (v / 2 ^ 114), base := BitVec.ofNat 12 (v / 2 ^ 102), torn := v.testBit 101, bound := BitVec.ofNat 95 v }

def Purlin.exp (p : Purlin) : Int := Num.signed p.base.toNat 12
def Purlin.owned (p : Purlin) (slot : Nat) : Bool := p.claimed && p.owner.toNat == slot

/-- R139: the cleared purlin, with its claim. -/
def Purlin.cleared (p : Purlin) : Purlin :=
  { p with digits := [], nanMap := 0, n := 0, base := 0, torn := false, bound := 0 }
/-- R138: PREL's effect. -/
def Purlin.released (p : Purlin) : Purlin := { p.cleared with claimed := false, owner := 0 }

/-- Sums two tables of integers. -/
def addMaps : Nat → Sparse Int → Sparse Int → Sparse Int
  | 0, _, _ => []
  | _ + 1, [], m => m
  | _ + 1, m, [] => m
  | n + 1, (i, a) :: l, (j, b) :: m =>
    if i < j then (i, a) :: addMaps n l ((j, b) :: m)
    else if j < i then (j, b) :: addMaps n ((i, a) :: l) m
    else if a + b = 0 then addMaps n l m else (i, a + b) :: addMaps n l m
def sumMaps (a b : Sparse Int) : Sparse Int := addMaps (a.length + b.length + 1) a b
def scaleMap (k : Int) (a : Sparse Int) : Sparse Int := a.map fun (i, v) => (i, v * k)

def Purlin.ints (p : Purlin) : Sparse Int := p.digits.map fun (i, d) => (i, d.toInt)
def toDigits (a : Sparse Int) : Sparse (BitVec 96) := (a.map fun (i, v) => (i, BitVec.ofInt 96 v)).filter (·.2 ≠ 0)

/-- R51 FOLD: P × 2^E joins every digit; none where the new bound reaches 2^95. -/
def Purlin.fold (p : Purlin) (P : Sparse Int) (E : Int) (T : Nat) : Option Purlin :=
  let b := if p.n = 0 then E else Min.min p.exp E
  let up : Nat := 2 ^ (p.exp - b).toNat
  let bound := (if p.n = 0 then 0 else p.bound.toNat * up) + T * 2 ^ (E - b).toNat
  if 2 ^ 95 ≤ bound then none
  else
    let old := if p.n = 0 then [] else scaleMap up p.ints
    some { p with
      digits := toDigits (sumMaps old (scaleMap ((2 ^ (E - b).toNat : Nat) : Int) P)), base := BitVec.ofInt 12 b
      bound := BitVec.ofNat 95 bound, n := if p.n = BitVec.allOnes 14 then p.n else p.n + 1 }

/-- R127, R128: the checks of an instruction that names a purlin. -/
def State.purlinFault (s : State) (t : Tid) (pn : BitVec 2) (torn : Bool) : Option Flt :=
  let p := s.purlin t.core pn.toNat
  if !p.owned t.slot then some (protFault 7) else if torn && p.torn then some { code := 11 } else none

/-- R148: must an operation issued in cycle `at_` wait for a reader of the purlin? (log entry 32: DEDUCED, unsafe.) -/
def State.locked (s : State) (core n at_ : Nat) : Bool :=
  !(s.purlin core n).readers.isEmpty || (s.core core).reads.any fun r => r.purlin == n && decide (r.at_ ≤ at_)

/-! The queue of the bank (R129). -/

def State.bankNext (s : State) (core : Nat) : State :=
  if s.now < (s.core core).bankAt then s
  else (s.modCore core fun c => { c with bankAt := s.now + 1 }).landAt (s.now + 1) (.sheafStep core)

def State.enqueueBank (s : State) (core : Nat) (op : BankOp) : State :=
  (s.modCore core fun c => { c with bank := c.bank ++ [op] }).bankNext core

def State.setHead (s : State) (core : Nat) (op : BankOp) : State := s.modCore core fun c => { c with bank := op :: c.bank.drop 1 }

/-- An operation leaves the bank; its thread goes on at `due`, or takes a fault. -/
def State.bankEnd (s : State) (t : Tid) (id len : Nat) (f : Option Flt) : State :=
  match (s.slot t).st with
  | .waiting (.event k) =>
    if k ≠ id then s
    else match f with
      | some f => s.raise t f
      | none => s.land t (s.ctx t).pc len
  | _ => s

def State.bankOver (s : State) (core : Nat) (op : BankOp) (due : Nat) (f : Option Flt) : State :=
  let s := s.modCore core fun c => { c with bank := c.bank.drop 1, bankDone := (s.now + 1, op.pn.toNat) }
  if due ≤ s.now then s.bankEnd op.tid op.id op.len f
  else s.sched due Phase.land (.act (.bankEnd op.tid op.id op.len f))

def guardFault (sub : BitVec 8) (info : W64 := 0) : Flt := { code := 10, sub := sub, info := info }
def marginFault : Flt := { code := 19, sub := 1 }

/-! Shadow checks of steps (R132, R408). -/

inductive Check where
  | pass | again | margin
deriving DecidableEq, Repr

def BankOp.repeats (op : BankOp) (k : Nat) : Nat := ((op.failed.find? (·.1 == k)).map (·.2)).getD 0

/-- The check of step k: it passes, repeats, or has repeated MLIM.STEP times; until it passes, it is listed as failed, and
does not retire (R132). (Log entry 29: DEDUCED, unsafe.) -/
def State.checkStep (s : State) (core : Nat) (op : BankOp) (k : Nat) : State × BankOp × Check :=
  let (bad, s) := s.stepCheck
  let rest := op.failed.filter (·.1 ≠ k)
  if !bad then (s, { op with failed := rest }, .pass)
  else if (s.core core).stepLim.toNat ≤ op.repeats k then (s, { op with failed := rest ++ [(k, op.repeats k)] }, .margin)
  else (s.postAt s.now (.stepRepeat core 1), { op with failed := rest ++ [(k, op.repeats k + 1)] }, .again)

/-! The steps of a product (R129 to R131, R134, R142). -/

def BankOp.sparseB (op : BankOp) : Nat := if op.kind = .rtiles then 16 / Pd.kept op.pd else 1
def BankOp.rmul (op : BankOp) : Bool := op.kind == .rmul
def BankOp.rowMode (op : BankOp) : Bool := !op.rmul && Pd.mode op.pd == 0
def BankOp.lo (op : BankOp) : Nat := if op.rmul then op.d0 else 0
def BankOp.hi (op : BankOp) : Nat := if op.rmul then 4096 else 64 * op.rows

/-- R153: the entries of a batten that a thread's steps may read, from HEAD + skip on. None while a BPOP has reserved
entries, which are the oldest (R233). (Log entry 30: DEDUCED, unsafe.) -/
def State.battenSkip (s : State) (t : Tid) (b : Nat) : Nat := if (s.ctx t).isLead then (s.batten t.core b).half else 0
def State.battenVisible (s : State) (t : Tid) (b : Nat) : Nat :=
  let x := s.batten t.core b
  if x.popRes ≠ 0 then 0 else if (s.ctx t).isTrail then x.half else x.count.toNat - s.battenSkip t b
def State.battenRead (s : State) (t : Tid) (b k : Nat) : BEntry :=
  let x := s.batten t.core b
  x.entry (x.at x.head.toNat (s.battenSkip t b + k))

/-- A retired step consumes n entries of a batten: the leader of a pair only marks them. -/
def State.consume (s : State) (t : Tid) (b n : Nat) : State :=
  let x := s.batten t.core b
  let c := s.ctx t
  if c.isLead then s.setBatten t.core b { x with half := x.half + n }
  else if c.isTrail then (s.setBatten t.core b { x with half := x.half - n }).popBatten t.core b n
  else s.popBatten t.core b n

/-- One side's scale of a row or column: NaN or infinite, zero, sign, significand, exponent. -/
structure Scale where
  bad  : Bool := false
  zero : Bool := false
  neg  : Bool := false
  f    : Nat := 1
  e    : Int := 0

def scaleAt (kind : Nat) (sheaf : Option Sheaf) (r : Nat) : Scale :=
  let v := (sheaf.getD 0).toNat
  if kind = 1 then
    match Num.scalexp (v / 2 ^ (8 * r)) with
    | none => { bad := true }
    | some e => { e := e }
  else if kind = 2 then
    match Num.fsplit (v / 2 ^ (32 * r) % 2 ^ 32) with
    | none => { bad := true }
    | some (neg, f, e) => { zero := f == 0, neg := neg, f := f, e := e }
  else {}

def BankOp.scales (op : BankOp) (sideB : Bool) : List Scale :=
  (List.range (if op.rowMode then 64 else 1)).map fun r =>
    scaleAt (Pd.kind op.pd sideB) (if sideB then op.scaleB else op.scaleA) r

def Pd.c (d : W64) (sideB : Bool) : Int := Num.imageC (Pd.fmt d sideB) (Pd.limb d sideB) (Pd.kind d sideB == 1)

/-- R133: the scale exponent of the running term. -/
def BankOp.scaleExp (op : BankOp) : Option Int :=
  let least (l : List Scale) : Option Int := ((l.filter fun x => !x.bad && !x.zero).map (·.e)).min?
  match least ((op.scales false).take (if op.rowMode then op.rows else 1)), least (op.scales true) with
  | some a, some b => some (a + b - Pd.c op.pd false - Pd.c op.pd true)
  | _, _ => none

/-- The bits of a list of digit numbers. -/
def digitSet (l : List Nat) : BitVec 4096 := BitVec.ofNat 4096 (l.foldl (fun m i => m ||| 2 ^ i) 0)

/-- R131 TERMFOLD of the running term into a purlin; none where FOLD raises GUARD. (Log entry 29: DEDUCED, unsafe.) -/
def BankOp.termFold (op : BankOp) (p : Purlin) : Option Purlin :=
  let as_ := op.scales false
  let bs := op.scales true
  let sa (i : Nat) : Scale := as_.getD (if op.rowMode then i / 64 else 0) {}
  let sb (i : Nat) : Scale := bs.getD (if op.rowMode then i % 64 else 0) {}
  let cov := (List.range (op.hi - op.lo)).map (· + op.lo)
  let nan (i : Nat) : Bool := op.marks.getLsbD i || (sa i).bad || (sb i).bad
  let live (i : Nat) : Bool := !nan i && !(sa i).zero && !(sb i).zero
  let e (i : Nat) : Int := (sa i).e + (sb i).e - Pd.c op.pd false - Pd.c op.pd true
  let es := (cov.filter live).map e
  let map := p.nanMap ||| digitSet (cov.filter nan)
  match es.min?, es.max? with
  | some lo, some hi =>
    let q := op.part.filterMap fun (i, v) =>
      if !live i then none
      else
        let x := v * (sa i).f * (sb i).f * ((2 ^ (e i - lo).toNat : Nat) : Int)
        some (i, if (sa i).neg != (sb i).neg then -x else x)
    let l := Pd.l op.pd
    let w := 2 ^ (Pd.pitch op.pd - 1) * (2 ^ (Pd.pitch op.pd * l) - 1) / (2 ^ Pd.pitch op.pd - 1)
    let worst (k : Nat) := Num.worst (Pd.fmt op.pd false) (Pd.limb op.pd false) (Pd.fmt op.pd true) (Pd.limb op.pd true) k
    let T := if op.rmul && Pd.mode op.pd == 2 then w * w else worst (if op.rmul then l else Pd.kt op.pd)
    (p.fold (q.filter (·.2 ≠ 0)) lo (T * 2 ^ (hi - lo).toNat)).map fun p => { p with nanMap := map }
  | _, _ => some { p with nanMap := map }

/-- A run of digits, from index `first`, clipped to the covered ones. -/
def BankOp.run (op : BankOp) (first : Nat) (l : List Int) : Sparse Int :=
  (l.zipIdx.map fun (v, k) => (first + k, v)).filter fun (i, v) => decide (op.lo ≤ i) && decide (i < op.hi) && v ≠ 0

/-- R142, R134: a step's products and marks join the term, from its A entry, its B entries and its metadata. -/
def BankOp.product (op : BankOp) (a : BEntry) (bs : List BEntry) (md : BEntry) : BankOp :=
  let p := Pd.pitch op.pd
  let l := Pd.l op.pd
  let G := Pd.segs op.pd
  let j := op.retired % op.pass
  let mode := Pd.mode op.pd
  let b := bs.headD {}
  let seg (m : BitVec 384) (g : Nat) : Nat := m.toNat / 2 ^ (l * g) % 2 ^ l
  if op.kind = .rtiles then
    let nk := Pd.kept op.pd
    let S := Pd.slots op.pd
    let slotOf (g k : Nat) : Nat := g * (16 * l / nk) + 16 * (k / nk) + md.bytes.toNat / 2 ^ (4 * (g * l + k)) % 16
    let coef (g : Nat) : Int := (List.range l).foldl (fun acc k =>
      let n := slotOf g k
      acc + Num.signed (Num.elem a.bytes.toNat p (g * l + k)) p * Num.signed (Num.elem (bs.getD (n / S) {}).bytes.toNat p (n % S)) p) 0
    let marked (g : Nat) : Bool := seg a.marks g ≠ 0 || (List.range l).any fun k =>
      (bs.getD (slotOf g k / S) {}).marks.getLsbD (slotOf g k % S)
    let run := op.run (j * G) ((List.range G).map coef)
    { op with part := sumMaps op.part run, marks := op.marks ||| digitSet (((List.range G).filter marked).map (j * G + ·)) }
  else
    let y (g : Nat) : Int := Num.poly a.bytes.toNat p l (g * l) * Num.poly b.bytes.toNat p l (g * l)
    let base := op.lo + j * G * (if mode = 1 then l else 1)
    if mode = 1 then
      let part := (List.range G).foldl (fun m g => sumMaps m (op.run (base + g * l) (Num.digits p (2 * l - 1) (y g)))) op.part
      let hit := (List.range G).flatMap fun g => (List.range l).flatMap fun k =>
        if (seg a.marks g ||| seg b.marks g).testBit k then (List.range l).map (base + g * l + k + ·) else []
      { op with part := part, marks := op.marks ||| digitSet (hit.filter (· < 4096)) }
    else
      let one (g : Nat) : Int := if mode = 2 then y g else (Num.digits p l (y g)).getLastD 0
      let hit := (List.range G).filter fun g => seg (a.marks ||| b.marks) g ≠ 0
      { op with
        part := sumMaps op.part (op.run base ((List.range G).map one))
        marks := op.marks ||| digitSet ((hit.map (base + ·)).filter (· < 4096)) }

/-- R129: the oldest unretired step retires: its products join and its sheaves are popped. (Log entry 29: DEDUCED, unsafe.) -/
def State.retireStep (s : State) (core : Nat) (op : BankOp) : State × BankOp :=
  let t := op.tid
  let a := s.battenRead t op.ua.toNat 0
  let bs := (List.range op.sparseB).map (s.battenRead t op.ub.toNat)
  let md := if op.kind = .rtiles then s.battenRead t (Pd.mb op.pd) 0 else {}
  let op := op.product a bs md
  let s := (s.consume t op.ua.toNat 1).consume t op.ub.toNat op.sparseB
  let s := if op.kind = .rtiles then s.consume t (Pd.mb op.pd) 1 else s
  (s.count core 10, { op with retired := op.retired + 1 })

/-- Retires the steps that have passed, in step order. (Log entry 29: DEDUCED, unsafe.) -/
def retireSteps (core : Nat) : Nat → State × BankOp → State × BankOp
  | 0, x => x
  | n + 1, (s, op) =>
    if op.retired < op.taken && !op.failed.any (·.1 == op.retired) then retireSteps core n (s.retireStep core op) else (s, op)

/-- Are the entries of step k visible? -/
def State.stepVisible (s : State) (op : BankOp) (k : Nat) : Bool :=
  let j := k - op.retired
  decide (j < s.battenVisible op.tid op.ua.toNat) && decide ((j + 1) * op.sparseB ≤ s.battenVisible op.tid op.ub.toNat)
    && (op.kind != .rtiles || decide (j < s.battenVisible op.tid (Pd.mb op.pd)))

/-- Takes the given failed steps again, then new steps, on `cap` rafters. (Log entry 29: DEDUCED, unsafe.) -/
def takeSteps (core : Nat) : Nat → List Nat → State × BankOp × Check → State × BankOp × Check
  | 0, _, x => x
  | n + 1, l, (s, op, c) =>
    if c = .margin then (s, op, c)
    else match l with
      | k :: l => let x := s.checkStep core op k
                  takeSteps core n l (if x.2.2 = .margin then x else (x.1, x.2.1, .pass))
      | [] =>
        if op.taken < op.steps && s.stepVisible op op.taken then
          let k := op.taken
          let x := s.checkStep core { op with taken := k + 1 } k
          takeSteps core n [] (if x.2.2 = .margin then x else (x.1, x.2.1, .pass))
        else (s, op, c)

/-! Rafters (R129, R150, R167). -/

/-- Log entry 33: DEDUCED, unsafe. -/
def bgWindowOf (now : Nat) : Nat := now / 65536 + 1

/-- The rafters that may take a step in this cycle, in ascending order: an untested one is withheld in the last cycle of
its window. (Log entry 4: DESIGN CHOICE, unsafe.) -/
def State.rafters (s : State) (core : Nat) : List Nat :=
  let c := s.core core
  (List.range 32).filter fun j => !c.rfence.getLsbD j
    && !(s.now % 65536 == 65535 && decide ((c.bg.get {} j).window < bgWindowOf s.now))

def State.useRafters (s : State) (core : Nat) (l : List Nat) : State :=
  s.modCore core fun c => { c with
    bankUseAt := s.now + 1
    bankUse := l.foldl (fun (m : BitVec 32) j => m ||| BitVec.twoPow 32 j) (if c.bankUseAt = s.now + 1 then c.bankUse else 0) }

/-- R150, R167: a rafter that fails a test is fenced. -/
def State.fence (s : State) (core j : Nat) : State :=
  let s := { s with rafterBad := s.rafterBad.filter (· ≠ (core, j)) }
  let s := s.modCore core fun c => { c with
    rfence := c.rfence ||| BitVec.twoPow 32 j, fenceAt := s.now + 1
    fenceNew := (if c.fenceAt = s.now + 1 then c.fenceNew else 0) ||| BitVec.twoPow 32 j }
  let c := s.core core
  let s := s.sendEvent core 4 (c.rfence.zeroExtend 64) 0
  let n := ((List.range 32).filter fun j => c.rfence.getLsbD j).length
  if 16 < n ∧ !c.quar then s.quarantine core true else s

/-! The accesses of steps (R144, R149). -/

def BankOp.acc (op : BankOp) (id : Nat) (s : State) (va n data : Nat) : Acc :=
  let c := s.ctx op.tid
  { id := id, tid := op.tid, bind := (s.slot op.tid).bind, pc := c.pc, len := op.len
    kind := if op.kind = .rload then .rload else if op.cstore then .stc else .rstore
    qual := .none, va := va % 2 ^ 64, pa := va % 2 ^ 64, n := n, data := data, data2 := 2 ^ 48 * op.id, dst := .none, wc := 0
    issue := s.now, priv := c.priv, pasid := c.pasid, tenant := c.tenant }

/-- R143: a digit as REXT and REXTM extract it: an empty purlin's are zero. -/
def Purlin.digit (p : Purlin) (i : Nat) : Int := if p.n = 0 then 0 else (p.digits.get 0 i).toInt

/-- R144: a row's elements, packed. -/
def BankOp.rowData (op : BankOp) (p : Purlin) (r : Nat) : Nat :=
  let w := Num.bits op.fmt
  let d0 := 64 * (op.row0 + r)
  Num.pack w 64 fun j => Num.extract p.nanMap.getLsbD p.digit op.fmt op.rnd op.sat
    (p.exp - Num.signed op.shift.toNat 12) (d0 + j)

/-- R149: the bytes of a purlin's record. -/
def Purlin.recordByte (p : Purlin) (i : Nat) : Nat :=
  if i < 16 then p.guard / 256 ^ i % 256
  else if i < 64 then 0
  else if i < 576 then p.nanMap.toNat / 256 ^ (i - 64) % 256
  else (p.digits.get 0 ((i - 576) / 12)).toNat / 256 ^ ((i - 576) % 12) % 256
def Purlin.record (p : Purlin) (off n : Nat) : Nat := Num.pack 8 n fun j => p.recordByte (off + j)

/-- Byte k of a number set to v. -/
def setByte (x k v : Nat) : Nat := x - x / 256 ^ k % 256 * 256 ^ k + v * 256 ^ k

/-- R149: bytes of a record enter a purlin. -/
def Purlin.load (p : Purlin) (off n data : Nat) : Purlin :=
  let p := if off = 0 then p.setGuard (data % 2 ^ 128) else p
  (List.range n).foldl (fun (p : Purlin) j =>
    let i := off + j
    let v := data / 256 ^ j % 256
    if i < 64 then p
    else if i < 576 then { p with nanMap := BitVec.ofNat 4096 (setByte p.nanMap.toNat (i - 64) v) }
    else
      let d := (i - 576) / 12
      { p with digits := p.digits.put 0 d (BitVec.ofNat 96 (setByte (p.digits.get 0 d).toNat ((i - 576) % 12) v)) }) p

/-- The accesses of step k: address offset, bytes and data. -/
def BankOp.chunks (op : BankOp) (p : Purlin) : List (Nat × Nat × Nat) :=
  let k := op.retired
  match op.kind with
  | .rextm =>
    let data := op.rowData p k
    let n := 8 * Num.bits op.fmt
    let a := (op.base + op.stride * BitVec.ofNat 64 k).toNat
    (List.range (n / 16)).map fun j => (a + 16 * j, 16, data / 2 ^ (128 * j) % 2 ^ 128)
  | _ =>
    (List.range (if k = 97 then 1 else 8)).map fun j =>
      let off := 512 * k + 64 * j
      (op.base.toNat + off, 64, if op.kind = .rload then 0 else p.record off 64)

inductive Handing where
  | fault (f : Flt)
  | miss (a : Acc)
  | go (l : List Acc)

/-- The translations of a step's accesses; a row's store that is not at a multiple of its size raises ALIGN (R144, R197). -/
def State.handing (s : State) (op : BankOp) : List (Nat × Nat × Nat) → Handing
  | [] => .go []
  | (va, n, data) :: l =>
    let (id, s') := s.newId
    let a := op.acc id s va n data
    if a.va % n ≠ 0 then .fault (alignFault (BitVec.ofNat 64 a.va))
    else if op.cstore then
      match storeFault (BitVec.ofNat 64 a.va) n with
      | some f => .fault f
      | none => match s'.handing op l with
        | .go l => .go (a :: l)
        | x => x
    else if a.va / 2 ^ 55 ≠ 0 then .fault { code := 7, sub := 2, addr := BitVec.ofNat 64 a.va }
    else match findTlb (s.core op.tid.core).tlb a.pasid a.va with
      | none => .miss a
      | some e => match s.resolve a e with
        | .error f => .fault f
        | .ok pa => match s'.handing op l with
          | .go l => .go ({ a with pa := pa } :: l)
          | x => x

/-- R144, R149: a row or a step's bytes go to the memory system. (Log entry 31: DEDUCED, unsafe.) -/
def State.rowStore (s : State) (a : Acc) : State :=
  if a.kind = .stc then s.cstoreSend a 0 else s.l1Store { a with kind := .st } 0

/-- R149: a load of RLOAD. (Log entry 31: DEDUCED, unsafe.) -/
def State.bankLoad (s : State) (a : Acc) : State :=
  match if isDevice a.pa then none else (s.core a.tid.core).l1Load a.pa a.n with
  | some v => s.actAt s.now (.bankData { a with data := v })
  | none =>
    (s.addOut a.tid.core { id := a.id, slot := a.tid.slot, kind := .load, line := a.pa / 64 }).fetchLine a s.now

def State.setTorn (s : State) (core : Nat) (op : BankOp) : State :=
  let p := s.purlin core op.pn.toNat
  s.setPurlin core op.pn.toNat { p with torn := true }

/-! One bank cycle. -/

/-- R130, R133: a term starts: its scale sheaves are popped, and the rebase is decided. -/
def State.startTerm (s : State) (core : Nat) (op : BankOp) : State × BankOp :=
  let t := op.tid
  let pop (s : State) (have_ : Option Sheaf) (sideB : Bool) : State × Option Sheaf :=
    let b := Pd.scaleBatten op.pd sideB
    if Pd.kind op.pd sideB = 0 || have_.isSome || s.battenVisible t b = 0 then (s, have_)
    else (s.consume t b 1, some (s.battenRead t b 0).bytes)
  let (s, a) := pop s op.scaleA false
  let waitA := Pd.kind op.pd false ≠ 0 && a.isNone
  let (s, b) := if waitA then (s, op.scaleB) else pop s op.scaleB true
  let op := { op with scaleA := a, scaleB := b }
  if waitA || (Pd.kind op.pd true ≠ 0 && b.isNone) then (s, op)
  else
    let p := s.purlin core op.pn.toNat
    let low := p.n ≠ 0 && (match op.scaleExp with
      | some e => decide (e < p.exp)
      | none => false)
    (s, { op with scaled := true, go := if low then s.now + 32 else s.now })

/-- R129 to R133: a bank cycle of RMUL, RTILE or RTILES. -/
def State.multiply (s : State) (core : Nat) (op : BankOp) : State :=
  let (s, op) := if op.scaled then (s, op) else s.startTerm core op
  if !op.scaled || decide (s.now < op.go) then s.setHead core op
  else
    let free := s.rafters core
    let before := op.taken
    let again := op.failed.map (·.1)
    let (s, op, c) := takeSteps core free.length ((List.range (if again.isEmpty then 0 else op.taken)).filter again.contains) (s, op, .pass)
    let s := s.useRafters core (free.take (Min.min free.length again.length + (op.taken - before)))
    let (s, op) := retireSteps core 4096 (s, op)
    let s := s.setHead core op
    if c = .margin then
      (s.setTorn core op).bankOver core op s.now (some marginFault) |>.wakeNext core
        [Res.battenPop op.ua.toNat, Res.battenPop op.ub.toNat, Res.battenPop (Pd.mb op.pd)]
    else if op.retired < op.steps then s
    else match op.termFold (s.purlin core op.pn.toNat) with
      | none => s.bankOver core op s.now (some (guardFault 1 (BitVec.ofNat 64 op.term)))
      | some p =>
        let s := s.setPurlin core op.pn.toNat p
        if op.term + 1 = op.terms then s.bankOver core op (s.now + 4) none
        else s.setHead core { op with
          term := op.term + 1, taken := 0, retired := 0, failed := [], scaled := false, scaleA := none, scaleB := none, part := [],
          marks := 0 }

/-- The cycles of the step that op is at (R147, R408). -/
def BankOp.cost (op : BankOp) : Nat :=
  match op.kind with
  | .rbase => if op.scaled then 32 else 1
  | .rfuse => if op.scaled && op.retired == 0 then 32 else 3
  | .rextm | .rtest => 2
  | _ => 1

/-- The source of an RFUSE is no longer read. -/
def State.unlock (s : State) (core : Nat) (op : BankOp) : State :=
  let p := s.purlin op.src.1 op.src.2
  s.setPurlin op.src.1 op.src.2 { p with readers := p.readers.filter (· ≠ core) }

/-- R148: RFUSE merges its source. -/
def State.fused (s : State) (core : Nat) (op : BankOp) : Option Purlin :=
  let p := s.purlin core op.pn.toNat
  let q := s.purlin op.src.1 op.src.2
  if q.n = 0 then some p else (p.fold q.ints q.exp q.bound.toNat).map fun p => { p with nanMap := p.nanMap ||| q.nanMap }

/-- R145: what RBASE leaves; none where it raises GUARD. -/
def Purlin.rebase (p : Purlin) (b : Int) : Option Purlin :=
  if p.n = 0 then some { p with base := BitVec.ofInt 12 b, bound := 0, n := 1 }
  else if b < p.exp then
    let k := 2 ^ (p.exp - b).toNat
    if 2 ^ 95 ≤ p.bound.toNat * k then none
    else some { p with digits := toDigits (scaleMap (k : Nat) p.ints), bound := BitVec.ofNat 95 (p.bound.toNat * k), base := BitVec.ofInt 12 b }
  else some p

/-- The first bank cycle of an operation that works in the steps of R408. -/
def State.startOp (s : State) (core : Nat) (op : BankOp) : State × BankOp × Option Flt :=
  let p := s.purlin core op.pn.toNat
  let op := { op with started := true }
  match op.kind with
  | .rbase =>
    let b := Num.signed op.base.toNat 12
    let shifts := p.n ≠ 0 && decide (b < p.exp)
    let op := { op with scaled := shifts, steps := 1 }
    (s, { op with go := s.now + op.cost - 1 }, if (p.rebase b).isNone then some (guardFault 1) else none)
  | .rfuse => (s.performAt (s.now + 4) ⟨core, 0⟩ (.rfuseSourceRead core), { op with go := s.now + 4 }, none)
  | .rtest =>
    let l := (List.range 32).filter fun j => !(s.core core).rfence.getLsbD j
    (s, { op with todo := l, steps := l.length, go := s.now + 1 }, none)
  | _ => (s, { op with go := s.now + op.cost - 1 }, none)

/-- A step of R408 has passed and its bytes have gone: the operation moves on. (Log entry 29: DEDUCED, unsafe.) -/
def State.stepDone (s : State) (core : Nat) (op : BankOp) : State :=
  let op := { op with retired := op.retired + 1, held := false }
  let op := { op with go := s.now + op.cost }
  let s := s.setHead core op
  if op.retired < op.steps then s
  else match op.kind with
    | .rbase => match (s.purlin core op.pn.toNat).rebase (Num.signed op.base.toNat 12) with
      | some p => (s.setPurlin core op.pn.toNat p).bankOver core op s.now none
      | none => s.bankOver core op s.now (some (guardFault 1))
    | .rfuse => match s.fused core op with
      | some p => ((s.setPurlin core op.pn.toNat { p with readers := (s.purlin core op.pn.toNat).readers }).unlock core op).bankOver
          core op s.now none
      | none => (s.unlock core op).bankOver core op s.now (some (guardFault 1))
    | .rtest => (s.landReg op.tid (.g op.d) op.mask.toNat).bankOver core op s.now none
    | .rload =>
      (s.modCore core fun c => { c with bank := c.bank.drop 1, loading := c.loading ++ [op] }).actAt s.now (.resumeBank core op.id none)
    | _ => s.bankOver core op s.now none

/-- R149: an RLOAD whose data have all landed completes. -/
def State.loadOver (s : State) (core : Nat) (op : BankOp) (f : Option Flt) : State :=
  let s := s.modCore core fun c => { c with loading := c.loading.filter fun x => x.id ≠ op.id }
  let p := s.purlin core op.pn.toNat
  let exceeds := p.digits.any fun x => decide (p.bound.toNat < x.2.toInt.natAbs)
  (s.setPurlin core op.pn.toNat { p with torn := p.torn || exceeds || f.isSome }).bankEnd op.tid op.id op.len f

/-- A step that has passed hands its accesses on, or waits for a translation or for the comparator. -/
def State.handOn (s : State) (core : Nat) (op : BankOp) : State :=
  let l := op.chunks (s.purlin core op.pn.toNat)
  let t := op.tid
  if op.kind ≠ .rload ∧ (s.ctx t).paired ∧ 16 < (s.slot t).cmp.length + l.length then
    s.setHead core { op with held := true, go := s.now + 1 }
  else match s.handing op l with
    | .fault f => (if op.kind = .rload then s.setTorn core op else s).bankOver core op s.now (some f)
    | .miss a => (({ s with fresh := a.id + 1 }).setHead core { op with held := true, go := 2 ^ 64 }).missTlb a
    | .go l =>
      let ids := l.map (·.id)
      let s := { s with fresh := s.fresh + l.length }
      if op.kind = .rload then
        (l.foldl (fun s a => s.bankLoad a) s).stepDone core { op with landing := op.landing ++ ids }
      else
        (l.foldl (fun s a => s.emit t 0 [if op.cstore then 2 else 3, a.n, a.data] (BitVec.ofNat 64 a.va) true (.rowStore a)) s).stepDone core op

/-- R147, R150, R408: a bank cycle of an operation that works in the steps of R408. (Log entry 31: DEDUCED, unsafe.) -/
def State.workStep (s : State) (core : Nat) (op : BankOp) : State :=
  let margin (s : State) (op : BankOp) : State :=
    let s := if op.kind = .rbase ∨ op.kind = .rfuse ∨ op.kind = .rload then s.setTorn core op else s
    (if op.kind = .rfuse then s.unlock core op else s).bankOver core op s.now (some marginFault)
  if op.kind = .rtest then
    match op.todo[op.retired]? with
    | none => s.stepDone core { op with retired := op.steps }
    | some j =>
      let s := s.useRafters core [j]
      if s.now < op.go then s.setHead core op
      else
        let (s, op, c) := s.checkStep core op op.retired
        if c = .again then s.setHead core { op with go := s.now + op.cost }
        else if c = .margin ∨ s.rafterBad.contains (core, j) then
          (s.fence core j).stepDone core { op with mask := op.mask ||| BitVec.twoPow 32 j, failed := [] }
        else s.stepDone core op
  else if s.now < op.go then s.setHead core op
  else if op.held then s.handOn core op
  else
    let (s, op, c) := s.checkStep core op op.retired
    match c with
    | .again => s.setHead core { op with go := s.now + op.cost }
    | .margin => margin s op
    | .pass => match op.kind with
      | .rextm | .rsave | .rload => s.handOn core op
      | _ => s.stepDone core op

/-- R148: RCLR, PREL or RGLD that waited for its purlin. -/
def State.instant (s : State) (core : Nat) (op : BankOp) : State :=
  let p := s.purlin core op.pn.toNat
  let p := match op.kind with
    | .rclr => p.cleared
    | .prel => p.released
    | .rgld lo hi => p.setGuard (lo.toNat + hi.toNat * 2 ^ 64)
    | _ => p
  (s.setPurlin core op.pn.toNat p).bankOver core op s.now none

/-- R129: one bank cycle. (Log entry 29: DEDUCED, unsafe.) -/
def State.bankCycle (s : State) (core : Nat) : State :=
  match (s.core core).bank with
  | [] => s
  | op :: _ =>
    if !op.started && s.locked core op.pn.toNat op.issue && op.kind != .rtest then s
    else match op.kind with
      | .rmul | .rtile | .rtiles => s.multiply core { op with started := true }
      | .rclr | .prel | .rgld _ _ => s.instant core op
      | _ =>
        let (s, op, f) := if op.started then (s, op, none) else s.startOp core op
        match f with
        | some f => s.bankOver core op s.now (some f)
        | none => if op.kind = .rfuse && !op.served then s.setHead core op else s.workStep core op

def execSheafStep (core : Nat) (s : State) : Host.Outcome State Fault Refusal :=
  let s := s.bankCycle core
  .next (if (s.core core).bank.isEmpty then s else s.bankNext core)

/-- R148: the read of an RFUSE at its source's bank queue: after what was issued there before it, a PREL that has not
committed among it. (Log entry 32: DEDUCED, unsafe.) -/
def execRfuseSourceRead (core : Nat) (s : State) : Host.Outcome State Fault Refusal :=
  .next <| match (s.core core).bank with
  | op :: _ =>
    if op.kind ≠ .rfuse ∨ op.served ∨ !op.started then s
    else
      let (src, pn) := op.src
      let arrived : SrcRead := ⟨core, pn, op.go⟩
      let c := s.core src
      let first (o : BankOp) : Bool := o.pn.toNat == pn && decide (o.issue < op.go) && o.kind != .rtest
      let leaving := s.agenda.any fun e => e.ev == .act (.release src pn)
      let busy := (src ≠ core && (c.bank.any first || c.bankDone == (s.now + 1, pn))) || c.loading.any first || leaving
      let drop (s : State) : State := s.modCore src fun c => { c with reads := c.reads.filter (· ≠ arrived) }
      if busy then
        (s.modCore src fun c => { c with reads := arrived :: c.reads.filter (· ≠ arrived) }).performAt (s.now + 1) ⟨core, 0⟩
          (.rfuseSourceRead core)
      else
        let s := drop s
        let q := s.purlin src pn
        let p := s.purlin core op.pn.toNat
        if !q.claimed then s.bankOver core op s.now (some (protFault 7))
        else if q.torn then s.bankOver core op s.now (some { code := 11 })
        else if (s.fused core op).isNone then s.bankOver core op s.now (some (guardFault 1))
        else
          let lowers := q.n ≠ 0 && p.n ≠ 0 && decide (q.exp < p.exp)
          let op := { op with served := true, scaled := lowers, steps := if lowers then 33 else 32 }
          (s.setPurlin src pn { q with readers := core :: q.readers }).setHead core { op with go := s.now + op.cost - 1 }
  | [] => s

/-- A translation that a step waited for is there, or an RLOAD may be over. -/
def State.resumeBank (s : State) (core id : Nat) (f : Option Flt) : State :=
  match (s.core core).loading.find? (·.id == id), (s.core core).bank with
  | some op, _ => if op.landing.isEmpty then s.loadOver core op none else s
  | none, op :: _ =>
    if op.id ≠ id ∨ !op.held then s
    else match f with
      | none => s.setHead core { op with go := s.now }
      | some f => (if op.kind = .rload then s.setTorn core op else s).bankOver core op s.now (some f)
  | none, [] => s

/-- R149: the data of an RLOAD's access. -/
def State.bankData (s : State) (a : Acc) : State :=
  let core := a.tid.core
  let id := accIndex a
  let c := s.core core
  let put (op : BankOp) : State :=
    let p := s.purlin core op.pn.toNat
    s.setPurlin core op.pn.toNat (p.load (a.va - op.base.toNat) a.n a.data)
  let less (op : BankOp) : BankOp := { op with landing := op.landing.filter (· ≠ a.id) }
  match c.loading.find? (·.id == id), c.bank.find? (·.id == id) with
  | some op, _ => match accFault a with
    | some f => s.loadOver core op (some f)
    | none =>
      let s := (put op).modCore core fun c => { c with loading := c.loading.map fun o => if o.id = id then less o else o }
      s.resumeBank core id none
  | none, some op => match accFault a with
    | some f => (s.setTorn core op).bankOver core op s.now (some f)
    | none => (put op).setHead core (less op)
  | none, none => s

/-! Background tests (R150). -/

/-- A rafter that is due and idle in this cycle. (Log entry 33: DEDUCED, unsafe.) -/
def State.bgDue (s : State) (core : Nat) : Option Nat :=
  let c := s.core core
  if bgWindowOf s.now ≤ c.bgAll || c.gate != .powered || c.kind == .withheld then none
  else (List.range 32).find? fun j =>
    let b := c.bg.get {} j
    !c.rfence.getLsbD j && decide (b.window < bgWindowOf s.now) && b.at_ != s.now + 1
      && !(c.bankUseAt == s.now + 1 && c.bankUse.getLsbD j)

/-- Log entry 33: DEDUCED, unsafe. -/
def execRafterBackgroundTest (core rafter : Nat) (s : State) : Host.Outcome State Fault Refusal :=
  let (bad, s) := s.stepCheck
  let b := (s.core core).bg.get {} rafter
  let put (s : State) (b : BgTest) : State := s.modCore core fun c =>
    let bg := c.bg.put {} rafter b
    let w := bgWindowOf s.now
    { c with bg := bg, bgAll := if (List.range 32).all (fun j => c.rfence.getLsbD j || decide (w ≤ (bg.get {} j).window)) then w else c.bgAll }
  let done : BgTest := { tests := b.tests + 1, window := bgWindowOf s.now }
  .next <|
    if bad && decide (b.fails < (s.core core).stepLim.toNat) then
      (put s { b with fails := b.fails + 1, at_ := s.now + 1 }).postAt s.now (.stepRepeat core 1)
    else if bad || s.rafterBad.contains (core, rafter) then put (s.fence core rafter) done
    else put s done

/-! The instructions. -/

/-- R123. -/
def execPitch (h : Hdr) (b : Src) (s : State) :=
  issue h (rS b) (fun _ s =>
    let v := (s.ctx s.cur).rs b &&& (BitVec.allOnes 64 >>> 1)
    if Pd.admits v then .next (s.modCtx s.cur fun c => { c with pd := pitched v }) else .fault (guardFault 0)) s

/-- R136, R137: writes into the tail entry commit, and the push after them. -/
def State.battenWrite (s : State) (core b entry : Nat) (val mask : BEntry) (push ok : Bool) : State :=
  let x := s.batten core b
  let s := if !ok then s
    else
      let e := x.entry entry
      let e' : BEntry := ⟨(e.bytes &&& ~~~mask.bytes) ||| (val.bytes &&& mask.bytes), (e.marks &&& ~~~mask.marks) ||| (val.marks &&& mask.marks)⟩
      s.setBatten core b { x with entries := x.entries.put {} entry e', written := if entry = x.tail.toNat then x.written ||| mask.bytes else x.written }
  if push then s.bPushCommit core b ok else s

/-- R136, R137, R231: an instruction that writes the tail entry. Its writes and its push are the held side effect of class F:
they commit at c + 3 (R168, R231, R386). (Log entry 30: DEDUCED, unsafe.) -/
def packTail (u : BitVec 4) (push : Bool) (e : BEntry × BEntry) (ok : Bool) (s : State) : Step1 :=
  let t := s.cur
  let x := s.batten t.core u.toNat
  if x.feed then .fault (protFault 9)
  else if (s.ctx t).isTrail then .next s
  else match x.tailEntry s.now with
    | none => .wait (.change [Res.batten u.toNat])
    | some i =>
      if (s.regionOf t).dbg && i == x.tail.toNat && x.written &&& e.2.bytes ≠ 0 then .fault { code := 21, sub := 5 }
      else
        let s := if push then s.reservePush t.core u.toNat else s
        if !ok && !push then .next s
        else .next (s.actAt (s.now + 3 + (if push then s.pushDelay t else 0)) (.bWrite t.core u.toNat i e.1 e.2 push ok))

/-- The bits of n fields of w bits, at the places that `at_` gives. -/
def scatter (l : List (Nat × Nat × Nat)) : Nat := l.foldl (fun m (lo, n, v) => m ||| v % 2 ^ n * 2 ^ lo) 0

/-- Log entry 30: DEDUCED, unsafe. -/
def execVpack (h : Hdr) (fmt : Fmt) (side push : Bool) (u : BitVec 4) (a : Reg) (pos : BitVec 9) (s : State) :=
  issue h [rV a] (vec := true) (resv := push) (fun ok s =>
    let c := s.ctx s.cur
    let pd := c.pd
    if !Pd.valid pd || Pd.fmt pd side ≠ fmt then .fault (guardFault 0)
    else
      let w := Num.bits fmt
      let n := Num.count fmt
      let p := Pd.pitch pd
      let l := Pd.l pd
      let first := if h.len = .w96 then pos.toNat else pos.toNat * n
      let js := (List.range n).filter fun j => Num.enabled (c.lm h).toNat w j && decide (first + j < Pd.slots pd)
      let slotOf (j : Nat) : Nat :=
        let k := first + j
        if side && Pd.mode pd == 0 && Pd.sparse pd == 0 then k / l * l + (l - 1 - k % l) else k
      let img (j : Nat) : Option Int := (Num.image fmt (Num.elem (c.rv a).toNat w j)).map (Num.limb fmt (Pd.limb pd side))
      let val : BEntry := ⟨BitVec.ofNat 3072 (scatter (js.map fun j => (p * slotOf j, p, Num.wrap ((img j).getD 0) p))),
        BitVec.ofNat 384 (scatter (js.map fun j => (slotOf j, 1, (img j).isNone.toNat)))⟩
      let mask : BEntry := ⟨BitVec.ofNat 3072 (scatter (js.map fun j => (p * slotOf j, p, 2 ^ p - 1))),
        BitVec.ofNat 384 (scatter (js.map fun j => (slotOf j, 1, 1)))⟩
      packTail u push (val, mask) ok s) s

/-- Log entry 30: DEDUCED, unsafe. -/
def execVpacks (h : Hdr) (push : Bool) (u : BitVec 4) (a : Reg) (pos : BitVec 9) (s : State) :=
  issue h [rV a] (vec := true) (resv := push) (fun ok s =>
    let c := s.ctx s.cur
    let first := if h.len = .w96 then pos.toNat else pos.toNat * 64
    let js := (List.range 64).filter fun j => (c.lm h).getLsbD j && decide (first + j < 384)
    let val := BitVec.ofNat 3072 (scatter (js.map fun j => (8 * (first + j), 8, Num.elem (c.rv a).toNat 8 j)))
    let mask := BitVec.ofNat 3072 (scatter (js.map fun j => (8 * (first + j), 8, 255)))
    packTail u push (⟨val, 0⟩, ⟨mask, 0⟩) ok s) s

/-- R138: a claim is decided at issue and commits at c + 3. -/
def execPclaim (h : Hdr) (d : Reg) (pn : BitVec 2) (s : State) :=
  issue h [wG d] (resv := true) (own := true) (fun ok s =>
    let t := s.cur
    let p := s.purlin t.core pn.toNat
    let won := if p.claimed then p.owner.toNat == t.slot else p.claims.all (· == t.slot)
    let s := if won then s.setPurlin t.core pn.toNat { p with claims := p.claims ++ [t.slot] } else s
    let s := if won then s.actAt (s.now + 3) (.claim t.core pn.toNat t.slot won ok) else s
    if !ok then .next s else .next (s.modCtx t (·.wg d (if won then 1 else 0)))) s

def State.claimCommit (s : State) (core pn slot : Nat) (won ok : Bool) : State :=
  let p := s.purlin core pn
  let p := { p with claims := p.claims.erase slot }
  s.setPurlin core pn (if won && ok then { p with claimed := true, owner := BitVec.ofNat 4 slot } else p)

/-- An operation of the issuing thread. -/
def State.bankOp (s : State) (kind : BankKind) (h : Hdr) (pn : BitVec 2) : BankOp × State :=
  let (id, s) := s.newId
  ({ id := id, kind := kind, tid := s.cur, len := bytesOf h, pn := pn, issue := s.now, pd := (s.ctx s.cur).pd }, s)

/-- Log entry 32: DEDUCED, unsafe. -/
def State.toBank (s : State) (op : BankOp) : Step1 := .sent (s.enqueueBank op.tid.core op) op.id

/-- RCLR, PREL and RGLD: at once, or in the bank's queue while R148 holds them. -/
def atOnce (h : Hdr) (pn : BitVec 2) (kind : BankKind) (k : State → Step1) (s : State) : Step1 :=
  let t := s.cur
  match s.purlinFault t pn false with
  | some f => .fault f
  | none =>
    if s.locked t.core pn.toNat s.now then
      let (op, s) := s.bankOp kind h pn
      s.toBank op
    else k s

def execPrel (h : Hdr) (pn : BitVec 2) (s : State) :=
  issue h [] (fun _ s => atOnce h pn .prel (fun s => .next (s.actAt (s.now + 3) (.release s.cur.core pn.toNat))) s) s
def execRclr (h : Hdr) (pn : BitVec 2) (s : State) :=
  issue h [] (fun _ s => atOnce h pn .rclr (fun s =>
    .next (s.setPurlin s.cur.core pn.toNat (s.purlin s.cur.core pn.toNat).cleared)) s) s
def execRgld (h : Hdr) (pn : BitVec 2) (a b : Reg) (s : State) :=
  issue h [rG a, rG b] (kpriv := true) (fun _ s =>
    let c := s.ctx s.cur
    atOnce h pn (.rgld (c.rg a) (c.rg b)) (fun s =>
      .next (s.setPurlin s.cur.core pn.toNat
        ((s.purlin s.cur.core pn.toNat).setGuard ((c.rg a).toNat + (c.rg b).toNat * 2 ^ 64)))) s) s
def execRgst (h : Hdr) (d : Reg) (pn : BitVec 2) (hi : Bool) (s : State) :=
  issue h [wG d] (fun _ s =>
    let t := s.cur
    match s.purlinFault t pn false with
    | some f => .fault f
    | none =>
      let v := (s.purlin t.core pn.toNat).guard
      .next (s.modCtx t (·.wg d (BitVec.ofNat 64 (if hi then v / 2 ^ 64 else v))))) s

/-- R124: the descriptor's fit to the operation, and the battens that it uses. -/
def pdFault (o : RafOps) (kind : BankKind) (pd : W64) : Bool :=
  let fits := match kind with
    | .rmul => Pd.sparse pd == 0
    | .rtile => decide (Pd.mode pd ≤ 1) && Pd.sparse pd == 0
    | _ => Pd.mode pd == 0 && Pd.sparse pd != 0
  let used := [o.ua.toNat, o.ub.toNat] ++ (if Pd.kind pd false ≠ 0 then [Pd.scaleBatten pd false] else [])
    ++ (if Pd.kind pd true ≠ 0 then [Pd.scaleBatten pd true] else []) ++ (if Pd.sparse pd ≠ 0 then [Pd.mb pd] else [])
  !Pd.valid pd || !fits || used.eraseDups.length != used.length

def ceilDiv (a b : Nat) : Nat := (a + b - 1) / b

/-- R141, R142. -/
def multiplyIssue (h : Hdr) (o : RafOps) (kind : BankKind) (s : State) : Host.Outcome State Fault Refusal :=
  issue h [] (stepped := true) (fun _ s =>
    let t := s.cur
    let pd := (s.ctx t).pd
    match s.purlinFault t o.pn true with
    | some f => .fault f
    | none =>
      if pdFault o kind pd then .fault (guardFault 0)
      else
        let (op, s) := s.bankOp kind h o.pn
        let n := o.cnt.toNat + 1
        let rows := o.rows.toNat + 1
        let pass := if kind = .rmul then n
          else ceilDiv (64 * rows) (if Pd.mode pd = 0 then Pd.segs pd else Pd.slots pd)
        let passes := if kind = .rmul ∨ Pd.mode pd ≠ 0 then 1 else Pd.kt pd / Pd.l pd
        s.toBank { op with
          ua := o.ua, ub := o.ub, terms := if kind = .rmul then 1 else n, steps := pass * passes, pass := pass, rows := rows
          d0 := o.d0.toNat }) s

def execRmul (h : Hdr) (o : RafOps) (s : State) := multiplyIssue h o .rmul s
def execRtile (h : Hdr) (o : RafOps) (s : State) := multiplyIssue h o .rtile s
def execRtiles (h : Hdr) (o : RafOps) (s : State) := multiplyIssue h o .rtiles s

def execRext (h : Hdr) (o : RextOps) (idx : BitVec 12) (s : State) :=
  issue h [rG o.b, wV o.d] (vec := true) (fun _ s =>
    let t := s.cur
    match s.purlinFault t o.pn true with
    | some f => .fault f
    | none =>
      let p := s.purlin t.core o.pn.toNat
      let w := Num.bits o.fmt
      let n := Num.count o.fmt
      let d0 := if h.len = .w96 then idx.toNat else idx.toNat * n
      let c := s.ctx t
      let e := p.exp - Num.signed (c.rg o.b).toNat 12
      let old : Vec := if w = 6 then (c.rv o.d) &&& (BitVec.allOnes 512 >>> 128) else c.rv o.d
      .next (s.modCtx t (·.wv o.d (Num.lanes old w n (c.lm h).toNat fun j =>
        Num.extract p.nanMap.getLsbD p.digit o.fmt o.rnd o.sat e (d0 + j))))) s

/-- R144, R149, R162: the checks of an address that a stepped instruction names: a match comes after ALIGN and before
the checks of the purlin, which come before ALIGN. -/
def stepAddress (s : State) (pn : BitVec 2) (torn : Bool) (kinds : Nat → Bool) (addr : W64) (bad : Bool) : Option Flt :=
  let own := s.purlinFault s.cur pn torn
  if bad then (match own with
    | some f => some f
    | none => some (alignFault addr))
  else match s.watch kinds addr with
    | some f => some f
    | none => own

/-- Log entry 31: DEDUCED, unsafe. -/
def execRextm (h : Hdr) (o : RextOps) (a : Reg) (row0 rows : BitVec 6) (off : W64) (s : State) :=
  issue h [rG o.d, rG a, rG o.b] (stepped := true) (fun _ s =>
    let t := s.cur
    let c := s.ctx t
    let base := c.rg o.d + off
    let stride := c.rg a
    match stepAddress s o.pn true isStoreKind base ((c.rg o.d).toNat % 16 ≠ 0 || stride.toNat % 16 ≠ 0) with
    | some f => .fault f
    | none =>
      let (op, s) := s.bankOp .rextm h o.pn
      s.toBank { op with
        base := base, stride := stride, shift := c.rg o.b, fmt := o.fmt, rnd := o.rnd, sat := o.sat, row0 := row0.toNat
        steps := rows.toNat + 1, cstore := h.len == .w96 }) s

/-- RBASE and RFUSE. -/
def execRbase (h : Hdr) (pn : BitVec 2) (a : Reg) (s : State) :=
  issue h [rG a] (stepped := true) (fun _ s =>
    match s.purlinFault s.cur pn true with
    | some f => .fault f
    | none =>
      let (op, s) := s.bankOp .rbase h pn
      s.toBank { op with base := (s.ctx s.cur).rg a }) s

def execRfuse (h : Hdr) (pn : BitVec 2) (a : Reg) (s : State) :=
  issue h [rG a] (stepped := true) (fun _ s =>
    let t := s.cur
    let v := (s.ctx t).rg a
    let src := clusterOf t.core * 8 + bits v 0 3
    let q := s.purlin src (bits v 3 2)
    let region (t : Tid) : Nat := (s.regionOf t).rcb
    match s.purlinFault t pn false with
    | some f => .fault f
    | none =>
      if !q.claimed || region ⟨src, q.owner.toNat⟩ ≠ region t then .fault (protFault 7)
      else if (s.purlin t.core pn.toNat).torn || q.torn then .fault { code := 11 }
      else
        let (op, s) := s.bankOp .rfuse h pn
        s.toBank { op with src := (src, bits v 3 2) }) s

def execRtest (h : Hdr) (d : Reg) (s : State) :=
  issue h [wG d] (stepped := true) (fun _ s =>
    let (op, s) := s.bankOp .rtest h 0
    s.toBank { op with d := d }) s

/-- R149. -/
def recordIssue (h : Hdr) (kind : BankKind) (kinds : Nat → Bool) (pn : BitVec 2) (a : Reg) (off : W64) (s : State) :
    Host.Outcome State Fault Refusal :=
  issue h [rG a] (stepped := true) (fun _ s =>
    let base := (s.ctx s.cur).rg a + off
    match stepAddress s pn false kinds base (base.toNat % 64 ≠ 0) with
    | some f => .fault f
    | none =>
      let (op, s) := s.bankOp kind h pn
      s.toBank { op with base := base, steps := 98 }) s

def execRsave (h : Hdr) (pn : BitVec 2) (a : Reg) (off : W64) (s : State) := recordIssue h .rsave isStoreKind pn a off s
def execRload (h : Hdr) (pn : BitVec 2) (a : Reg) (off : W64) (s : State) := recordIssue h .rload isLoadKind pn a off s

end Sys2Proof.Machine
end

