-- ==== Sys2Proof/Machine/Walk.lean ====
section
/-!
DEFINITION. Tile walks, opcodes 0xC0 to 0xC4: the issue of a command (R235 to R241), the command queues and their
engines (R234, R243), messages and flits (R242, R244, R245, R312), the entries of battens (R231, R239) and the ridge's
prefetch walks (R253).
-/

namespace Sys2Proof.Machine

/-! The fields of a command (R235, R236). -/

def Cmd.field (c : Cmd) (lo n : Nat) : Nat := c.desc.toNat / 2 ^ lo % 2 ^ n
def Cmd.rows (c : Cmd) : Nat := c.field 0 16 + 1
def Cmd.rlen (c : Cmd) : Nat := c.field 16 16 + 1
def Cmd.stream (c : Cmd) : Nat := c.field 32 8
def Cmd.blk (c : Cmd) : Nat := c.field 40 8 + 1
def Cmd.mstride (c : Cmd) : Nat := c.field 64 64
def Cmd.nstride (c : Cmd) : Nat := c.field 128 64
def Cmd.srep (c : Cmd) : Nat := c.field 192 16 + 1
def Cmd.crep (c : Cmd) : Nat := c.field 208 16 + 1
def Cmd.pkg (c : Cmd) : Nat := c.field 224 8
def Cmd.doneHandle (c : Cmd) : W64 := BitVec.ofNat 64 (c.field 256 64)

def Cmd.packed (c : Cmd) : Bool := c.packs && c.fn != 2
def Cmd.sideB (c : Cmd) : Bool := c.fn == 4
def Cmd.fmt (c : Cmd) : Fmt := Pd.fmt c.pd c.sideB
def Cmd.rowBytes (c : Cmd) : Nat := if c.packed then c.rlen * Num.bits c.fmt / 8 else c.rlen

inductive Near where
  | localMem | store | batten | remote
deriving DecidableEq, Repr

def Cmd.near (c : Cmd) : Near :=
  if c.packs then .batten else if c.op = 0xC3 then .remote else if c.fn = 0 then .localMem else .store

/-- R240: the cores that receive row r, and its place among the rows that they receive. -/
def Cmd.rowTo (c : Cmd) (r : Nat) : List Nat × Nat :=
  if c.op = 0xC2 then
    let l := dealCores c
    match l[r / c.blk % l.length]? with
    | some k => ([k], r / c.blk / l.length * c.blk + r % c.blk)
    | none => ([], r)
  else if c.op = 0xC4 then (dealCores c, r)
  else ([c.tid.core], r)

/-- The near address of byte `off` of row r. -/
def Cmd.nearAddr (c : Cmd) (r off : Nat) : Nat := (c.na.toNat + (c.rowTo r).2 * c.nstride + off) % 2 ^ 64

/-! The checks of R237. -/

/-- R237, item 2. -/
def Cmd.alignFault (c : Cmd) : Option Flt :=
  let bad (v : Nat) : Bool := v % 16 != 0
  let near := match c.near with
    | .localMem | .store => bad c.na.toNat || bad c.nstride
    | _ => false
  if !c.packed && (bad c.ma.toNat || bad c.mstride || bad c.rlen || near) then some { code := 5, addr := c.ma } else none

/-- R237, items 3 to 6, and R241's check of DONE. -/
def State.walkFault (s : State) (c : Cmd) : Option Flt :=
  let limit := if c.near = .localMem then 0x60000 else 0x400000
  let ranged := match c.near with
    | .localMem | .store => true
    | _ => false
  let multi := c.op == 0xC2 || c.op == 0xC4
  if ranged && (List.range c.rows).any (fun r => (c.rowTo r).1 != [] && decide (limit < c.nearAddr r 0 + c.rowBytes)) then
    some (protFault 0 c.na)
  else if c.packs && (c.tid.core :: c.battenCores).any (fun k => !(s.batten k c.bat.toNat).feed) then some (protFault 9)
  else if multi && (dealCores c).isEmpty then some (protFault 10)
  else if c.packed && !Pd.valid c.pd then some (guardFault 0)
  else if c.packed && c.rlen % Pd.l c.pd != 0 then some (protFault 10)
  else if c.packed && ((Num.bits c.fmt == 4 && c.rlen % 2 != 0) || (Num.bits c.fmt == 6 && c.rlen % 4 != 0)) then
    some { code := 5, addr := c.ma }
  else if c.op = 0xC3 ∧ c.doneHandle ≠ 0 ∧ hTag c.doneHandle ≠ 11 then some (handleFault c.doneHandle)
  else none

/-! Command queues (R234, R217). -/

def Core.cmdq (c : Core) (q : Nat) : List Cmd := c.cmdqs.get [] q
def State.modCmdq (s : State) (core q : Nat) (f : List Cmd → List Cmd) : State :=
  s.modCore core fun c => { c with cmdqs := c.cmdqs.put [] q (f (c.cmdq q)) }

/-- The commands that a join puts before one that is issued into queue q now. -/
def Core.joined (c : Core) (q : Nat) : List Nat := (c.joins.filter fun j => j.1.getLsbD q).flatMap (·.2)

/-- R217: a join. -/
def State.join (s : State) (core : Nat) (mask : BitVec 8) : State :=
  s.modCore core fun c =>
    let ids := (List.range 8).flatMap fun q => if mask.getLsbD q then (c.cmdq q).map (·.id) else []
    if ids.isEmpty then c else { c with joins := c.joins ++ [(mask, ids)] }

/-- A command has completed or is gone: joins no longer wait for it. -/
def Core.forget (c : Core) (id : Nat) : Core :=
  { c with
    joins := (c.joins.map fun j => (j.1, j.2.filter (· ≠ id))).filter fun j => !j.2.isEmpty
    cmdqs := (c.cmdqs.map fun (q, l) => (q, (l.filter fun x => x.id ≠ id).map fun x => { x with after := x.after.filter (· ≠ id) })).filter
      fun x => !x.2.isEmpty }

/-- R234: head commands become eligible. -/
def State.heads (s : State) (core : Nat) : State :=
  let (s, any) := (List.range 8).foldl (fun (x : State × Bool) q =>
    let c := x.1.core core
    match c.cmdq q with
    | h :: l =>
      if h.entered && h.elig == 0 && h.after.isEmpty && (c.stalled.get none q).isNone then
        (x.1.modCmdq core q fun _ => { h with elig := x.1.now + 1 } :: l, true)
      else x
    | [] => x) (s, false)
  if any then s.sched (s.now + 1) (Phase.engine (clusterOf core) 0) (.act (.engines (clusterOf core))) else s

/-- A pair's counters rise and fall together (R246). -/
def State.bothWc (s : State) (t : Tid) (f : State → Tid → State) : State :=
  if (s.ctx t).paired then f (f s t) (partner t) else f s t

/-- R234: a command enters its queue. -/
def State.enqueueCmd (s : State) (core q id : Nat) : State :=
  match ((s.core core).cmdq q).find? (·.id == id) with
  | none => s
  | some c =>
    let s := s.modCmdq core q fun l => l.map fun x => if x.id = id then { x with entered := true } else x
    (s.bothWc c.tid fun s t => s.riseWc t c.wc).heads core

/-- A command leaves its queue: its place is free, and battens that wait for it are released (R232). -/
def State.leaveQueue (s : State) (core q : Nat) (c : Cmd) : State :=
  let s := ((s.modCore core fun x => x.forget c.id).wakeNext core [Res.cmdq q]).heads core
  c.battenCores.foldl (fun s k =>
    if (s.batten k c.bat.toNat).leaving && !s.battenNamed k c.bat.toNat then s.freeBatten k c.bat.toNat else s) s

/-- A reservation whose verdict fails is withdrawn. -/
def State.dropPlace (s : State) (core q id : Nat) : State :=
  match ((s.core core).cmdq q).find? (·.id == id) with
  | none => s
  | some c => s.leaveQueue core q c

/-! Issue (R234 to R241, R246). -/

def twIssue (h : Hdr) (o : TwOps) (op : BitVec 8) (fn : BitVec 4) (s : State) : Host.Outcome State Fault Refusal :=
  let bat := op != 0xC1 && op != 0xC3 && decide (2 ≤ fn.toNat)
  issue h (rG o.d :: rG o.a :: (if bat then [] else [rG o.b])) (resv := true) (fun ok s =>
    let t := s.cur
    let x := s.ctx t
    let q := o.q.toNat
    let da := x.rg o.d
    let ma := x.rg o.a + o.ext
    if x.rwc o.wc = 255 then .wait (.counter o.wc 254)
    else if da.toNat % 64 ≠ 0 then .fault (alignFault da)
    else match localFault x (s.core t.core).exb da.toNat 64 false with
      | some f => .fault f
      | none =>
        if s.localErr t.core da.toNat 64 = .uncorrectable then .fault (ueFault da.toNat)
        else
          let (id, s) := (fixLocal s t.core da.toNat 64).newId
          let c : Cmd :=
            { id := id, op := op, fn := fn, fe := o.fe, tid := t, bind := (s.slot t).bind, queue := q, wc := o.wc
              desc := BitVec.ofNat 512 (s.localRead t.core da.toNat 64), ma := ma, na := if bat then 0 else x.rg o.b
              bat := o.bat, pd := x.pd, priv := x.priv, pasid := x.pasid, tenant := x.tenant, team := s.teamNo t
              after := (s.core t.core).joined q }
          let stores := op == 0xC1 || (op == 0xC3 && fn == 1)
          match c.alignFault, s.watch (if stores then isStoreKind else isLoadKind) ma, s.walkFault c with
          | some f, _, _ | none, some f, _ | none, none, some f => .fault f
          | none, none, none =>
            let words := [30, op.toNat * 16 + fn.toNat, q, o.wc.toNat, o.fe.toNat, o.bat.toNat, da.toNat, ma.toNat, c.na.toNat, c.desc.toNat]
            if x.paired && s.cmpFull t then .wait (.change [pairKey t])
            else if x.isTrail then .next (s.emit t 3 words ma false (.enqueue t.core q id))
            else if 8 ≤ ((s.core t.core).cmdq q).length then .wait (.change [Res.cmdq q])
            else
              let s := s.modCmdq t.core q fun l => l ++ [c]
              if !ok then .next (s.actAt (s.now + 3) (.dropPlace t.core q id))
              else .next (s.emit t 3 words ma false (.enqueue t.core q id))) s

def execTwget (h : Hdr) (o : TwOps) (s : State) := twIssue h o 0xC0 0 s
def execTwgetC (h : Hdr) (o : TwOps) (s : State) := twIssue h o 0xC0 1 s
def execTwgetRaw (h : Hdr) (o : TwOps) (s : State) := twIssue h o 0xC0 2 s
def execTwgetPka (h : Hdr) (o : TwOps) (s : State) := twIssue h o 0xC0 3 s
def execTwgetPkb (h : Hdr) (o : TwOps) (s : State) := twIssue h o 0xC0 4 s
def execTwput (h : Hdr) (o : TwOps) (s : State) := twIssue h o 0xC1 0 s
def execTwputC (h : Hdr) (o : TwOps) (s : State) := twIssue h o 0xC1 1 s
def dealFn (form : DealForm) : BitVec 4 :=
  match form with
  | .near => 0
  | .raw => 2
  | .pka => 3
  | .pkb => 4
def execTwdeal (h : Hdr) (form : DealForm) (o : TwOps) (s : State) := twIssue h o 0xC2 (dealFn form) s
def execTwcast (h : Hdr) (form : DealForm) (o : TwOps) (s : State) := twIssue h o 0xC4 (dealFn form) s
/-- Log entry 39: DEDUCED, unsafe. -/
def execTwremPush (h : Hdr) (o : TwOps) (s : State) := twIssue h o 0xC3 0 s
/-- Log entry 39: DEDUCED, unsafe. -/
def execTwremPull (h : Hdr) (o : TwOps) (s : State) := twIssue h o 0xC3 1 s

/-! Engines. -/

def Cluster.run (c : Cluster) (id : Nat) : Option Run := c.engines.find? fun r => r.cmd.id == id
def State.modRun (s : State) (cl id : Nat) (f : Run → Run) : State :=
  s.modCluster cl fun c => { c with engines := c.engines.map fun r => if r.cmd.id = id then f r else r }

def State.cmdRegion (s : State) (c : Cmd) : Region :=
  match s.team c.team with
  | some x => x.region
  | none => {}

def Cmd.isRidge (c : Cmd) : Bool := decide (8 ≤ c.queue)

/-- Messages of 512 bytes per row (R242), and message i: its row, its offset in it and its bytes. -/
def Cmd.perRow (c : Cmd) : Nat := (c.rowBytes + 511) / 512
def Cmd.messages (c : Cmd) : Nat := c.rows * c.perRow
def Cmd.message (c : Cmd) (i : Nat) : Nat × Nat × Nat :=
  let off := i % c.perRow * 512
  (i / c.perRow, off, Min.min 512 (c.rowBytes - off))

/-- R234: free engines take eligible commands. -/
def State.arbitrate (s : State) (cl : Nat) : State :=
  let c := s.cluster cl
  let free := (List.range 5).filter fun p => !c.engines.any fun r => r.port == p && decide (s.now < r.freeAt)
  let able (x : Cmd) : Bool := x.elig != 0 && decide (x.elig ≤ s.now) && !x.started
  let own := (List.range 8).flatMap fun j => (List.range 8).filterMap fun q =>
    match ((s.core (8 * cl + j)).cmdq q).head? with
    | some x => if able x then some (x.elig, 8 * cl + j, q, x.id) else none
    | none => none
  let ridge := (c.ridge.filter able).map fun x => (x.elig, 8 * cl, 8 + x.id, x.id)
  let le (a b : Nat × Nat × Nat × Nat) : Bool :=
    decide (a.1 < b.1) || (a.1 == b.1 && (decide (a.2.1 < b.2.1) || (a.2.1 == b.2.1 && decide (a.2.2.1 ≤ b.2.2.1))))
  let rec ins (x : Nat × Nat × Nat × Nat) : List (Nat × Nat × Nat × Nat) → List (Nat × Nat × Nat × Nat)
    | [] => [x]
    | y :: l => if le x y then x :: y :: l else y :: ins x l
  let cands := (own ++ ridge).foldr ins []
  (free.zip cands).foldl (fun s (p, x) =>
    let mark (l : List Cmd) : List Cmd := l.map fun y => if y.id = x.2.2.2 then { y with started := true } else y
    let s := if 8 ≤ x.2.2.1 then s.modCluster cl fun c => { c with ridge := mark c.ridge } else s.modCmdq x.2.1 x.2.2.1 mark
    s.sched s.now (Phase.engine cl p) (.run (.engineCommandStart cl p x.2.1 x.2.2.1))) s

/-! Battens that an engine fills (R231, R239). -/

/-- Bits of one segment, segments and units of a packed stream of n bytes, and bytes of the segments in an entry. -/
def Cmd.segBits (c : Cmd) : Nat := Pd.l c.pd * Num.bits c.fmt
def Cmd.segsIn (c : Cmd) (n : Nat) : Nat := n * 8 / c.segBits

/-- The entries that a stream of n bytes comes to. -/
def Cmd.entries (c : Cmd) (n : Nat) : Nat :=
  if !c.packed then (n + 383) / 384
  else (c.segsIn n * c.srep * c.crep + Pd.segs c.pd - 1) / Pd.segs c.pd

/-- The entries that the first n of `len` bytes take part in. -/
def Cmd.wanted (c : Cmd) (len n : Nat) : Nat :=
  if len ≤ n then c.entries len
  else if !c.packed then (n + 383) / 384
  else (c.segsIn n * c.srep + Pd.segs c.pd - 1) / Pd.segs c.pd

/-- The bytes from the start of the stream that its first e entries hold. -/
def Cmd.covered (c : Cmd) (len e : Nat) : Nat :=
  if !c.packed then Min.min len (384 * e)
  else
    let units := Min.min (e * Pd.segs c.pd) (c.segsIn len * c.srep * c.crep)
    if units = 0 then 0 else Min.min len ((Min.min ((units - 1) / c.srep + 1) (c.segsIn len) * c.segBits + 7) / 8)

/-- The bytes that a stream delivers to one receiver. -/
def Cmd.streamBytes (c : Cmd) (core : Nat) : Nat :=
  ((List.range c.rows).filter fun r => (c.rowTo r).1.contains core).length * c.rowBytes

/-- Entry e of a stream whose bytes are `data`. -/
def Cmd.entryOf (c : Cmd) (data len e : Nat) : BEntry :=
  if !c.packed then ⟨BitVec.ofNat 3072 (data / 256 ^ (384 * e) % 256 ^ 384), 0⟩
  else
    let l := Pd.l c.pd
    let p := Pd.pitch c.pd
    let w := Num.bits c.fmt
    let segs := c.segsIn len
    let swap := c.sideB && Pd.mode c.pd == 0 && Pd.sparse c.pd == 0
    let units := (List.range (Pd.segs c.pd)).filter fun g => decide (e * Pd.segs c.pd + g < segs * c.srep * c.crep)
    let slots := units.flatMap fun g => (List.range l).map fun k =>
      let t := (e * Pd.segs c.pd + g) / c.srep % segs
      let x := Num.image c.fmt (data / 2 ^ (t * c.segBits + k * w) % 2 ^ w)
      (g * l + (if swap then l - 1 - k else k), x.map (Num.limb c.fmt (Pd.limb c.pd c.sideB)))
    ⟨BitVec.ofNat 3072 (scatter (slots.map fun (i, x) => (i * p, p, Num.wrap (x.getD 0) p))),
      BitVec.ofNat 384 (scatter (slots.map fun (i, x) => (i, 1, x.isNone.toNat)))⟩

/-- R231: permits to reserve an entry of every receiving batten; a pop's permit counts from the next cycle on. -/
def State.permits (s : State) (cores : List Nat) (b : Nat) : Nat :=
  cores.foldl (fun m k =>
    let x := s.batten k b
    let late := if x.popAt = s.now + 1 then x.popNow else 0
    Min.min m (x.depth.toNat - x.count.toNat - x.res.toNat - late)) 32

def State.reserveEntries (s : State) (f : Fill) (b id n : Nat) : State :=
  f.cores.foldl (fun s k =>
    let x := s.batten k b
    s.setBatten k b { x with res := x.res + BitVec.ofNat 6 n, resq := x.resq ++ List.replicate n id }) s

/-- The reservations of a fill that it has not pushed are withdrawn (R243). -/
def State.withdraw (s : State) (c : Cmd) (f : Fill) : State :=
  f.cores.foldl (fun s k =>
    let x := s.batten k c.bat.toNat
    s.setBatten k c.bat.toNat { x with res := x.res - BitVec.ofNat 6 f.res, resq := x.resq.filter (· ≠ c.id) }) s

/-- An entry is pushed on every receiving core. -/
def State.pushEntry (s : State) (c : Cmd) (f : Fill) (e : BEntry) : State :=
  f.cores.foldl (fun s k =>
    let x := s.batten k c.bat.toNat
    (s.setBatten k c.bat.toNat { x with
      entries := x.entries.put {} x.tail.toNat e, res := x.res - 1, resq := x.resq.drop 1 }).pushBatten k c.bat.toNat) s

/-- The next entry of a fill is whole and reserved, and its turn in the ring has come. -/
def State.canPush (s : State) (c : Cmd) (total : Nat) (f : Fill) : Bool :=
  decide (0 < f.res) && decide (c.covered total (f.pushed + 1) ≤ f.len)
    && f.cores.all fun k => (s.batten k c.bat.toNat).resq.head? == some c.id

/-- Pushes what can be pushed, up to n entries: the state, the fill and the pushes left. -/
def pushFill (c : Cmd) (total : Nat) : Nat → State × Fill → State × Fill × Nat
  | 0, (s, f) => (s, f, 0)
  | n + 1, (s, f) =>
    if s.canPush c total f then
      pushFill c total n (s.pushEntry c f (c.entryOf f.data total f.pushed), { f with pushed := f.pushed + 1, res := f.res - 1 })
    else (s, f, n + 1)

def Cmd.fillBytes (c : Cmd) (f : Fill) : Nat := c.streamBytes (f.cores.headD 0)

/-- One fill reserves what its requested data will need, then pushes; `k` pushes are left in this cycle. -/
def State.workFill (s : State) (c : Cmd) (f : Fill) (k : Nat) : State × Fill × Nat :=
  let total := c.fillBytes f
  let n := Min.min (c.wanted total f.asked - f.pushed - f.res) (s.permits f.cores c.bat.toNat)
  let s := if n = 0 then s else s.reserveEntries f c.bat.toNat c.id n
  pushFill c total k (s, { f with res := f.res + n })

/-! Translation and checks of a message (R245). -/

inductive Placed where
  | at (pieces : List (Nat × Nat))
  | fault (f : Flt)
  | miss (va n : Nat)

def State.engineCheck (s : State) (c : Cmd) (write : Bool) (va pa n : Nat) (leaf : W64) : Option Flt :=
  let a := BitVec.ofNat 64 va
  if (if write then !leaf.getLsbD 3 else !leaf.getLsbD 2) || (leaf.getLsbD 4 && !c.priv) then some (protFault 6 a)
  else match s.place pa with
    | .none => some { code := 7, sub := 3, addr := a }
    | .slate _ => if write && !c.priv then some (protFault 3 a) else none
    | .device => devCheck { stat := if c.priv then 1 else 0 } pa n false a
    | _ =>
      if write && s.inFormat pa n then some (protFault 4 a)
      else if write && (s.cmdRegion c).constMeets va n then some (protFault 5 a)
      else none

def State.placeMessage (s : State) (c : Cmd) (pasid : BitVec 20) (write : Bool) : Nat → Nat → Nat → Placed
  | 0, _, _ => .at []
  | _, _, 0 => .at []
  | fuel + 1, va, n =>
    let k := Min.min n (65536 - va % 65536)
    let a := BitVec.ofNat 64 va
    if va / 2 ^ 55 ≠ 0 then .fault { code := 7, sub := 2, addr := a }
    else match findTlb (s.cluster (clusterOf c.tid.core)).tlb2 pasid va with
      | none => .miss va k
      | some e =>
        let pa := leafAddr e.level e.leaf va
        if e.tenant ≠ c.tenant then .fault { code := 8, addr := a }
        else match s.engineCheck c write va pa k e.leaf with
          | some f => .fault f
          | none => match s.placeMessage c pasid write fuel ((va + k) % 2 ^ 64) (n - k) with
            | .at l => .at ((pa, k) :: l)
            | r => r

/-- A miss asks for its translation on behalf of the command. -/
def State.engineWalk (s : State) (c : Cmd) (pasid : BitVec 20) (write : Bool) (va n : Nat) : State :=
  let (id, s) := s.newId
  let a : Acc :=
    { id := id, tid := c.tid, bind := c.bind, pc := 0, len := 0, kind := .walk write, qual := .none, va := va, pa := va, n := n
      data := 0, data2 := 2 ^ 48 * c.id, dst := .none, wc := 0, issue := s.now, priv := c.priv, pasid := pasid, tenant := c.tenant }
  s.runAt s.now (.pageWalk a)

/-- Part of a list of pieces: n bytes from byte `off` on. (Log entry 39: DEDUCED, unsafe.) -/
def cutPieces : List (Nat × Nat) → Nat → Nat → List (Nat × Nat)
  | [], _, _ => []
  | (pa, k) :: l, off, n =>
    if k ≤ off then cutPieces l (off - k) n
    else if n = 0 then []
    else
      let m := Min.min n (k - off)
      (pa + off, m) :: cutPieces l 0 (n - m)

/-- Pieces cut where lines of 64 bytes end. (Log entry 39: DEDUCED, unsafe.) -/
def lineCuts (pieces : List (Nat × Nat)) : List (Nat × Nat) :=
  pieces.flatMap fun (pa, n) =>
    (List.range ((pa % 64 + n + 63) / 64)).map fun j =>
      let lo := Max.max pa (pa / 64 * 64 + 64 * j)
      (lo, Min.min (pa + n) (pa / 64 * 64 + 64 * j + 64) - lo)

def isSlate (p : Place) : Bool :=
  match p with
  | .slate _ => true
  | _ => false

/-- Sends bytes of a message to their homes: one access for each line; its `len` holds the number of the message. -/
def State.engineStore (s : State) (cl : Nat) (r : Run) (msg va : Nat) (pieces : List (Nat × Nat)) (data : Nat) : State :=
  let c := r.cmd
  ((lineCuts pieces).foldl (fun (x : State × Nat × Nat) (p : Nat × Nat) =>
    let (s, va, data) := x
    let (id, s) := s.newId
    let a : Acc := { id := id, tid := c.tid, bind := c.bind, pc := 0, len := msg, kind := .walk true, qual := .none, va := va, pa := p.1
                     n := p.2, data := data % 256 ^ p.2, data2 := 2 ^ 48 * c.id, dst := .none, wc := 0, issue := s.now, priv := c.priv
                     pasid := c.pasid, tenant := c.tenant }
    let s := s.sched (s.now + 60 + s.far c.tid.core p.1) (Phase.engine cl r.port) (.act (.engine cl c.id (.write a)))
    (s.modRun cl c.id fun r => { r with acks := r.acks + 1 }, va + p.2, data / 256 ^ p.2)) (s, va, data)).1

/-- R245: do n bytes meet a constant range of the region of a team that is placed on the package, of any tenant? -/
def State.meetsConst (s : State) (pa n : Nat) : Bool :=
  s.teams.any fun x => match x.2 with
    | some t => (t.st == .placed || t.st == .loading) && t.region.consts.any fun (b, l) =>
        l != 0 && (List.range ((l + 65535) / 65536 + 1)).any fun j =>
          let lo := Max.max b (b / 65536 * 65536 + 65536 * j)
          let hi := Min.min (b + l) (b / 65536 * 65536 + 65536 * j + 65536)
          decide (lo < hi) && (match s.virt t.region.pasid lo with
            | some x => decide (x < pa + n) && decide (pa < x + (hi - lo))
            | none => false)
    | none => false

/-- R245, R357: what a message meets in the cycle in which it is performed, before its first byte is written. -/
def State.messageFault (s : State) (pieces : List (Nat × Nat)) : Option Flt :=
  if pieces.any fun p => isSlate (s.place p.1) && s.meetsConst p.1 p.2 then some (protFault 3)
  else if (lineCuts pieces).any fun p => s.isRetired p.1 then some { code := 9, sub := 1 }
  else none

/-- The first cycle in which slate may be reached: a refresh window holds a walk until it ends (R192). -/
def State.slateOpen (s : State) (pieces : List (Nat × Nat)) : Nat :=
  pieces.foldl (fun m p => match s.place p.1 with
    | .slate d => Max.max m (s.die d).refresh
    | _ => m) 0

/-- A write of a command reaches its home. The first write of a message decides whether the message, and with it every
later one, meets a fault (R245). -/
def State.walkWrite (s : State) (cl : Nat) (a : Acc) : State :=
  match (s.cluster cl).engines.find? fun r => r.cmd.id == accIndex a with
  | none => s
  | some r =>
    let open_ := s.slateOpen [(a.pa, a.n)]
    if s.now < open_ then s.sched open_ (Phase.engine cl r.port) (.act (.engine cl (accIndex a) (.write a)))
    else
      let met : Nat × Option Flt := match r.met.find? fun m => m.2.isSome && decide (m.1 ≤ a.len) with
        | some m => m
        | none =>
          if r.met.any (·.1 == a.len) then (a.len, none)
          else (a.len, s.messageFault (((r.dst.find? (·.1 == a.len)).map (·.2)).getD []))
      let s := s.modCluster cl fun c => { c with engines := c.engines.map fun y =>
        if y.cmd.id = r.cmd.id && !y.met.contains met then { y with met := y.met ++ [met] } else y }
      let ack (f : Option Flt) (s : State) : State :=
        s.sched (s.now + 60 + s.far a.tid.core a.pa) Phase.land (.act (.engine cl (accIndex a) (.ack met.1 f)))
      match met.2 with
      | some f => ack (some f) s
      | none =>
        if !isSlate (s.place a.pa) then s.sched s.now (Phase.engine cl r.port) (.run (.storeRegistration a))
        else ack none ({ s with errs := clearErrs s.errs 0 (s.mapped a.pa) a.n }.physWrite (s.teamNo a.tid) a.pa a.n a.data)

/-! The end of a command (R234, R243 to R245). -/

/-- Where one message leads: the virtual base, stride and PASID of its source and of its virtual destination. -/
def Cmd.readSide (c : Cmd) (peer : BitVec 20) : Nat × Nat × BitVec 20 :=
  if c.op = 0xC3 ∧ c.fn = 1 then (c.na.toNat, c.nstride, peer) else (c.ma.toNat, c.mstride, c.pasid)
def Cmd.writeSide (c : Cmd) (peer : BitVec 20) : Nat × Nat × BitVec 20 :=
  if c.op = 0xC3 ∧ c.fn = 0 then (c.na.toNat, c.nstride, peer) else (c.ma.toNat, c.mstride, c.pasid)

/-- Log entry 39: DEDUCED, unsafe. -/
def Run.landed (r : Run) : Bool := decide (r.limit ≤ r.order) && r.flits.isEmpty

/-- Has the command nothing left to do? -/
def Run.finished (r : Run) : Bool :=
  if r.cmd.op = 0xC1 then decide (r.limit ≤ r.begun) && r.left == 0 && r.acks == 0
  else r.landed && r.acks == 0 && (r.fault.isSome || r.stop || r.fills.all fun f => f.pushed == f.total)

/-- R234: has the engine nothing left to deliver for the command? -/
def Run.delivered (r : Run) : Bool := if r.cmd.op = 0xC1 then decide (r.limit ≤ r.begun) && r.left == 0 else r.landed

/-- R234: the engine is free in the cycle after its last flit. -/
def State.freeEngine (s : State) (cl id : Nat) : State :=
  match (s.cluster cl).run id with
  | none => s
  | some r =>
    if r.delivered ∧ s.now + 1 < r.freeAt then
      (s.modRun cl id fun r => { r with freeAt := s.now + 1 }).sched (s.now + 1) (Phase.engine cl 0) (.act (.engines cl))
    else s

/-- The command completes in the next cycle; a reservation that it has not pushed is withdrawn. -/
def State.endRun (s : State) (cl id : Nat) : State :=
  let s := s.freeEngine cl id
  match (s.cluster cl).run id with
  | none => s
  | some r =>
    if r.closed || !r.finished then s
    else
      let s := r.fills.foldl (fun s f => s.withdraw r.cmd f) s
      let s := s.modRun cl id fun r => { r with
        closed := true, fills := r.fills.map fun f => { f with res := 0 }, freeAt := Min.min r.freeAt (s.now + 1) }
      let s := if r.fills.isEmpty then s else s.sched s.now (Phase.engine cl 4) (.act (.permits cl))
      (s.landAt (s.now + 1) (.commandCompletion r.cmd.tid.core id)).sched (s.now + 1) (Phase.engine cl 0) (.act (.engines cl))

/-- The memory address of message i, the one that a fault reports (R245). (Log entry 39: DEDUCED, unsafe.) -/
def Cmd.messageAddr (c : Cmd) (i : Nat) : W64 :=
  let (row, off, _) := c.message i
  c.ma + BitVec.ofNat 64 (row * c.mstride + off)

/-- A fault of message i: it and every later message are not delivered. -/
def State.engineFault (s : State) (cl id i : Nat) (f : Flt) : State :=
  (s.modRun cl id fun r =>
    if r.fault.isSome && decide (r.limit ≤ i) then r
    else if r.stop then { r with limit := Min.min r.limit i, asking := false }
    else { r with limit := Min.min r.limit i, fault := some { f with addr := r.cmd.messageAddr i }, asking := false }).endRun cl id

/-- R242, R243: a running command stops: no further message leaves, and those that have left are delivered. (Log entry 39: DEDUCED, unsafe.) -/
def State.stopRun (s : State) (cl id : Nat) : State :=
  (s.modRun cl id fun r =>
    if r.closed then r
    else { r with limit := Min.min r.limit r.next, fault := none, asking := false, stop := true }).endRun cl id

/-- R241: the decrement of DONE; a release point waits for its reply (R407). -/
def State.remDone (s : State) (c : Cmd) : State :=
  if c.op ≠ 0xC3 ∨ c.doneHandle = 0 then s
  else
    let (id, s) := s.newId
    let live := (s.slot c.tid).st ≠ .empty ∧ (s.slot c.tid).bind = c.bind
    let s := if live then s.addOut c.tid.core { id := id, slot := c.tid.slot, kind := .msg } else s
    s.toTable c.tid c.doneHandle 0 (.run (.waitingTaskDecrement
      { id := id, handle := c.doneHandle, k := 1, tid := c.tid, bind := c.bind, tenant := c.tenant, csig := false, d := 0, pc := 0 }))

/-- R253, R273: the fault of a prefetch poisons the task's future, and the task is discarded. -/
def State.prefetchFault (s : State) (cl : Nat) (p : Prefetch) (f : Flt) : State :=
  let region := match s.team p.task.team with
    | some x => x.region
    | none => {}
  let (id, s) := s.newId
  let h := recHandle p.task.record
  let r : FReq :=
    { id := id, op := .fpoison f.code, handle := h, value := 0, carry := none, pc := 0, tid := ⟨8 * cl, 16⟩, bind := 0
      park := s.mkPark cl p.park, d := 0, e := 0, tenant := region.tenant, issue := s.now }
  let s := (s.cluster cl).ridge.foldl (fun s c => if c.started && c.after == [p.id] then s.stopRun cl c.id else s) s
  let s := s.modCluster cl fun c => { c with
    prefetch := c.prefetch.filter fun x => x.id ≠ p.id, ridge := c.ridge.filter fun x => x.started || x.after != [p.id] }
  ((if p.charged then s.uncharge region 3 p.csb else s).futureAct cl r).dropPark cl p.park

/-- R234, R244: the counter falls; the queue's next command becomes eligible. -/
def execCommandCompletion (core id : Nat) (s : State) : Host.Outcome State Fault Refusal :=
  let cl := clusterOf core
  .next <| match (s.cluster cl).run id with
  | none => s
  | some r =>
    let c := r.cmd
    let s := s.modCluster cl fun x => { x with engines := x.engines.filter fun y => y.cmd.id ≠ id }
    let s := s.sched s.now (Phase.engine cl 0) (.act (.engines cl))
    if c.isRidge then
      let s := s.modCluster cl fun x => { x with ridge := x.ridge.filter fun y => y.id ≠ id }
      match r.fault, (s.cluster cl).prefetch.find? fun p => c.after == [p.id] with
      | some f, some p => s.prefetchFault cl p f
      | _, _ => s
    else
      let live := (s.slot c.tid).st ≠ .empty ∧ (s.slot c.tid).bind = c.bind
      let s := if live then s.bothWc c.tid fun s t => s.fallWc t c.wc else s
      let s := match r.fault with
        | none => if decide (c.messages ≤ r.limit) then s.remDone c else s
        | some f =>
          if live then
            (s.deferFault c.tid c.bind f).modCore core fun x => { x with stalled := x.stalled.put none c.queue (some (c.tid.slot, f)) }
          else s
      s.leaveQueue core c.queue c

/-! Requests, replies and flits (R242, R244). -/

/-- The bytes that a run has landed or asked for and that no reserved entry will take. -/
def Run.unplaced (r : Run) : Nat :=
  r.fills.foldl (fun n f => n + (f.asked - r.cmd.covered (r.cmd.fillBytes f) (f.pushed + f.res))) 0

def Run.addAsked (r : Run) (row n : Nat) : Run :=
  let dest := (r.cmd.rowTo row).1
  { r with fills := r.fills.map fun f => if f.cores.any dest.contains then { f with asked := f.asked + n } else f }

/-- Reserves and pushes entries of the run's battens. -/
def State.fillRun (s : State) (cl id : Nat) : State :=
  match (s.cluster cl).run id with
  | none => s
  | some r =>
    if r.closed then s
    else
      let k := if r.pushAt = s.now + 1 then 32 - r.pushN else 32
      let (s, fs, k') := r.fills.foldl (fun (x : State × List Fill × Nat) f =>
        let (s, fs, k) := x
        let (s, f, k) := s.workFill r.cmd f k
        (s, fs ++ [f], k)) (s, [], k)
      let s := s.modRun cl id fun r => { r with fills := fs, pushAt := s.now + 1, pushN := 32 - k' }
      let more := fs.any fun f => s.canPush r.cmd (r.cmd.fillBytes f) f
      let s := if more then s.sched (s.now + 1) (Phase.engine cl r.port) (.run (.enginePermitReserve cl r.port)) else s
      if k' < k && (s.cluster cl).engines.any (fun x => x.cmd.id != id && !x.closed && !x.fills.isEmpty) then
        s.sched s.now (Phase.engine cl 4) (.act (.permits cl))
      else s

/-- R242: the landed data without a reserved entry that the engine of a port holds. -/
def Cluster.unplaced (c : Cluster) (port : Nat) : Nat :=
  c.engines.foldl (fun n r => if r.port = port ∧ !r.closed then n + r.unplaced else n) 0

/-- R215: do cluster stores of the command's thread that issued before it await their perform? The store's bytes are read
once they have been performed, as a load issued with the command would read them. -/
def State.earlierStores (s : State) (c : Cmd) : Bool :=
  c.op == 0xC1 && c.near == .store && (s.core c.tid.core).outs.any fun o =>
    o.slot == c.tid.slot && o.line == storeLine && decide (o.id < c.id)
      && !(s.cluster (clusterOf c.tid.core)).held.any fun a => a.id == o.id

/-- R241: TWREM's messages pass only routers that admit the tenant. -/
def State.remAdmits (s : State) (cl : Nat) (tenant : BitVec 6) (pieces : List (Nat × Nat)) : Bool :=
  (lineCuts pieces).all fun p => s.routeAdmits cl (s.home p.1) tenant

/-- One engine sends the requests of its next messages, as far as their cycles have come. -/
def State.engineSend (s : State) (cl id : Nat) : State :=
  match (s.cluster cl).run id with
  | none => s
  | some r =>
    let c := r.cmd
    let i := r.next
    let (row, off, n) := c.message i
    if r.closed || r.stop || r.fault.isSome || r.asking || decide (r.limit ≤ i) || decide (s.now < r.leave) then s
    else if !r.fills.isEmpty && decide (512 < (s.cluster cl).unplaced r.port + n) then s
    else if s.earlierStores c then s.sched (s.now + 1) (Phase.engine cl r.port) (.act (.engine cl id .send))
    else
      let region := s.cmdRegion c
      let peer := region.peer
      let remote := c.op == 0xC3 && c.pkg != s.pkg.pkgid.toNat
      let va (x : Nat × Nat × BitVec 20) : Nat := (x.1 + row * x.2.1 + off) % 2 ^ 64
      let rd := c.readSide peer
      let wr := c.writeSide peer
      let tenantBad := c.op != 0xC1 && !(s.cluster cl).tmem.getLsbD c.tenant.toNat
      let src : Placed := if c.op = 0xC1 ∨ (remote ∧ c.fn = 1) then .at [] else s.placeMessage c rd.2.2 false 10 (va rd) n
      let dst : Placed :=
        if c.op = 0xC1 ∨ (c.op = 0xC3 ∧ !(remote && c.fn == 0)) then s.placeMessage c wr.2.2 true 10 (va wr) n else .at []
      let stop (f : Flt) : State := s.engineFault cl id i f
      if tenantBad || (remote && !s.reaches c.pkg) then stop { code := 8 }
      else match src, dst with
        | .fault f, _ => stop f
        | .miss a k, _ => (s.modRun cl id fun r => { r with asking := true }).engineWalk c rd.2.2 false a k
        | .at _, .fault f => stop f
        | .at _, .miss a k => (s.modRun cl id fun r => { r with asking := true }).engineWalk c wr.2.2 true a k
        | .at src, .at dst =>
          if c.op == 0xC3 && !(s.remAdmits cl c.tenant src && s.remAdmits cl c.tenant dst) then stop { code := 8 }
          else
          let flits := (n + 63) / 64
          let s := s.modRun cl id fun r =>
            (({ r with next := i + 1, leave := s.now + flits, dst := if dst.isEmpty then r.dst else r.dst ++ [(i, dst)] } : Run).addAsked row n)
          let s := if i + 1 < r.limit then s.sched (s.now + flits) (Phase.engine cl r.port) (.act (.engine cl id .send)) else s
          if c.op = 0xC1 then
            let near := c.nearAddr row off
            let bad := if c.near = .localMem then s.localErr c.tid.core near n else errIn s.storeErrs (storeErrBase cl) near n
            if bad = .uncorrectable then s.engineFault cl id i { code := 9 }
            else
              (List.range flits).foldl (fun s j => s.sched (s.now + j) (Phase.engine cl r.port)
                (.act (.engine cl id (.leave i (near + 64 * j) (Min.min 64 (n - 64 * j)) (cutPieces dst (64 * j) (Min.min 64 (n - 64 * j)))))))
                (s.modRun cl id fun r => { r with begun := i + 1, left := r.left + flits })
          else if remote && c.fn == 1 then
            s.toPeer c.pkg ((rd.1 + row * rd.2.1) % 2 ^ 64) (.act (.peer
              { link := 0, tenant := c.tenant, pasid := peer, op := .read cl id i (va rd) n }))
          else
            let slate := src.any fun p => isSlate (s.place p.1)
            let far := src.foldl (fun m p => Max.max m (s.far c.tid.core p.1)) 0
            s.sched (s.now + (if slate then 80 else 60) + far) (Phase.engine cl r.port) (.act (.engine cl id (.arrive i src slate)))

/-- R311, R312: the output port of cluster a's router on the way to cluster b: columns first, then rows. -/
def outPort (a b : Nat) : Nat :=
  if gridCol a < gridCol b then 1
  else if gridCol b < gridCol a then 3
  else if gridRow a < gridRow b then 2
  else if gridRow b < gridRow a then 0
  else 4

/-- A TWPUT flit leaves: its near bytes are read as they stand. -/
def State.engineLeave (s : State) (cl id near n : Nat) (pieces : List (Nat × Nat)) (msg : Nat) : State :=
  match (s.cluster cl).run id with
  | none => s
  | some r =>
    let c := r.cmd
    let (row, off, _) := c.message msg
    let va := (c.ma.toNat + row * c.mstride + off + (near - c.nearAddr row off)) % 2 ^ 64
    let s := if c.near = .localMem then fixLocal s c.tid.core near n else s.fixStore cl near n
    let data := if c.near = .localMem then s.localRead c.tid.core near n else peek (s.cluster cl).mem near n
    let s := s.engineStore cl r msg va pieces data
    (s.modRun cl id fun r => { r with left := r.left - 1 }).endRun cl id

/-- A reply comes back, or is known to come at `due`: messages land in order, one flit per cycle. -/
def engineFlow (cl id : Nat) : Nat → State → State
  | 0, s => s
  | fuel + 1, s => match (s.cluster cl).run id with
    | none => s
    | some r =>
      let c := r.cmd
      match (r.got.find? (fun (g : Nat × Nat × Nat × Option Flt) => g.1 == r.order)) with
      | none => s
      | some (i, due, data, f) =>
        let s := s.modRun cl id fun r => { r with got := r.got.filter fun g => g.1 ≠ i, order := i + 1 }
        match f with
        | some f => engineFlow cl id fuel (s.engineFault cl id i f)
        | none =>
          if r.limit ≤ i then engineFlow cl id fuel s
          else
            let (row, off, n) := c.message i
            let dst := ((r.dst.find? (·.1 == i)).map (·.2)).getD []
            let slow := if !(s.cmdRegion c).dbg then 0 else if c.packs then 1 else if c.near = .remote then 0 else 4
            let (last, fl) := (List.range ((n + 63) / 64)).foldl (fun (x : Nat × List Flit) j =>
              let k := Min.min 64 (n - 64 * j)
              let at_ := Max.max (x.1 + 1) (due + slow)
              (at_, x.2 ++ [{ due := at_, msg := i, cores := (c.rowTo row).1, near := (c.nearAddr row off + 64 * j) % 2 ^ 64, n := k
                              data := data / 256 ^ (64 * j) % 256 ^ k, dst := cutPieces dst (64 * j) k }])) (r.last, [])
            let idle := r.flits.isEmpty
            let s := s.modRun cl id fun r => { r with last := last, flits := r.flits ++ fl }
            let s := match fl with
              | x :: _ => if idle then s.sched (Max.max s.now x.due) (Phase.engine cl r.port) (.run (.engineFlitLanding cl r.port)) else s
              | [] => s
            engineFlow cl id fuel s

def State.engineReply (s : State) (cl id i due data : Nat) (f : Option Flt) : State :=
  let s := s.modRun cl id fun r => if r.closed then r else { r with got := r.got ++ [(i, due, data, f)] }
  (engineFlow cl id 16 s).endRun cl id

/-- R406, R244: a message is performed: it reads its source bytes in this cycle. -/
def State.engineRead (s : State) (cl id i : Nat) (pieces : List (Nat × Nat)) : State :=
  match (s.cluster cl).run id with
  | none => s
  | some r =>
    let c := r.cmd
    let cuts := lineCuts pieces
    let held := cuts.any fun p => (s.cluster (s.home p.1)).heldPages.contains (p.1 / 65536)
    let slate := pieces.any fun p => isSlate (s.place p.1)
    if held then s.sched (s.now + 1) (Phase.engine cl r.port) (.act (.engine cl id (.read i pieces)))
    else
      let f : Option Flt :=
        if cuts.any fun p => s.isRetired p.1 then some (ueFault 0 1)
        else if cuts.any fun p => s.errAt p.1 p.2 = .uncorrectable then some (ueFault 0) else none
      let s := cuts.foldl (fun s p =>
        let s := if s.errAt p.1 p.2 = .uncorrectable then s.dirtyUe c.team p.1 else s.correct p.1 p.2
        if isSlate (s.place p.1) || isDevice p.1 then s else s.fillSline c.team p.1) s
      let data := (cuts.foldr (fun p (x : Nat) => s.loadBytes c.team p.1 p.2 + 256 ^ p.2 * x) 0)
      let far := pieces.foldl (fun m p => Max.max m (s.far c.tid.core p.1)) 0
      s.engineReply cl id i (s.now + (if slate then 80 else 60) + far) data f

/-- A request reaches its source: its lines are there, or are fetched; slate waits for its refresh window to end. -/
def State.engineArrive (s : State) (cl id i : Nat) (pieces : List (Nat × Nat)) (slate : Bool) : State :=
  match (s.cluster cl).run id with
  | none => s
  | some r =>
    let again (d : Nat) : State := s.sched d (Phase.engine cl r.port) (.act (.engine cl id (.read i pieces)))
    if slate then
      let until_ := s.slateOpen pieces
      if s.now < until_ then again until_ else s.engineRead cl id i pieces
    else
      let wait := (lineCuts pieces).foldl (fun m p =>
        if isDevice p.1 || (s.slineAt r.cmd.team p.1).isSome then m else Max.max m (s.fillTime p.1)) 0
      if wait = 0 then s.engineRead cl id i pieces else again (s.now + wait)

/-! Landings (R186, R242, R244, R312, R314). -/

/-- R186: the granules that n bytes at an address cover whole. -/
def wholeGranules (a n : Nat) : Nat × Nat :=
  let lo := (a + 15) / 16 * 16
  (lo, (a + n) / 16 * 16 - lo)

/-- R312: has a port's table a slot for a stream? -/
def Cluster.hasSlot (c : Cluster) (port stream : Nat) : Bool :=
  c.slots.any fun b => decide (256 * port ≤ b.1) && decide (b.1 < 256 * port + 256) && b.2.toNat == stream

/-- R312: are a command's flits scheduled at a port? -/
def State.scheduled (s : State) (cl port : Nat) (c : Cmd) : Bool :=
  c.stream != 0 && (s.meshes.get {} c.tenant.toNat).formed && (s.cluster cl).hasSlot port c.stream

/-- R312: is the current slot of a port a slot of the command's stream? -/
def State.inSlot (s : State) (cl port : Nat) (c : Cmd) : Bool :=
  ((s.cluster cl).slots.get 0 (256 * port + (s.meshes.get {} c.tenant.toNat).clock.toNat % 256)).toNat == c.stream

/-- R312: may a flit pass a port in this cycle, as far as the slot table says? A scheduled flit passes only in a slot of
its stream. -/
def State.slotOpen (s : State) (cl port : Nat) (c : Cmd) : Bool := !s.scheduled cl port c || s.inSlot cl port c

/-- R314: a stream that the sub-mesh defines but this port does not. (Log entry 38: DEDUCED, unsafe.) -/
def State.slotHazard (s : State) (cl port : Nat) (c : Cmd) : Bool :=
  let m := s.meshes.get {} c.tenant.toNat
  (s.cmdRegion c).dbg && c.stream != 0 && m.formed && !(s.cluster cl).hasSlot port c.stream && s.clusters.any fun (i, x) =>
    decide (m.row0 ≤ gridRow i) && decide (gridRow i < m.row0 + m.rows) && decide (m.col0 ≤ gridCol i)
      && decide (gridCol i < m.col0 + m.cols) && (List.range 5).any fun p => x.hasSlot p c.stream

/-! Output ports (R312). -/

/-- A TWPUT flit reaches its output port. -/
def State.toPort (s : State) (cl : Nat) (l : Leaving) : State :=
  (s.modCluster cl fun c => { c with leaving := c.leaving ++ [l] }).sched s.now (Phase.ports cl) (.act (.outPorts cl))

/-- The flit that a port sends in this cycle: one of the stream of its slot, when one waits; else the oldest of those
without a slot there. -/
def State.portSends (s : State) (cl port : Nat) : Option Leaving :=
  let mine (l : Leaving) : Option Cmd :=
    if outPort cl (s.home ((l.pieces.headD (0, 0)).1)) ≠ port then none else ((s.cluster cl).run l.id).map (·.cmd)
  let fits (p : Cmd → Bool) : Option Leaving := (s.cluster cl).leaving.find? fun l => (mine l).any p
  (fits fun c => s.scheduled cl port c && s.inSlot cl port c).or (fits fun c => !s.scheduled cl port c)

/-- R312, R314: each output port of a router sends one flit; the others wait. -/
def State.outPorts (s : State) (cl : Nat) : State :=
  let s := (List.range 5).foldl (fun (s : State) port => match s.portSends cl port with
    | none => s
    | some l =>
      let s := s.modCluster cl fun c => { c with leaving := c.leaving.erase l }
      match (s.cluster cl).run l.id with
      | some r =>
        if s.slotHazard cl port r.cmd || ((s.cmdRegion r.cmd).dbg && decide (l.since + 256 < s.now) && s.scheduled cl port r.cmd) then
          ((s.modRun cl l.id fun r => { r with left := r.left - 1 }).engineFault cl l.id l.msg { code := 21, sub := 4 }).endRun cl l.id
        else if r.limit ≤ l.msg then (s.modRun cl l.id fun r => { r with left := r.left - 1 }).endRun cl l.id
        else s.engineLeave cl l.id l.near l.n l.pieces l.msg
      | none => s) s
  if (s.cluster cl).leaving.isEmpty then s else s.sched (s.now + 1) (Phase.ports cl) (.act (.outPorts cl))

/-- R314: a write that is not FE meets an empty granule on which a thread waits. (Log entry 38: DEDUCED, unsafe.) -/
def State.writeHazard (s : State) (cl : Nat) (c : Cmd) (f : Flit) : Bool :=
  (s.cmdRegion c).dbg && !c.fe && (match c.near with
    | .localMem => f.cores.any fun k => (granules f.near f.n).any fun g =>
        (s.core k).empty.get false g && (s.core k).granuleWaited (g * 16) 16
    | .store => (granules f.near f.n).any fun g => (s.cluster cl).empty.get false g
        && (s.cluster cl).held.any fun x => x.kind == .ldc && (granules x.va x.n).contains g
    | _ => false)

/-- R245: does a message meet the hazard at one of its flits that are to land? -/
def State.messageHazard (s : State) (cl : Nat) (r : Run) (msg : Nat) : Bool :=
  r.flits.any fun f => f.msg == msg && s.writeHazard cl r.cmd f

/-- The bytes of a flit are written where they belong. -/
def State.flitWrite (s : State) (cl : Nat) (r : Run) (f : Flit) : State :=
  let c := r.cmd
  match c.near with
  | .localMem => f.cores.foldl (fun s k =>
      let s := (s.localWrite k f.near f.n f.data).wake k
      let s := { s with localErrs := clearErrs s.localErrs (localErrBase k) f.near f.n }
      let (a, n) := wholeGranules f.near f.n
      if n = 0 then s else s.setLocalFull k a n true) s
  | .store =>
    let s := { s with storeErrs := clearErrs s.storeErrs (storeErrBase cl) f.near f.n }
    let s := (s.modCluster cl fun c => { c with mem := poke c.mem f.near f.n f.data }).useGranules cl f.near f.n
    let (a, n) := wholeGranules f.near f.n
    if n = 0 then s else s.setStoreFull cl a n true
  | .batten =>
    let take (x : Fill) : Fill :=
      if x.cores.any f.cores.contains then { x with data := x.data + f.data * 256 ^ x.len, len := x.len + f.n } else x
    s.modRun cl c.id fun r => { r with fills := r.fills.map take }
  | .remote =>
    let region := s.cmdRegion c
    let wr := c.writeSide region.peer
    let (row, off, _) := c.message f.msg
    let va := (wr.1 + row * wr.2.1 + off + (f.near - c.nearAddr row off)) % 2 ^ 64
    if c.fn = 0 ∧ c.pkg ≠ s.pkg.pkgid.toNat then
      let s := s.modRun cl c.id fun r => { r with acks := r.acks + 1 }
      s.toPeer c.pkg ((wr.1 + row * wr.2.1) % 2 ^ 64) (.act (.peer
        { link := 0, tenant := c.tenant, pasid := region.peer, op := .write cl c.id f.msg va f.n f.data c.tid c.bind }))
    else s.engineStore cl r f.msg va f.dst f.data

/-- R253: the last walk of a task has filled its granules. -/
def State.ridgeLanded (s : State) (cl : Nat) (r : Run) : State :=
  if !(r.cmd.isRidge && r.fault.isNone) then s
  else
    let mine (p : Prefetch) : Bool := r.cmd.after == [p.id]
    let s := s.modCluster cl fun c => { c with prefetch := c.prefetch.map fun p => if mine p then { p with walks := p.walks - 1 } else p }
    match (s.cluster cl).prefetch.find? mine with
    | some p => if p.walks = 0 then s.sched s.now (Phase.engine cl 4) (.run (.prefetchReady cl p.id)) else s
    | none => s

/-- R244: a flit of the command on a port lands, one per cycle. -/
def execEngineFlitLanding (cluster port : Nat) (s : State) : Host.Outcome State Fault Refusal :=
  let again (s : State) : State := s.sched (s.now + 1) (Phase.engine cluster port) (.run (.engineFlitLanding cluster port))
  .next <| match (s.cluster cluster).engines.find? fun r => r.port == port && !r.flits.isEmpty with
  | none => s
  | some r => match r.flits with
    | [] => s
    | f :: l =>
      let c := r.cmd
      let busy := c.near == .store && (s.cluster cluster).queues s.now c.id none f.near f.n
      let hazardOf (sub : BitVec 8) : State :=
        ((s.unqueue cluster c.id).modRun cluster c.id fun r => { r with flits := [], got := [], order := f.msg }).engineFault cluster c.id f.msg
          { code := 21, sub := sub, addr := c.ma }
      if s.now < f.due then s.sched f.due (Phase.engine cluster port) (.run (.engineFlitLanding cluster port))
      else if s.slotHazard cluster 4 c then hazardOf 4
      else if !s.slotOpen cluster 4 c then
        if (s.cmdRegion c).dbg && decide (256 < r.waited) then hazardOf 4
        else again (s.modRun cluster c.id fun r => { r with waited := r.waited + 1 })
      else if busy then again (s.queueUp cluster c.id none f.near f.n)
      else if s.messageHazard cluster r f.msg then hazardOf 6
      else
        let s := s.unqueue cluster c.id
        let s := s.modRun cluster c.id fun r => { r with
          flits := l, begun := Max.max r.begun (f.msg + 1), landAt := s.now + 1, waited := 0, last := Max.max r.last s.now }
        let s := s.flitWrite cluster r f
        let s := match (s.cluster cluster).run c.id with
          | some r =>
            if !r.flits.isEmpty then again s
            else if r.landed then (s.freeEngine cluster c.id).ridgeLanded cluster r
            else s
          | none => s
        let s := if c.packs then (s.fillRun cluster c.id).engineSend cluster c.id else s
        s.endRun cluster c.id

/-- R231: an engine takes the permits that have come back, and goes on. -/
def execEnginePermitReserve (cluster port : Nat) (s : State) : Host.Outcome State Fault Refusal :=
  .next (((s.cluster cluster).engines.filter fun r => r.port == port && !r.closed && !r.fills.isEmpty).foldl (fun s r =>
    (((s.fillRun cluster r.cmd.id).engineSend cluster r.cmd.id).fillRun cluster r.cmd.id).endRun cluster r.cmd.id) s)

/-- Permits have come back to battens of the cluster. -/
def State.permitsBack (s : State) (cl : Nat) : State :=
  (s.cluster cl).engines.foldl (fun s r =>
    if r.closed || r.fills.isEmpty then s else s.sched s.now (Phase.engine cl r.port) (.run (.enginePermitReserve cl r.port))) s

/-! Starts (R234, R238, R244). -/

/-- R238: FULL is cleared in the granules that the command will write; an empty one among them is a hazard of R314. -/
def State.feClear (s : State) (cl : Nat) (c : Cmd) : State × Bool :=
  if !c.fe then (s, false)
  else (List.range c.rows).foldl (fun (x : State × Bool) r =>
    let a := c.nearAddr r 0
    let n := c.rowBytes
    if c.near = .store then
      (x.1.setStoreFull cl a n false,
        x.2 || (granules a n).any fun g => (s.cluster cl).empty.get false g)
    else
      ((c.rowTo r).1.foldl (fun s k => s.setLocalFull k a n false) x.1,
        x.2 || (c.rowTo r).1.any fun k => (granules a n).any fun g => (s.core k).empty.get false g)) (s, false)

/-- R234: an engine starts a command. -/
def execEngineCommandStart (cluster port core queue : Nat) (s : State) : Host.Outcome State Fault Refusal :=
  let cmd := if 8 ≤ queue then (s.cluster cluster).ridge.find? fun c => c.id + 8 == queue else ((s.core core).cmdq queue).head?
  .next <| match cmd with
  | none => s
  | some c =>
    if !c.started || ((s.cluster cluster).run c.id).isSome then s
    else
      let (s, bad) := s.feClear cluster c
      let groups : List (List Nat) := if !c.packs then [] else if c.op = 0xC4 then [dealCores c] else c.battenCores.map fun k => [k]
      let r : Run :=
        { cmd := c, port := port, limit := c.messages, leave := s.now, last := s.now,
          fills := groups.map fun g => { cores := g, total := c.entries (c.streamBytes (g.headD 0)) } }
      let s := s.modCluster cluster fun x => { x with engines := x.engines ++ [r] }
      if bad && (s.cmdRegion c).dbg then s.engineFault cluster c.id 0 { code := 21, sub := 6, addr := c.na }
      else ((s.engineSend cluster c.id).fillRun cluster c.id).endRun cluster c.id

/-- What an engine does next for one of its commands. -/
def State.engineAct (s : State) (cl id : Nat) (e : EngEv) : State :=
  match e with
  | .send =>
    (s.engineSend cl id).fillRun cl id
  | .arrive i l slate => s.engineArrive cl id i l slate
  | .read i l => s.engineRead cl id i l
  | .reply i data f => s.engineReply cl id i s.now data f
  | .leave i near n l => s.toPort cl { id := id, msg := i, near := near, n := n, pieces := l, since := s.now }
  | .ack i f =>
    let s := s.modRun cl id fun r => { r with acks := r.acks - 1 }
    match f with
    | some f => (s.engineFault cl id i f).endRun cl id
    | none => s.endRun cl id
  | .translated f =>
    let s := s.modRun cl id fun r => { r with asking := false }
    match f, (s.cluster cl).run id with
    | some f, some r => (s.engineFault cl id r.next f).endRun cl id
    | _, _ => ((s.engineSend cl id).fillRun cl id).endRun cl id
  | .write a => s.walkWrite cl a

/-! Stops (R243). -/

/-- R243: the commands of a core that `p` names stop. In their queues the commands that have not started, of whichever
thread, are discarded. (Log entry 39: DEDUCED, unsafe.) -/
def State.stopWhere (s : State) (core : Nat) (p : Cmd → Bool) : State :=
  (s.core core).cmdqs.foldl (fun s (ql : Nat × List Cmd) => ql.2.foldl (fun s c =>
    if !(p c || (ql.2.any p && c.entered && !c.started)) then s
    else if c.started then s.stopRun (clusterOf core) c.id
    else
      let live := c.entered ∧ (s.slot c.tid).st ≠ .empty ∧ (s.slot c.tid).bind = c.bind
      (if live then s.bothWc c.tid fun s t => s.fallWc t c.wc else s).leaveQueue core ql.1 c) s) s

/-- R349: the commands of a killed thread, and the stalls of its faults. (Log entry 35: DEDUCED, unsafe.) -/
def State.stopCommands (s : State) (t : Tid) : State :=
  let s := s.modCore t.core fun c => { c with stalled := c.stalled.filter fun x => match x.2 with
    | some (n, _) => n ≠ t.slot
    | none => false }
  (s.stopWhere t.core fun c => c.tid == t).heads t.core

/-! The ridge (R253). -/

/-- The walk of one tile descriptor; `after` names its prefetch. -/
def Prefetch.walk (p : Prefetch) (s : State) (cl id : Nat) (desc : BitVec 512) : Cmd :=
  let region := match s.team p.task.team with
    | some x => x.region
    | none => {}
  { id := id, op := 0xC0, fn := 1, fe := true, tid := ⟨8 * cl, 16⟩, bind := 0, queue := 8, wc := 0, desc := desc
    ma := desc.extractLsb' 320 64, na := desc.extractLsb' 384 64, bat := 0, pd := 0, priv := recPriv p.task.record && region.privb
    pasid := region.pasid, tenant := region.tenant, team := p.task.team, after := [p.id], entered := true, elig := s.now + 1 }

/-- A prefetch starts: its faults first, then its charge (R332), then its walks. -/
def State.startWalks (s : State) (cl : Nat) (p : Prefetch) : Option State :=
  let region := match s.team p.task.team with
    | some x => x.region
    | none => {}
  let walks := p.descs.map fun d => p.walk s cl 0 d
  let bad := walks.findSome? fun c => match c.alignFault with
    | some f => some f
    | none => s.walkFault c
  match p.fault, bad with
  | some f, _ | none, some f => some (s.prefetchFault cl p f)
  | none, none =>
    let n := (walks.foldl (fun n c => n + c.rows * c.rowBytes) 0) / 64
    if !s.admits region 3 n then none
    else
      let s := s.charge region 3 n
      let s := s.modCluster cl fun c => { c with prefetch := c.prefetch.map fun x =>
        if x.id = p.id then { x with charged := true, csb := n, walks := p.descs.length } else x }
      let s := p.descs.foldl (fun s d =>
        let (id, s) := s.newId
        let w := p.walk s cl id d
        s.modCluster cl fun c => { c with ridge := c.ridge ++ [w] }) s
      some (s.sched (s.now + 1) (Phase.engine cl 0) (.act (.engines cl)))

/-- R253, R332, R255: the prefetches of a cluster that have not started are tried in ready-queue order. A region whose
charge is refused holds back its later ones. -/
def State.ridgeTry (s : State) (cl : Nat) : State :=
  let wait := (s.cluster cl).prefetch.filter fun p => !p.charged
  let order := (List.range 8).reverse.flatMap fun k => wait.filter fun p => p.task.prio.toNat == k
  (order.foldl (fun (x : State × List W64) p =>
    if x.2.contains p.task.region then x
    else match x.1.startWalks cl p with
      | some s => (s, x.2)
      | none => (x.1, p.task.region :: x.2)) (s, [])).1

/-- R253: the task whose tiles are full enters the ready queue with kind 2. -/
def execPrefetchReady (cluster id : Nat) (s : State) : Host.Outcome State Fault Refusal :=
  .next <| match (s.cluster cluster).prefetch.find? fun p => p.id == id with
  | none => s
  | some p =>
    (s.modCluster cluster fun c => { c with prefetch := c.prefetch.filter fun x => x.id ≠ id }).readyTask cluster 2 p.idx p.park p.csb p.task

end Sys2Proof.Machine
end

