-- ==== Sys2Proof/Machine/System.lean ====
section
/-!
DEFINITION. System registers and instructions, opcodes 0xF0 to 0xF9 (R154 to R162, R174 to R182, R319, R320),
containment and operand comparison, opcodes 0xE8 to 0xEA (R323 to R326), and deferred faults (R344).
-/

namespace Sys2Proof.Machine

/-! System registers (R155 to R167). -/

def sysRead (s : State) (t : Tid) (r : SysReg) : W64 :=
  let x := s.ctx t
  let c := s.core t.core
  match r with
  | .stat => x.stat
  | .ctxb => x.ctxb
  | .otpc => x.otpc
  | .exb => c.exb
  | .ovh => c.ovh
  | .region => x.region
  | .pasid => x.pasid.zeroExtend 64
  | .supv => x.supv
  | .cdepth => x.cdepth.zeroExtend 64
  | .part => c.part.zeroExtend 64
  | .tick => s.tick t.core
  | .pd => x.pd
  | .ident => BitVec.ofNat 64 (s.pkg.pkgid.toNat * 2 ^ 15 + t.core % 2048 * 16 + t.slot % 16)
  | .mctl => c.mctl
  | .mstat => c.mstat
  | .mlim => c.mlim
  | .rfence => c.rfence.zeroExtend 64
  | .menv => c.menv.zeroExtend 64
  | .waddr0 => x.waddr.get 0 0
  | .wctl0 => x.wctl.get 0 0
  | .waddr1 => x.waddr.get 0 1
  | .wctl1 => x.wctl.get 0 1

/-- R155: the registers whose MTS is privileged. -/
def kWrite (r : SysReg) : Bool := r != .otpc

def execMfs (h : Hdr) (d : Reg) (r : SysReg) (field : Option (BitVec 6 × BitVec 6)) (s : State) :=
  issue h [wG d] (fun _ s =>
    let v := sysRead s s.cur r
    let v := match field with
      | none => v
      | some (pos, len) => BitVec.ofNat 64 (bits v pos.toNat (len.toNat + 1))
    .next (s.modCtx s.cur (·.wg d v))) s

/-- R174: a core register takes its value, seen from the next cycle on (R163 to R167). (Log entry 34: DEDUCED, unsafe.) -/
def State.writeCoreReg (s : State) (t : Tid) (r : SysReg) (v : W64) : State :=
  let k := t.core
  match r with
  | .exb => s.modCore k fun c => { c with exb := v &&& 0x7FFE0 }
  | .ovh => s.modCore k fun c => { c with ovh := v &&& 0x7FFFC }
  | .tick => s.modCore k fun c => { c with tickBase := BitVec.ofNat 64 s.now - v }
  | .mctl =>
    let s := s.modCore k fun c => { c with dnw := BitVec.ofNat 4 (bits v 16 4), win := BitVec.ofNat 5 (clamp 10 24 (bits v 8 5)) }
    s.setLevel k (clamp (s.core k).floor (s.core k).ceil (bits v 0 4))
  | .mlim => s.modCore k fun c => { c with
      insn := BitVec.ofNat 8 (bits v 24 8), quarLim := BitVec.ofNat 4 (bits v 16 4), stepLim := BitVec.ofNat 8 (bits v 8 8)
      rpl := BitVec.ofNat 8 (bits v 0 8) }
  | .mstat => s.modCore k fun c => { c with
      wrep := BitVec.ofNat 16 (bits v 48 16), wstep := BitVec.ofNat 16 (bits v 32 16), run := BitVec.ofNat 5 (bits v 27 5)
      clean := BitVec.ofNat 4 (bits v 23 4) }
  | .rfence =>
    let s := s.modCore k fun c => { c with
      rfence := BitVec.ofNat 32 v.toNat ||| (if c.fenceAt = s.now + 1 then c.fenceNew else 0), bgAll := 0 }
    let c := s.core k
    if 16 < ((List.range 32).filter c.rfence.getLsbD).length && !c.quar then s.quarantine k true else s
  | _ => s

/-- R158: what an MTS to CTXB checks. (Log entry 34: DEDUCED, unsafe.) -/
def ctxbFault (part : BitVec 2) (v : W64) : Option Flt :=
  let a := v.toNat / 2048 % 2 ^ 44 * 2048
  if a % imageSize part ≠ 0 then some { code := 5, addr := v }
  else if v.getLsbD 63 && !(decide (0x58000 ≤ a) && decide (a + imageSize part ≤ 0x60000)) then some (protFault 2 v)
  else none

/-- R176: MTS, with the checks of the register's table. (Log entry 34: DEDUCED, unsafe.) -/
def mtsBody (r : SysReg) (v : W64) (s : State) : Step1 :=
  let t := s.cur
  match r with
  | .stat => .next (s.modCtx t fun c => { c with stat := setBit (setBit c.stat 5 (v.getLsbD 5)) 0 (c.priv && v.getLsbD 0) })
  | .ctxb => match (ctxbFault (s.core t.core).part v).or (s.imageFault t) with
      | some f => .fault f
      | none => .next ((s.flush t).modCtx t fun c => { c with ctxb := v &&& 0x807FFFFFFFFFF800#64 })
  | .otpc => .next (s.modCtx t fun c => { c with otpc := v &&& ~~~3#64 })
  | .waddr0 => .next (s.modCtx t fun c => { c with waddr := c.waddr.put 0 0 v })
  | .waddr1 => .next (s.modCtx t fun c => { c with waddr := c.waddr.put 0 1 v })
  | .wctl0 => .next (s.modCtx t fun c => { c with wctl := c.wctl.put 0 0 (v &&& 0x3FF#64) })
  | .wctl1 => .next (s.modCtx t fun c => { c with wctl := c.wctl.put 0 1 (v &&& 0x3FF#64) })
  | .exb =>
    if 0x58000 < (v &&& 0x7FFE0).toNat then .fault (protFault 2 v)
    else .next (s.sched (s.now + 2) Phase.last (.act (.coreReg t r v)))
  | .ovh | .tick | .mctl | .mlim | .mstat | .rfence => .next (s.sched (s.now + 2) Phase.last (.act (.coreReg t r v)))
  | .region | .pasid | .supv | .cdepth | .part | .pd | .ident | .menv => .fault { code := 1 }

/-- Log entry 34: DEDUCED, unsafe. -/
def execMts (h : Hdr) (r : SysReg) (b : Src) (s : State) :=
  issue h (rS b) (fun _ s => mtsBody r ((s.ctx s.cur).rs b) s) s (kpriv := kWrite r)

/-! REPART (R177). -/

/-- R177: nothing but slot 0 keeps the core busy. -/
def State.quiescent (s : State) (core : Nat) : Bool :=
  let c := s.core core
  (List.range 15).all (fun n => (c.slot (n + 1)).st == .empty && !(c.slot (n + 1)).reserved)
    && c.purlins.all (fun p => !p.2.claimed) && c.bank.isEmpty && c.battens.all (fun b => b.2.count == 0)
    && c.qregs.all (fun q => q.2.entries.isEmpty) && c.cmdqs.all (fun q => q.2.isEmpty)

def execRepart (h : Hdr) (b : Src) (s : State) :=
  issue h (rS b) (fun _ s =>
    let t := s.cur
    let m := BitVec.ofNat 2 ((s.ctx t).rs b).toNat
    if m = 3 ∨ t.slot ≠ 0 ∨ !s.quiescent t.core then .fault (protFault 17)
    else if m = (s.core t.core).part then .next s
    else .next (s.actAt (s.now + 3) (.repart t.core m.toNat))) s (kpriv := true)

/-- R177: the new image of slot 0, in the layout of mode m. -/
def State.repart (s : State) (core m : Nat) : State :=
  let t : Tid := ⟨core, 0⟩
  let old := (s.core core).part
  let new : BitVec 2 := BitVec.ofNat 2 m
  let s := (s.flush t).readAbsent t
  let s := (s.dropLines t).modCtx t fun c => { c with
    g := c.g.filter fun x => decide (x.1 < Min.min (gCount old) (gCount new))
    v := c.v.filter fun x => decide (x.1 < Min.min (vCount old) (vCount new)), ctxb := BitVec.ofNat 64 (2 ^ 63 + 0x58000) }
  (s.modCore core fun c => { c with part := new, rlines := [], ghosts := [] }).writeImage t

/-! HALT, YIELD, CTXLD, CTXST, ORET, BRK (R178 to R182). -/

/-- R178: HALT first waits as `~wcall` does, before its issue. -/
def execHalt (h : Hdr) (s : State) :=
  issue { h with wait := 5 } [] (fun _ s =>
    s.lastIssue s.cur 2 0) s

/-- R179: does a task that the core may take wait, of at least the priority? -/
def State.waitingTask (s : State) (core : Nat) (team : BitVec 16) (prio : BitVec 3) : Bool :=
  (s.cluster (clusterOf core)).ready.any (fun r => decide (r.cycle ≤ s.now) && r.team == team && decide (prio.toNat ≤ r.prio.toNat))
    || (s.core core).deque.any fun q => q.team == team && decide (prio.toNat ≤ q.prio.toNat)

/-- R179: YIELD at its verdict. -/
def State.yieldAt (s : State) (t : Tid) : State :=
  let x := s.slot t
  match x.task with
  | none => s
  | some k =>
    let c := x.ctx
    if x.st == .ready && ((s.core t.core).ownedPurlins t.slot).isEmpty && ((s.core t.core).ownedBattens t.slot).isEmpty && !k.forked
        && !s.hasForks t && !c.mustWait 5 && s.quietThread t && !c.paired && s.waitingTask t.core k.team c.prio then s.preempt t
    else s

def execYield (h : Hdr) (s : State) := issue h [] (fun _ s => .next (s.actAt (s.now + 2) (.yield s.cur s.now))) s

/-- R180: CTXLD at c + 3. (Log entry 37: DEDUCED, safe.) -/
def State.loadContext (s : State) (core slot : Nat) : State :=
  let t : Tid := ⟨core, slot⟩
  let s := s.dropLines t
  s.modCtx t fun c => s.loadSystem core c (s.regionOf t)

def contextIssue (h : Hdr) (a : Reg) (load : Bool) (s : State) : Host.Outcome State Fault Refusal :=
  issue h [rG a] (fun _ s =>
    let t := s.cur
    let n := bits ((s.ctx t).rg a) 0 4
    if slotCount (s.core t.core).part ≤ n then .fault (protFault 15)
    else if let some f := s.imageFault ⟨t.core, n⟩ then .fault f
    else if load then
      if n ≠ t.slot ∧ ((s.core t.core).slot n).st ≠ .frozen then .fault (protFault 15)
      else .next (s.actAt (s.now + 3) (.ctxld t.core n))
    else .next (s.actAt (s.now + 3) (.ctxst t.core n))) s (kpriv := true)

def execCtxld (h : Hdr) (a : Reg) (s : State) := contextIssue h a true s
def execCtxst (h : Hdr) (a : Reg) (s : State) := contextIssue h a false s

def State.storeContext (s : State) (core slot : Nat) : State :=
  if ((s.core core).slot slot).st = .empty then s else s.flush ⟨core, slot⟩

def execOret (h : Hdr) (s : State) :=
  issue h [] (fun _ s =>
    let c := s.ctx s.cur
    if !c.ovl then .fault (protFault 16) else .jump (s.modCtx s.cur (·.setStat 4 false)) c.otpc) s

def execBrk (h : Hdr) (code : BitVec 12) (s : State) :=
  issue h [] (fun _ _ => .fault { code := 21, sub := 3, info := code.zeroExtend 64 }) s

/-! Deferred faults (R344). -/

/-- The oldest deferred fault of the thread is raised in place of its instruction. (Log entry 20: DEDUCED, safe.) -/
def execDeferredFault (t : Tid) (s : State) : Host.Outcome State Fault Refusal :=
  let s := { s with cur := t }.beginIssue
  let (fails, s) := s.verdict
  .next <| match (s.slot t).deferred with
  | [] => s
  | f :: l => if fails then s.replay t else (s.modSlot t fun x => { x with deferred := l }).raiseLater t f

/-! Containment (R323 to R325). -/

def execCro (h : Hdr) (mask : BitVec 8) (tgt : Target) (s : State) :=
  issue h (targetUses tgt) (fun _ s =>
    let t := s.cur
    let c := s.ctx t
    let a := targetOf c tgt
    let d := c.cdepth.toNat
    if misaligned a then .fault (alignFault a)
    else if 4 ≤ d then .fault (protFault 14)
    else .next (s.modCtx t fun c => { c with
      cdepth := c.cdepth + 1, stack := c.stack.put {} d { nst := 0, mask := mask, hpc := a, valid := true } })) s

def execCrc (h : Hdr) (s : State) :=
  issue h [] (fun _ s =>
    let t := s.cur
    let c := s.ctx t
    let d := c.cdepth.toNat - 1
    if c.cdepth = 0 then .fault (protFault 14)
    else .next (s.modCtx t fun c => { c with
      cdepth := c.cdepth - 1, stack := c.stack.put {} d { c.stack.get {} d with valid := false } })) s

/-- R325: an unwind takes place once nothing of R198 is outstanding, and the slot has a place for its packet (R348). -/
def State.unwindReady (s : State) (t : Tid) : Bool :=
  match (s.slot t).unwinding with
  | some (_, due) => decide (due ≤ s.now) && s.quietThread t && s.placeFree t
  | none => false

def execContainmentUnwind (t : Tid) (s : State) : Host.Outcome State Fault Refusal :=
  .next <| match (s.slot t).unwinding with
  | none => s
  | some (f, _) =>
    if !s.unwindReady t then s
    else if (s.slot t).force then (s.modSlot t fun x => { x with force := false }).unwind t f ((s.ctx t).cdepth.toNat - 1)
    else match (s.ctx t).catcher f with
      | some i => s.unwind t f i
      | none => s.modSlot t fun x => { x with unwinding := none, st := .ready }

/-! PCMP (R326). -/

def execPcmp (h : Hdr) (op : PcmpOp) (s : State) :=
  let uses := match op with
    | .g a => [rG a]
    | .v a => [rV a]
    | .k a => [rK a]
  issue h uses (fun _ s =>
    let t := s.cur
    let c := s.ctx t
    let words := match op with
      | .g a => [31, 0, (c.rg a).toNat]
      | .v a => [31, 1, (c.rv a).toNat]
      | .k a => [31, 2, (c.rk a).toNat]
    if !c.paired then .next s
    else if s.cmpFull t then .wait (.change [pairKey t])
    else .next (s.emit t 2 words 0 false (.wakeKeys t.core []))) s

/-! TLBINV (R319, R320). -/

/-- Does TLBINV drop the translation? `func` is R319's, `len` the range of func 3. -/
def tlbMatches (func : Nat) (pasid : BitVec 20) (va len : Nat) (e : Tlb) : Bool :=
  let base := e.vpn * 2 ^ levelShift e.level
  match func with
  | 0 => true
  | 1 | 4 => e.pasid == pasid
  | 2 => e.hits pasid va
  | _ => e.pasid == pasid && decide (base < va + len) && decide (va < base + 2 ^ levelShift e.level)

/-- Does a walk in flight match? The size of its page is not known yet, so all that its largest page covers counts. (Log entry 35: DEDUCED, unsafe.) -/
def walkMatches (func : Nat) (pasid : BitVec 20) (va len : Nat) (a : Acc) : Bool :=
  let page (x : Nat) : Nat := x / 2 ^ 30
  match func with
  | 0 => true
  | 1 | 4 => a.pasid == pasid
  | 2 => a.pasid == pasid && page a.va == page va
  | _ => a.pasid == pasid && decide (page va ≤ page a.va) && decide (page a.va ≤ page (va + len - 1))

/-- The walk that an entry of the agenda stands for, when TLBINV discards it. (Log entry 35: DEDUCED, unsafe.) -/
def discards (func : Nat) (pasid : BitVec 20) (va len : Nat) (p : Pend) : Option Acc :=
  match p.ev with
  | .act (.walk a _ _) => if walkMatches func pasid va len a then some a else none
  | _ => none

/-- The accesses whose walks are in flight. -/
def State.walking (s : State) : List Nat := s.agenda.filterMap fun p => match p.ev with
  | .act (.walk a _ _) => some a.id
  | _ => none

/-- R319, R320: TLBINV is performed; its reply lands 340 cycles later, once the walks that go on have finished. The
requests of a retired PASID that wait for a walker are answered. (Log entry 35: DEDUCED, unsafe.) -/
def State.tlbinv (s : State) (t : Tid) (id size func : Nat) (pasid : BitVec 20) (va len : Nat) : State :=
  let keep (l : List Tlb) : List Tlb := l.filter fun e => !tlbMatches func pasid va len e
  let s := { s with
    cores := s.cores.map fun (x : Nat × Core) => (x.1, { x.2 with tlb := keep x.2.tlb })
    clusters := s.clusters.map fun (x : Nat × Cluster) => (x.1, { x.2 with tlb2 := keep x.2.tlb2 }) }
  let s := if func ≠ 4 then s
    else
      let a := s.pkg.ptbase.toNat + 16 * pasid.toNat + 8
      let s := s.physWrite 0 a 1 (s.physRead 0 a 1 % 64 + 128)
      s.cores.foldl (fun s (x : Nat × Core) => s.stopWhere x.1 fun c =>
        c.pasid == pasid || (c.op == 0xC3 && (s.cmdRegion c).peer == pasid)) s
  let walks := s.agenda.filterMap (discards func pasid va len)
  let s := { s with agenda := s.agenda.filter fun p => (discards func pasid va len p).isNone }
  let s := s.sched (s.now + 340) Phase.land (.act (.resume t id size s.walking))
  let s := walks.foldl (fun (s : State) (a : Acc) =>
    (s.modDie (dieOf a.tid.core) fun d => { d with walkers := d.walkers - 1 }).startWalk a) s
  let s := if func ≠ 4 then s
    else (List.range 4).foldl (fun s d =>
      let gone := (s.die d).walkWait.filter fun a => a.pasid == pasid
      gone.foldl (fun s a => s.startWalk a) (s.modDie d fun x => { x with walkWait := x.walkWait.filter fun a => a.pasid != pasid })) s
  (List.range 4).foldl (fun s d => s.takeWalkers d (s.die d).walkWait.length) s

def tlbIssue (h : Hdr) (uses : List Use) (func : Nat) (args : Ctx → BitVec 20 × Nat × Nat) (s : State) :
    Host.Outcome State Fault Refusal :=
  issue h uses (fun _ s =>
    let t := s.cur
    let (p, va, n) := args (s.ctx t)
    let (id, s) := s.newId
    .sent (s.actAt (s.now + 60) (.tlbinv t id (bytesOf h) func p va n)) id) s (kpriv := true)

def pasidOf (v : W64) : BitVec 20 := v.truncate 20
def execTlbinvAll (h : Hdr) (s : State) := tlbIssue h [] 0 (fun _ => (0, 0, 0)) s
def execTlbinvPasid (h : Hdr) (a : Reg) (s : State) := tlbIssue h [rG a] 1 (fun c => (pasidOf (c.rg a), 0, 0)) s
def execTlbinvPage (h : Hdr) (a b : Reg) (s : State) :=
  tlbIssue h [rG a, rG b] 2 (fun c => (pasidOf (c.rg a), (c.rg b).toNat, 0)) s
def execTlbinvRange (h : Hdr) (a b : Reg) (n : W64) (s : State) :=
  tlbIssue h [rG a, rG b] 3 (fun c => (pasidOf (c.rg a), (c.rg b).toNat, n.toNat)) s
def execTlbinvRetire (h : Hdr) (a : Reg) (s : State) := tlbIssue h [rG a] 4 (fun c => (pasidOf (c.rg a), 0, 0)) s

/-- The reply of TLBINV lands, once the walks that it waits for have finished (R319). -/
def State.resumeLands (s : State) (t : Tid) (id len : Nat) (walks : List Nat) : State :=
  if walks.any s.walking.contains then s.sched (s.now + 1) Phase.land (.act (.resume t id len walks))
  else if (s.slot t).st = .waiting (.event id) then s.land t (s.ctx t).pc len else s

/-- A reply that writes at most one register completes a waiting instruction, or raises its fault. -/
def State.tableLands (s : State) (t : Tid) (id len : Nat) (d : Option (Reg × W64)) (f : Option Flt) : State :=
  let s := s.dropOut t.core id
  if (s.slot t).st ≠ .waiting (.event id) then s
  else match f with
    | some f => s.raise t f
    | none =>
      let s := match d with
        | some (r, v) => (s.landReg t (.g r) v.toNat).pass t v.toNat
        | none => s.pass t 0
      s.land t (s.ctx t).pc len

end Sys2Proof.Machine
end

