-- ==== Sys2Proof/Machine/Counters.lean ====
section
/-!
DEFINITION. Counters and messages, opcodes 0xE0 to 0xE3 (R327 to R341), waiting tasks and scoreboards, opcodes 0xE4 to
0xE7 (R297 to R305).
-/

namespace Sys2Proof.Machine

/-! CSIG (R338). -/

def State.newDec (s : State) (h : Hdr) (handle : W64) (k : Nat) (csig : Bool) (d : Reg) : Dec × State :=
  let (id, s) := s.newId
  let t := s.cur
  let c := s.ctx t
  ({ id := id, handle := handle, k := k, tid := t, bind := (s.slot t).bind, tenant := c.tenant, csig := csig, d := d, pc := c.pc,
     len := bytesOf h }, s)

def execCsig (h : Hdr) (d a : Reg) (n : BitVec 20) (s : State) :=
  issue h [rG a, wG d] (fun _ s =>
    let t := s.cur
    let handle := (s.ctx t).rg a
    match s.checkHandle isWaiting handle with
    | some f => .fault f
    | none =>
      if s.releaseHeld t then .hold 6
      else
        let (r, s) := s.newDec h handle n.toNat true d
        s.pairAsk t [27, handle.toNat, n.toNat] handle r.id (.decSend r) (putG d)) s

/-- A decrement leaves at c + 3. -/
def State.decSend (s : State) (r : Dec) : State := s.toTable r.tid r.handle 3 (.run (.waitingTaskDecrement r))

/-- R331: the reply of a CSIG, or the acknowledgement of another decrement, lands. -/
def State.decLands (s : State) (r : Dec) (f : Option Flt) (val : W64) : State :=
  if r.csig then s.tableLands r.tid r.id r.len (some (r.d, val)) f
  else
    let s := s.dropOut r.tid.core r.id
    match f with
    | some f => s.deferFault r.tid r.bind f
    | none => s

/-! MSG (R339). -/

def execMsg (h : Hdr) (d a b : Reg) (f : BitVec 3) (n : BitVec 20) (s : State) :=
  issue h [rG d, rG a, rG b] (fun _ s =>
    let t := s.cur
    let c := s.ctx t
    let src := c.rg a
    let dst := c.rg d
    let bytes := 64 * (f.toNat + 1)
    if src.toNat % 64 ≠ 0 then .fault (alignFault src)
    else if dst.toNat % 64 ≠ 0 then .fault (alignFault dst)
    else match s.watch isLoadKind src with
      | some f => .fault f
      | none => match localFault c (s.core t.core).exb src.toNat bytes false with
        | some f => .fault f
        | none => match storeFault dst bytes with
          | some f => .fault f
          | none => match s.checkHandle isWaiting (c.rg b) with
            | some f => .fault f
            | none =>
              if s.localErr t.core src.toNat bytes = .uncorrectable then .fault (ueFault src.toNat)
              else if s.releaseHeld t then .hold 6
              else
                let (r, s) := s.newDec h (c.rg b) n.toNat false 0
                s.pairSend t [30, dst.toNat, src.toNat, (c.rg b).toNat, f.toNat, n.toNat] dst
                  (.msgSend r src.toNat dst.toNat (f.toNat + 1)) .next) s

/-- R339: the message leaves, whole: its flits land one per cycle, and its decrement follows. A message that a router
rejects is discarded whole (R311). -/
def State.msgSend (s : State) (r : Dec) (src dst n : Nat) : State :=
  let core := r.tid.core
  let cl := hCluster r.handle
  let s := fixLocal (s.addOut core { id := r.id, slot := r.tid.slot, kind := .msg }) core src (64 * n)
  let flit (j : Nat) : Instr := .msgDelivery cl (dst + 64 * j) (BitVec.ofNat 512 (s.localRead core (src + 64 * j) 64))
  if hPkg r.handle ≠ s.pkg.pkgid.toNat then
    let ask (op : PeerOp) (s : State) : State := s.toPeer (hPkg r.handle) r.handle.toNat
      (.act (.peer { link := 0, tenant := r.tenant, pasid := (s.regionOf r.tid).peer, op := op }))
    let s := (List.range n).foldl (fun s j =>
      ask (.flit cl (dst + 64 * j) (BitVec.ofNat 512 (s.localRead core (src + 64 * j) 64))) s) s
    ask (.decrement r) s
  else
    let p := s.now + performTime core cl - 3
    let ph := Phase.table r.tid cl
    let s := if !s.routeAdmits (clusterOf core) cl r.tenant then s
      else (List.range n).foldl (fun s j => s.sched (p + j) ph (.run (flit j))) s
    s.sched (p + n) ph (.run (.waitingTaskDecrement r))

/-- What stands for the number of a message's flit among the arrivals at a cluster store. -/
def flitId (addr : Nat) : Nat := 2 ^ 80 + addr

/-- R185, R186, R339: a flit waits for its granules' cycle in its place, and is written; its four granules turn full. -/
def execMsgDelivery (cluster addr : Nat) (data : Vec) (s : State) : Host.Outcome State Fault Refusal :=
  .next <|
    if (s.cluster cluster).queues s.now (flitId addr) none addr 64 then
      (s.queueUp cluster (flitId addr) none addr 64).sched (s.now + 1) Phase.again (.run (.msgDelivery cluster addr data))
    else
      let s := s.unqueue cluster (flitId addr)
      let s := { s with storeErrs := clearErrs s.storeErrs (storeErrBase cluster) addr 64 }
      let s := (s.modCluster cluster fun c => { c with mem := poke c.mem addr 64 data.toNat }).useGranules cluster addr 64
      s.setStoreFull cluster addr 64 true

/-! WAIT (R340). -/

def execWaitCounter (h : Hdr) (n : BitVec 2) (m : BitVec 8) (s : State) :=
  issue h [] (fun _ s => if (s.ctx s.cur).rwc n ≤ m then .next s else .wait (.counter n m)) s

/-- A request that the leading thread alone sends at c + 1, before its verdict: a failed verdict lets the request go, and
discards its reply. -/
def State.leadTable (s : State) (t : Tid) (ok : Bool) (send : Nat → State → State) (put : Nat → Ctx → Ctx) : Step1 :=
  let c := s.ctx t
  if c.isTrail then s.take t fun v s => .next (s.modCtx t (put v))
  else if c.isLead && s.lvqFull t then .wait (.change [pairKey t])
  else
    let (id, s) := s.newId
    if !ok then .next (send id s)
    else .sent ((send id s).addOut t.core { id := id, slot := t.slot, kind := .load }) id

def execWaitHandle (h : Hdr) (a : Reg) (s : State) :=
  issue h [rG a] (resv := true) (fun ok s =>
    let t := s.cur
    let c := s.ctx t
    let handle := c.rg a
    match s.checkHandle isWaiting handle with
    | some f => .fault f
    | none => s.leadTable t ok
        (fun id s => s.toTable t handle 0 (.act (.waitRequest (hCluster handle) t id handle c.tenant))) (fun _ c => c)) s

/-- WAIT's request at the table: code 0 released, 1 STALE, 2 busy, 3 TENANT; 4, from a peer, XLATE (R377). (Log entry 40: DEDUCED, unsafe.) -/
def State.waitAct (s : State) (cl : Nat) (t : Tid) (id : Nat) (handle : W64) (tenant : BitVec 6) : State :=
  let reply (code : Nat) : State := s.fromTable t.core cl 0 (.waitReply t id code handle)
  let w := s.waitEntry cl (hEnt handle)
  if !s.routeAdmits (clusterOf t.core) cl tenant then reply 3
  else if w.gen ≠ hGen handle then reply 1
  else if w ≠ {} ∧ (s.regionByRcb w.rcb.toNat).tenant ≠ tenant then reply 3
  else if w.state ≠ 1 then reply 0
  else if 64 ≤ (s.cluster cl).waitHeld.length then reply 2
  else s.modCluster cl fun c => { c with waitHeld := c.waitHeld ++ [(t, id, handle)] }

def State.waitLands (s : State) (t : Tid) (id code : Nat) (handle : W64) : State :=
  let s := s.dropOut t.core id
  if (s.slot t).st ≠ .waiting (.event id) then s
  else match code with
    | 0 => ((s.acquire t none).pass t 0).land t (s.ctx t).pc 8
    | 1 => s.raise t (staleFault handle)
    | 2 => (s.count t.core 7).setSt t .ready
    | 4 => s.raise t { code := 7, sub := 4, addr := handle }
    | _ => s.raise t (tenantFault handle)

/-! CNTRD (R341). -/

def execCntrdWc (h : Hdr) (d : Reg) (n : BitVec 2) (s : State) :=
  issue h [wG d] (fun _ s => .next (s.modCtx s.cur fun c => c.wg d ((c.rwc n).zeroExtend 64))) s

/-- A performance counter (R335) in this cycle. COMMITS counts an issue with its verdict; IDLE is what neither issued
nor passed before the reset. -/
def State.perf (s : State) (core : Nat) (n : Nat) : W64 :=
  let c := s.core core
  if n = 1 then c.perf.get 0 1 - BitVec.ofNat 64 (c.late.filter fun d => s.now < d).length
  else if n = 8 then
    let issues := (c.perf.get 0 0) - (if c.issueAt = s.now + 1 then 1 else 0)
    BitVec.ofNat 64 (s.now - c.resetAt) - issues
  else c.perf.get 0 n

/-- A value that the core reads at issue; in paired mode the leading thread reads it for both (R337). -/
def leadRead (h : Hdr) (d : Reg) (f : State → W64 × State) (s : State) : Host.Outcome State Fault Refusal :=
  issue h [wG d] (fun _ s =>
    let t := s.cur
    let c := s.ctx t
    if c.isTrail then s.take t fun v s => .next (s.modCtx t (putG d v))
    else if c.isLead && s.lvqFull t then .wait (.change [pairKey t])
    else
      let (v, s) := f s
      .next ((s.modCtx t (·.wg d v)).pass t v.toNat)) s

def execCntrdPerf (h : Hdr) (d : Reg) (num : BitVec 4) (s : State) :=
  leadRead h d (fun s => (s.perf s.cur.core num.toNat, s)) s

/-- The sub-mesh of a context (R310). A tenant whose sub-mesh is not formed has no slot clock: the value is free. (Log entry 7: DESIGN CHOICE, safe.) (log entry 42: DEDUCED, unsafe.) -/
def State.meshValue (s : State) (t : Tid) (f : Mesh → W64) : W64 × State :=
  let m := s.meshes.get {} (s.ctx t).tenant.toNat
  if m.formed then (f m, s)
  else
    let (n, s) := s.newId
    ((Config.freeValue n).truncate 64, s)

def execCntrdSlot (h : Hdr) (d : Reg) (s : State) := leadRead h d (fun s => s.meshValue s.cur (·.clock)) s
def execCntrdSlip (h : Hdr) (d : Reg) (s : State) := leadRead h d (fun s => s.meshValue s.cur (·.slip)) s

/-- Log entry 40: DEDUCED, unsafe. -/
def execCntrdWt (h : Hdr) (d a : Reg) (s : State) :=
  issue h [rG a, wG d] (resv := true) (fun ok s =>
    let t := s.cur
    let c := s.ctx t
    let handle := c.rg a
    match s.checkHandle isWaiting handle with
    | some f => .fault f
    | none => s.leadTable t ok
        (fun id s => s.toTable t handle 0 (.act (.wtRead (hCluster handle) t id handle d c.tenant))) (putG d)) s

def State.wtAct (s : State) (cl : Nat) (t : Tid) (id : Nat) (handle : W64) (d : Reg) (tenant : BitVec 6) : State :=
  let reply (v : W64) (f : Option Flt) : State := s.fromTable t.core cl 0 (.tableReply t id 8 (some (d, v)) f)
  if !s.routeAdmits (clusterOf t.core) cl tenant then reply 0 (some (tenantFault handle))
  else match s.findWait cl handle with
    | none => reply (BitVec.allOnes 64) none
    | some w =>
      if (s.regionByRcb w.rcb.toNat).tenant ≠ tenant then reply 0 (some (tenantFault handle))
      else reply (BitVec.ofNat 64 (w.state.toNat * 2 ^ 20 + w.count.toNat)) none

/-- Log entry 40: DEDUCED, unsafe. -/
def execCntrdBud (h : Hdr) (d : Reg) (kind : BitVec 3) (s : State) :=
  issue h [wG d] (resv := true) (fun ok s =>
    s.leadTable s.cur ok (fun id s => s.actAt (s.now + 60) (.budRead s.cur id kind d)) (putG d)) s

/-- The count of the nearest region on the context's path with its own limit; the reply lands at c + 120. -/
def State.budAct (s : State) (t : Tid) (id : Nat) (kind : BitVec 3) (d : Reg) : State :=
  let v := match (s.regionOf t).limits.find? (fun x => x.1 == kind.toNat) with
    | none => 0
    | some (_, rcb, _) => match s.budget rcb with
      | some (_, b) => b.count kind.toNat
      | none => 0
  let (x, s) := s.delay
  s.sched (s.now + 60 + x) Phase.land (.act (.tableReply t id 8 (some (d, BitVec.ofNat 64 v)) none))

/-! CARM (R299) and the scoreboards (R301 to R305). -/

def State.newWReq (s : State) (h : Hdr) (op : Nat) (d : Reg) (record : BitVec 512) (n : W64) (board : BitVec 2) : WReq × State :=
  let (id, s) := s.newId
  let t := s.cur
  let r := s.regionOf t
  ({ id := id, op := op, tid := t, len := bytesOf h, d := d, record := record, n := n, board := board, team := s.teamNo t,
     rcb := r.rcb, prio := r.prio, tenant := (s.ctx t).tenant }, s)

/-- The record that CARM and SBREG arm, checked at issue. -/
def State.armRecord (s : State) (t : Tid) (a pc : W64) : Except Flt (BitVec 512) :=
  match s.taskRecord t a with
  | .error f => .error f
  | .ok r => if recNt r ≠ 0 then .error (protFault 12 a) else .ok (recordCopy r 0 pc ((s.ctx t).priv && (s.regionOf t).privb))

def execCarm (h : Hdr) (d a b : Reg) (pc : W64) (s : State) :=
  issue h [rG a, rG b, wG d] (fun _ s =>
    let t := s.cur
    let c := s.ctx t
    match s.armRecord t (c.rg a) pc with
    | .error f => .fault f
    | .ok rec =>
      if 0xFFFFF < (c.rg b).toNat then .fault (protFault 12)
      else if s.releaseHeld t then .hold 6
      else
        let (r, s) := s.newWReq h 0 d rec (c.rg b) 0
        s.pairAsk t [28, rec.toNat, (c.rg b).toNat] 0 r.id (.waitingSend r) (putG d)) s

def execSbreg (h : Hdr) (d : Reg) (n : BitVec 2) (a b : Reg) (pc : W64) (s : State) :=
  issue h [rG a, rG b, wG d] (fun _ s =>
    let t := s.cur
    let c := s.ctx t
    match s.armRecord t (c.rg a) pc with
    | .error f => .fault f
    | .ok rec =>
      if s.releaseHeld t then .hold 6
      else
        let (r, s) := s.newWReq h 1 d rec (c.rg b) n
        s.pairAsk t [31, n.toNat, rec.toNat, (c.rg b).toNat] 0 r.id (.waitingSend r) (putG d)) s

/-- SBDEF, SBDEF.FREE and SBRET, whose replies write no register. -/
def boardIssue (h : Hdr) (op : Nat) (n : BitVec 2) (uses : List Use) (arg : Ctx → W64) (rel : Bool) (s : State) :
    Host.Outcome State Fault Refusal :=
  issue h uses (fun _ s =>
    let t := s.cur
    let v := arg (s.ctx t)
    if rel && s.releaseHeld t then .hold 6
    else
      let (r, s) := s.newWReq h op 0 0 v n
      s.pairAsk t [32, op, n.toNat, v.toNat] 0 r.id (.waitingSend r) fun _ c => c) s

def execSbdef (h : Hdr) (n : BitVec 2) (a : Reg) (s : State) := boardIssue h 2 n [rG a] (·.rg a) false s
/-- Log entry 40: DEDUCED, unsafe. -/
def execSbdefFree (h : Hdr) (n : BitVec 2) (s : State) := boardIssue h 3 n [] (fun _ => 0) false s
def execSbret (h : Hdr) (n : BitVec 2) (a : Reg) (s : State) := boardIssue h 4 n [rG a] (·.rg a) true s

/-- R296: the request leaves at c + 3 and is performed at c + 24. -/
def State.waitingSend (s : State) (r : WReq) : State := s.arriveAt (s.now + 21) r.tid (.waiting r)

def State.boardOf (s : State) (cl : Nat) (n : BitVec 2) : Board := (s.cluster cl).boards.get {} n.toNat
def State.setBoard (s : State) (cl : Nat) (n : BitVec 2) (b : Board) : State :=
  s.modCluster cl fun c => { c with boards := c.boards.put {} n.toNat b }

def Board.wide (b : Board) : Nat := b.wm1.toNat + 1
def Board.high (b : Board) : Nat := b.hm1.toNat + 1
def Board.tile (b : Board) (k : Nat) : BitVec 15 := b.tiles.get 0 k

/-- The numbers of the tiles at (x, y) + (dx, dy) of each stencil bit, or at (x, y) − (dx, dy) with `back`, that lie in
the grid, in ascending bit order. -/
def Board.near (b : Board) (x y : Nat) (back : Bool) : List Nat :=
  (List.range 25).filterMap fun i =>
    if !b.mask.getLsbD i then none
    else
      let u := if back then x + 4 - i % 5 else x + i % 5
      let v := if back then y + 4 - i / 5 else y + i / 5
      if 2 ≤ u ∧ 2 ≤ v ∧ u - 2 < b.wide ∧ v - 2 < b.high then some ((v - 2) * b.wide + (u - 2)) else none

/-- R302: every tile waits for its predecessors within the grid. -/
def Board.fresh (b : Board) : Board :=
  { b with tiles := (List.range (b.wide * b.high)).filterMap fun k =>
      let n := (b.near (k % b.wide) (k / b.wide) false).length
      if n = 0 then none else some (k, BitVec.ofNat 15 (n * 256)) }

def tileCnt (t : BitVec 15) : BitVec 5 := t.extractLsb' 8 5
def tileReg (t : BitVec 15) : Bool := t.getLsbD 13
def tileRet (t : BitVec 15) : Bool := t.getLsbD 14
def tileEnt (t : BitVec 15) : Nat := t.toNat % 256
def mkTile (ret reg : Bool) (cnt : BitVec 5) (ent : Nat) : BitVec 15 :=
  BitVec.ofNat 15 (ret.toNat * 2 ^ 14 + reg.toNat * 2 ^ 13 + cnt.toNat * 256 + ent % 256)

/-- The tile that an operand names (R303), if it lies in the grid. -/
def Board.named (b : Board) (v : W64) : Option (Nat × Nat) :=
  let x := bits v 0 6
  let y := bits v 8 6
  if x < b.wide ∧ y < b.high then some (x, y) else none

def boardFault : Flt := protFault 13

/-- R299: the lowest free entry is armed, if the budget admits it: the state, the entry and its handle. -/
def State.arm (s : State) (cl : Nat) (r : WReq) (count : Nat) : Option (State × Nat × W64) :=
  let region := s.regionByRcb r.rcb
  match (List.range 256).find? fun i => (s.waitEntry cl i).state == 0 with
  | none => none
  | some i =>
    if !s.admits region 2 1 then none
    else
      let gen := (s.waitEntry cl i).gen + 1
      let h := s.mkHandle 11 cl i gen
      let w : WaitTask :=
        { record := recordCopy r.record h (recPc r.record) (recPriv r.record), rcb := BitVec.ofNat 46 r.rcb, gen := gen, state := 1
          count := BitVec.ofNat 20 count, team := r.team, prio := r.prio, sbl := r.op = 1, sbn := if r.op = 1 then r.board else 0
          region := BitVec.ofNat 64 r.rcb }
      let s := (s.modWait cl i fun _ => w).charge region 2 1
      some (if count = 0 then s.releaseEntry cl i else s, i, h)

/-- R304: a predecessor of tile k retires. -/
def State.tileDown (s : State) (cl : Nat) (n : BitVec 2) (k : Nat) : State :=
  let b := s.boardOf cl n
  let t := b.tile k
  let cnt := tileCnt t - 1
  let s := s.setBoard cl n { b with tiles := b.tiles.put 0 k (mkTile (tileRet t) (tileReg t) cnt (tileEnt t)) }
  let i := tileEnt t
  if tileReg t && (s.waitEntry cl i).state == 1 then
    let s := s.modWait cl i fun w => { w with count := cnt.zeroExtend 20 }
    if cnt = 0 then s.releaseEntry cl i else s
  else s

/-- R299 to R305: a request is performed at the tables of its cluster: the state, the value for its register, or its
fault. -/
def State.waitingDo (s : State) (cl : Nat) (r : WReq) : State × Except Flt W64 :=
  let b := s.boardOf cl r.board
  let own := b.owned && b.team == r.team
  let full : Flt := { code := 20, sub := 1 }
  if !s.routeAdmits cl cl r.tenant then (s, .error { code := 8 })
  else match r.op with
  | 0 => match s.arm cl r r.n.toNat with
    | none => (s, .error full)
    | some (s, _, h) => (s, .ok h)
  | 1 => match (if own then b.named r.n else none) with
    | none => (s, .error boardFault)
    | some (x, y) =>
      let k := y * b.wide + x
      let t := b.tile k
      if tileReg t then (s, .error boardFault)
      else match s.arm cl r (tileCnt t).toNat with
        | none => (s, .error full)
        | some (s, i, h) =>
          (s.setBoard cl r.board { b with tiles := b.tiles.put 0 k (mkTile (tileRet t) true (tileCnt t) i) }, .ok h)
  | 4 => match (if own then b.named r.n else none) with
    | none => (s, .error boardFault)
    | some (x, y) =>
      let k := y * b.wide + x
      let t := b.tile k
      if tileRet t then (s, .error { code := 12 })
      else
        let s := s.setBoard cl r.board { b with tiles := b.tiles.put 0 k (mkTile true (tileReg t) (tileCnt t) (tileEnt t)) }
        ((b.near x y true).foldl (fun s k => s.tileDown cl r.board k) s, .ok 0)
  | op =>
    let armed := b.tiles.any fun x => tileReg x.2 && (s.waitEntry cl (tileEnt x.2)).state == 1
    if (op == 2 && r.n.getLsbD 24) || (b.owned && b.team != r.team) || armed then (s, .error boardFault)
    else if op = 2 then
      (s.setBoard cl r.board (({ owned := true, team := r.team, wm1 := BitVec.ofNat 6 (bits r.n 0 6), hm1 := BitVec.ofNat 6 (bits r.n 6 6)
                                 mask := BitVec.ofNat 25 (bits r.n 12 25) } : Board).fresh), .ok 0)
    else (s.setBoard cl r.board {}, .ok 0)

def State.waitingAct (s : State) (r : WReq) : State :=
  let cl := clusterOf r.tid.core
  let (s, v) := s.waitingDo cl r
  let d (v : W64) : Option (Reg × W64) := if r.op ≤ 1 then some (r.d, v) else none
  s.fromTable r.tid.core cl 0 (match v with
    | .ok v => .tableReply r.tid r.id r.len (d v) none
    | .error f => .tableReply r.tid r.id r.len none (some f))

end Sys2Proof.Machine
end

