-- ==== Sys2Proof/Machine/Clocks.lean ====
section
/-!
DEFINITION. What the machine does by itself as cycles pass: slot clocks (R312, R313, R334), margin windows (R163, R171,
R172), power gating (R361), the throttle (R369), the slate's refresh (R192) and the format ranges (R321).
-/

namespace Sys2Proof.Machine

/-! Slot clocks. -/

def Mesh.holds (m : Mesh) (cl : Nat) : Bool :=
  decide (m.row0 ≤ gridRow cl) && decide (gridRow cl < m.row0 + m.rows) && decide (m.col0 ≤ gridCol cl)
    && decide (gridCol cl < m.col0 + m.cols)

def State.meshOf (s : State) (t : Nat) : Mesh := s.meshes.get {} t
def State.setMesh (s : State) (t : Nat) (m : Mesh) : State := { s with meshes := s.meshes.put {} t m }

/-- R313: has an engine no flit of its command to send now? -/
def Cluster.flitAbsent (c : Cluster) (now : Nat) (r : Run) : Bool :=
  if r.cmd.op = 0xC1 then !c.leaving.any fun l => l.id == r.cmd.id
  else (r.flits.head?.map fun f => decide (now < f.due)).getD true

/-- R313: is a scheduled flit of the tenant absent at its source engine in the current slot of one of its router's ports?
(log entry 42: DEDUCED, unsafe.) -/
def State.slotAbsent (s : State) (mesh : Nat) (m : Mesh) : Bool :=
  s.clusters.any fun (cl, c) => m.holds cl && (List.range 5).any fun port =>
    let stream := (c.slots.get 0 (256 * port + m.clock.toNat % 256)).toNat
    stream != 0 && c.engines.any fun r => r.cmd.tenant.toNat == mesh && r.cmd.stream == stream && !r.closed && !r.delivered
      && c.flitAbsent s.now r

/-- R313, R334: the clock of a tenant's sub-mesh advances by a slot, or slips. (Log entry 42: DEDUCED, unsafe.) -/
def execSlotClockTick (mesh : Nat) (s : State) : Host.Outcome State Fault Refusal :=
  let m := s.meshOf mesh
  .next <|
    if !m.formed || m.ticked = s.now + 1 then s
    else if 0 < m.pause || s.slotAbsent mesh m then
      s.setMesh mesh { m with slip := m.slip + 1, pause := m.pause - 1, ticked := s.now + 1 }
    else s.setMesh mesh { m with clock := m.clock + 1, ticked := s.now + 1 }

/-- R313: n cycles of pause for a sub-mesh. (Log entry 42: DEDUCED, unsafe.) -/
def State.pauseMesh (s : State) (n mesh : Nat) : State :=
  let m := s.meshOf mesh
  if m.formed then s.setMesh mesh { m with pause := Max.max m.pause n } else s

/-- R313: a retry on a link of a sub-mesh. The link is one of the firmware tenant's sub-mesh, the package, too. (Log entry 42: DEDUCED, unsafe.) -/
def execMeshLinkRetry (mesh : Nat) (s : State) : Host.Outcome State Fault Refusal :=
  .next ((s.pauseMesh 1 mesh).pauseMesh 1 0)

/-! Margin windows. -/

/-- R171: is the core's window over in this cycle? -/
def Core.windowOver (c : Core) (now : Nat) : Bool :=
  !c.gated && !c.withheld && decide (c.winStart + 2 ^ c.win.toNat ≤ now)

/-- R172: a window end; it steps down after enough clean windows. -/
def execWindowEnd (core : Nat) (s : State) : Host.Outcome State Fault Refusal :=
  let c := s.core core
  let clean := decide (c.wrep.toNat ≤ c.rpl.toNat)
  let n := if c.clean = 15 then c.clean else c.clean + 1
  let s' := s.modCore core fun c => { c with
    wrep := 0, wstep := 0, winStart := s.now
    run := if clean then 0 else c.run, clean := if clean then n else c.clean }
  .next <|
    if c.gated || c.withheld then s
    else if clean && c.dnw != 0 && decide (c.dnw.toNat ≤ n.toNat) && decide (c.floor < c.level.toNat) then
      s'.setLevel core (c.level.toNat - 1)
    else s'

/-- R172: WREP has passed MLIM.RPL in this cycle: the step-up follows the window end. -/
def execStepUp (core : Nat) (s : State) : Host.Outcome State Fault Refusal :=
  .next ((s.modCore core fun c => { c with passedAt := 0 }).stepUp core)

/-- R171: SETTLE clears 1200 cycles after the level change. -/
def Core.settled (c : Core) (now : Nat) : Bool := c.settle && decide (c.settleAt ≤ now)

def execSettleEnd (core : Nat) (s : State) : Host.Outcome State Fault Refusal :=
  .next (if (s.core core).settled s.now then s.modCore core fun c => { c with settle := false } else s)

/-- R163: a new envelope. -/
def State.envelope (s : State) (core : Nat) (floor ceil : BitVec 4) : State :=
  let s := s.modCore core fun c => { c with menv := ceil ++ floor }
  s.setLevel core (clamp floor.toNat ceil.toNat (s.core core).level.toNat)

/-! Gating (R361). -/

/-- R361: does nothing keep the core from gating? -/
def Core.quietNow (c : Core) : Bool :=
  c.slots.all (fun x => x.2.st == .empty) && c.bank.isEmpty && c.pkts.isEmpty && c.deque.isEmpty && c.dispatch.isNone
    && c.cmdqs.all (fun x => x.2.isEmpty) && c.kind == .program && !c.quar

/-- May the core enter gating now? -/
def State.mayGate (s : State) (core : Nat) : Bool :=
  let c := s.core core
  (s.power.state == 1 || s.power.state == 2) && c.gate == .powered && c.quietNow && decide (c.busyAt + 4096 ≤ s.now)

/-- R361: a core enters gating; in the last of its 64 cycles it reads the latch of wakes. -/
def execGatingEntry (core : Nat) (s : State) : Host.Outcome State Fault Refusal :=
  .next <| match (s.core core).gate with
  | .powered =>
    if s.mayGate core then
      (s.modCore core fun c => { c with gate := .entering s.now false }).sched (s.now + 63) Phase.last (.act (.gatingEnd core))
    else s
  | .entering since latch =>
    if s.now < since + 63 then s
    else if latch then s.modCore core fun c => { c with gate := .powered, busyAt := s.now + 1 }
    else s.modCore core fun c => { c with gate := .gated }
  | _ => s

/-- R361: a wake reaches a core: latched while it enters gating, and the start of a gated core's exit. -/
def execGatingWake (core : Nat) (s : State) : Host.Outcome State Fault Refusal :=
  .next <| match (s.core core).gate with
  | .entering since _ => s.modCore core fun c => { c with gate := .entering since true }
  | .gated => s.modCore core fun c => { c with gate := .leaving s.now }
  | _ => s

def Core.leaves (c : Core) (now : Nat) : Bool :=
  match c.gate with
  | .leaving since => decide (since + 2400 ≤ now)
  | _ => false

/-- R361, R163: a core is powered again, with a new window. (Log entry 43: DEDUCED, unsafe.) -/
def execGatingExit (core : Nat) (s : State) : Host.Outcome State Fault Refusal :=
  .next (if (s.core core).leaves s.now then
      s.modCore core fun c => { c with gate := .powered, winStart := s.now, wrep := 0, wstep := 0, busyAt := s.now }
    else s)

/-! Throttle (R369). -/

/-- A change of the core clock pauses every slot clock for 64 cycles. -/
def State.throttle (s : State) (mhz : Nat) : State :=
  if s.power.state = 2 ∨ s.power.state = 3 ∨ s.reduced ∨ mhz = s.power.mhz then s
  else s.meshes.foldl (fun s (m : Nat × Mesh) => s.pauseMesh 64 m.1) { s with power := { s.power with mhz := mhz } }

/-- R369: power, averaged over 1 ms, has exceeded the limit. (Log entry 43: DEDUCED, unsafe.) -/
def execThrottleDown (s : State) : Host.Outcome State Fault Refusal :=
  .next (s.throttle (Max.max 600 (s.power.mhz - 50)))

/-- R369: power has stayed below 95 percent of the limit for 1 ms. (Log entry 43: DEDUCED, unsafe.) -/
def execThrottleUp (s : State) : Host.Outcome State Fault Refusal :=
  .next (s.throttle (Min.min 1200 (s.power.mhz + 50)))

/-! The slate's refresh (R192). -/

/-- The window of slots 192 to 255 of every 64th frame begins. -/
def execSlateRefresh (die : Nat) (s : State) : Host.Outcome State Fault Refusal :=
  .next ((s.modDie die fun d => { d with refresh := s.now + 64 }).runAt (s.now + 16384) (.slateRefresh die))

/-! Format ranges (R321). -/

/-- Log entry 12: DESIGN CHOICE, unsafe. -/
def execFormatRangeWrite (die ctl reg : Nat) (val : BitVec 256) (s : State) : Host.Outcome State Fault Refusal :=
  .next (s.modDie die fun d => { d with
    fmts := d.fmts.put {} (ctl * 8 + reg) { d.fmts.get {} (ctl * 8 + reg) with pend := some val } })

/-- The fields of a written value. -/
def FmtRange.ofBits (v : BitVec 256) : FmtRange :=
  { owner := v.extractLsb' 210 46, count := v.extractLsb' 186 24, valid := v.getLsbD 184, win := v.extractLsb' 64 64, src := v.extractLsb' 0 64 }

def TeamState.placed' (t : TeamState) : Bool := t == .placed || t == .loading

/-- Is a team of the region placed? -/
def State.regionPlaced (s : State) (rcb : Nat) : Bool :=
  s.teams.any fun x => match x.2 with
    | some t => t.region.rcb == rcb && t.st.placed'
    | none => false

/-- Log entry 12: DESIGN CHOICE, unsafe. -/
def FmtRange.ready (r : FmtRange) (s : State) : Bool :=
  match r.pend with
  | none => false
  | some v => !s.regionPlaced (if r.valid then r.owner.toNat else (FmtRange.ofBits v).owner.toNat)

def extentsMeet (a n b m : Nat) : Bool := decide (a < b + m) && decide (b < a + n)

/-- R321: may the value apply as register `key` of a controller? -/
def State.formatFits (s : State) (die key : Nat) (r : FmtRange) : Bool :=
  let ctl := some (die, key / 8)
  let inside (a n : Nat) : Bool := n == 0 || (controllerOf (s.place a) == ctl && controllerOf (s.place (a + n - 1)) == ctl)
  let ext (r : FmtRange) : List (Nat × Nat) := [(r.src.toNat, 136 * r.count.toNat), (r.win.toNat, 512 * r.count.toNat)]
  let others := ((List.range 8).filter (· ≠ key % 8)).map fun j => (s.die die).fmts.get {} (key / 8 * 8 + j)
  (ext r).all (fun x => inside x.1 x.2)
    && !extentsMeet r.src.toNat (136 * r.count.toNat) r.win.toNat (512 * r.count.toNat)
    && others.all fun o => !o.valid || (ext o).all fun y => (ext r).all fun x => !extentsMeet x.1 x.2 y.1 y.2

/-- R321: the pending value applies, or is refused. (Log entry 12: DESIGN CHOICE, unsafe.) -/
def execFormatRangeApply (die ctl reg : Nat) (s : State) : Host.Outcome State Fault Refusal :=
  let key := ctl * 8 + reg
  let old := (s.die die).fmts.get {} key
  let put (r : FmtRange) : State := s.modDie die fun d => { d with fmts := d.fmts.put {} key r }
  .next <| match old.pend with
  | none => s
  | some v =>
    let new := FmtRange.ofBits v
    if !old.ready s then s
    else if !new.valid || s.formatFits die key new then put { new with stage := old.stage }
    else put { old with pend := none, bad := true }

end Sys2Proof.Machine
end

