-- ==== Sys2Proof/Machine/Fetch.lean ====
section
/-!
DEFINITION. The arbiter (R19), the fetch and its checks (R53, R54), and the turn of the clock.
-/

namespace Sys2Proof.Machine

/-- R18, R19: may a slot issue now? -/
def State.eligible (s : State) (core n : Nat) : Bool :=
  let c := s.core core
  let x := c.slot n
  x.st == .ready && decide (x.elig ≤ s.now) && decide (n < slotCount c.part) && !c.stopped
    && !(c.quar && c.kind == .program) && c.kind != .withheld

/-- R19: the slot that the arbiter of a core serves. -/
def State.arbiter (s : State) (core : Nat) : Option Nat :=
  ((List.range 16).map fun k => ((s.core core).lastServed + 1 + k) % 16).find? (s.eligible core)

/-- The next core of this cycle with an eligible slot, and the slot. -/
def State.nextIssue (s : State) : Option Tid :=
  (s.cores.filter fun x => decide (s.scan ≤ x.1)).findSome? fun x => (s.arbiter x.1).map fun n => ⟨x.1, n⟩

/-- What a fetch finds. -/
inductive Fetched where
  | trap
  | bad (f : Flt)
  | word (i : Instr)

/-- The n bytes at an address of local memory, as a fetch of this cycle sees them. -/
def State.fetchWord (s : State) (core a : Nat) : Nat → Nat
  | 0 => 0
  | n + 1 => (s.fetchByte core a).toNat + 256 * s.fetchWord core (a + 1) n

def lengthOf (b : Nat) : Option Nat :=
  match b % 4 with
  | 0 => some 8
  | 1 => some 12
  | 2 => some 16
  | _ => none

/-- R371: the opcodes of reduced service. -/
def reducedOpcode (op : Nat) : Bool :=
  decide (op ≤ 0x37) || (decide (0x40 ≤ op) && decide (op ≤ 0x43)) || (decide (0x60 ≤ op) && decide (op ≤ 0x87))
    || (decide (0xF0 ≤ op) && decide (op ≤ 0xF9))

/-- R53, R62: the fetch of the thread at its pc. -/
def State.fetch (s : State) (t : Tid) : Fetched :=
  let c := s.core t.core
  let pc := (s.ctx t).pc.toNat
  let exb := c.exb.toNat
  let first := if pc < exb then lengthOf (s.fetchByte t.core pc).toNat else none
  let n := first.getD 8
  if exb ≤ pc ∨ exb ≤ pc + n - 1 then .trap
  else if first.isNone then .bad { code := 1 }
  else if 32 < pc % 32 + n then .bad { code := 2 }
  else if errIn s.localErrs (localErrBase t.core) pc n = .uncorrectable then .bad { code := 9, addr := BitVec.ofNat 64 pc }
  else
    let w := s.fetchWord t.core pc n
    match decode (BitVec.ofNat 128 w) with
    | none => .bad { code := 1 }
    | some i =>
      if s.heldBack t.core && w % 128 / 4 ≠ 31 && !reducedOpcode (w / 128 % 256) then .bad { code := 1 } else .word i

/-- R195, R335: a fetch corrects what it consumes: the word at the pc. -/
def State.fixFetch (s : State) (t : Tid) : State :=
  let pc := (s.ctx t).pc.toNat
  if (s.core t.core).exb.toNat ≤ pc then s
  else match lengthOf (s.fetchByte t.core pc).toNat with
    | some n => if 32 < pc % 32 + n then s else fixLocal s t.core pc n
    | none => s

/-- A turn whose fetch or decode faults: it is an issue like any other (R168). (Log entry 11: DEDUCED, unsafe.) -/
def State.faultTurn (s : State) (f : Flt) : State :=
  let s := s.beginIssue
  let (fails, s) := s.verdict
  if fails then s.replay s.cur else s.raiseLater s.cur f

def waitingSlots (c : Core) : Nat :=
  (c.slots.filter fun x => match x.2.st with
    | .waiting _ => true
    | _ => false).length

/-- R265: every occupied slot of the team is waiting or frozen. -/
def Core.stalledNow (c : Core) : Bool :=
  c.team.isSome && c.slots.any (fun x => x.2.st != .empty) && c.slots.all (fun x => x.2.st != .ready)

/-- The end of a cycle: the counters of R335, R265 and R361 that every cycle moves. (Log entry 11: DEDUCED, unsafe.) -/
def Core.endCycle (c : Core) (now : Nat) : Core :=
  let w := waitingSlots c
  { c with
    perf := c.perf.put 0 9 (c.perf.get 0 9 + BitVec.ofNat 64 w)
    stall := if c.issueAt = now + 1 || !c.stalledNow then 0 else c.stall + 1
    busyAt := if c.quietNow then c.busyAt else now + 1 }

/-- Every clock of the package in MHz, 600 to 1200 in steps of 50 (R369), divides this number. -/
def clockUnits : Nat := 267711444000

/-- R5: device time counts microseconds of the reference oscillator; a core cycle is 1 / mhz of one, whatever the clock
was before it. In P3 the core
clock stands still (R368) and a step is a microsecond (log entry 13: DESIGN CHOICE, unsafe). -/
def State.turn (s : State) : State :=
  if s.power.state = 3 then { s with usec := s.usec + 1 }
  else
    let p := s.usecPhase + clockUnits / s.power.mhz
    { s with
      cores := s.cores.map fun x => (x.1, x.2.endCycle s.now)
      now := s.now + 1, scan := 0
      usec := s.usec + p / clockUnits
      usecPhase := p % clockUnits }

end Sys2Proof.Machine
end

