-- ==== Sys2Proof/Machine/Sha3.lean ====
section
/-!
DEFINITION. SHA3-256 and SHA3-512 over bytes, which R220, R374 and R375 name (log entry 6: DESIGN CHOICE, safe). A state is its 25 lanes, lane
(x, y) at 5y + x.
-/

namespace Sys2Proof.Sha3

def rounds : List W64 :=
  [0x1, 0x8082, 0x800000000000808A, 0x8000000080008000, 0x808B, 0x80000001, 0x8000000080008081, 0x8000000000008009,
   0x8A, 0x88, 0x80008009, 0x8000000A, 0x8000808B, 0x800000000000008B, 0x8000000000008089, 0x8000000000008003,
   0x8000000000008002, 0x8000000000000080, 0x800A, 0x800000008000000A, 0x8000000080008081, 0x8000000000008080, 0x80000001,
   0x8000000080008008]

def offsets : List Nat :=
  [0, 1, 62, 28, 27, 36, 44, 6, 55, 20, 3, 10, 43, 25, 39, 41, 45, 15, 21, 8, 18, 2, 61, 56, 14]

def lane (a : List W64) (x y : Nat) : W64 := a.getD (5 * (y % 5) + x % 5) 0

def round (a : List W64) (rc : W64) : List W64 :=
  let c := (List.range 5).map fun x => lane a x 0 ^^^ lane a x 1 ^^^ lane a x 2 ^^^ lane a x 3 ^^^ lane a x 4
  let d := (List.range 5).map fun x => c.getD ((x + 4) % 5) 0 ^^^ (c.getD ((x + 1) % 5) 0).rotateLeft 1
  let a := (List.range 25).map fun i => a.getD i 0 ^^^ d.getD (i % 5) 0
  let b := (List.range 25).map fun i =>
    let x := (i % 5 + 3 * (i / 5)) % 5
    (lane a x (i % 5)).rotateLeft (offsets.getD (5 * (i % 5) + x) 0)
  (List.range 25).map fun i =>
    let v := b.getD i 0 ^^^ (~~~(lane b (i + 1) (i / 5)) &&& lane b (i + 2) (i / 5))
    if i = 0 then v ^^^ rc else v

def permute (a : List W64) : List W64 := rounds.foldl round a

/-- Eight bytes from byte i on, as a lane. -/
def laneOf (l : List Nat) (i : Nat) : W64 :=
  BitVec.ofNat 64 ((List.range 8).foldr (fun j n => l.getD (8 * i + j) 0 % 256 + 256 * n) 0)

def absorb (rate : Nat) : Nat → List Nat → List W64 → List W64
  | 0, _, a => a
  | n + 1, l, a =>
    absorb rate n (l.drop rate) (permute ((List.range 25).map fun i =>
      if i < rate / 8 then a.getD i 0 ^^^ laneOf (l.take rate) i else a.getD i 0))

def pad (rate : Nat) (l : List Nat) : List Nat :=
  let k := rate - l.length % rate
  if k = 1 then l ++ [0x86] else l ++ [6] ++ List.replicate (k - 2) 0 ++ [0x80]

/-- The digest of n bytes of a list of bytes, as bytes. -/
def digest (n : Nat) (l : List Nat) : List Nat :=
  let rate := 200 - 2 * n
  let m := pad rate l
  let a := absorb rate (m.length / rate) m (List.replicate 25 0)
  (List.range n).map fun j => (a.getD (j / 8) 0).toNat / 256 ^ (j % 8) % 256

def sha256 (l : List Nat) : List Nat := digest 32 l
def sha512 (l : List Nat) : List Nat := digest 64 l

end Sys2Proof.Sha3
end

