-- ==== Sys2Proof/Machine/Events.lean ====
section
/-!
DEFINITION. Packets (R348, R366), the supervisor's actions (R349, R351), mismatches of pairs and of dual-die teams (R219,
R220, R354 to R356), and errors (R195, R357, R358).
-/

namespace Sys2Proof.Machine

/-! Packets. -/

/-- R348: the ring of a supervisor core: where the next packet goes, when it may. -/
def State.ringSlot (s : State) (core : Nat) : Option Nat :=
  let c := s.core core
  let a := 64 * c.fbase.toNat + 64 * (c.ftail.toNat % 2 ^ c.flogn.toNat)
  if c.fen && allEmpty c.empty a 64 then some a else none

def State.ringWrite (s : State) (core a : Nat) (bits : BitVec 512) : State :=
  let s := (s.wake core).localWrite core a 64 bits.toNat
  let s := { s with localErrs := clearErrs s.localErrs (localErrBase core) a 64 }
  (s.modCore core fun c => { c with ftail := c.ftail + 1 }).setLocalFull core a 64 true

/-- R366: a packet of a thread of a firmware core goes to the host's event queue. (Log entry 5: DESIGN CHOICE, unsafe.) -/
def State.toHost (s : State) (core : Nat) (p : Packet) : Bool := (s.core core).kind == .firmware && p.slot.isSome

def State.hostQueueOpen (s : State) : Bool := s.pkg.en && decide ((s.pkg.tail - s.pkg.head).toNat < 2 ^ s.pkg.logn.toNat)

/-- May a packet be delivered now? -/
def State.deliverable (s : State) (core : Nat) (p : Packet) : Bool :=
  decide (p.due ≤ s.now) && !s.toHost core p
    && (p.dest.toNat / 2048 % 256 != s.pkg.pkgid.toNat || (s.ringSlot (p.dest.toNat % 2048)).isSome)

/-- The first packet of a core that may be delivered, and none before it in its ring's order waits (R348). -/
def State.nextPacket (s : State) (core : Nat) : List Packet → List W64 → Option Packet
  | [], _ => none
  | p :: l, held =>
    let d := p.dest &&& 0x7FFFF
    if s.toHost core p then s.nextPacket core l held
    else if !held.contains d && s.deliverable core p then some p
    else s.nextPacket core l (d :: held)

def execPacketDelivery (core : Nat) (s : State) : Host.Outcome State Fault Refusal :=
  .next <| match s.nextPacket core (s.core core).pkts [] with
  | none => s
  | some p =>
    let s := s.modCore core fun c => { c with pkts := c.pkts.erase p }
    if p.dest.toNat / 2048 % 256 ≠ s.pkg.pkgid.toNat then
      s.toPeer (p.dest.toNat / 2048 % 256) 0 (.act (.packet p.bits p.dest))
    else match s.ringSlot (p.dest.toNat % 2048) with
      | some a => s.ringWrite (p.dest.toNat % 2048) a p.bits
      | none => s

/-- A peer's packet arrives; it waits while the ring cannot take it. -/
def State.peerPacket (s : State) (bits : BitVec 512) (dest : W64) : State :=
  match s.ringSlot (dest.toNat % 2048) with
  | some a => s.ringWrite (dest.toNat % 2048) a bits
  | none => s.actAt (s.now + 1) (.packet bits dest)

def execEventQueueWrite (core : Nat) (s : State) : Host.Outcome State Fault Refusal :=
  .next <| match (s.core core).pkts.find? (fun p => s.toHost core p && decide (p.due ≤ s.now)) with
  | none => s
  | some p =>
    if !s.hostQueueOpen then s
    else
      let s := s.modCore core fun c => { c with pkts := c.pkts.erase p }
      let a := s.pkg.evqbase.toNat + 64 * (s.pkg.tail.toNat % 2 ^ s.pkg.logn.toNat)
      { s with
        hostMem := poke s.hostMem a 64 p.bits.toNat
        pkg := { s.pkg with tail := s.pkg.tail + 1, irqs := if s.pkg.irq then s.pkg.irqs + 1 else s.pkg.irqs } }

/-- R365: a host write of EVQCTL. -/
def execEvqctlWrite (val : W64) (s : State) : Host.Outcome State Fault Refusal :=
  let p := s.pkg
  let head := BitVec.ofNat 16 (bits val 32 16)
  let en := val.getLsbD 0
  .next { s with pkg := { p with
    head := head, irq := val.getLsbD 1, en := en, tail := if en then p.tail else head
    logn := if p.en then p.logn else BitVec.ofNat 4 (clamp 6 14 (bits val 2 4)) } }

/-! The supervisor's actions (R349). -/

def Slot.busy (x : Slot) : Bool := x.killing.isSome || x.unwinding.isSome

def State.actError (s : State) (t : Tid) : State := s.modSlot t fun x => { x with acterr := true }

def execSupervisorResume (t : Tid) (s : State) : Host.Outcome State Fault Refusal :=
  let x := s.slot t
  .next <| if x.st ≠ .frozen then s.actError t
    else
      let s := (s.loadContext t.core t.slot).setSt t .ready
      let s := if x.code = 21 ∧ (x.sub = 1 ∨ x.sub = 2) then s.modSlot t fun x => { x with skipWatch := true } else s
      s.unstall t

/-- R349: a kill begins: its commands stop, and its arrivals at rendezvous points are taken back. -/
def State.stopThread (s : State) (t : Tid) : State := (s.stopCommands t).rdvKill t

def State.startKill (s : State) (t : Tid) (code : BitVec 6) : State :=
  (s.modSlot t fun x => { x with st := .waiting .quiet, killing := some code, unwinding := none, raising := none }).stopThread t

/-- R348: the slot's place is free for the packet of a fault, or of a kill that has begun. -/
def State.raiseAgain (s : State) (t : Tid) : State :=
  match (s.slot t).raising with
  | none => s
  | some f =>
    let s := s.modSlot t fun x => { x with raising := none }
    if (s.slot t).killing.isSome then s.sendThread t 1 f else s.raise t f

/-- Is the kill of a thread over but for its last effects? (log entry 45: DEDUCED, unsafe.) -/
def State.killReady (s : State) (t : Tid) : Bool :=
  (s.slot t).killing.isSome && (s.slot t).raising.isNone && s.quietThread t
    && ((s.core t.core).bank ++ (s.core t.core).loading).all fun (o : BankOp) => o.tid != t

def State.packetFault (x : Slot) : Flt :=
  { code := x.code, sub := x.sub, addr := x.spkt.extractLsb' 320 64, info := x.spkt.extractLsb' 384 64 }

/-- R293: the code that a kill passes on. -/
def killCode (f : Flt) : BitVec 6 := if f.code = 13 then f.info.truncate 6 else f.code

/-- Log entry 45: DEDUCED, unsafe. -/
def execSupervisorKill (t : Tid) (s : State) : Host.Outcome State Fault Refusal :=
  let x := s.slot t
  .next (if x.st ≠ .frozen then s.actError t else s.startKill t (killCode (State.packetFault x)))

def execSupervisorUnwind (t : Tid) (s : State) : Host.Outcome State Fault Refusal :=
  let x := s.slot t
  .next <| if x.st ≠ .frozen ∨ x.ctx.cdepth = 0 then s.actError t
    else s.modSlot t fun x => { x with
      st := .waiting .quiet, force := true, unwinding := some (State.packetFault x, s.now) }

/-- Log entry 45: DEDUCED, unsafe. -/
def execSupervisorStop (t : Tid) (s : State) : Host.Outcome State Fault Refusal :=
  .next <| match (s.slot t).st with
  | .ready | .waiting _ => s.modSlot t fun x => { x with stopping := true }
  | _ => s.actError t

/-- R349: may a stop take effect now, before the thread's next issue? A thread whose instruction would be tried again, as
one that waits for a counter, a queue or a granule, stops at once; one whose instruction has issued, once that is over
(R198). (Log entry 45: DEDUCED, unsafe.) -/
def Slot.stops (x : Slot) (now : Nat) : Bool :=
  match x.st with
  | .ready => decide (x.elig ≤ now)
  | .waiting (.counters _) | .waiting (.counter _ _) | .waiting (.change _) => true
  | _ => false

/-- The stop takes effect, and its packet goes out. (Log entry 45: DEDUCED, unsafe.) -/
def State.stopNow (s : State) (t : Tid) : State :=
  (s.sendThread t 8 { code := 0 }).freeze t

def execActerrClear (t : Tid) (s : State) : Host.Outcome State Fault Refusal :=
  .next (s.modSlot t fun x => { x with acterr := false })

/-- R351: a write of 64 FULL bits of the aperture's page. -/
def execAfullWrite (core off : Nat) (val : W64) (s : State) : Host.Outcome State Fault Refusal :=
  let n := (s.core core).lwin.toNat
  .next <| if 11 < n then s
    else (List.range 64).foldl (fun (s : State) j =>
      s.setLocalFull core (16 * (n * 2048 + (off - 0x2000) * 8 + j)) 16 (val.getLsbD j)) s

/-- R351: an access to a dword of the aperture. -/
def execApertureAccess (core off : Nat) (write : Option W64) (s : State) : Host.Outcome State Fault Refusal :=
  let n := (s.core core).lwin.toNat
  let a := 0x8000 * n + (off - 0x8000)
  .next <| if 11 < n then s
    else match write with
      | none => fixLocal s core a 8
      | some v => { s.localWrite core a 8 v.toNat with localErrs := clearErrs s.localErrs (localErrBase core) a 8 }

/-! Mismatches. -/

/-- R354: has the thread held an unmatched entry for 65 536 cycles? -/
def Slot.mismatchDue (x : Slot) (now : Nat) : Bool :=
  match x.cmp with
  | e :: _ => decide (e.cycle + 65536 ≤ now)
  | [] => false

/-- Log entry 46: DEDUCED, unsafe. -/
def execMismatchTimeout (t : Tid) (s : State) : Host.Outcome State Fault Refusal :=
  let x := s.slot t
  .next <| if !x.mismatchDue s.now then s
    else s.mismatch t 1 (if (s.ctx t).trail then 0 else (x.cmp.head?.map Cmp.addr).getD 0)

/-- R220: a team's signature. (Log entry 48: DEDUCED, unsafe.) -/
def Team.signature (t : Team) : List Nat :=
  Sha3.sha256 (t.digests.flatMap fun d => Sha3.sha256 (d.2.flatMap (·.2)))

def leWord (l : List Nat) : Nat := l.foldr (fun b n => b + 256 * n) 0

/-- Removes the directory lines of a team's shadow pages. -/
def State.dropShadow (s : State) (team : Nat) : State :=
  { s with clusters := s.clusters.map fun (i, c) =>
      (i, { c with slice := c.slice.filter fun x => x.1 / 2 ^ 46 ≠ team + 1 }) }

/-- R356: the packet of kind 7. (Log entry 10: DESIGN CHOICE, unsafe.) -/
def State.mismatchPacket (s : State) (no : Nat) (t : Team) (info : W64) : State :=
  let core := s.firmwareCore 0
  let bits := (s.eventPacket core 7 info 0).toNat + no * 2 ^ 240 + t.region.pasid.toNat * 2 ^ 174 + t.region.rcb % 2 ^ 46 * 2 ^ 128
  s.sendPacket core none (BitVec.ofNat 512 bits) t.region.supv

/-- R220, R356: both teams of a launch have completed; `team` is its first. -/
def execSignatureCompare (team : Nat) (s : State) : Host.Outcome State Fault Refusal :=
  .next <| match s.teams.get none team with
  | none => s
  | some a => match a.partner with
    | none => s
    | some p => match s.teams.get none p.toNat with
      | none => s
      | some b =>
        if a.second || !a.done || !b.done then s
        else
          let x := a.signature
          let y := b.signature
          let s := (s.dropShadow team).dropShadow p.toNat
          if x = y then
            let a' := { a with shadow := [], partner := none }
            let s := (s.setTeam team (some a')).setTeam p.toNat (some { b with shadow := [], partner := none })
            a.shadow.foldl (fun (s : State) (z : Nat × Option Byte) => match z.2 with
              | some v => s.physPut 0 z.1 v
              | none => s) s
          else
            let a' := { a with shadow := [], partner := none, cval := a.cval ^^^ BitVec.twoPow 64 63 }
            let s := (s.setTeam team (some a')).setTeam p.toNat (some { b with shadow := [], partner := none })
            s.mismatchPacket team a (BitVec.ofNat 64 (leWord (x.take 4) + 2 ^ 32 * leWord (y.take 4)))

/-! Errors. -/

/-- Log entry 47: DEDUCED, unsafe. -/
def markErr (e : Sparse Err) (key : Nat) (correctable : Bool) : Sparse Err :=
  if correctable then (if e.get .clean key = .clean then e.put .clean key .correctable else e) else e.put .clean key .uncorrectable

/-- R195: does the place carry an error-correcting code? -/
def Place.coded (p : Place) : Bool :=
  match p with
  | .hbm _ | .tier _ | .slate _ => true
  | _ => false

/-- R195: a soft error strikes the 64-bit unit of a place. The register cache only corrects (R335): R195 gives it no
uncorrectable error. (log entry 19: DEDUCED, unsafe.) -/
def execSoftError (place : ErrPlace) (correctable : Bool) (s : State) : Host.Outcome State Fault Refusal :=
  .next <| match place with
  | .local core a =>
    if core < 1152 ∧ a < 0x60000 then { s with localErrs := markErr s.localErrs (localErrBase core + a / 8) correctable } else s
  | .cstore cl a =>
    if cl < 144 ∧ a < 0x400000 then { s with storeErrs := markErr s.storeErrs (storeErrBase cl + a / 8) correctable } else s
  | .phys pa =>
    if (s.place pa).coded then
      { s with errs := markErr s.errs (s.mapped pa / 8) correctable, poison := s.poison.filter (· ≠ s.mapped pa / 8) } else s
  | .l1 core pa =>
    if core < 1152 && (s.core core).l1.any (·.tag == pa / 64) then
      { s with l1Errs := markErr s.l1Errs (l1ErrBase core + pa / 8) correctable } else s
  | .reg core slot line =>
    if core < 1152 && correctable then s.modCore core fun c => { c with
      rlines := c.rlines.map fun l => if l.is slot && l.idx == line then { l with err := true } else l } else s

/-- R357: the thread that runs a task, by its park reference. -/
def State.runner (s : State) (ref : BitVec 26) : Option Tid :=
  let core := (s.park ref).core.toNat
  (s.core core).slots.findSome? fun (x : Nat × Slot) => match x.2.task with
    | some k => if k.park = ref ∧ !k.forked ∧ !x.2.ctx.trail ∧ x.2.st ≠ .empty then some ⟨core, x.1⟩ else none
    | none => none

/-- A thread is killed with UE (2), whatever catches UE. -/
def State.killOwner (s : State) (t : Tid) : State :=
  let f : Flt := { code := 9, sub := 2 }
  if s.placeFree t then (s.sendThread t 1 f).startKill t 9
  else (s.startKill t 9).modSlot t fun x => { x with raising := some f }

/-- The future of a task that holds no slot becomes POISONED with FCODE 9. -/
def State.poisonTask (s : State) (t : Tid) (ref : BitVec 26) : State :=
  let p := s.park ref
  if hTag p.handle ≠ 10 then s
  else
    let (id, s) := s.newId
    let r : FReq :=
      { id := id, op := .kill 9, handle := p.handle, value := 0, carry := none, pc := 0, tid := t, bind := 0, park := ref, d := 0, e := 0
        tenant := (s.teamRegion p.team).tenant, issue := s.now }
    s.toTable t p.handle 0 (.act (.future (hCluster p.handle) r))

/-- R357: the kill of the owner of a dirty line reaches its core. (Log entry 47: DEDUCED, unsafe.) -/
def execOwnerKill (t : Tid) (bind : BitVec 12) (s : State) : Host.Outcome State Fault Refusal :=
  let v := s.physRead 0 (s.bindingAddr t bind) 32
  let ref : BitVec 26 := BitVec.ofNat 26 (v / 2 ^ 192)
  let x := s.slot t
  .next <|
    if v / 2 ^ 129 % 2 = 1 then s
    else if x.st ≠ .empty ∧ x.bind = bind then (if x.killing.isSome then s else s.killOwner t)
    else
      let p := s.park ref
      match p.pst.toNat with
      | 1 | 4 => match s.runner ref with
        | some u => if (s.slot u).killing.isSome then s else s.killOwner u
        | none => s
      | 2 => (s.poisonTask t ref).modPark ref fun (p : Park) => { p with pst := 5 }
      | 3 =>
        let cl := parkCluster ref
        let mine (r : Ready) : Bool := r.cl == cl && r.park == parkIdx ref
        let s : State := { s with clusters := s.clusters.map fun (x : Nat × Cluster) =>
          (x.1, { x.2 with ready := x.2.ready.filter fun r => !mine r }) }
        ((s.poisonTask t ref).uncharge (s.teamRegion p.team) 3 p.csb).dropPark cl (parkIdx ref)
      | _ => s

/-- Directory lines of a 64 KiB page. -/
def linePage (key : Nat) : Nat := key % 2 ^ 46 / 1024

/-- R357: a slice holds the accesses to a page, and writes its other dirty lines back. (Log entry 47: DEDUCED, unsafe.) -/
def execPageRetireRequest (cluster page : Nat) (s : State) : Host.Outcome State Fault Refusal :=
  let bad := (s.cluster cluster).slice.filter fun x => linePage x.1 == page && (match x.2 with
    | some l => l.dirty && s.freshErr (x.1 % 2 ^ 46 * 64) 64
    | none => false)
  let s := s.modCluster cluster fun c => { c with
    heldPages := if c.heldPages.contains page then c.heldPages else c.heldPages ++ [page]
    slice := c.slice.map fun (k, l) => (k, l.map fun (l : SLine) =>
      if linePage k = page ∧ !bad.any (fun x => x.1 == k) then { l with dirty := false } else l) }
  .next (bad.foldl (fun (s : State) x => s.actAt s.now (.dirtyLineUe x.1)) s)

/-- The slices that are home to a page's parts. -/
def State.pageHomes (s : State) (page : Nat) : List Nat := (List.range 16).map fun j => s.home (page * 65536 + j * 4096)

/-- R357: an uncorrectable error has been found in a dirty line. Its way is quarantined: the way's other dirty lines are
written back, those with an error by their own owner tags, and its lines leave the slice. (Log entry 9: DESIGN CHOICE, unsafe.) (log entry 47: DEDUCED, unsafe.) -/
def execDirtyLineUe (line : Nat) (s : State) : Host.Outcome State Fault Refusal :=
  let pa := line % 2 ^ 46 * 64
  let cl := s.home pa
  .next <| match (s.cluster cl).slice.get none line with
  | none => s
  | some l =>
    if !l.dirty then s
    else
      let t : Tid := ⟨l.ocore.toNat, l.oslot.toNat⟩
      let others := (s.cluster cl).slice.filterMap fun x => x.2.bind fun y => if x.1 = line ∨ y.way = l.way then some (x.1, y) else none
      let bad (x : Nat × SLine) : Bool := x.1 != line && x.2.dirty && s.freshErr (x.1 % 2 ^ 46 * 64) 64
      let found := (others.filter bad).map (·.1)
      let units := (List.range 8).map (s.mapped pa / 8 + ·)
      let s := { s with
        errs := units.foldl (fun e u => e.put .clean u .uncorrectable) s.errs, poison := s.poison.filter (fun u => !units.contains u) ++ units }
      let s := s.modCluster cl fun c => { c with badWays := if c.badWays.contains l.way then c.badWays else c.badWays ++ [l.way] }
      let s := others.foldl (fun (s : State) x => if found.contains x.1 then s.actAt s.now (.dirtyLineUe x.1) else s.evictSline cl x.1 x.2) s
      let s :=
        if l.opkg ≠ s.pkg.pkgid then s.toPeer l.opkg.toNat line (.act (.ownerKill t l.obind))
        else s.actAt (s.now + (if dieOf t.core = dieOfCluster cl then 60 else 80)) (.ownerKill t l.obind)
      let page := pa / 65536
      if (s.cluster cl).heldPages.contains page then s
      else ((s.pageHomes page).foldl (fun (s : State) h => s.actAt s.now (.pageRetireRequest h page)) s).actAt s.now (.sparePageCopy page)

/-- The accesses that a page's retirement has held go on. -/
def State.releasePage (s : State) (page : Nat) : State :=
  let mine (a : Acc) : Bool := a.pa / 65536 == page
  (s.pageHomes page).foldl (fun (s : State) h =>
    let l := (s.cluster h).pageWait.filter mine
    let s := s.modCluster h fun c => { c with heldPages := c.heldPages.filter (· ≠ page), pageWait := c.pageWait.filter fun a => !mine a }
    l.foldl (fun (s : State) a =>
      if a.kind = .st ∨ a.kind = .rstore ∨ a.kind = .walk true then s.sched s.now (Phase.perform a.tid) (.run (.storeRegistration a))
      else s.arriveAt s.now a.tid (.arrive a)) s) s

/-- R357: the page moves to a spare, or is retired without one; its held accesses go on, and the event is sent. (Log entry 47: DEDUCED, unsafe.) -/
def execSparePageCopy (page : Nat) (s : State) : Host.Outcome State Fault Refusal :=
  let src := s.mapped (page * 65536)
  let spare := s.pkg.spareAt.toNat
  let free : Bool := s.pkg.spares != 0
  let inside (x lo n : Nat) : Bool := decide (lo ≤ x) && decide (x < lo + n)
  let s := if !free then { s with retired := s.retired.put 0 page 1 }
    else
      let old := s.phys.filter fun x => !inside x.1 spare 65536
      let moved := s.phys.filter fun x => inside x.1 src 65536
      let errs := s.errs.filter fun x => !inside x.1 (spare / 8) 8192
      let bad := s.errs.filter fun x => inside x.1 (src / 8) 8192 && x.2 == .uncorrectable
      { s with
        phys := moved.foldl (fun m x => m.put 0 (x.1 - src + spare) x.2) old
        errs := bad.foldl (fun m x => m.put .clean (x.1 - src / 8 + spare / 8) x.2) errs
        poison := s.poison.filter (fun u => !inside u (spare / 8) 8192)
          ++ (s.poison.filter fun u => inside u (src / 8) 8192).map fun u => u - src / 8 + spare / 8
        retired := s.retired.put 0 page (2 + spare / 65536)
        pkg := { s.pkg with spares := s.pkg.spares - 1, spareAt := s.pkg.spareAt + 65536 } }
  let die := dieOfPlace (page * 65536) (s.place (page * 65536))
  .next ((s.releasePage page).sendEvent (s.firmwareCore die) 6 (BitVec.ofNat 64 free.toNat) (BitVec.ofNat 64 (page * 65536)))

end Sys2Proof.Machine
end

