-- ==== Sys2Proof/Machine/Teams.lean ====
section
/-!
DEFINITION. Teams: the pending list and placement (R250, R261, R263, R264, R309, R356), loading and the seeds (R195, R261),
completion (R220, R262), and the swap of a team (R265, R173).
-/

namespace Sys2Proof.Machine

/-! Memory that the Z4 itself reads and writes for the host and for its commands. -/

/-- R190: bytes that no context stores reach their memory; the line's home slice then holds it, clean. -/
def State.plainStore (s : State) (pa n v : Nat) : State :=
  let s := ((s.cleanSline 0 pa).1).mergeCorrect pa n
  ({ s with errs := clearErrs s.errs 0 (s.mapped pa) n }).physWrite 0 pa n v

/-- An 8-byte store of the Z4 or of the host at a physical address (R258, R262, R363, R364, R367): an ordinary store (R363),
whose line its home slice then holds. Where a dirty line meets an error first, the store follows (R357). (Log entry 49: DEDUCED, unsafe.) -/
def State.hostStore (s : State) (pa : Nat) (v : W64) : State :=
  if isDevice pa then s.devWrite true pa v
  else match s.place pa with
    | .none | .slate _ | .device => s
    | _ =>
      if s.isRetired pa then s
      else if s.badWriteBack 0 pa (fun _ => true) || s.badMerge 0 pa 8 then (s.dirtyUe 0 pa).actAt s.now (.hostWrite pa v)
      else s.plainStore pa 8 v.toNat

/-- An 8-byte load of the Z4 or of the host, ordinary too: its line enters the home slice, and what it consumes is
corrected. Where nothing can be read the value is free. (Log entry 7: DESIGN CHOICE, safe.) -/
def State.hostLoad (s : State) (pa : Nat) : W64 × State :=
  let free (s : State) : W64 × State :=
    let (n, s) := s.newId
    ((Config.freeValue n).truncate 64, s)
  if isDevice pa then (s.devRead pa, s.wakeWindow pa)
  else match s.place pa with
    | .none | .slate _ | .device => free s
    | _ =>
      if s.isRetired pa then free s
      else if s.errAt pa 8 = .uncorrectable then free (s.dirtyUe 0 pa)
      else
        let s := (s.fillSline 0 pa).correct pa 8
        (BitVec.ofNat 64 (s.loadBytes 0 pa 8), s)

/-- R363: where an address that the host gives leads: itself, a physical address; from 2^60 on, an offset of BAR0; from 2^61
on, one of BAR2, whose window starts at HWIN. (log entry 62: DESIGN CHOICE, unsafe.) -/
def State.barAddr (s : State) (a : Nat) : Nat :=
  if 2 ^ 61 ≤ a then s.pkg.hwin.toNat * 2 ^ 32 + a % 2 ^ 32 else if 2 ^ 60 ≤ a then devBase + a % 2 ^ 40 else a

/-- R363: a load of the host. The table gives it no step: what it reads goes to the host, and the state is what it leaves. -/
def State.barLoad (s : State) (a : Nat) : W64 × State := s.hostLoad (s.barAddr a / 8 * 8)

/-- Where a walk of the Z4 for a region reads, slate included (R192). -/
def State.walkPlace (s : State) (r : Region) (va n : Nat) : Option Nat :=
  match s.readPlace r.pasid r.tenant r.privb va n with
  | .ok pa => some pa
  | .error _ => (s.virt r.pasid va).filter fun pa => isSlate (s.place pa) && s.errAt pa n != .uncorrectable

/-- n bytes of a region's virtual memory from va on, in pieces that no 64-byte line crosses, as tile walks read them; what
cannot be read is free. (Log entry 7: DESIGN CHOICE, safe.) -/
def State.virtBytes (s : State) (r : Region) : Nat → Nat → Nat → Nat × State
  | 0, _, _ => (0, s)
  | fuel + 1, va, n =>
    if n = 0 then (0, s)
    else
      let k := Min.min n (64 - va % 64)
      let (v, s) : Nat × State := match s.walkPlace r va k with
        | some pa => (s.loadBytes 0 pa k, s.correct pa k)
        | none =>
          let (i, s) := s.newId
          ((Config.freeValue i).toNat % 2 ^ (8 * k), s)
      let (w, s) := State.virtBytes s r fuel (va + k) (n - k)
      (v + 2 ^ (8 * k) * w, s)

/-! Placement. -/

def Team.paired (t : Team) : Bool := t.region.rmode == 1
def Team.width (t : Team) : Nat := if t.region.rmode = 0 then 1 else 2

/-- R263: the order of the pending list. -/
def Team.before (a b : Team) : Bool :=
  decide (b.region.prio.toNat < a.region.prio.toNat) || (a.region.prio == b.region.prio && (decide (a.entered < b.entered)
    || (a.entered == b.entered && (decide (a.queue < b.queue) || (a.queue == b.queue && decide (a.index ≤ b.index))))))

def insertTeam (x : Nat × Team) : List (Nat × Team) → List (Nat × Team)
  | [] => [x]
  | y :: l => if y.2.before x.2 then y :: insertTeam x l else x :: y :: l

def TeamState.waits (t : TeamState) : Bool := t == .pending || t == .swapped

/-- The pending launches; a dual-die launch stands once, as its first team. -/
def State.pendingTeams (s : State) : List (Nat × Team) :=
  s.teams.foldr (fun x l => match x.2 with
    | some t => if t.st.waits && !(t.second && t.st == .pending) && !t.reset then insertTeam (x.1, t) l else l
    | none => l) []

/-- R261: is a core eligible for a team? -/
def State.coreFits (s : State) (t : Team) (core : Nat) : Bool :=
  let c := s.core core
  c.kind == .program && !c.quar && c.team.isNone && c.part == t.part && decide (t.quota ≤ (if t.paired then 8 else slotCount c.part))
    && c.qregs.isEmpty && c.battens.all (·.2.idle) && c.slots.all (fun x => x.2.st == .empty) && !s.boot.outDies.contains (dieOf core)

/-- The eligible cores of a team's sub-mesh, in ascending order. A new team needs a park entry for each context (R272). (Log entry 51: DEDUCED, unsafe.) -/
def State.coresFor (s : State) (t : Team) : List Nat :=
  let m := s.meshOf t.region.tenant.toNat
  if !m.formed then []
  else (List.range 144).flatMap fun cl =>
    if !m.holds cl then []
    else
      let l := ((List.range 8).map fun j => 8 * cl + j).filter (s.coreFits t)
      if t.held.isEmpty then l.take ((s.cluster cl).freeParks / Max.max 1 t.quota) else l

def Mesh.meets (a b : Mesh) : Bool :=
  decide (a.row0 < b.row0 + b.rows) && decide (b.row0 < a.row0 + a.rows) && decide (a.col0 < b.col0 + b.cols)
    && decide (b.col0 < a.col0 + a.cols)

/-- R310: the sub-meshes of tenants with a team placed are disjoint. (Log entry 51: DEDUCED, unsafe.) -/
def State.meshClash (s : State) (tenant : Nat) : Bool :=
  let m := s.meshOf tenant
  s.teams.any fun x => match x.2 with
    | some u => u.st.placed' && u.region.tenant.toNat != tenant && m.meets (s.meshOf u.region.tenant.toNat)
    | none => false

/-- R332: the regions of a team that have no entry of the budget table yet. -/
def State.newBudgets (s : State) (r : Region) : List Nat :=
  ((r.limits.map fun x => x.2.1).eraseDups).filter fun rcb => (s.budget rcb).isNone

def State.freeBudgets (s : State) : Nat := 4096 - (s.budgets.filter fun x => x.2.valid).length

/-- Thread slots that a placement of a team takes. -/
def Team.threads (t : Team) : Nat :=
  if t.held.isEmpty then t.n * t.quota * t.width
  else t.held.foldl (fun n c => n + (c.slots.filter fun x => x.2.st != .empty).length) 0

/-- R264: does drain mode hold the team back? -/
def State.drained (s : State) (no : Nat) (t : Team) : Bool :=
  match (s.meshOf t.region.tenant.toNat).drain with
  | some g => g.toNat != no && (match s.team g with
      | some x => decide (t.region.prio.toNat ≤ x.region.prio.toNat)
      | none => false)
  | none => false

/-- R261, R356: the cores that a launch takes, if it fits: of its team, or of both teams of a dual-die launch. (Log entry 51: DEDUCED, unsafe.) -/
def State.fits (s : State) (t : Team) : Option (List Nat × List Nat) :=
  let l := s.coresFor t
  if s.meshClash t.region.tenant.toNat || !s.admits t.region 0 t.threads || decide (s.freeBudgets < (s.newBudgets t.region).length) then none
  else if t.partner.isNone || t.st != .pending then (if t.n ≤ l.length then some (l.take t.n, []) else none)
  else
    let dies := ((List.range 4).map fun d => (l.filter fun c => dieOf c == d).take t.n).filter fun x => x.length == t.n
    match dies with
    | a :: b :: _ => some (a, b)
    | _ => none

/-- The launch as it would be placed now: with its region's fields as memory holds them (R309). -/
def State.asPlaced (s : State) (t : Team) : Team := { t with region := s.readRegion (t.region.rcb * 64) }

/-- May a launch of the pending list be placed now? -/
def State.placeable (s : State) (x : Nat × Team) : Bool :=
  let t := s.asPlaced x.2
  !s.suspended && s.power.state != 3 && !s.drained x.1 t && (s.fits t).isSome

def State.placeNext (s : State) : Option Nat := (s.pendingTeams.find? s.placeable).map (·.1)

/-- R309: the physical extents of constant ranges, from va on, at most k of them. -/
def State.extentsFrom (s : State) (pasid : BitVec 20) : Nat → Nat → Nat → Nat → List (Nat × Nat)
  | 0, _, _, _ => []
  | fuel + 1, k, va, last =>
    if k = 0 ∨ last ≤ va then []
    else match rootOf s pasid with
      | none => []
      | some (root, _) => match walkFrom s va 4 root with
        | .fault _ => State.extentsFrom s pasid fuel k ((va / 65536 + 1) * 65536) last
        | .leaf level e =>
          let stop := Min.min last ((va / 2 ^ levelShift level + 1) * 2 ^ levelShift level)
          (leafAddr level e va, stop - va) :: State.extentsFrom s pasid fuel (k - 1) stop last

def State.extents (s : State) (r : Region) : List (Nat × Nat) :=
  (r.consts.foldl (fun l x => l ++ s.extentsFrom r.pasid 65536 (16 - l.length) x.1 (x.1 + x.2)) []).take 16

/-- R332: entries of the budget table for a team's regions, the lowest free ones. -/
def State.assignBudgets (s : State) (r : Region) : State :=
  (s.newBudgets r).foldl (fun s rcb =>
    match (List.range 4096).find? fun i => !(s.budgets.get {} i).valid with
    | some i =>
      let mine (m : Mesh) : Bool := m.rcb != 0 && m.rcb / 64 == rcb
      let n := ((s.meshes.find? fun x => mine x.2).map fun x => x.2.slots).getD 0
      { s with budgets := s.budgets.put {} i { rcb := BitVec.ofNat 46 rcb, valid := true, netslot := BitVec.ofNat 16 n } }
    | none => s) s

/-- R195: the clearing before a team of another tenant. -/
def State.clearFor (s : State) (tenant : BitVec 6) (core : Nat) : State :=
  let other (l : Option (BitVec 6)) : Bool := match l with
    | some x => x != tenant
    | none => false
  let drop (e : Sparse Err) (base n : Nat) : Sparse Err := e.filter fun x => !(decide (base ≤ x.1) && decide (x.1 < base + n))
  let cl := clusterOf core
  let s := if !other (s.core core).lastTenant then s
    else { s.modCore core fun c => { c with mem := [], empty := [] } with localErrs := drop s.localErrs (localErrBase core) 49152 }
  let s := if !other (s.cluster cl).lastTenant then s
    else { s.modCluster cl fun c => { c with mem := [], empty := [] } with storeErrs := drop s.storeErrs (storeErrBase cl) 524288 }
  (s.modCore core fun c => { c with lastTenant := some tenant }).modCluster cl fun c => { c with lastTenant := some tenant }

/-- R27, R244: the cycles of a walk that brings n bytes from va on into local memory: the latency of the memory that holds
them, and one flit of 64 bytes per cycle. -/
def State.walkCycles (s : State) (r : Region) (core va n : Nat) : Nat :=
  let wait := match s.virt r.pasid va with
    | some pa => 2 * s.far core pa + (if isSlate (s.place pa) then 160 else 120 + (if (s.slineAt 0 pa).isSome then 0 else s.fillTime pa))
    | none => 120
  if n = 0 then 0 else wait + (n + 63) / 64

/-- R244, R261: the cycles that the loading of a core takes: its walks, one after the other. (log entry 14: DESIGN CHOICE, unsafe.) -/
def State.loadTime (s : State) (t : Team) (core v : Nat) : Nat :=
  if t.held.isEmpty then
    s.walkCycles t.region core (t.image.toNat + t.code.1) t.code.2 + s.walkCycles t.region core (t.image.toNat + t.data.1) t.data.2 + 1
  else s.walkCycles t.region core (t.region.swapbase.toNat + v * 0x100000) 0xC9098 + 1

/-- R272: a park entry for each context of a new team on a core. (Log entry 28: DEDUCED, unsafe.) -/
def State.takeParks (s : State) (no : Nat) (t : Team) (core : Nat) : State :=
  (List.range t.quota).foldl (fun s j => match (s.cluster (clusterOf core)).freePark with
    | some p => s.modParkAt (clusterOf core) p fun e => { e with
        team := BitVec.ofNat 16 no, core := BitVec.ofNat 11 core, slot := BitVec.ofNat 4 j, prio := t.region.prio, res := true }
    | none => s) s

/-- R255: the ready entries of a team move to the clusters where it now stands, dealt in ascending order. (Log entry 51: DEDUCED, unsafe.) -/
def State.dealReady (s : State) (no : Nat) (cores : List Nat) : State :=
  let mine (r : Ready) : Bool := r.team.toNat == no
  let all := s.clusters.foldl (fun l (x : Nat × Cluster) => x.2.ready.foldl (fun l r => if mine r then insertReady r l else l) l) []
  if all.isEmpty then s
  else
    let cls := (cores.map clusterOf).eraseDups
    let s : State := { s with clusters := s.clusters.map fun (x : Nat × Cluster) =>
      (x.1, { x.2 with ready := x.2.ready.filter fun r => !mine r }) }
    (all.foldl (fun (x : State × Nat) r => (x.1.addReady (cls.getD (x.2 % cls.length) 0) r, x.2 + 1)) (s, 0)).1

/-- A team takes its cores; their loading begins. (Log entry 51: DEDUCED, unsafe.) -/
def State.placeTeam (s : State) (no : Nat) (t : Team) (cores : List Nat) : State :=
  let s := s.setTeam no (some { t with st := .loading, cores := cores, seeded := 0, leaving := false })
  let ext := s.extents t.region
  let s := (cores.zip (List.range cores.length)).foldl (fun (s : State) (x : Nat × Nat) =>
    let s := s.clearFor t.region.tenant x.1
    let s := s.modCore x.1 fun c => { c with
      team := some (BitVec.ofNat 16 no), vcore := BitVec.ofNat 11 x.2, stopped := true, extents := ext, stall := 0 }
    let s := if t.held.isEmpty then s.takeParks no t x.1 else s
    (s.wake x.1).actAt (s.now + s.loadTime t x.1 x.2) (.seed no x.1)) s
  s.dealReady no cores

/-- R261, R263: a pending launch that fits is placed. -/
def execTeamPlacement (team : Nat) (s : State) : Host.Outcome State Fault Refusal :=
  .next <| match s.teams.get none team with
  | none => s
  | some t =>
    if !(t.st.waits && !(t.second && t.st == .pending) && !t.reset && s.placeable (team, t)) then s
    else
      let t := s.asPlaced t
      match s.fits t with
      | none => s
      | some (a, b) =>
        let s := s.assignBudgets t.region
        let s := s.modBudgets t.region 0 fun x => { x with thrRes := x.thrRes + t.threads }
        let m := s.meshOf t.region.tenant.toNat
        let s := if m.drain = some (BitVec.ofNat 16 team) then s.setMesh t.region.tenant.toNat { m with drain := none } else s
        let s := s.placeTeam team t a
        match (if t.st = .pending then t.partner else none) with
        | none => s
        | some p => match s.team p with
          | some u => s.placeTeam p.toNat { u with region := t.region } b
          | none => s

/-! Drain mode (R264). -/

def State.aged (s : State) (t : Team) : Bool := decide (s.usec - t.since > t.region.age)

/-- The gang that governs the sub-mesh of a tenant: the first of its pending launches past its limit. -/
def State.governs (s : State) (tenant : BitVec 6) : Option Nat :=
  (s.pendingTeams.find? fun x => x.2.region.tenant == tenant && s.aged x.2).map (·.1)

def State.drainDue (s : State) (x : Nat × Team) : Bool :=
  s.aged x.2 && s.governs x.2.region.tenant == some x.1
    && (s.meshOf x.2.region.tenant.toNat).drain != some (BitVec.ofNat 16 x.1)

def execPlacementAgeExpiry (team : Nat) (s : State) : Host.Outcome State Fault Refusal :=
  .next <| match s.pendingTeams.find? fun x => x.1 == team with
  | none => s
  | some x =>
    if !s.drainDue x then s
    else
      let m := s.meshOf x.2.region.tenant.toNat
      s.setMesh x.2.region.tenant.toNat { m with drain := some (BitVec.ofNat 16 team) }

/-! Loading and seeds. -/

/-- The seeds of a new team on a core (R154, R261). -/
def State.seedContexts (s : State) (no : Nat) (t : Team) (core : Nat) : State :=
  let cl := clusterOf core
  let v := (s.core core).vcore
  let priv := t.priv && t.region.privb
  (List.range t.quota).foldl (fun (s : State) j =>
    let tid : Tid := ⟨core, j⟩
    let mine (e : Park) : Bool := e.res && e.team.toNat == no && e.core.toNat == core && e.slot.toNat == j
    let p := ((s.cluster cl).parks.find? fun x => mine x.2).map (·.1)
    let seeds : List (Reg × W64) := [(1, v.zeroExtend 64), (2, BitVec.ofNat 64 j), (3, t.arg), (4, BitVec.ofNat 64 (t.n * t.quota))]
    let k : Task := { team := BitVec.ofNat 16 no, vcore := v, park := s.mkPark cl (p.getD 0), handle := 0, forked := false }
    let c (n : Nat) (trail : Bool) : Ctx := s.newCtx t.region core n t.seedPc priv trail seeds
    let s := s.bindSlot tid (c j false) k .fresh
    if t.paired then s.bindSlot ⟨core, j + 8⟩ (c (j + 8) true) k .fresh else s) s

/-- R159: the bits of OVH. -/
def ovhMask : W64 := 0x7FFFC

/-- R261: the sections of an image are written, every granule is full, and EXB and OVH are set. (Log entry 14: DESIGN CHOICE, unsafe.) -/
def State.loadImage (s : State) (t : Team) (core : Nat) : State :=
  let (code, s) := s.virtBytes t.region (t.code.2 / 64 + 2) (t.image.toNat + t.code.1) t.code.2
  let (data, s) := s.virtBytes t.region (t.data.2 / 64 + 2) (t.image.toNat + t.data.1) t.data.2
  let s := (s.localWrite core 0 t.code.2 code).localWrite core t.exb.toNat t.data.2 data
  let e := clearErrs (clearErrs s.localErrs (localErrBase core) 0 t.code.2) (localErrBase core) t.exb.toNat t.data.2
  { s with localErrs := e }.modCore core fun c => { c with empty := [], exb := t.exb, ovh := t.ovh &&& ovhMask, stopped := false }

/-! The swap record of a core (R265). -/

def qEntryBytes (q : Nat) : Nat := if q = 6 then 64 else if q = 7 then 2 else 8
def qBase (q : Nat) : Nat := if q = 6 then 0x60D80 else if q = 7 then 0x60E80 else 0x60C00 + 64 * q

/-- The 64 bytes of a core's record at an offset that is a multiple of 64. The entries of a queue register, a batten's and
the deque's stand oldest first, or by index where the batten has one: the rule gives no order. (Log entry 52: DESIGN CHOICE, unsafe.) -/
def Core.recordLine (c : Core) (off : Nat) : Nat :=
  if off < 0x60000 then peek c.mem off 64
  else if off < 0x60C00 then Num.pack 1 512 fun j => (!(c.empty.get false ((off - 0x60000) * 8 + j))).toNat
  else if off < 0x60EC0 then
    let q := if off < 0x60D80 then (off - 0x60C00) / 64 else if off < 0x60E80 then 6 else 7
    let w := qEntryBytes q
    let first := (off - qBase q) / w
    Num.pack (8 * w) (64 / w) fun j => (((c.qregs.get {} q).entries[first + j]?).map fun (e : QEntry) => e.val.toNat % 2 ^ (8 * w)).getD 0
  else if off < 0x60F00 then Num.pack 64 8 fun q => ((c.qregs.get {} q).word q).toNat
  else if off < 0x60F80 then Num.pack 64 8 fun j => ((c.battens.get {} ((off - 0x60F00) / 8 + j)).word).toNat
  else if off < 0x61000 then 0
  else if off < 0x97000 then
    let b := c.battens.get {} ((off - 0x61000) / 0x3600)
    let o := (off - 0x61000) % 0x3600
    if o < 0x3000 then (b.entry (o / 384)).bytes.toNat / 2 ^ (8 * (o % 384)) % 2 ^ 512
    else Num.pack 8 64 fun j => (b.entry ((o - 0x3000 + j) / 48)).marks.toNat / 2 ^ (8 * ((o - 0x3000 + j) % 48)) % 256
  else if off < 0xC7900 then ((c.purlins.get {} ((off - 0x97000) / 0xC240)).record ((off - 0x97000) % 0xC240) 64)
  else if off < 0xC8000 then 0
  else if off < 0xC9000 then ((c.deque[(off - 0xC8000) / 64]?).map fun (q : Queued) => q.record.toNat).getD 0
  else Num.pack 64 8 fun j =>
    let k := (off - 0xC9000) / 8 + j
    if k = 0 then c.part.toNat else if k = 1 then c.exb.toNat else if k = 2 then c.ovh.toNat
    else if k < 19 then (c.rdv.get {} (k - 3)).word.toNat else 0

def recordLines : Nat := 0xC90C0 / 64

/-- Writes a core's record. -/
def State.writeRecord (s : State) (r : Region) (v : Nat) (c : Core) : State :=
  (List.range recordLines).foldl (fun (s : State) k =>
    match s.virt r.pasid (r.swapbase.toNat + v * 0x100000 + 64 * k) with
    | some pa => match s.place pa with
      | .none | .device => s
      | .slate _ => s.physWrite 0 pa 64 (c.recordLine (64 * k))
      | _ => if s.isRetired pa then s else s.plainStore pa 64 (c.recordLine (64 * k))
    | none => s) s

/-- R224: a queue register as the word of its record says: how many entries stand, and whether they carry the team's tag. -/
def QReg.ofWord (r : QReg) (team : Option (BitVec 16)) (w : W64) : QReg :=
  { entries := r.entries.take (bits w 0 6), pres := 0, tag := if w.getLsbD 31 then team else none }

/-- R230: a batten as the word of its record says. The drain handle itself is in no record. -/
def Batten.ofWord (b : Batten) (w : W64) : Batten :=
  { b with
    pops := w.extractLsb' 48 16, head := w.extractLsb' 40 5, tail := w.extractLsb' 32 5, feed := w.getLsbD 30
    drain := if w.getLsbD 29 then b.drain else none, owned := w.getLsbD 28, owner := w.extractLsb' 24 4
    depth := w.extractLsb' 16 6, count := w.extractLsb' 0 6 }

/-- R248: a rendezvous point as its dword says. -/
def Point.ofWord (p : Point) (w : W64) : Point :=
  { p with busy := w.getLsbD 16, n := w.extractLsb' 8 8, arr := w.extractLsb' 0 8 }

/-- The bytes of a record enter what a swap has kept of its core. (log entry 52: DESIGN CHOICE, unsafe.) -/
def Core.loadLine (c : Core) (off v : Nat) : Core :=
  if off < 0x60000 then { c with mem := poke c.mem off 64 v }
  else if off < 0x60C00 then { c with
    empty := (List.range 512).foldl (fun e j => e.put false ((off - 0x60000) * 8 + j) (v / 2 ^ j % 2 == 0)) c.empty }
  else if off < 0x60EC0 then
    let q := if off < 0x60D80 then (off - 0x60C00) / 64 else if off < 0x60E80 then 6 else 7
    let w := qEntryBytes q
    let first := (off - qBase q) / w
    let r := c.qregs.get {} q
    let l : List QEntry := (List.range (qCap q)).map fun i =>
      if first ≤ i ∧ i < first + 64 / w then ⟨BitVec.ofNat 512 (v / 2 ^ (8 * w * (i - first)) % 2 ^ (8 * w)), none⟩
      else (r.entries[i]?).getD ⟨0, none⟩
    { c with qregs := c.qregs.put {} q { r with entries := l } }
  else if off < 0x60F00 then { c with
    qregs := (List.range 8).foldl (fun m q => m.put {} q ((m.get {} q).ofWord c.team (dword v q))) c.qregs }
  else if off < 0x60F80 then
    let j := (off - 0x60F00) / 8
    { c with battens := (List.range 8).foldl (fun m k => m.put {} (j + k) ((m.get {} (j + k)).ofWord (dword v k))) c.battens }
  else if off < 0x61000 then c
  else if off < 0x97000 then
    let j := (off - 0x61000) / 0x3600
    let b := c.battens.get {} j
    let o := (off - 0x61000) % 0x3600
    let put (b : Batten) (i : Nat) (f : BEntry → BEntry) : Batten := { b with entries := b.entries.put {} i (f (b.entry i)) }
    let b := if o < 0x3000 then put b (o / 384) fun e =>
        let sh := 2 ^ (8 * (o % 384))
        { e with bytes := BitVec.ofNat 3072 (e.bytes.toNat - e.bytes.toNat / sh % 2 ^ 512 * sh + v * sh) }
      else (List.range 64).foldl (fun b k => put b ((o - 0x3000 + k) / 48) fun e =>
        { e with marks := BitVec.ofNat 384 (setByte e.marks.toNat ((o - 0x3000 + k) % 48) (v / 256 ^ k % 256)) }) b
    { c with battens := c.battens.put {} j b }
  else if off < 0xC7900 then
    let n := (off - 0x97000) / 0xC240
    let p := c.purlins.get {} n
    let p' := p.load ((off - 0x97000) % 0xC240) 64 v
    { c with purlins := c.purlins.put {} n { p' with claimed := p.claimed, owner := p.owner } }
  else if off < 0xC8000 then c
  else if off < 0xC9000 then
    let i := (off - 0xC8000) / 64
    { c with deque := (c.deque.zip (List.range c.deque.length)).map fun (q, j) => if j = i then { q with record := BitVec.ofNat 512 v } else q }
  else
    let k := (off - 0xC9000) / 8
    let c := if k = 0 then { c with part := BitVec.ofNat 2 v, exb := dword v 1, ovh := dword v 2 &&& ovhMask } else c
    { c with rdv := (List.range 8).foldl (fun m j =>
        if 3 ≤ k + j ∧ k + j < 19 then m.put {} (k + j - 3) ((m.get {} (k + j - 3)).ofWord (dword v j)) else m) c.rdv }

/-- R265: a core's record is read back. -/
def State.readRecord (s : State) (r : Region) (v : Nat) (c : Core) : Core × State :=
  (List.range recordLines).foldl (fun (x : Core × State) k =>
    let (d, s) := x.2.virtBytes { r with privb := true } 2 (r.swapbase.toNat + v * 0x100000 + 64 * k) 64
    (x.1.loadLine (64 * k) d, s)) (c, s)

/-- The number that stands for a core of a swapped team in the waiters of cluster points. -/
def awayCore (no v : Nat) : Nat := 2048 * (no + 1) + v

/-- Arrivals at cluster points that await a swapped core move to the points of the core's new cluster. -/
def State.moveArrivals (s : State) (no v core : Nat) : State :=
  let away := awayCore no v
  s.clusters.foldl (fun (s : State) (x : Nat × Cluster) => x.2.rdv.foldl (fun (s : State) (y : Nat × Point) =>
    let l := y.2.waiters.filter fun w => w.core == away
    if l.isEmpty then s
    else
      let k := BitVec.ofNat 8 l.length
      let rest : Point := { y.2 with waiters := y.2.waiters.filter (fun w => w.core ≠ away), arr := y.2.arr - k }
      let s := s.modCluster x.1 fun c => { c with rdv := c.rdv.put {} y.1 (if rest.arr = 0 then {} else rest) }
      s.modCluster (clusterOf core) fun c =>
        let p := c.rdv.get {} y.1
        { c with rdv := c.rdv.put {} y.1 { p with
          busy := true, n := y.2.n, arr := p.arr + k, waiters := p.waiters ++ l.map fun w => ⟨core, w.slot⟩ } }) s) s

/-- R265: a core of a team that returns: its record is restored, its contexts are loaded from their images (R156, R160) and
bound to their slots again, and each acquires before its first issue (R213). (Log entry 14: DESIGN CHOICE, unsafe.) (log entry 52: DESIGN CHOICE, unsafe.) -/
def State.restoreCore (s : State) (no : Nat) (t : Team) (core : Nat) : State :=
  let v := (s.core core).vcore.toNat
  match t.held[v]? with
  | none => s
  | some old =>
    let (h, s) := s.readRecord t.region v old
    let s := { s with localErrs := s.localErrs.filter fun e => !(decide (localErrBase core ≤ e.1) && decide (e.1 < localErrBase core + 49152)) }
    let s := s.modCore core fun c => { c with
      mem := h.mem, empty := h.empty
      battens := (h.battens.filter fun b => !b.2.idle).foldl (fun m b => m.put {} b.1 b.2) c.battens
      qregs := h.qregs, purlins := h.purlins, deque := h.deque, rdv := h.rdv
      part := h.part, exb := h.exb, ovh := h.ovh, stopped := false }
    let s := old.slots.foldl (fun (s : State) (x : Nat × Slot) =>
      if x.2.st = .empty then s
      else
        let tid : Tid := ⟨core, x.1⟩
        let b := (s.slot tid).bind + 1
        let acterr := (s.slot tid).acterr
        let c := s.reload core t.region x.2.ctx.ctxb
        let s := s.modSlot tid fun y => { x.2 with
          ctx := c, acq := some none
          elig := y.elig, bind := b, acterr := acterr, touch := x.2.touch.map fun r => { r with tid := tid, bind := b } }
        let s := (s.unreserveThr t.region 1).charge t.region 0 1
        match x.2.task with
        | none => s
        | some k =>
          let s := if k.forked || x.2.ctx.trail then s else s.modPark k.park fun p =>
            { p with core := BitVec.ofNat 11 core, slot := BitVec.ofNat 4 x.1 }
          s.writeBinding tid k x.2.ctx false) s
    let fix (p : Point) : Point := { p with waiters := p.waiters.map fun w => ⟨core, w.slot⟩ }
    (s.moveArrivals no v core).modCore core fun c => { c with rdv := c.rdv.map fun x => (x.1, fix x.2), team := some (BitVec.ofNat 16 no) }

/-- R261, R265: the last load write of a core has been made. (Log entry 14: DESIGN CHOICE, unsafe.) -/
def execSeedBinding (team core : Nat) (s : State) : Host.Outcome State Fault Refusal :=
  .next <| match s.teams.get none team with
  | none => s
  | some t =>
    if t.st ≠ .loading ∨ !t.cores.contains core ∨ t.reset then s
    else if (s.core core).gate ≠ .powered then (s.wake core).actAt (s.now + 1) (.seed team core)
    else
      let s := if t.held.isEmpty then (s.loadImage t core).seedContexts team t core else s.restoreCore team t core
      match s.teams.get none team with
      | none => s
      | some u =>
        let n := u.seeded + 1
        let all := u.cores.length ≤ n
        s.setTeam team (some { u with seeded := n, st := if all then .placed else .loading, held := if all then [] else u.held })

/-! Leaving cores. -/

/-- R219: a core's L1 holds no shadow bytes of a dual-die team that has left it. -/
def Core.dropL1 (c : Core) (dual : Bool) : Core := if dual then { c with l1 := [], fills := [] } else c

/-- A core without its team: its slots, battens, queues, points and deque are empty, and its purlins are released. -/
def Core.vacated (c : Core) : Core :=
  { c with
    slots := c.slots.map fun (n, x) => (n, { elig := x.elig, bind := x.bind, acterr := x.acterr, code := x.code, sub := x.sub, spkt := x.spkt })
    qregs := [], battens := c.battens.filter (·.2.idle), purlins := [], rdv := [], deque := [], team := none, vcore := 0, stopped := false, extents := [], stall := 0 }

/-- The cores of a team that leaves, with its thread slots given back. -/
def State.vacate (s : State) (t : Team) : State :=
  let n := t.cores.foldl (fun n c => n + ((s.core c).slots.filter fun x => x.2.st != .empty).length) 0
  (t.cores.foldl (fun (s : State) c => s.modCore c fun c => c.vacated.dropL1 t.partner.isSome) s).uncharge t.region 0 n

/-! Completion (R262). -/

/-- Nothing of a team runs on its cores or is on its way from them. -/
def State.coresQuiet (s : State) (t : Team) : Bool :=
  t.cores.all fun k =>
    let c := s.core k
    c.slots.all (fun x => x.2.st == .empty && !x.2.reserved) && c.deque.isEmpty && c.dequeRes == 0 && c.dispatch.isNone
      && c.cmdqs.all (fun q => q.2.isEmpty) && c.outs.isEmpty && c.bank.isEmpty && c.loading.isEmpty

/-- Nothing of a team waits or is held in the package's tables and engines. -/
def State.tablesQuiet (s : State) (no : Nat) : Bool :=
  s.clusters.all fun (x : Nat × Cluster) =>
    let c := x.2
    c.ready.all (fun r => r.team.toNat != no) && c.parks.all (fun p => !p.2.used || p.2.team.toNat != no || p.2.pst == 5)
      && c.prefetch.all (fun p => p.task.team.toNat != no) && c.spawnHeld.all (fun r => r.1.team != no)
      && c.waits.all (fun w => !(w.2.state == 2 && w.2.team.toNat == no))
      && c.engines.all (fun r => r.cmd.team.toNat != no) && c.ridge.all (fun r => r.team.toNat != no)

def State.teamDone (s : State) (no : Nat) (t : Team) : Bool :=
  t.st == .placed && !t.leaving && !t.reset && !t.done && s.coresQuiet t && s.tablesQuiet no

/-- What a team leaves in the tables is given up: its ARMED entries, answered STALE, and its scoreboards. -/
def State.freeTables (s : State) (no : Nat) : State :=
  s.clusters.foldl (fun (s : State) (x : Nat × Cluster) =>
    let s := x.2.waits.foldl (fun (s : State) (w : Nat × WaitTask) =>
      if w.2.state = 1 ∧ w.2.team.toNat = no then
        let s := s.uncharge (s.regionByRcb w.2.rcb.toNat) 2 1
        (s.modWait x.1 w.1 fun e => { e with state := 0 }).answerWaits x.1 w.1 1
      else s) s
    s.modCluster x.1 fun c => { c with boards := c.boards.filter fun b => !(b.2.owned && b.2.team.toNat == no) }) s

/-- The cores of a team become free. -/
def State.freeCores (s : State) (no : Nat) (t : Team) : State :=
  t.cores.foldl (fun (s : State) k => s.modCore k fun c => { c.dropL1 t.partner.isSome with
    qregs := c.qregs.filter fun q => q.2.tag != some (BitVec.ofNat 16 no)
    battens := c.battens.filter (·.2.idle), team := none, vcore := 0, extents := [], stall := 0, stopped := false }) s

/-- A host command is over. -/
def State.dropCmd (s : State) (q idx : Nat) : State :=
  { s with hqRun := s.hqRun.filter fun c => !(c.queue == q && c.index == idx) }

/-- The launch of a team completes: CVAL is stored, and the team's number is free. The store is of the 8 bytes from CADDR on,
aligned or not: bits [2:0] are masked for SIGNAL and WAITMEM only (R258). (log entry 62: DESIGN CHOICE, unsafe.) -/
def State.launchDone (s : State) (no : Nat) : State :=
  match s.teams.get none no with
  | none => s
  | some t =>
    let s := if t.caddr = 0 then s else s.hostStore t.caddr.toNat t.cval
    (s.setTeam no none).dropCmd t.queue t.index

/-- R262: a team completes; a dual-die launch once both teams have, by its first (R220). -/
def execTeamCompletion (team : Nat) (s : State) : Host.Outcome State Fault Refusal :=
  match s.teams.get none team with
  | none => .next s
  | some t =>
    if !s.teamDone team t then .next s
    else
      let s := ((s.freeTables team).freeCores team t).setTeam team (some { t with done := true, cores := [] })
      match t.partner with
      | none => .next (s.launchDone team)
      | some p =>
        if !((s.team p).map Team.done).getD false then .next s
        else
          let a := if t.second then p.toNat else team
          let b := if t.second then team else p.toNat
          match execSignatureCompare a s with
          | .next s => .next ((s.launchDone a).setTeam b none)
          | x => x

/-- R332: entries of the budget table whose regions have no team and whose counts are zero are released; their RCB stays. -/
def State.dropBudgets (s : State) : State :=
  let used (rcb : Nat) : Bool := s.teams.any fun x => match x.2 with
    | some t => t.region.limits.any fun l => l.2.1 == rcb
    | none => false
  { s with budgets := s.budgets.map fun x =>
      if x.2.valid && !used x.2.rcb.toNat && x.2 == { rcb := x.2.rcb, valid := true } then (x.1, { x.2 with valid := false }) else x }

/-! Swapping (R265). -/

/-- Does a team of the region wait that would fit on this team's cores? -/
def State.wanted (s : State) (t : Team) : Bool :=
  let s' := s.vacate t
  s.pendingTeams.any fun x => x.2.region.rcb == t.region.rcb && s'.placeable x

/-- R173, R265, R350: does a team leave its cores now? (log entry 52: DESIGN CHOICE, unsafe.) -/
def State.swapDue (s : State) (t : Team) : Bool :=
  let live := t.st == .placed && !t.leaving && !t.reset && !t.done && !(t.cores.any fun k => (s.core k).slots.any fun x => x.2.st == .frozen)
  live && (t.cores.any (fun k => (s.core k).quar) || (t.cores.any (fun k => decide (65536 ≤ (s.core k).stall)) && s.wanted t))

/-- A thread that waits for a WAIT that its table holds (R340). -/
def State.heldWait (s : State) (t : Tid) : Bool := s.clusters.any fun c => c.2.waitHeld.any fun w => w.1 == t

/-- A thread that a rendezvous point holds. -/
def State.atPoint (s : State) (t : Tid) : Bool :=
  (s.core t.core).rdv.any (fun p => p.2.waiters.contains t)
    || (s.cluster (clusterOf t.core)).rdv.any fun p => p.2.waiters.contains t

/-- R244, R265: the cycle in which the walks end that write a team's records, each core's by its own engines. (log entry 52: DESIGN CHOICE, unsafe.) -/
def State.recordsEnd (s : State) (t : Team) (r : Region) : Nat :=
  s.now + 1 + (t.cores.map fun k => s.walkCycles r k (r.swapbase.toNat + (s.core k).vcore.toNat * 0x100000) 0xC9098).foldl max 0

/-- Is nothing of a leaving team in flight (R198, R243), the walks of its records among it? (log entry 52: DESIGN CHOICE, unsafe.) -/
def State.swapReady (s : State) (t : Team) : Bool :=
  t.leaving && t.writes.all (fun n => decide (n ≤ s.now)) && t.cores.all fun k =>
    let c := s.core k
    c.outs.isEmpty && c.bank.isEmpty && c.loading.isEmpty && c.reads.isEmpty && c.dispatch.isNone && c.cmdqs.all (fun q => q.2.isEmpty)
      && decide (c.issueAt + 8 ≤ s.now) && c.slots.all fun x =>
        x.2.cmp.isEmpty && x.2.killing.isNone && x.2.unwinding.isNone && x.2.raising.isNone && !x.2.reserved
          && (List.range 4).all (fun j => x.2.ctx.wc.get 0 j == 0) && (match x.2.st with
          | .frozen => false
          | .waiting (.event _) => s.heldWait ⟨k, x.1⟩
          | .waiting .rendezvous => s.atPoint (if x.2.ctx.trail then leadOf ⟨k, x.1⟩ else ⟨k, x.1⟩)
          | _ => true)

/-- A WAIT that a table holds is taken back: it issues again when its team returns. -/
def State.recallWaits (s : State) (core : Nat) : State :=
  let s : State := { s with clusters := s.clusters.map fun (x : Nat × Cluster) =>
    (x.1, { x.2 with waitHeld := x.2.waitHeld.filter fun w => w.1.core ≠ core }) }
  s.modCore core fun c => { c with slots := c.slots.map fun (n, x) => match x.st with
    | .waiting (.event _) => (n, { x with st := .ready })
    | _ => (n, x) }

/-- R265: issue stops, and the team's cores are written to their records once nothing is in flight:
the bytes in the cycle in which the walks end. (Log entry 52: DESIGN CHOICE, unsafe.) -/
def execTeamSwapOut (team : Nat) (s : State) : Host.Outcome State Fault Refusal :=
  .next <| match s.teams.get none team with
  | none => s
  | some t =>
    if s.swapDue t then
      let s := t.cores.foldl (fun (s : State) k => s.modCore k fun c => { c with stopped := true }) s
      s.setTeam team (some { t with leaving := true })
    else if !s.swapReady t then s
    else
      let r := s.readRegion (t.region.rcb * 64)
      if t.writes = none then s.setTeam team (some { t with writes := some (s.recordsEnd t { t.region with swapbase := r.swapbase }) }) else
      let s := t.cores.foldl (fun (s : State) k =>
        let s := s.recallWaits k
        let s := (s.core k).ghosts.foldl (fun s (g : BitVec 26 × Ctx) => s.flushGhost k g.1) s
        let s := (s.core k).slots.foldl (fun (s : State) (x : Nat × Slot) => if x.2.st = .empty then s else (s.flush ⟨k, x.1⟩).dropLines ⟨k, x.1⟩) s
        let mine (f : Future) : Bool := (f.res.map Tid.core) == some k
        let s := ((s.cluster (clusterOf k)).futures.filter fun x => mine x.2).foldl (fun (s : State) _ => s.unreserveFut t.region) s
        let s := s.modCluster (clusterOf k) fun c => { c with
          futures := c.futures.map fun (x : Nat × Future) => (x.1, if mine x.2 then { x.2 with res := none } else x.2) }
        s.writeRecord { t.region with swapbase := r.swapbase } (s.core k).vcore.toNat (s.core k)) s
      let keep := t.cores.map s.core
      let away (w : Tid) : Tid := if t.cores.contains w.core then ⟨awayCore team (s.core w.core).vcore.toNat, w.slot⟩ else w
      let s : State := { s with clusters := s.clusters.map fun (x : Nat × Cluster) => (x.1, { x.2 with
        rdv := x.2.rdv.map fun (y : Nat × Point) => (y.1, { y.2 with waiters := y.2.waiters.map away }) }) }
      (s.vacate t).setTeam team (some { t with
        st := .swapped, leaving := false, writes := none, held := keep, cores := [], entered := s.now, since := s.usec, seeded := 0 })

end Sys2Proof.Machine
end

