-- ==== Sys2Proof/Machine/Host.lean ====
section
/-!
DEFINITION. Host command queues: doorbells and mapping (R256, R257), the fetch of ring entries (R258), NOP, SIGNAL, WAITMEM
and LAUNCH (R258, R260, R307, R332), the reset of a queue (R259), and host writes of registers (R363, R364).
-/

namespace Sys2Proof.Machine

def State.queue (s : State) (q : Nat) : HQueue := s.hq.get {} q
def State.modQueue (s : State) (q : Nat) (f : HQueue → HQueue) : State := { s with hq := s.hq.put {} q (f (s.queue q)) }

/-! Mapping. -/

/-- R257: HEAD = TAIL and every command that the queue started has completed. -/
def State.queueQuiet (s : State) (q : Nat) : Bool :=
  (s.queue q).head == (s.queue q).tail && s.hqRun.all fun c => c.queue != q

def State.freeHwSlot (s : State) : Option Nat :=
  (List.range 512).find? fun k => s.hq.all fun x => !(x.2.mapped && x.2.slot.toNat == k)

/-- The queue that gives up its slot: the quiet one signalled least recently. -/
def State.displaced (s : State) : Option Nat :=
  let older (a b : HQueue) : Bool :=
    decide (a.lastsig.toNat < b.lastsig.toNat) || (a.lastsig == b.lastsig && decide (a.slot.toNat < b.slot.toNat))
  (s.hq.foldl (fun (m : Option (Nat × HQueue)) x =>
    if !(x.2.mapped && !x.2.rst && s.queueQuiet x.1) then m
    else match m with
      | none => some x
      | some y => if older x.2 y.2 then some x else some y) none).map (·.1)

/-- The slot that a queue can take now, and the state without its former holder. -/
def State.slotFor (s : State) : Option (State × Nat) :=
  match s.freeHwSlot with
  | some k => some (s, k)
  | none => match s.displaced with
    | some d => some (s.modQueue d fun x => { x with mapped := false }, (s.queue d).slot.toNat)
    | none => none

def State.mapQueue (s : State) (q : Nat) : State :=
  if (s.queue q).mapped || s.hqWait.contains q then s
  else match s.slotFor with
    | some (s, k) => s.modQueue q fun x => { x with mapped := true, slot := BitVec.ofNat 9 k }
    | none => { s with hqWait := s.hqWait ++ [q] }

/-- Queues that wait are mapped in signal order as slots become free or quiet. -/
def State.mapReady (s : State) : Bool := !s.hqWait.isEmpty && s.slotFor.isSome
def State.mapNext (s : State) : State :=
  match s.hqWait with
  | [] => s
  | q :: l => { s with hqWait := l }.mapQueue q

/-- R257. -/
def execDoorbell (q : Nat) (val : W64) (s : State) : Host.Outcome State Fault Refusal :=
  let x := s.queue q
  let tail := BitVec.ofNat 17 val.toNat
  .next <| if !x.en || x.rst then s
    else
      let exceeds := decide (2 ^ x.logn.toNat < (tail - x.head).toNat)
      (s.modQueue q fun x => { x with
        tail := tail, lastsig := BitVec.ofNat 47 s.usec, err := if exceeds then 4 else x.err }).mapQueue q

def State.idleDue (s : State) (q : Nat) : Bool :=
  let x := s.queue q
  x.mapped && !x.rst && s.queueQuiet q && decide (x.lastsig.toNat + x.idle.toNat < s.usec)

/-- R257: a quiet queue whose last signal is too old is unmapped. -/
def execQueueIdleUnmap (q : Nat) (s : State) : Host.Outcome State Fault Refusal :=
  .next (if s.idleDue q then s.modQueue q fun x => { x with mapped := false } else s)

/-! Fetching (R258). -/

def HQueue.entryAddr (q : HQueue) : Nat := q.ring.toNat + 64 * (q.head.toNat % 2 ^ q.logn.toNat)

/-- May a queue fetch and start the entry at HEAD? -/
def State.fetchDue (s : State) (q : Nat) : Bool :=
  let x := s.queue q
  x.mapped && x.head != x.tail && x.err == 0 && !x.rst
    && (s.physRead 0 (x.entryAddr + 1) 1 % 2 == 0 || s.hqRun.all fun c => c.queue != q)

def knownKind (k : Nat) : Bool := decide (k ≤ 3) || (decide (0x10 ≤ k) && decide (k ≤ 0x19))

/-- A fetched entry starts. What ENVELOPE and QCLEAR change, no issue of the cycle sees (R172). (Log entry 49: DEDUCED, unsafe.) -/
def execRingFetch (q : Nat) (s : State) : Host.Outcome State Fault Refusal :=
  let x := s.queue q
  let pa := x.entryAddr
  .next <| if !s.fetchDue q then s
    else if s.place pa = .none ∨ s.isRetired pa ∨ s.errAt pa 64 = .uncorrectable then s.modQueue q fun x => { x with err := 3 }
    else
      let e : BitVec 512 := BitVec.ofNat 512 (s.physRead 0 pa 64)
      let kind := e.toNat % 256
      let idx := x.head.toNat
      let s := (s.correct pa 64).modQueue q fun x => { x with head := x.head + 1 }
      if !knownKind kind then s.modQueue q fun x => { x with err := 1 }
      else
        let c : HCmd := { queue := q, index := idx, entry := e, kind := BitVec.ofNat 8 kind, at_ := s.usec }
        let s : State := { s with hqRun := s.hqRun ++ [c] }
        if (kind = 0x10 ∨ kind = 0x11) ∧ s.power.state ≠ 3 then s.sched s.now Phase.post (.act (.command q idx kind))
        else s.actAt s.now (.command q idx kind)

def State.hostCmd (s : State) (q idx : Nat) : Option HCmd := s.hqRun.find? fun c => c.queue == q && c.index == idx

/-- Bits [lo + n − 1 : lo] of a ring entry. -/
def HCmd.field (c : HCmd) (lo n : Nat) : Nat := c.entry.toNat / 2 ^ lo % 2 ^ n
def HCmd.arg (c : HCmd) : Nat := c.field 64 64
def HCmd.caddr (c : HCmd) : Nat := c.field 128 64
def HCmd.cval (c : HCmd) : W64 := BitVec.ofNat 64 (c.field 192 64)

def execHostNop (q idx : Nat) (s : State) : Host.Outcome State Fault Refusal := .next (s.dropCmd q idx)

/-- R258: has every earlier command of the queue completed? -/
def State.firstCmd (s : State) (q idx : Nat) : Bool :=
  match s.hqRun.find? fun c => c.queue == q with
  | some c => c.index == idx
  | none => false

/-- Log entry 49: DEDUCED, unsafe. -/
def execSignal (q idx : Nat) (s : State) : Host.Outcome State Fault Refusal :=
  .next <| match s.hostCmd q idx with
  | none => s
  | some c => if s.firstCmd q idx then (s.hostStore (c.caddr / 8 * 8) c.cval).dropCmd q idx else s

def State.modCmd (s : State) (c : HCmd) (f : HCmd → HCmd) : State :=
  { s with hqRun := s.hqRun.map fun x => if x.queue == c.queue && x.index == c.index then f x else x }

/-- A WAITMEM reads its word: the read is performed at the word's home, as a load of die D0 would be (R406). -/
def State.pollStart (s : State) (c : HCmd) : State :=
  let pa := c.caddr / 8 * 8
  let fill := if isDevice pa || (s.slineAt 0 pa).isSome then 0 else s.fillTime pa
  s.modCmd c fun x => { x with at_ := s.usec, reads := some (s.now + 60 + s.far 0 pa + fill) }

/-- The read is performed: the word is there, and the command completes when the read lands; or it reads again in the next
microsecond. -/
def State.pollWord (s : State) (c : HCmd) : State :=
  let pa := c.caddr / 8 * 8
  let (v, s) := s.hostLoad pa
  s.modCmd c fun x => { x with reads := none, lands := if c.cval.toNat ≤ v.toNat then some (s.now + 60 + s.far 0 pa) else none }

/-- Log entry 49: DEDUCED, unsafe. -/
def execWaitmem (q idx : Nat) (s : State) : Host.Outcome State Fault Refusal :=
  .next <| match s.hostCmd q idx with
  | none => s
  | some c => s.pollStart c

/-- R258: is a read of a WAITMEM due, to be made, performed or landed? -/
def HCmd.pollDue (c : HCmd) (s : State) : Bool :=
  c.kind == 3 && match c.lands, c.reads with
    | some n, _ | none, some n => decide (n ≤ s.now)
    | none, none => decide (c.at_ < s.usec)

/-- Log entry 49: DEDUCED, unsafe. -/
def execWaitmemPoll (q idx : Nat) (s : State) : Host.Outcome State Fault Refusal :=
  .next <| match s.hostCmd q idx with
  | none => s
  | some c =>
    if !c.pollDue s then s
    else if c.lands.isSome then s.dropCmd q idx
    else if c.reads.isSome then s.pollWord c
    else s.pollStart c

/-! LAUNCH (R258, R260, R261, R307, R332). -/

/-- R260, R307: may the chain of region control blocks from an address be read, in at most so many levels? (log entry 50: DEDUCED, unsafe.) -/
def State.chainOk (s : State) : Nat → Nat → Bool
  | 0, _ => false
  | n + 1, pa =>
    pa % 256 == 0 && s.place pa != .none && !s.isRetired pa && s.errAt pa 256 != .uncorrectable
      && (s.rcbField pa 0 64 == 0 || s.chainOk n (s.rcbField pa 0 64))

/-- R307: a sub-mesh that lies in the grid. -/
def meshInGrid (m : BitVec 16) : Bool :=
  let v := m.toNat
  decide (v % 16 + v / 256 % 16 < 12) && decide (v / 16 % 16 + v / 4096 % 16 < 12)

/-- R371: a sub-mesh on die D0. -/
def Mesh.onD0 (m : Mesh) : Bool := decide (m.row0 + m.rows ≤ 6) && decide (m.col0 + m.cols ≤ 6)

/-- R307, R332, R371: a region that a launch may name. (Log entry 50: DEDUCED, unsafe.) -/
def State.regionOk (s : State) (r : Region) : Bool :=
  let m := s.meshOf r.tenant.toNat
  r.rmode != 3 && r.tenant != 0 && meshInGrid r.mesh && r.sdepth != 0 && m.formed && (!s.reduced || m.onD0)
    && decide ((s.newBudgets r).length ≤ s.freeBudgets)

/-- R260: the team record. (Log entry 50: DEDUCED, unsafe.) -/
def recordOk (v : Nat) : Bool :=
  let exb := v / 2 ^ 64 % 2 ^ 32
  let code := v / 2 ^ 160 % 2 ^ 32
  let data := v / 2 ^ 224 % 2 ^ 32
  decide (exb ≤ 0x58000) && exb % 32 == 0 && decide (code ≤ exb) && decide (exb + data ≤ 0x58000)

/-- R271: the lowest team number that is free, from one on. (Log entry 51: DEDUCED, unsafe.) -/
def State.freeTeam (s : State) (lo : Nat) : Nat := ((List.range 65535).find? fun k => decide (lo ≤ k + 1) && (s.teams.get none (k + 1)).isNone).getD 0 + 1

/-- The team that a launch asks for, or none where the launch is rejected. (Log entry 50: DEDUCED, unsafe.) -/
def State.launchTeam (s : State) (c : HCmd) : Option Team :=
  let rcb := c.field 64 64
  let image := c.field 128 64
  let n := c.field 24 11 + 1
  let q := c.field 16 8
  let part := c.field 10 2
  if !s.chainOk 8 rcb then none
  else
    let r := s.readRegion rcb
    let priv := c.field 9 1 == 1
    if !s.regionOk r || image % 64 ≠ 0 || (r.rmode == 1 && part ≠ 0) || q = 0 || decide (16 < q) || decide (1148 < n) || part = 3 then none
    else match s.readPlace r.pasid r.tenant (priv && r.privb) image 64 with
      | .error _ => none
      | .ok pa =>
        let v := s.loadBytes 0 pa 64
        if !recordOk v then none
        else
          let f (lo n : Nat) := v / 2 ^ lo % 2 ^ n
          some { queue := c.queue, index := c.index, region := r, n := n, quota := q, part := BitVec.ofNat 2 part, priv := priv
                 image := BitVec.ofNat 64 image, arg := BitVec.ofNat 64 (c.field 192 64), caddr := BitVec.ofNat 64 (c.field 256 64)
                 cval := BitVec.ofNat 64 (c.field 320 64), seedPc := BitVec.ofNat 64 (f 0 64) &&& ~~~3#64, exb := BitVec.ofNat 64 (f 64 32)
                 ovh := BitVec.ofNat 64 (f 96 32) &&& ovhMask, code := (f 128 32, f 160 32), data := (f 192 32, f 224 32)
                 entered := s.now, since := s.usec }

def execLaunch (q idx : Nat) (s : State) : Host.Outcome State Fault Refusal :=
  .next <| match s.hostCmd q idx with
  | none => s
  | some c => match s.launchTeam c with
    | none => (s.modQueue q fun x => { x with err := 2 }).dropCmd q idx
    | some t =>
      let a := s.freeTeam 1
      if t.region.rmode ≠ 2 then s.setTeam a (some t)
      else
        let b := s.freeTeam (a + 1)
        (s.setTeam a (some { t with partner := some (BitVec.ofNat 16 b) })).setTeam b
          (some { t with partner := some (BitVec.ofNat 16 a), second := true })

/-! The reset of a queue (R259). -/

/-- The peer PASID of a tenant's region. -/
def State.tenantPeer (s : State) (tenant : BitVec 6) : BitVec 20 :=
  match s.tenantTop tenant with
  | some top => (s.readRegion top).peer
  | none => 0

/-- The future handle of a task of the team becomes CANCELLED. -/
def State.cancelHandle (s : State) (h : W64) (tenant : BitVec 6) : State :=
  if hTag h ≠ 10 then s
  else
    let (id, s) := s.newId
    let r : FReq :=
      { id := id, op := .cancel, handle := h, value := 0, carry := none, pc := 0, tid := ⟨8 * hCluster h, 0⟩, bind := 0, park := 0, d := 0, e := 0
        tenant := tenant, issue := s.now }
    if hPkg h ≠ s.pkg.pkgid.toNat then s.toPeer (hPkg h) h.toNat (peerEv (s.tenantPeer tenant) (.act (.future (hCluster h) r)))
    else s.futureAct (hCluster h) r

/-- Handles of a team's tasks that stand in no park entry. -/
def State.dequeHandles (s : State) (t : Team) : List W64 :=
  t.cores.flatMap fun k => ((s.core k).deque.map fun q => recHandle q.record) ++ (match (s.core k).dispatch with
    | some d => [s.dispatchHandle d]
    | none => [])

/-- R259, R272, R294, R332, R340: the tasks of a team in a cluster's tables go: their futures are cancelled, their prefetches
give their charge back, and the WAITs held on their entries are answered STALE. -/
def State.resetTables (s : State) (no : Nat) (t : Team) (cl : Nat) : State :=
  let c := s.cluster cl
  let parks := c.parks.filter fun p => p.2.used && p.2.team.toNat == no
  let s := c.prefetch.foldl (fun (s : State) p => if p.task.team.toNat = no ∧ p.charged then s.uncharge t.region 3 p.csb else s) s
  let s := parks.foldl (fun (s : State) p => s.cancelHandle p.2.handle t.region.tenant) s
  let s := c.engines.foldl (fun (s : State) r => if r.cmd.team.toNat = no ∧ r.cmd.isRidge then s.stopRun cl r.cmd.id else s) s
  let s := s.modCluster cl fun c => { c with
    ready := c.ready.filter fun r => r.team.toNat ≠ no
    prefetch := c.prefetch.filter fun p => p.task.team.toNat ≠ no
    ridge := c.ridge.filter fun r => r.team.toNat ≠ no
    spawnHeld := c.spawnHeld.filter fun r => r.1.team ≠ no
    waitHeld := c.waitHeld.filter fun w => !t.cores.contains w.1.core
    relWait := c.relWait.filter fun w => (c.waits.get {} w.2).team.toNat ≠ no }
  let s := c.spawnHeld.foldl (fun (s : State) r =>
    if r.1.team = no then s.setFuture cl r.2 { s.futureEntry cl r.2 with res := none } else s) s
  let s := c.waits.foldl (fun (s : State) w =>
    if w.2.team.toNat = no ∧ (w.2.state = 1 ∨ w.2.state = 2) then
      ((s.uncharge t.region 2 1).modWait cl w.1 fun e => { e with state := 0 }).answerWaits cl w.1 1
    else s) s
  parks.foldl (fun (s : State) p =>
    let e := s.parkAt cl p.1
    if e.pst = 2 then s.modParkAt cl p.1 fun e => { e with pst := 5 }
    else if e.pst = 3 ∨ e.pst = 0 then (s.uncharge t.region 3 e.csb).dropPark cl p.1
    else s) s

/-- The thread slots that a team still loading has reserved. -/
def Team.unbound (t : Team) : Nat :=
  if t.st ≠ .loading then 0
  else if t.held.isEmpty then (t.n - t.seeded) * t.quota * (if t.paired then 2 else 1)
  else (t.held.drop t.seeded).foldl (fun n c => n + (c.slots.filter fun x => x.2.st != .empty).length) 0

/-- The threads of a core that no kill has reached. -/
def State.killCore (s : State) (k : Nat) : State :=
  (s.core k).slots.foldl (fun (s : State) x =>
    if x.2.st = .empty || x.2.killing.isSome then s else s.startKill ⟨k, x.1⟩ 14) s

/-- R259: a placed team is torn down: its tasks are cancelled and its threads killed. -/
def State.tearDown (s : State) (no : Nat) (t : Team) : State :=
  let s := (s.setTeam no (some { t with reset := true })).unreserveThr t.region t.unbound
  let s := (s.dequeHandles t).foldl (fun s h => s.cancelHandle h t.region.tenant) s
  let s := t.cores.foldl (fun (s : State) k =>
    let n := match (s.core k).dispatch with
      | some _ => if t.paired then 2 else 1
      | none => 0
    let s := (s.unreserveThr t.region n).modCore k fun c => { c with deque := [], dispatch := none, stopped := true }
    s.killCore k) s
  s.clusters.foldl (fun (s : State) x => s.resetTables no t x.1) s

/-- A team that holds no cores is removed. -/
def State.removeTeam (s : State) (no : Nat) (t : Team) : State :=
  let s := (t.held.flatMap fun c => c.deque.map fun q => recHandle q.record).foldl (fun s h => s.cancelHandle h t.region.tenant) s
  let away := t.held.flatMap fun c => c.slots.filterMap fun x => x.2.task
  let s := s.clusters.foldl (fun (s : State) x => s.resetTables no t x.1) s
  let s := away.foldl (fun (s : State) k =>
    if k.forked then s
    else if (s.park k.park).pst = 4 then s.modPark k.park fun p => { p with pst := 5 }
    else if (s.park k.park).pst = 1 then s.dropPark (parkCluster k.park) (parkIdx k.park)
    else s) s
  let m := s.meshOf t.region.tenant.toNat
  let s := if m.drain = some (BitVec.ofNat 16 no) then s.setMesh t.region.tenant.toNat { m with drain := none } else s
  s.setTeam no none

def State.teamsOf (s : State) (q : Nat) : List (Nat × Team) :=
  s.teams.filterMap fun x => match x.2 with
    | some t => if t.queue = q then some (x.1, t) else none
    | none => none

/-- R259, step 1 to 3. (Log entry 49: DEDUCED, unsafe.) -/
def State.resetBegin (s : State) (q : Nat) : State :=
  let s : State := { s with hqRun := s.hqRun.filter fun c => !(c.queue == q && (c.kind == 0 || c.kind == 1 || c.kind == 2 || c.kind == 3)) }
  (s.teamsOf q).foldl (fun (s : State) x =>
    if x.2.st.waits then s.removeTeam x.1 x.2
    else if x.2.reset then x.2.cores.foldl State.killCore s
    else s.tearDown x.1 x.2) s

/-- The core whose thread an effect on the agenda serves, where that is a request, a store or an answer. -/
def Act.core (a : Act) : Option Nat :=
  match a with
  | .futureSend r | .future _ r | .recordAct _ r | .recordDone _ r | .futureReply r _ => some r.tid.core
  | .spillSend r | .spillRead r _ | .spawnatSend r | .spawnat r | .spawnReply r _ _ => some r.tid.core
  | .decSend r | .decReply r _ _ | .msgSend r _ _ _ => some r.tid.core
  | .waitingSend r | .waiting r => some r.tid.core
  | .l1Store a | .atomSend a | .cstoreSend a | .arrive a | .ldnStart a | .rowStore a => some a.tid.core
  | .spawnCommit t .. | .tableReply t .. | .waitRequest _ t .. | .waitReply t .. | .wtRead _ t .. | .budRead t ..
  | .rdvSend t .. | .rdvReply t _ | .localWrite t .. => some t.core
  | _ => none

/-- R259: does an entry of the agenda, or a message to a peer, belong to a thread of the core? -/
def Ev.serves (e : Ev) (core : Nat) : Bool :=
  match e with
  | .act (.peer r) => match r.op with
    | .future q => q.tid.core == core
    | .decrement d => d.tid.core == core
    | _ => false
  | .act a => a.core == some core
  | .run (.waitingTaskDecrement r) => r.tid.core == core
  | .run (.spillAck r _) | .run (.futureSpill r) => r.tid.core == core
  | .run (.storeRegistration a) | .run (.clusterStorePerform a) | .run (.atomicPerform a) => a.tid.core == core
  | _ => false

/-- R377: what a request to a peer asks to be answered: which kind of request, whose, and its number. -/
def Ev.asks : Ev → Option (Nat × Nat × Nat)
  | .act (.peer r) => match r.op with
    | .future q => if hasReply q then some (0, q.tid.core * 16 + q.tid.slot, q.id) else none
    | .decrement d => some (1, d.tid.core * 16 + d.tid.slot, d.id)
    | .wait t id _ => some (2, t.core * 16 + t.slot, id)
    | .waitRead t id _ _ => some (3, t.core * 16 + t.slot, id)
    | .read cl id msg _ _ => some (4, cl * 2 ^ 32 + id, msg)
    | .write cl id msg _ _ _ _ _ => some (5, cl * 2 ^ 32 + id, msg)
    | _ => none
  | _ => none

/-- R377: is a message that has gone out still in flight? A request is, until its answer has come; any other for the 560
cycles of its way. (Log entry 22: DESIGN CHOICE, unsafe.) -/
def State.onItsWay (s : State) (m : LinkMsg) : Bool := m.ev.asks.isSome || decide (s.now < m.sent + 560)

/-- Is the teardown of every team of the queue over (R259, step 4): is nothing that they issued on its way? -/
def State.resetReady (s : State) (q : Nat) : Bool :=
  (s.teamsOf q).all fun x => x.2.reset && s.coresQuiet x.2 && s.clusters.all (fun (c : Nat × Cluster) =>
    c.2.engines.all (fun r => r.cmd.team.toNat != x.1))
    && !(s.agenda.any fun p => x.2.cores.any p.ev.serves)
    && !(s.linkWait.any fun m => (m.link.isNone || s.onItsWay m) && x.2.cores.any m.ev.serves)

/-- A thread bound after the reset began (R358). -/
def State.lateBound (s : State) (q : Nat) : Bool :=
  (s.teamsOf q).any fun x => x.2.cores.any fun k => (s.core k).slots.any fun y => y.2.st != .empty && y.2.killing.isNone

def State.resetDue (s : State) (q : Nat) : Bool := (s.queue q).rst && (s.resetReady q || s.lateBound q)

/-- R259: the reset begins, or ends once nothing of the queue's teams is in flight. (Log entry 49: DEDUCED, unsafe.) -/
def execQueueReset (q : Nat) (s : State) : Host.Outcome State Fault Refusal :=
  .next <| if !(s.queue q).rst then s
    else if !s.resetReady q then s.resetBegin q
    else
      let s := (s.teamsOf q).foldl (fun (s : State) x => ((s.freeTables x.1).freeCores x.1 x.2).setTeam x.1 none) s
      let s : State := { s with
        hqWait := s.hqWait.filter (· ≠ q), hqRun := s.hqRun.filter fun c => !(c.queue == q && c.kind.toNat < 4) }
      s.modQueue q fun x => { x with head := x.tail, mapped := false, en := false, rst := false, rstdone := true }

/-! Host writes (R363, R364). -/

/-- A host write of 8 bytes: a register through BAR0, or memory through BAR2 (R363). (log entry 49: DEDUCED, unsafe.) -/
def execHostRegisterWrite (addr : Nat) (val : W64) (s : State) : Host.Outcome State Fault Refusal :=
  .next (s.hostStore (s.barAddr addr / 8 * 8) val)

end Sys2Proof.Machine
end

