-- ==== Sys2Proof/Machine/Boundary.lean ====
section
/-!
DEFINITION. Host commands of kinds 0x10 to 0x19 (R367): envelope, quarantine, power, bring-up, checkpoint, attestation,
tenants, slot tables and images; requests of peer packages and their links (R376, R377); power-on and core reset.
-/

namespace Sys2Proof.Machine

/-- R367: how a command ends. -/
inductive Status where
  | done | refused | busy | failed
deriving DecidableEq, Repr

def Status.code : Status → W64
  | .done => 0
  | .refused => 1
  | .busy => 2
  | .failed => 3

/-- R367: the status dword at CADDR + 8, then CVAL at CADDR. -/
def State.complete (s : State) (c : HCmd) (st : Status) : State :=
  let s := if c.caddr = 0 then s else (s.hostStore (c.caddr + 8) st.code).hostStore c.caddr c.cval
  s.dropCmd c.queue c.index

/-- A command that a queue has started, and how it ends. -/
def hostCommand (q idx : Nat) (f : HCmd → State → Status × State) (s : State) : Host.Outcome State Fault Refusal :=
  .next <| match s.hostCmd q idx with
  | none => s
  | some c =>
    let (st, s) := f c s
    s.complete c st

/-! ENVELOPE and QCLEAR. -/

def State.dieCores (d : Nat) : List Nat := (List.range 288).map (· + 288 * d)

/-- R163, R367. (Log entry 16: DESIGN CHOICE, unsafe.) -/
def execEnvelope (q idx : Nat) (s : State) : Host.Outcome State Fault Refusal :=
  hostCommand q idx (fun c s =>
    let floor := c.field 36 4
    let ceil := c.field 40 4
    let mask := c.field 44 4
    if ceil < floor ∨ mask = 0 then (.refused, s)
    else
      let dies := (List.range 4).filter fun d => mask.testBit d
      (.done, (dies.flatMap State.dieCores).foldl (fun (s : State) k => s.envelope k (BitVec.ofNat 4 floor) (BitVec.ofNat 4 ceil)) s)) s

/-- Log entry 16: DESIGN CHOICE, unsafe. -/
def execQclear (q idx : Nat) (s : State) : Host.Outcome State Fault Refusal :=
  hostCommand q idx (fun c s =>
    if 1152 ≤ c.arg ∨ !(s.core c.arg).quar then (.refused, s)
    else if (s.core c.arg).team.isSome then (.busy, s)
    else (.done, s.modCore c.arg fun k => { k with quar := false, qcause := false, run := 0, ceilhit := false })) s

/-! POWER (R368). -/

/-- Is a team placed, of any tenant? -/
def State.anyPlaced (s : State) : Bool :=
  s.teams.any fun x => match x.2 with
    | some t => t.st.placed'
    | none => false

/-- The core clock of a power state, in MHz: it stands in P3, and an earlier throttle of P0 and P1 stays. (Log entry 53: DEDUCED, unsafe.) -/
def State.stateClock (s : State) (p : Nat) : Nat :=
  if s.reduced ∨ p = 2 then 600 else if p = 3 ∨ s.power.state = 2 ∨ s.power.state = 3 then 1200 else s.power.mhz

/-- R361, R368: in P3 every core is gated; where gating is not permitted, and for firmware cores, an exit begins. (Log entry 53: DEDUCED, unsafe.) -/
def State.gateAll (s : State) (p : Nat) : State :=
  (List.range 1152).foldl (fun (s : State) k =>
    let c := s.core k
    if p = 3 then s.modCore k fun c => { c with gate := .gated }
    else if c.gate = .gated ∧ (p = 0 ∨ c.kind = .firmware) then s.modCore k fun c => { c with gate := .leaving s.now }
    else match c.gate with
      | .entering _ _ => if p = 0 then s.modCore k fun c => { c with gate := .powered } else s
      | _ => s) s

/-- Log entry 16: DESIGN CHOICE, unsafe. (Log entry 53: DEDUCED, unsafe.) -/
def execPower (q idx : Nat) (s : State) : Host.Outcome State Fault Refusal :=
  hostCommand q idx (fun c s =>
    let p := c.field 36 3
    if 3 < p ∨ c.arg < 100 ∨ 2800 < c.arg then (.refused, s)
    else if p = 3 ∧ s.anyPlaced then (.busy, s)
    else
      let m := s.stateClock p
      (.done, ({ s with power := { state := BitVec.ofNat 3 p, limit := c.arg, mhz := m } } : State).gateAll p)) s

/-! STEP (R370, R371). -/

/-- The units of a map that is numbered from bit 0. -/
def unitsOf (m : W64) : List Nat := (List.range 64).filter m.getLsbD

def Image.useNext (a b : Image) (swap : Bool) : Image × Image := if swap then (b, a) else (a, b)

/-- Is an address in HBM (R191)? -/
def inHbm (pa : Nat) : Bool := decide (pa < 0x6000000000)
def inTier (pa : Nat) : Bool := decide (0x20000000000 ≤ pa) && decide (pa < 0x38000000000)
def inSlate (pa : Nat) : Bool := decide (0x80000000000 ≤ pa) && decide (pa < 0x80180000000)

/-- R195: bring-up writes zero, with a valid code, to a range of memory. -/
def State.zeroPhys (s : State) (f : Nat → Bool) : State :=
  { s with phys := s.phys.filter fun x => !f x.1, errs := s.errs.filter fun x => !f (8 * x.1) }

/-- R15: the cores of a die once some are withheld: the first that is not is the firmware core. -/
def State.assignKinds (s : State) (bad : List Nat) (die : Nat) : State :=
  let l := State.dieCores die
  let fw := l.find? fun k => !bad.contains k
  l.foldl (fun (s : State) k => s.modCore k fun c => { c with
    kind := if bad.contains k then .withheld else if fw = some k then .firmware else .program }) s

/-- Cores of each die in a list, 16 bits a die (R371). -/
def coreCounts (l : List Nat) : W64 :=
  BitVec.ofNat 64 (Num.pack 16 4 fun d => (l.filter fun k => dieOf k == d).length)

/-- R370, R374: the bank that a bring-up step takes: the active one, else the other; none where each fails its test or has
a sequence number below the one that flash holds. -/
def bankOf (fail : W64) (a b : Image) (least : W64) : Option Bool :=
  if !fail.getLsbD 0 && decide (least.toNat ≤ a.seq.toNat) then some false
  else if !fail.getLsbD 1 && decide (least.toNat ≤ b.seq.toNat) then some true
  else none

/-- R370: a firmware image starts on a die's firmware core: its program stands in local memory from address 0, below EXB,
and a privileged context of the firmware tenant in slot 0 begins at its entry. The model's image may hold no program:
then nothing starts. (Log entry 54: DESIGN CHOICE, unsafe.) -/
def State.startFirmware (s : State) (i : Image) (die : Nat) : State :=
  let k := s.firmwareCore die
  if i.code.isEmpty then s
  else
    let s := s.localWrite k 0 i.code.length (leWord (i.code.map BitVec.toNat))
    let s := s.modCore k fun c => { c with exb := BitVec.ofNat 64 ((i.code.length + 31) / 32 * 32), slots := c.slots.filter fun x => x.1 ≠ 0 }
    s.modSlot ⟨k, 0⟩ fun x => { x with st := .ready, ctx := s.newCtx {} k 0 (i.entry &&& ~~~3#64) true false [] }

/-- What a step does: whether it fails as a whole, the map of units withheld or mapped out, and the state. `out` maps the
units out: those that a record names and those that fail now. (Log entry 4: DESIGN CHOICE, unsafe.) (log entry 54: DESIGN CHOICE, unsafe.) -/
def State.bringUp (s : State) (n : Nat) (out : W64) : Bool × W64 × State :=
  let b := s.boot
  let fail := b.faulty.get 0 n
  let units := unitsOf out
  match n with
  | 0 => (fail.getLsbD 0, 0, s)
  | 1 =>
    match bankOf fail s.flash.firmware s.flash.firmware2 s.flash.seqFw with
    | none => (true, 0, s)
    | some swap =>
      let (a, z) := s.flash.firmware.useNext s.flash.firmware2 swap
      let s : State := { s with flash := { s.flash with firmware := a, firmware2 := z } }
      (false, 0, (List.range 4).foldl (fun s d => s.startFirmware a d) s)
  | 2 =>
    match bankOf fail s.flash.config s.flash.config2 s.flash.seqCfg with
    | none => (true, 0, s)
    | some swap =>
      let (a, z) := s.flash.config.useNext s.flash.config2 swap
      (false, 0, { s with
        flash := { s.flash with config := a, config2 := z }
        pkg := { s.pkg with pkgid := a.pkgid, ptbase := a.ptbase, brbase := a.brbase, spares := a.spares, spareAt := a.spareAt } })
  | 3 =>
    let bad := (b.outCores ++ b.badCores.filter fun k => !b.outCores.contains k)
    let s := (List.range 4).foldl (fun s d => s.assignKinds bad d) s
    let s := b.badRafters.foldl (fun (s : State) (x : Nat × BitVec 32) =>
      if bad.contains x.1 then s
      else
        let s := s.modCore x.1 fun c => { c with rfence := c.rfence ||| x.2 }
        if 16 < ((List.range 32).filter (s.core x.1).rfence.getLsbD).length && !(s.core x.1).quar then s.quarantine x.1 true else s) s
    let s : State := { s with
      cores := s.cores.map fun (x : Nat × Core) =>
        (x.1, if x.2.slots.any fun y => y.2.st != .empty then x.2 else { x.2 with mem := [], empty := [] })
      localErrs := [], boot := { s.boot with outCores := bad } }
    (false, coreCounts bad, s)
  | 4 =>
    let s : State := { s with
      clusters := s.clusters.map fun (x : Nat × Cluster) => (x.1, { x.2 with mem := [], empty := [] })
      storeErrs := [], power := { s.power with mhz := 600 }, boot := { s.boot with outDies := units } }
    let s := s.setMesh 0 { formed := true, rows := 12, cols := 12 }
    let s := (State.dieCores 0).foldl (fun (s : State) k => if (s.core k).kind = .program then s.setLevel k 15 else s) s
    (false, out, (List.range 4).foldl (fun (s : State) d =>
      s.runAt (s.now + (s.die d).slref.toNat * 256 + 192) (.slateRefresh d)) s)
  | 5 => (false, out, { s.zeroPhys inHbm with boot := { b with outHbm := units } })
  | 6 => (false, out, { s.zeroPhys inTier with boot := { b with outTier := units } })
  | 7 => (false, out, { s.zeroPhys inSlate with boot := { b with outSlate := units } })
  | 8 => (false, out, b.peers.foldl (fun (s : State) (x : Nat × Nat) => { s with
      links := s.links.put {} x.1 { up := x.2 ≠ 0 && !out.getLsbD x.1, peer := BitVec.ofNat 8 (x.2 - 1) } }) s)
  | 9 => (false, out, { s with boot := { b with outCxl := units } })
  | _ => (false, 0, s)

/-- R369, R371: full service: the clock of the power state, and LEVEL in its envelope. -/
def State.fullService (s : State) : State :=
  let s : State := { s with power := { s.power with mhz := if s.power.state = 2 then 600 else 1200 } }
  s.cores.foldl (fun (s : State) x => s.setLevel x.1 (clamp (s.core x.1).floor (s.core x.1).ceil (s.core x.1).level.toNat)) s

/-- R371: the step's outcome record. (Log entry 54: DESIGN CHOICE, unsafe.) -/
def outcomeOf (old : Outcome) (seq : BitVec 32) (failed : Bool) (before now : Bool) (detail : W64) : Outcome :=
  { detail := detail, bootseq := seq, tries := if failed then old.tries + 1 else 0
    out := if failed then 1 else if now then 2 else if before then 3 else 0 }

/-- Log entry 54: DESIGN CHOICE, unsafe. -/
def State.runStep (s : State) (n : Nat) : Status × State :=
  let b := s.boot
  let old := b.recorded.get 0 n
  let found := if n < 4 then 0 else b.faulty.get 0 n &&& ~~~old
  let (failed, detail, s) := s.bringUp n (old ||| found)
  let before := if n = 3 then !b.outCores.isEmpty else old ≠ 0
  let fresh := if n = 3 then b.badCores.any fun k => !b.outCores.contains k else found ≠ 0
  let r := outcomeOf ((b.records.get none n).getD {}) b.seq failed before fresh detail
  let s : State := { s with boot := { s.boot with
    records := s.boot.records.put none n (some r)
    recorded := if n < 4 then s.boot.recorded else s.boot.recorded.put 0 n (old ||| found)
    done := if failed then s.boot.done else s.boot.done.put false n true } }
  (if failed then .failed else .done, if n = 10 then s.fullService else s)

/-- Log entry 16: DESIGN CHOICE, unsafe. (Log entry 54: DESIGN CHOICE, unsafe.) -/
def execStep (q idx : Nat) (s : State) : Host.Outcome State Fault Refusal :=
  hostCommand q idx (fun c s =>
    let n := c.field 36 8
    if 10 < n then (.refused, s)
    else if s.boot.done.get false n || (n != 0 && !s.boot.done.get false (n - 1)) then (.busy, s)
    else s.runStep n) s

/-! CHECKPOINT and RESTORE (R372, R373). -/

/-- The ranges of the stream, in its order: base and size. -/
def State.streamRanges (s : State) : List (Nat × Nat) :=
  let hbm := (List.range 8).map fun k => (k * 0xC00000000, 0xC00000000)
  let tier := (List.range 16).map fun k => (0x20000000000 + k * 0x1800000000, 0x1800000000)
  let slate := (List.range 4).map fun d => (0x80000000000 + d * 0x60000000, 0x60000000)
  (hbm ++ tier ++ slate).filter fun x => s.place x.1 != .none

def GiB : Nat := 2 ^ 30

def streamBytes (l : List (Nat × Nat)) : Nat := l.foldl (fun n x => n + x.2) 0

/-- Where a physical address stands in the stream. -/
def streamAt : List (Nat × Nat) → Nat → Nat → Option Nat
  | [], _, _ => none
  | (b, n) :: l, off, pa => if b ≤ pa ∧ pa < b + n then some (off + (pa - b)) else streamAt l (off + n) pa

/-- The physical address of a byte of the stream. -/
def streamAddr : List (Nat × Nat) → Nat → Option Nat
  | [], _ => none
  | (b, n) :: l, off => if off < n then some (b + off) else streamAddr l (off - n)

/-- A target of the list: its link, base and length. -/
structure Target' where
  link : Nat
  base : Nat
  len  : Nat
deriving DecidableEq, Repr

def linkRate (link : Nat) : Nat := if link = 0 then 240 else 110

/-- The deal of one block: the target whose share, with it, would be least for its rate; the first of equals. (Log entry 16: DESIGN CHOICE, unsafe.) -/
def dealTo (l : List Target') (given : List Nat) : Nat :=
  let k (i : Nat) : Nat × Nat := (given.getD i 0 + 1, linkRate ((l[i]?.map Target'.link).getD 0))
  (List.range l.length).foldl (fun best i => if (k i).1 * (k best).2 < (k best).1 * (k i).2 then i else best) 0

/-- The targets of all blocks, in order. -/
def dealBlocks (l : List Target') : Nat → List Nat → List Nat
  | 0, _ => []
  | n + 1, given =>
    let i := dealTo l given
    i :: dealBlocks l n (given.set i (given.getD i 0 + 1))

def dealAll (l : List Target') (total : Nat) : List Nat :=
  dealBlocks l ((total + GiB - 1) / GiB) (List.replicate l.length 0)

/-- R372: the list at an address: up to three entries, an entry of length 0 naming no target. (Log entry 16: DESIGN CHOICE, unsafe.) -/
def State.targets (s : State) (a : Nat) : List Target' × State :=
  (List.range 3).foldl (fun (x : List Target' × State) j =>
    let (k, s) := x.2.hostLoad (a + 32 * j)
    let (b, s) := s.hostLoad (a + 32 * j + 8)
    let (n, s) := s.hostLoad (a + 32 * j + 16)
    (if n = 0 then x.1 else x.1 ++ [⟨k.toNat, b.toNat, n.toNat⟩], s)) ([], s)

/-- The bytes that each target takes. -/
def shareOf (blocks : List Nat) (total i : Nat) : Nat :=
  ((blocks.zip (List.range blocks.length)).filter fun x => x.1 == i).foldl (fun n x => n + Min.min GiB (total - x.2 * GiB)) 0

/-- The microseconds that a stream takes at the rates of its links (R373). -/
def streamTime (l : List Target') (blocks : List Nat) (total : Nat) : Nat :=
  (List.range l.length).foldl (fun m i =>
    Max.max m ((shareOf blocks total i + linkRate ((l[i]?.map Target'.link).getD 0) * 1000 - 1)
      / (linkRate ((l[i]?.map Target'.link).getD 0) * 1000))) 0

/-- May a link take the stream? -/
def State.targetOk (s : State) (t : Target') : Bool :=
  t.link == 0 || !(s.boot.outCxl.contains (t.link - 1))

/-- R372: a stream begins, or fails before any byte moves; it ends `at_`. (Log entry 16: DESIGN CHOICE, unsafe.) -/
def State.startStream (s : State) (c : HCmd) : State :=
  let (l, s) := s.targets c.arg
  let ranges := s.streamRanges
  let total := streamBytes ranges
  let blocks := dealAll l total
  let fits := (List.range l.length).all fun i => decide (shareOf blocks total i ≤ (l[i]?.map Target'.len).getD 0)
  if l.any (fun t => decide (2 < t.link)) || !((l.map Target'.link).Nodup) then s.complete c .refused
  else if l.isEmpty || !fits || !l.all s.targetOk then s.complete c .failed
  else { s with
    suspended := true
    hqRun := s.hqRun.map fun x => if x.queue = c.queue ∧ x.index = c.index then { x with at_ := s.usec + streamTime l blocks total } else x }

def State.isStream (c : HCmd) : Bool := c.kind == 0x14 || c.kind == 0x15

def execCheckpoint (q idx : Nat) (s : State) : Host.Outcome State Fault Refusal :=
  .next <| match s.hostCmd q idx with
  | none => s
  | some c => if s.anyPlaced then s.complete c .busy else s.startStream c

def execRestore (q idx : Nat) (s : State) : Host.Outcome State Fault Refusal :=
  .next <| match s.hostCmd q idx with
  | none => s
  | some c => if s.anyPlaced || !s.pendingTeams.isEmpty then s.complete c .busy else s.startStream c

/-- The addresses at which a stored byte is read: its own, unless its page is mapped elsewhere, and those of the pages
that it serves (R357). -/
def State.readAt (s : State) (u : Nat) : List Nat :=
  (if s.mapped u = u then [u] else []) ++ (s.retired.filter fun x => x.2 == u / 65536 + 2).map fun x => x.1 * 65536 + u % 65536

/-- The CXL address of a target's byte. -/
def cxlAddr (t : Target') (off : Nat) : Nat := 0x20000000000 * (t.link + 1) + t.base + off

/-- Bytes of a checkpoint: each stored byte of the stream at its target. (Log entry 5: DESIGN CHOICE, unsafe.) -/
def State.streamOut (s : State) (l : List Target') : State :=
  let ranges := s.streamRanges
  let total := streamBytes ranges
  let blocks := dealAll l total
  let clear (s : State) (x : Target' × Nat) : State :=
    let n := shareOf blocks total x.2
    if x.1.link = 0 then { s with hostMem := s.hostMem.filter fun y => !(decide (x.1.base ≤ y.1) && decide (y.1 < x.1.base + n)) }
    else { s with phys := s.phys.filter fun y => !(decide (cxlAddr x.1 0 ≤ y.1) && decide (y.1 < cxlAddr x.1 n)) }
  let src := s.phys
  let s' := (l.zip (List.range l.length)).foldl clear s
  src.foldl (fun (s' : State) (x : Nat × Byte) =>
    (s.readAt x.1).foldl (fun (s' : State) pa => match streamAt ranges 0 pa with
      | none => s'
      | some off =>
        let i := blocks.getD (off / GiB) 0
        let j := ((blocks.take (off / GiB)).filter (· == i)).length
        match l[i]? with
        | none => s'
        | some t =>
          let o := j * GiB + off % GiB
          if t.link = 0 then { s' with hostMem := s'.hostMem.put 0 (t.base + o) x.2 }
          else { s' with phys := s'.phys.put 0 (cxlAddr t o) x.2 }) s') s'

/-- Byte `o` of a target's share as a place in the stream. -/
def streamIndex (blocks : List Nat) (i o : Nat) : Option Nat :=
  (((blocks.zip (List.range blocks.length)).filter fun x => x.1 == i)[o / GiB]?).map fun x => x.2 * GiB + o % GiB

/-- Bytes of a restore. (Log entry 5: DESIGN CHOICE, unsafe.) -/
def State.streamIn (s : State) (l : List Target') : State :=
  let ranges := s.streamRanges
  let total := streamBytes ranges
  let blocks := dealAll l total
  let streamed (u : Nat) : Bool := (s.readAt u).any fun pa => (streamAt ranges 0 pa).isSome
  let s' := s.zeroPhys streamed
  (l.zip (List.range l.length)).foldl (fun (s' : State) (x : Target' × Nat) =>
    let n := shareOf blocks total x.2
    let base := if x.1.link = 0 then x.1.base else cxlAddr x.1 0
    let src : Sparse Byte := if x.1.link = 0 then s.hostMem else s.phys
    src.foldl (fun (s' : State) (y : Nat × Byte) =>
      if base ≤ y.1 ∧ y.1 < base + n then
        match (streamIndex blocks x.2 (y.1 - base)).bind (streamAddr ranges) with
        | some pa => { s' with phys := s'.phys.put 0 (s.mapped pa) y.2 }
        | none => s'
      else s') s') s'

/-- R372: the stream ends: its bytes are in place, and placement resumes. -/
def execCheckpointCompletion (q idx : Nat) (s : State) : Host.Outcome State Fault Refusal :=
  .next <| match s.hostCmd q idx with
  | none => s
  | some c =>
    if !(State.isStream c && s.suspended && decide (c.at_ ≤ s.usec)) then s
    else
      let (l, s) := s.targets c.arg
      let s := if c.kind = 0x14 then s.streamOut l else s.streamIn l
      let s := s.complete c .done
      { s with suspended := s.hqRun.any State.isStream }

/-! Identity (R374, R375). -/

def bytesOfWord (n v : Nat) : List Nat := (List.range n).map fun j => v / 256 ^ j % 256

/-- A list of bytes brought to a length. -/
def sized (n : Nat) (l : List Byte) : List Nat := (List.range n).map fun j => (l.getD j 0).toNat

/-- Log entry 6: DESIGN CHOICE, safe. -/
def digestWord (l : List Nat) : BitVec 512 := BitVec.ofNat 512 (leWord (Sha3.sha512 l))

/-- The label "Idziver device". -/
def deviceLabel : List Nat := [0x49, 0x64, 0x7A, 0x69, 0x76, 0x65, 0x72, 0x20, 0x64, 0x65, 0x76, 0x69, 0x63, 0x65]

def pufBytes : List Nat := bytesOfWord 32 Config.pufSecret.toNat
def deviceSeed : BitVec 512 := digestWord (pufBytes ++ deviceLabel)
/-- Log entry 55: DESIGN CHOICE, unsafe. -/
def Flash.aliasSeed (f : Flash) : BitVec 512 :=
  digestWord (pufBytes ++ bytesOfWord 64 f.firmware.digest.toNat ++ bytesOfWord 64 f.config.digest.toNat)

def Outcome.num (o : Outcome) (step : Nat) : Nat :=
  o.detail.toNat * 2 ^ 64 + o.bootseq.toNat * 2 ^ 32 + o.tries.toNat * 2 ^ 16 + step * 2 ^ 8 + o.out.toNat

/-- R375: the report that follows a nonce. (Log entry 55: DESIGN CHOICE, unsafe.) -/
def State.report' (s : State) (nonce : List Nat) : List Nat :=
  let f := s.flash
  let recs := s.boot.records.flatMap fun x => match x.2 with
    | some o => if o.bootseq = s.boot.seq then bytesOfWord 16 (o.num x.1) else []
    | none => []
  let key := sized 2592 (Config.publicKey f.aliasSeed)
  let sig := sized 4627 (Config.signature deviceSeed (digestWord key))
  let body := nonce ++ bytesOfWord 64 f.firmware.digest.toNat ++ bytesOfWord 64 f.config.digest.toNat
    ++ bytesOfWord 8 f.firmware.seq.toNat ++ bytesOfWord 8 f.config.seq.toNat ++ recs ++ key ++ sig
  body ++ sized 4627 (Config.signature f.aliasSeed (digestWord body))

/-- Bytes that the Z4 writes for the host at a physical address. -/
def State.hostWriteBytes (s : State) (pa : Nat) (l : List Nat) : State :=
  (List.range ((l.length + 7) / 8)).foldl (fun (s : State) j =>
    let k := Min.min 8 (l.length - 8 * j)
    let rest := if k = 8 then 0 else s.physRead 0 (pa + 8 * j + k) (8 - k)
    s.hostStore (pa + 8 * j) (BitVec.ofNat 64 (leWord ((l.drop (8 * j)).take k) + 256 ^ k * rest))) s

/-- n bytes that the Z4 reads for the host. -/
def State.hostReadBytes (s : State) (pa n : Nat) : List Nat × State :=
  let (l, s) := (List.range ((n + 7) / 8)).foldl (fun (x : List Nat × State) j =>
    let (v, s) := x.2.hostLoad (pa + 8 * j)
    (x.1 ++ bytesOfWord 8 v.toNat, s)) ([], s)
  (l.take n, s)

/-- Log entry 55: DESIGN CHOICE, unsafe. -/
def execAttest (q idx : Nat) (s : State) : Host.Outcome State Fault Refusal :=
  hostCommand q idx (fun c s =>
    let (nonce, s) := s.hostReadBytes c.arg 64
    (.done, s.hostWriteBytes (c.arg + 64) (s.report' nonce))) s

/-- R365: the field of PTBASE and of BRBASE, bits [51:12]. -/
def pageField : W64 := 0xFFFFFFFFFF000

/-- R374: an image is verified, and written to the bank that runs from the next boot. (Log entry 55: DESIGN CHOICE, unsafe.) -/
def execFwstage (q idx : Nat) (s : State) : Host.Outcome State Fault Refusal :=
  hostCommand q idx (fun c s =>
    let (head, s) := s.hostReadBytes c.arg 64
    let bytes (l : List Nat) : List Byte := l.map (BitVec.ofNat 8)
    let (l, s) := s.hostReadBytes c.arg (Config.imageSize (bytes head))
    let cfg := c.field 36 1 = 1
    let seq := Config.imageSeq (bytes l)
    let held := if cfg then s.flash.seqCfg else s.flash.seqFw
    if !Config.imageVerifies (bytes l) || decide (seq.toNat < held.toNat) then (.refused, s)
    else
      let f (n : Nat) : W64 := Config.imageField (bytes l) n
      let i : Image := { digest := digestWord (l.take (l.length - 4627)), seq := seq, code := if cfg then [] else Config.imageCode (bytes l)
                         entry := if cfg then 0 else Config.imageEntry (bytes l) }
      if !cfg then (.done, { s with flash := { s.flash with firmware2 := i, swapFw := true, seqFw := seq } })
      else
        let i : Image := { i with
          pkgid := (f 0).truncate 8, ptbase := f 1 &&& pageField, brbase := f 2 &&& pageField, spares := (f 3).truncate 16
          spareAt := f 4 &&& pageField &&& ~~~0xFFFF#64 }
        let b := s.boot
        let b := if held.toNat < seq.toNat then
            { b with
              records := b.records.filter fun x => match x.2 with
                | some o => o.bootseq == b.seq
                | none => false
              recorded := [], outCores := [] } else b
        (.done, { s with flash := { s.flash with config2 := i, swapCfg := true, seqCfg := seq }, boot := b })) s

/-! TENANT and SLOTLOAD (R310, R312, R334). -/

/-- R306: the sub-mesh that MESH names. -/
def meshRect (m : BitVec 16) : Mesh :=
  let v := m.toNat
  { formed := true, row0 := v % 16, col0 := v / 16 % 16, rows := v / 256 % 16 + 1, cols := v / 4096 % 16 + 1 }

/-- Log entry 16: DESIGN CHOICE, unsafe. -/
def execTenant (q idx : Nat) (s : State) : Host.Outcome State Fault Refusal :=
  hostCommand q idx (fun c s =>
    let rcb := c.arg
    let t := s.rcbField rcb 136 6
    let mesh := BitVec.ofNat 16 (s.rcbField rcb 416 16)
    let m := meshRect mesh
    let overlaps := s.teams.any fun x => match x.2 with
      | some u => u.st.placed' && m.meets (s.meshOf u.region.tenant.toNat)
      | none => false
    if !s.chainOk 1 rcb || t = 0 || !meshInGrid mesh then (.refused, s)
    else if overlaps then (.busy, s)
    else
      let s := (List.range 144).foldl (fun (s : State) cl =>
        s.modCluster cl fun k => { k with tmem := setBit k.tmem t (m.holds cl) }) s
      (.done, s.setMesh t { m with rcb := rcb, slots := (s.meshOf t).slots, drain := (s.meshOf t).drain })) s

/-- The slot tables of a sub-mesh: its clusters in ascending order, the five ports of each. -/
def Mesh.ports (m : Mesh) : List (Nat × Nat) :=
  ((List.range 144).filter m.holds).flatMap fun cl => (List.range 5).map fun p => (cl, p)

/-- Log entry 16: DESIGN CHOICE, unsafe. -/
def execSlotload (q idx : Nat) (s : State) : Host.Outcome State Fault Refusal :=
  hostCommand q idx (fun c s =>
    let t := c.field 38 6
    let m := s.meshOf t
    let busy := s.teams.any fun x => match x.2 with
      | some u => u.st.placed' && u.region.tenant.toNat == t
      | none => false
    if !m.formed || t = 0 then (.refused, s)
    else if busy then (.busy, s)
    else
      let l := m.ports
      let (b, s) := s.hostReadBytes c.arg (256 * l.length)
      let n := (b.filter (· ≠ 0)).length
      let limit := s.rcbField m.rcb 320 16
      if limit ≠ 0 ∧ limit < n then (.refused, s)
      else
        let s := (l.zip (List.range l.length)).foldl (fun (s : State) (x : (Nat × Nat) × Nat) =>
          s.modCluster x.1.1 fun k => { k with slots := poke k.slots (256 * x.1.2) 256 (leWord ((b.drop (256 * x.2)).take 256)) }) s
        let s := s.setMesh t { m with slots := n }
        (.done, { s with budgets := s.budgets.map fun (x : Nat × Budget) =>
          (x.1, if x.2.valid ∧ x.2.rcb.toNat = m.rcb / 64 then { x.2 with netslot := BitVec.ofNat 16 n } else x.2) })) s

/-! Peer packages (R376, R377). -/

/-- What a peer's access of memory meets at a virtual address of its peer PASID, or where it leads. (Log entry 56: DEDUCED, unsafe.) -/
def State.peerPlace (s : State) (r : PeerReq) (write : Bool) (va n : Nat) : Except Flt Nat :=
  let a := BitVec.ofNat 64 va
  match rootOf s r.pasid with
  | none => .error { code := 7, sub := 4, addr := a }
  | some (root, _) => match (if va / 2 ^ 55 ≠ 0 then WalkEnd.fault 2 else walkFrom s va 4 root) with
    | .fault sub => .error { code := 7, sub := sub, addr := a }
    | .leaf level e =>
      let pa := leafAddr level e va
      if (if write then !e.getLsbD 3 else !e.getLsbD 2) || e.getLsbD 4 then .error (protFault 6 a)
      else match s.place pa with
        | .none => .error { code := 7, sub := 3, addr := a }
        | .slate _ => if write then .error (protFault 3 a) else if s.errAt pa n = .uncorrectable then .error { code := 9, addr := a } else .ok pa
        | .device => .error (protFault 6 a)
        | _ =>
          if s.isRetired pa then .error { code := 9, sub := 1, addr := a }
          else if write && s.inFormat pa n then .error (protFault 4 a)
          else if !write && s.errAt pa n = .uncorrectable then .error { code := 9, addr := a }
          else .ok pa

/-- Pieces of n bytes from va on that no line of 64 bytes crosses. -/
def vaPieces (va n : Nat) : List (Nat × Nat) := lineCuts [(va, n)]

/-- R190: a write of a peer registers here, with the peer's owner tag: a former owner is revoked, and the bytes are
written; where a dirty line meets an error first, the request is served again after it (R357). (Log entry 56: DEDUCED, unsafe.) -/
def State.peerStore (s : State) (pkg : BitVec 8) (tag : Tid) (bind : BitVec 12) (pa n data : Nat) : State :=
  let s := s.mergeCorrect pa n
  ((({ s with errs := clearErrs s.errs 0 (s.mapped pa) n }).physWrite 0 pa n data).registerSline 0 pa n pkg tag bind).1

/-- The first fault of a list of places, or the places. -/
def allPlaces (l : List (Except Flt (Nat × Nat))) : Except Flt (List (Nat × Nat)) :=
  l.foldr (fun x r => match x, r with
    | .error f, _ => .error f
    | .ok _, .error f => .error f
    | .ok p, .ok l => .ok (p :: l)) (.ok [])

/-- R377: a request of a peer is served under its peer PASID, and the answer goes back. (Log entry 56: DEDUCED, unsafe.) -/
def execPeerRequest (r : PeerReq) (s : State) : Host.Outcome State Fault Refusal :=
  let me : Tid := ⟨peerCore r.link, 0⟩
  let asker (t : Tid) : Tid := ⟨peerCore r.link, t.core * 16 + t.slot⟩
  let back (a : Act) (s : State) : State := s.toPeer (s.links.get {} r.link).peer.toNat r.link (.act a)
  let bad := s.pasidFault r.pasid r.tenant 0
  let admitted (pa : Nat) : Bool := s.routeAdmits (clusterOf me.core) (s.home pa) r.tenant
  let places (write : Bool) (va n : Nat) : Except Flt (List (Nat × Nat)) :=
    allPlaces ((vaPieces va n).map fun p => match s.peerPlace r write p.1 p.2 with
      | .error f => .error f
      | .ok pa => if admitted pa then .ok (pa, p.2) else .error { code := 8, addr := BitVec.ofNat 64 p.1 })
  match r.op with
  | .future q =>
    let q := { q with tid := asker q.tid, tenant := r.tenant }
    .next <| match bad with
    | some f => if hasReply q then back (.futureReply q { fault := some { f with addr := q.handle } }) s else s
    | none => s.futureAct (hCluster q.handle) q
  | .decrement d =>
    let d := { d with tid := asker d.tid, tenant := r.tenant }
    match bad with
    | some f => .next (back (.decReply d (some { f with addr := d.handle }) 0) s)
    | none => execWaitingTaskDecrement d s
  | .wait t id h => .next <| match bad with
    | some f => back (.waitReply (asker t) id (if f.code = 7 then 4 else 3) h) s
    | none => s.waitAct (hCluster h) (asker t) id h r.tenant
  | .waitRead t id h d => .next <| match bad with
    | some f => back (.tableReply (asker t) id 8 (some (d, 0)) (some { f with addr := h })) s
    | none => s.wtAct (hCluster h) (asker t) id h d r.tenant
  | .flit cl addr data =>
    if bad.isSome ∨ !s.routeAdmits (clusterOf me.core) cl r.tenant then .next s else execMsgDelivery cl addr data s
  | .read cl id msg va n =>
    let ans (data : Nat) (f : Option Flt) (s : State) : State := back (.engine cl id (.reply msg data f)) s
    .next <| match bad with
    | some f => ans 0 (some { f with addr := BitVec.ofNat 64 va }) s
    | none => match places false va n with
      | .error f => ans 0 (some f) s
      | .ok l =>
        let s := l.foldl (fun (s : State) p => (s.fillSline 0 p.1).correct p.1 p.2) s
        ans (l.foldr (fun p v => s.loadBytes 0 p.1 p.2 + 256 ^ p.2 * v) 0) none s
  | .revoke core line words => execRevoke core line words s
  | .parkNext ref next =>
    .next (if bad.isNone && s.parkOpen ref r.tenant && s.routeAdmits (clusterOf me.core) (parkCluster ref) r.tenant
      then s.modPark ref fun p => { p with next := next } else s)
  | .creq ref =>
    .next (if bad.isNone && s.routeAdmits (clusterOf me.core) (parkCluster ref) r.tenant then s.cancelTask ref r.tenant else s)
  | .write cl id msg va n data tag bind =>
    let ans (f : Option Flt) (s : State) : State := back (.engine cl id (.ack msg f)) s
    .next <| match bad with
    | some f => ans (some { f with addr := BitVec.ofNat 64 va }) s
    | none => match places true va n with
      | .error f => ans (some f) s
      | .ok l =>
        let pkg := (s.links.get {} r.link).peer
        let dirty := l.filter fun p => (s.badWriteBack 0 p.1 fun l => !l.ownedBy pkg tag bind) || s.badMerge 0 p.1 p.2
        if !dirty.isEmpty then (dirty.foldl (fun (s : State) p => s.dirtyUe 0 p.1) s).actAt s.now (.peer r)
        else ans none (l.foldl (fun (x : State × Nat) p =>
          (x.1.peerStore pkg tag bind p.1 p.2 (x.2 % 256 ^ p.2), x.2 / 256 ^ p.2)) (s, data)).1

/-- What an answer answers, in the same terms. -/
def Act.answers : Act → Option (Nat × Nat × Nat)
  | .futureReply q _ => some (0, q.tid.core * 16 + q.tid.slot, q.id)
  | .decReply d _ _ => some (1, d.tid.core * 16 + d.tid.slot, d.id)
  | .waitReply t id _ _ => some (2, t.core * 16 + t.slot, id)
  | .tableReply t id _ _ _ => some (3, t.core * 16 + t.slot, id)
  | .engine cl id (.reply msg _ _) => some (4, cl * 2 ^ 32 + id, msg)
  | .engine cl id (.ack msg _) => some (5, cl * 2 ^ 32 + id, msg)
  | _ => none

/-- R377: a request that has been answered is no longer in flight. -/
def State.answered (s : State) (a : Act) : State :=
  if s.linkWait.isEmpty then s
  else match a.answers with
    | none => s
    | some k => { s with linkWait := s.linkWait.eraseP fun m => m.ev.asks == some k }

/-- R377: a link goes down: what it carries waits, or is sent again on another link to its peer. (Log entry 22: DESIGN CHOICE, unsafe.) -/
def execLinkDown (link : Nat) (s : State) : Host.Outcome State Fault Refusal :=
  let s : State := { s with links := s.links.put {} link { s.links.get {} link with up := false } }
  .next { s with linkWait := (s.linkWait.filter fun m => m.link ≠ some link || s.onItsWay m).map fun m =>
    if m.link = some link then { m with link := s.linkTo m.pkg m.key, sent := s.now } else m }

/-- R377: a link is up: each message that waits for its peer goes out once. (Log entry 22: DESIGN CHOICE, unsafe.) -/
def execLinkUp (link : Nat) (s : State) : Host.Outcome State Fault Refusal :=
  let s : State := { s with links := s.links.put {} link { s.links.get {} link with up := true } }
  .next { s with linkWait := s.linkWait.map fun m =>
    if m.link.isNone then { m with link := s.linkTo m.pkg m.key, sent := s.now } else m }

/-! Power-on and core reset. -/

/-- R5, R371, R374: every field at its reset value but flash, what is attached, and the inputs of the model; images staged
since the last boot run, and the boot sequence number rises. (Log entry 5: DESIGN CHOICE, unsafe.) (log entry 55: DESIGN CHOICE, unsafe.) -/
def execPowerOn (s : State) : Host.Outcome State Fault Refusal :=
  let f := s.flash
  let (fw, fw2) := f.firmware.useNext f.firmware2 f.swapFw
  let (cfg, cfg2) := f.config.useNext f.config2 f.swapCfg
  let b := s.boot
  .next { State.reset with
    verdicts := s.verdicts, stepChecks := s.stepChecks, slack := s.slack, rafterBad := s.rafterBad, fresh := s.fresh
    hostMem := s.hostMem, cxl := s.cxl, phys := s.phys.filter fun x => (0x40000000000 ≤ x.1) && (x.1 < 0x80000000000)
    flash := { f with firmware := fw, firmware2 := fw2, config := cfg, config2 := cfg2, swapFw := false, swapCfg := false }
    boot := { seq := b.seq + 1, records := b.records, recorded := b.recorded, outCores := b.outCores, faulty := b.faulty
              badCores := b.badCores, badRafters := b.badRafters, peers := b.peers } }

/-- R19, R171, R224, R335: TICK, the counters and the queues are zero, the arbiter starts again, and a window begins. (Log entry 57: DEDUCED, unsafe.) -/
def execCoreReset (core : Nat) (s : State) : Host.Outcome State Fault Refusal :=
  .next (s.modCore core fun c => { c with
    tickBase := BitVec.ofNat 64 s.now, perf := [], late := [], lastServed := 15
    qregs := c.qregs.filterMap fun (n, q) => if q.pres = 0 then none else some (n, { q with entries := [], tag := none })
    wrep := 0, wstep := 0, winStart := s.now, resetAt := if c.issueAt = s.now + 1 then s.now + 1 else s.now })

end Sys2Proof.Machine
end

