-- ==== Sys2Proof/Machine/Acts.lean ====
section
/-!
DEFINITION. What the agenda's effects do.
-/

namespace Sys2Proof.Machine

/-- A fault reaches its verdict (R345), if the thread has not stopped or ended meanwhile. -/
def State.raiseDue (s : State) (t : Tid) (f : Flt) : State :=
  match (s.slot t).st with
  | .ready | .waiting _ => s.raise t f
  | _ => s

/-- The request that the end of a thread sends to its task's future: `kind` 1 TEND, 2 HALT. -/
def State.endOp (s : State) (t : Tid) (kind : Nat) : Option FOp :=
  if kind = 1 then some (.tend (s.ctx t).creq) else if kind = 2 then some .halt else none

/-- A host command that a queue has started, by its kind (R258, R367). -/
def hostKind (q idx kind : Nat) (s : State) : Host.Outcome State Fault Refusal :=
  match kind with
  | 0 => execHostNop q idx s
  | 1 => execLaunch q idx s
  | 2 => execSignal q idx s
  | 3 => execWaitmem q idx s
  | 0x10 => execEnvelope q idx s
  | 0x11 => execQclear q idx s
  | 0x12 => execPower q idx s
  | 0x13 => execStep q idx s
  | 0x14 => execCheckpoint q idx s
  | 0x15 => execRestore q idx s
  | 0x16 => execAttest q idx s
  | 0x17 => execTenant q idx s
  | 0x18 => execSlotload q idx s
  | 0x19 => execFwstage q idx s
  | _ => .next s

/-- A reply that its landing check admits (R169). -/
def landing (core : Nat) (a : Act) (k : State → State) (s : State) : Host.Outcome State Fault Refusal := .next (s.checked core a k)

def perform (a : Act) (s : State) : Host.Outcome State Fault Refusal :=
  match a with
  | .raise t f => .next (s.raiseDue t f)
  | .stopThread t => .next (s.stopThread t)
  | .replayCount c => .next (s.countReplays c 1 2)
  | .stepRepeat c n => .next (s.countReplays c n 3)
  | .landRepeat c => .next (s.countReplays c 1 4)
  | .wakeKeys c ks => .next (s.wakeKeys c ks)
  | .wake t 0 => .next (s.rdvGo t)
  | .wake t _ => .next (s.rdvReply t none)
  | .localWrite t a n d => .next (s.localCommit t a n d)
  | .localLoad t dst a n => .next (s.landReg t dst (s.localRead t.core a n))
  | .localFill t a n d => .next (s.localFill t a n d)
  | .fullRestore c a n f => .next (s.setLocalFull c a n f)
  | .acquireL1 t d => .next (s.acquire t d)
  | .l1Store a => .next (s.l1Store a)
  | .atomSend a => .next (s.atomSend a)
  | .cstoreSend a => .next (s.cstoreSend a)
  | .arrive a => .next (s.arrive a)
  | .ldnStart a => .next (s.ldnStart a)
  | .translated a f => .next (s.translated a f)
  | .walk a l tb => .next (s.walkStep a l tb)
  | .deferFault t b f => .next (s.deferFault t b f)
  | .qPush c q v ok => .next (s.qPushCommit c q v ok)
  | .qPair c q v team => .next (s.qPairCommit c q v team)
  | .qPop c q id ok => .next (s.qPopCommit c q id ok)
  | .bPush c b ok => .next (s.bPushCommit c b ok)
  | .bPop c b n ok => .next (s.bPopCommit c b n ok)
  | .bWrite c b e v m push ok => .next (s.battenWrite c b e v m push ok)
  | .coreReg t r v => .next (s.writeCoreReg t r v)
  | .join c m => .next (s.join c m)
  | .enqueue c q id => .next (s.enqueueCmd c q id)
  | .dropPlace c q id => .next (s.dropPlace c q id)
  | .heads c => .next (s.heads c)
  | .engines cl => .next (s.arbitrate cl)
  | .outPorts cl => .next (s.outPorts cl)
  | .engine cl id e => .next ((s.answered a).engineAct cl id e)
  | .permits cl => .next (s.permitsBack cl)
  | .rdvDepart c p => .next (s.rdvDepart c p)
  | .rdvUndo c p => .next (s.rdvUndo c p)
  | .rdvSend t p n fin => .next (s.rdvSend t p n fin)
  | .rdvReply t f => landing t.core (.rdvReply t f) (·.rdvReply t (some f)) s
  | .fork t n target arg ok => .next (s.forkCommit t n target arg ok)
  | .endThread t kind v => .next (s.endThread t (s.endOp t kind) v)
  | .futureSend r => .next (s.futureSend r)
  | .future cl r => .next (s.futureAct cl r)
  | .recordAct cl r => .next (s.recordAct cl r)
  | .recordDone cl r => .next (s.recordDone cl r)
  | .futureReply r ans => landing r.tid.core (.futureReply r ans) (·.futureLands r ans) (s.answered a)
  | .outcome ref code v ent rank => .next (s.outcomeLands ref code v ent rank)
  | .spawnCommit t ent q d p ok => .next (s.spawnCommit t ent q d p ok)
  | .spillSend r => .next (s.performAt (s.now + 21) r.tid (.futureSpill r))
  | .spillRead r ent => .next (s.spillRead r ent)
  | .spawnatSend r =>
    .next (s.sched (s.now + performTime r.tid.core (clusterOf r.target) - 3) (Phase.table r.tid (clusterOf r.target)) (.act (.spawnat r)))
  | .spawnat r => .next (s.spawnatAct r)
  | .spawnReply r f h => landing r.tid.core (.spawnReply r f h) (·.spawnLand r f h) s
  | .spawnRetry cl => .next (retrySpawns cl (s.cluster cl).spawnHeld s)
  | .bind t c k e => .next (s.bindContext t c k e)
  | .decSend r => .next (s.decSend r)
  | .decReply r f v => landing r.tid.core (.decReply r f v) (·.decLands r f v) (s.answered a)
  | .creq p tenant => .next (s.cancelTask p tenant)
  | .msgSend r src dst n => .next (s.msgSend r src dst n)
  | .waitingSend r => .next (s.waitingSend r)
  | .waiting r => .next (s.waitingAct r)
  | .tableReply t id len d f => landing t.core (.tableReply t id len d f) (·.tableLands t id len d f) (s.answered a)
  | .resume t id len ws => .next (s.resumeLands t id len ws)
  | .waitRequest cl t id h tenant => .next (s.waitAct cl t id h tenant)
  | .waitReply t id code h => landing t.core (.waitReply t id code h) (·.waitLands t id code h) (s.answered a)
  | .wtRead cl t id h d tenant => .next (s.wtAct cl t id h d tenant)
  | .budRead t id kind d => .next (s.budAct t id kind d)
  | .claim c pn slot won ok => .next (s.claimCommit c pn slot won ok)
  | .release c pn => .next (s.setPurlin c pn (s.purlin c pn).released)
  | .repart c m => .next (s.repart c m)
  | .ctxld c n => .next (s.loadContext c n)
  | .ctxst c n => .next (s.storeContext c n)
  | .yield t _ => .next (s.yieldAt t)
  | .tlbinv t id size func p va len => .next (s.tlbinv t id size func p va len)
  | .rowStore a => .next (s.rowStore a)
  | .resumeBank c id f => .next (s.resumeBank c id f)
  | .bankData a => .next (s.bankData a)
  | .bankEnd t id len f => .next (s.bankEnd t id len f)
  | .packet b d => .next (s.peerPacket b d)
  | .seed team core => execSeedBinding team core s
  | .peer r => execPeerRequest r s
  | .gatingEnd c => execGatingEntry c s
  | .gatingWake c => execGatingWake c s
  | .evqctlWrite v => execEvqctlWrite v s
  | .supervisorResume t => execSupervisorResume t s
  | .supervisorKill t => execSupervisorKill t s
  | .supervisorUnwind t => execSupervisorUnwind t s
  | .supervisorStop t => execSupervisorStop t s
  | .acterrClear t => execActerrClear t s
  | .afullWrite c o v => execAfullWrite c o v s
  | .apertureAccess c o w => execApertureAccess c o w s
  | .dirtyLineUe l => execDirtyLineUe l s
  | .pageRetireRequest cl p => execPageRetireRequest cl p s
  | .sparePageCopy p => execSparePageCopy p s
  | .ownerKill t b => execOwnerKill t b s
  | .bindingSweep t => execBindingSweep t s
  | .doorbell q v => execDoorbell q v s
  | .hostWrite a v => .next (s.hostStore a v)
  | .queueReset q => execQueueReset q s
  | .command q idx kind => hostKind q idx kind s

end Sys2Proof.Machine
end

