-- ==== Sys2Proof/Machine/Scalar.lean ====
section
/-!
DEFINITION. The scalar integer instructions, opcodes 0x00 to 0x1F (R81 to R90).
-/

namespace Sys2Proof.Machine

/-- R84: the quotient and the remainder. -/
def divSigned (a b : W64) : W64 := if b = 0 then BitVec.allOnes 64 else BitVec.ofInt 64 (a.toInt.tdiv b.toInt)
def remSigned (a b : W64) : W64 := if b = 0 then a else BitVec.ofInt 64 (a.toInt.tmod b.toInt)
def divUnsigned (a b : W64) : W64 := if b = 0 then BitVec.allOnes 64 else BitVec.ofNat 64 (a.toNat / b.toNat)
def remUnsigned (a b : W64) : W64 := if b = 0 then a else BitVec.ofNat 64 (a.toNat % b.toNat)

/-- R86: the shift count. -/
def shiftOf (b : W64) : Nat := b.toNat % 64

/-- R87. -/
def clz (a : W64) : W64 := BitVec.ofNat 64 (64 - Num.width a.toNat)
def ctz (a : W64) : W64 := BitVec.ofNat 64 (((List.range 64).find? a.getLsbD).getD 64)
def popCount (a : W64) : W64 := BitVec.ofNat 64 ((List.range 64).filter a.getLsbD).length
def bitReverse (a : W64) : W64 := BitVec.ofNat 64 (Num.pack 1 64 fun j => (a.getLsbD (63 - j)).toNat)

/-- R88: position and effective width of a field specifier. -/
def fieldPos (b : W64) : Nat := b.toNat % 64
def fieldWidth (b : W64) : Nat := Min.min (fieldPos b + (b.toNat / 64 % 64 + 1)) 64 - fieldPos b

def extractField (signed : Bool) (a b : W64) : W64 :=
  let f := a.toNat / 2 ^ fieldPos b % 2 ^ fieldWidth b
  if signed then BitVec.ofInt 64 (Num.signed f (fieldWidth b)) else BitVec.ofNat 64 f

def insertField (t a b : W64) : W64 := setField t (fieldPos b) (fieldWidth b) (a.toNat % 2 ^ fieldWidth b)

/-- R89. -/
def satSigned (v : Int) : W64 := BitVec.ofInt 64 (Num.sat v (-(2 ^ 63 : Nat)) ((2 ^ 63 - 1 : Nat)))

/-- R90: the width of an extension. -/
def extBits : ExtW → Nat
  | .b => 8
  | .h => 16
  | .w => 32

def execAdd (h : Hdr) (d a : Reg) (b : Src) (s : State) := scalar2 h d a b (· + ·) s
def execSub (h : Hdr) (d a : Reg) (b : Src) (s : State) := scalar2 h d a b (· - ·) s
def execMul (h : Hdr) (d a : Reg) (b : Src) (s : State) := scalar2 h d a b (· * ·) s
def execMulh (h : Hdr) (d a : Reg) (b : Src) (s : State) :=
  scalar2 h d a b (fun x y => BitVec.ofInt 64 (x.toInt * y.toInt / (2 ^ 64 : Nat))) s
def execMulhn (h : Hdr) (d a : Reg) (b : Src) (s : State) :=
  scalar2 h d a b (fun x y => BitVec.ofNat 64 (x.toNat * y.toNat / 2 ^ 64)) s
def execDiv (h : Hdr) (d a : Reg) (b : Src) (s : State) := scalar2 h d a b divSigned s
def execDivn (h : Hdr) (d a : Reg) (b : Src) (s : State) := scalar2 h d a b divUnsigned s
def execRem (h : Hdr) (d a : Reg) (b : Src) (s : State) := scalar2 h d a b remSigned s
def execRemn (h : Hdr) (d a : Reg) (b : Src) (s : State) := scalar2 h d a b remUnsigned s
def execAnd (h : Hdr) (d a : Reg) (b : Src) (s : State) := scalar2 h d a b (· &&& ·) s
def execOr (h : Hdr) (d a : Reg) (b : Src) (s : State) := scalar2 h d a b (· ||| ·) s
def execXor (h : Hdr) (d a : Reg) (b : Src) (s : State) := scalar2 h d a b (· ^^^ ·) s
def execAndn (h : Hdr) (d a : Reg) (b : Src) (s : State) := scalar2 h d a b (fun x y => x &&& ~~~y) s
def execOrn (h : Hdr) (d a : Reg) (b : Src) (s : State) := scalar2 h d a b (fun x y => x ||| ~~~y) s
def execShl (h : Hdr) (d a : Reg) (b : Src) (s : State) := scalar2 h d a b (fun x y => x <<< shiftOf y) s
def execShr (h : Hdr) (d a : Reg) (b : Src) (s : State) := scalar2 h d a b (fun x y => x >>> shiftOf y) s
def execShra (h : Hdr) (d a : Reg) (b : Src) (s : State) := scalar2 h d a b (fun x y => x.sshiftRight (shiftOf y)) s
def execRotr (h : Hdr) (d a : Reg) (b : Src) (s : State) := scalar2 h d a b (fun x y => x.rotateRight (shiftOf y)) s
def execClz (h : Hdr) (d a : Reg) (s : State) := scalar1 h d a clz s
def execCtz (h : Hdr) (d a : Reg) (s : State) := scalar1 h d a ctz s
def execPopc (h : Hdr) (d a : Reg) (s : State) := scalar1 h d a popCount s
def execBrev (h : Hdr) (d a : Reg) (s : State) := scalar1 h d a bitReverse s
def execBext (h : Hdr) (signed : Bool) (d a : Reg) (b : Src) (s : State) := scalar2 h d a b (extractField signed) s
/-- R88: BINS reads its destination. -/
def execBins (h : Hdr) (d a : Reg) (b : Src) (s : State) : Host.Outcome State Fault Refusal :=
  compute h (rG a :: wG d :: rS b) (fun c => c.wg d (insertField (c.rg d) (c.rg a) (c.rs b))) s
def execMin (h : Hdr) (d a : Reg) (b : Src) (s : State) := scalar2 h d a b (fun x y => if y.slt x then y else x) s
def execMinn (h : Hdr) (d a : Reg) (b : Src) (s : State) := scalar2 h d a b (fun x y => if y < x then y else x) s
def execMax (h : Hdr) (d a : Reg) (b : Src) (s : State) := scalar2 h d a b (fun x y => if x.slt y then y else x) s
def execMaxn (h : Hdr) (d a : Reg) (b : Src) (s : State) := scalar2 h d a b (fun x y => if x < y then y else x) s
def execAdds (h : Hdr) (d a : Reg) (b : Src) (s : State) := scalar2 h d a b (fun x y => satSigned (x.toInt + y.toInt)) s
def execSubs (h : Hdr) (d a : Reg) (b : Src) (s : State) := scalar2 h d a b (fun x y => satSigned (x.toInt - y.toInt)) s
def execSext (h : Hdr) (w : ExtW) (d a : Reg) (s : State) :=
  scalar1 h d a (fun x => BitVec.ofInt 64 (Num.signed x.toNat (extBits w))) s
def execZext (h : Hdr) (w : ExtW) (d a : Reg) (s : State) :=
  scalar1 h d a (fun x => BitVec.ofNat 64 (x.toNat % 2 ^ extBits w)) s

end Sys2Proof.Machine
end

