-- ==== Sys2Proof/Machine/Predicate.lean ====
section
/-!
DEFINITION. Compare, predicate and select, opcodes 0x20 to 0x2B (R91 to R98).
-/

namespace Sys2Proof.Machine

def execCmp (h : Hdr) (rel : CmpRel) (d : KReg) (e : Option KReg) (a : Reg) (b : Src) (s : State) :=
  test2 h d e a b (Flags.cmp rel) s
def execCmpf (h : Hdr) (rel : FRel) (ty : Fmt) (d : KReg) (e : Option KReg) (a : Reg) (b : Src) (s : State) :=
  test2 h d e a b (Flags.cmpf rel ty) s
def execTst (h : Hdr) (z : Bool) (d : KReg) (e : Option KReg) (a : Reg) (b : Src) (s : State) :=
  test2 h d e a b (Flags.tst z) s
def execPand (h : Hdr) (d a b : KReg) (s : State) := pred2 h d a b (· &&& ·) s
def execPor (h : Hdr) (d a b : KReg) (s : State) := pred2 h d a b (· ||| ·) s
def execPxor (h : Hdr) (d a b : KReg) (s : State) := pred2 h d a b (· ^^^ ·) s
def execPandn (h : Hdr) (d a b : KReg) (s : State) := pred2 h d a b (fun x y => x &&& ~~~y) s
def execPnot (h : Hdr) (d a : KReg) (s : State) : Host.Outcome State Fault Refusal :=
  compute h [rK a, wK d] (fun c => c.wk d (~~~(c.rk a))) s
/-- R95. -/
def execPmov (h : Hdr) (op : PmovOp) (s : State) : Host.Outcome State Fault Refusal :=
  match op with
  | .toK d a => compute h [rG a, wK d] (fun c => c.wk d (c.rg a)) s
  | .toG d a => compute h [rK a, wG d] (fun c => c.wg d (c.rk a)) s
  | .kk d a => compute h [rK a, wK d] (fun c => c.wk d (c.rk a)) s
def execPset (h : Hdr) (d : KReg) (v : W64) (s : State) : Host.Outcome State Fault Refusal :=
  compute h [wK d] (fun c => c.wk d v) s
/-- R97. -/
def execSel (h : Hdr) (d : Reg) (k : KReg) (a : Reg) (b : Src) (s : State) : Host.Outcome State Fault Refusal :=
  compute h (rG a :: wG d :: rK k :: rS b)
    (fun c => c.wg d (if (c.rk k).getLsbD 0 then c.rg a else c.rs b)) s
/-- R98. -/
def execPcnt (h : Hdr) (ffs : Bool) (d : Reg) (a b : KReg) (s : State) : Host.Outcome State Fault Refusal :=
  compute h [rK a, rK b, wG d]
    (fun c => c.wg d (if ffs then ctz (c.rk a &&& c.rk b) else popCount (c.rk a &&& c.rk b))) s

end Sys2Proof.Machine
end

