-- ==== Sys2Proof/Machine/Vector.lean ====
section
/-!
DEFINITION. The vector instructions, opcodes 0x60 to 0x87 (R104 to R121).
-/

namespace Sys2Proof.Machine

/-- R110: an arithmetic result: exact on the values and rounded once for floats, wrapped for integers. -/
def arith (ty : Fmt) (rnd : Rnd) (sat : Bool) (ints : Int → Int → Int → Int) (vals : Num.Val → Num.Val → Num.Val → Num.Val)
    (a b c : Nat) : Nat :=
  if Num.isInt ty then Num.wrap (ints a b c) (Num.bits ty)
  else Num.roundArith ty rnd sat (vals (Num.value ty a) (Num.value ty b) (Num.value ty c))

/-- An integer element as its type reads it. -/
def intElem (ty : Fmt) (x : Nat) : Int := if Num.isSigned ty then Num.signed x (Num.bits ty) else x

def execVadd (h : Hdr) (o : VOps) (s : State) :=
  vector3 h o false (arith o.ty o.rnd o.sat (fun a b _ => a + b) (fun x y _ => Num.add o.rnd x y)) s
def execVsub (h : Hdr) (o : VOps) (s : State) :=
  vector3 h o false (arith o.ty o.rnd o.sat (fun a b _ => a - b) (fun x y _ => Num.add o.rnd x (Num.neg y))) s
def execVmul (h : Hdr) (o : VOps) (s : State) :=
  vector3 h o false (arith o.ty o.rnd o.sat (fun a b _ => a * b) (fun x y _ => Num.mul x y)) s
def execVfma (h : Hdr) (o : VOps) (s : State) :=
  vector3 h o true (arith o.ty o.rnd o.sat (fun a b c => a * b + c) (fun x y z => Num.add o.rnd (Num.mul x y) z)) s
def execVfms (h : Hdr) (o : VOps) (s : State) :=
  vector3 h o true (arith o.ty o.rnd o.sat (fun a b c => a * b - c)
    (fun x y z => Num.add o.rnd (Num.mul x y) (Num.neg z))) s
def execVfnma (h : Hdr) (o : VOps) (s : State) :=
  vector3 h o true (arith o.ty o.rnd o.sat (fun a b c => c - a * b)
    (fun x y z => Num.add o.rnd z (Num.neg (Num.mul x y)))) s
def execVdiv (h : Hdr) (o : VOps) (s : State) :=
  vector3 h o false (fun a b _ => Num.roundArith o.ty o.rnd o.sat (Num.div (Num.value o.ty a) (Num.value o.ty b))) s
def execVsqrt (h : Hdr) (o : VOps) (s : State) :=
  vector1 h o (fun a => Num.roundArith o.ty o.rnd o.sat (Num.sqrt (Num.value o.ty a))) s

/-- R111, R112: the smaller or the larger element. -/
def minMax (max : Bool) (ty : Fmt) (a b : Nat) : Nat :=
  if Num.isInt ty then
    if decide (intElem ty b < intElem ty a) != max then b else a
  else Num.fminmax max ty a b

/-- R111: |a| or −a. -/
def absNeg (neg : Bool) (ty : Fmt) (sat : Bool) (a : Nat) : Nat :=
  if Num.isInt ty then
    let v := intElem ty a
    let r := if neg then -v else v.natAbs
    Num.wrap (if sat then Num.sat r (Num.intLo ty) (Num.intHi ty) else r) (Num.bits ty)
  else if Num.isNan (Num.value ty a) then Num.canon ty
  else
    let m := a % Num.signBit ty
    if neg && decide (a < Num.signBit ty) then m + Num.signBit ty else m

def execVmin (h : Hdr) (o : VOps) (s : State) := vector3 h o false (fun a b _ => minMax false o.ty a b) s
def execVmax (h : Hdr) (o : VOps) (s : State) := vector3 h o false (fun a b _ => minMax true o.ty a b) s
def execVabs (h : Hdr) (o : VOps) (s : State) := vector1 h o (absNeg false o.ty o.sat) s
def execVneg (h : Hdr) (o : VOps) (s : State) := vector1 h o (absNeg true o.ty o.sat) s
def execVand (h : Hdr) (o : VOps) (s : State) := vector3 h o false (fun a b _ => a &&& b) s
def execVor (h : Hdr) (o : VOps) (s : State) := vector3 h o false (fun a b _ => a ||| b) s
def execVxor (h : Hdr) (o : VOps) (s : State) := vector3 h o false (fun a b _ => a ^^^ b) s
/-- R111: the shift count is b mod w. -/
def execVshl (h : Hdr) (o : VOps) (s : State) :=
  vector3 h o false (fun a b _ => a * 2 ^ (b % Num.bits o.ty) % 2 ^ Num.bits o.ty) s
def execVshr (h : Hdr) (o : VOps) (s : State) := vector3 h o false (fun a b _ => a / 2 ^ (b % Num.bits o.ty)) s
def execVshra (h : Hdr) (o : VOps) (s : State) :=
  vector3 h o false (fun a b _ =>
    Num.wrap (Num.signed a (Num.bits o.ty) / (2 ^ (b % Num.bits o.ty) : Nat)) (Num.bits o.ty)) s
def execVadds (h : Hdr) (o : VOps) (s : State) :=
  vector3 h o false (fun a b _ =>
    Num.wrap (Num.sat (intElem o.ty a + intElem o.ty b) (Num.intLo o.ty) (Num.intHi o.ty)) (Num.bits o.ty)) s
def execVsubs (h : Hdr) (o : VOps) (s : State) :=
  vector3 h o false (fun a b _ =>
    Num.wrap (Num.sat (intElem o.ty a - intElem o.ty b) (Num.intLo o.ty) (Num.intHi o.ty)) (Num.bits o.ty)) s
def execVmulh (h : Hdr) (o : VOps) (s : State) :=
  vector3 h o false (fun a b _ =>
    Num.wrap (intElem o.ty a * intElem o.ty b / (2 ^ Num.bits o.ty : Nat)) (Num.bits o.ty)) s

/-- R113: both predicates keep the bits of disabled elements. -/
def execVcmp (h : Hdr) (rel : FRel) (ty : Fmt) (d : KReg) (e : Option KReg) (a : Reg) (b : Src) (s : State) :
    Host.Outcome State Fault Refusal :=
  let w := Num.bits ty
  let n := Num.count ty
  compute h (rV a :: wK d :: useE e ++ rSV b) (vec := true) (fun c =>
    let t := fun j => Flags.vcmp rel ty (Num.elem (c.rv a).toNat w j) (c.bElem b w j)
    let c' := c.wk d (Flags.lanes (c.rk d) w n (c.lm h) t)
    match e with
    | some e => c'.wk e (Flags.lanes (c.rk e) w n (c.lm h) fun j => !t j)
    | none => c') s

/-- R114. -/
def execVsel (h : Hdr) (ty : Fmt) (d : Reg) (k : KReg) (a : Reg) (b : Src) (s : State) :
    Host.Outcome State Fault Refusal :=
  let w := Num.bits ty
  vectorMap h ty d (rV a :: rK k :: rSV b) (fun c j =>
    if Num.enabled (c.rk k).toNat w j then Num.elem (c.rv a).toNat w j else c.bElem b w j) s

/-- R115: one converted element; equal codes move the element, but for a NaN. -/
def convert (src dst : Fmt) (rnd : Rnd) (sat : Bool) (x : Nat) : Nat :=
  if src = dst then (if Num.isNan (Num.value src x) then Num.canon dst else x)
  else Num.round dst rnd sat (Num.value src x)

/-- R115: a destination of 6-bit elements has zero above them. -/
def clear6 (f : Fmt) (v : Vec) : Vec := if Num.bits f = 6 then BitVec.ofNat 512 (v.toNat % 2 ^ 384) else v

def execVcvt (h : Hdr) (src dst : Fmt) (rnd : Rnd) (sat : Bool) (d a : Reg) (idx : BitVec 4) (s : State) :
    Host.Outcome State Fault Refusal :=
  let ns := Num.count src
  let nd := Num.count dst
  let n := Min.min ns nd
  let sb := if nd < ns then idx.toNat * n else 0
  let db := if ns < nd then idx.toNat * n else 0
  compute h [rV a, wV d] (vec := true) (fun c =>
    let old := c.rv d
    let v := Num.lanes old (Num.bits dst) nd (c.lm h).toNat fun j =>
      if db ≤ j ∧ j < db + n then convert src dst rnd sat (Num.elem (c.rv a).toNat (Num.bits src) (sb + (j - db)))
      else Num.elem old.toNat (Num.bits dst) j
    c.wv d (clear6 dst v)) s

/-- R116: element 0 receives the tree of the enabled elements, and every other element 0. -/
def reduce (h : Hdr) (ty : Fmt) (d a : Reg) (op : Nat → Nat → Nat) (ident : Nat) (s : State) :
    Host.Outcome State Fault Refusal :=
  let w := Num.bits ty
  let n := Num.count ty
  compute h [rV a, wV d] (vec := true) (fun c =>
    let l := (List.range n).map fun j =>
      if Num.enabled (c.lm h).toNat w j then some (Num.elem (c.rv a).toNat w j) else none
    c.wv d (BitVec.ofNat 512 ((Num.tree op (Nat.log2 n) l).getD ident))) s

def execVrsum (h : Hdr) (ty : Fmt) (rnd : Rnd) (sat : Bool) (d a : Reg) (s : State) :=
  reduce h ty d a (fun x y =>
    if Num.isInt ty then
      let v := intElem ty x + intElem ty y
      Num.wrap (if sat then Num.sat v (Num.intLo ty) (Num.intHi ty) else v) (Num.bits ty)
    else Num.roundArith ty rnd sat (Num.add rnd (Num.value ty x) (Num.value ty y))) 0 s

/-- R116: the largest and the smallest value of a type; infinities for floats. -/
def topOf (ty : Fmt) : Nat := if Num.isInt ty then Num.wrap (Num.intHi ty) (Num.bits ty) else Num.infEnc ty
def bottomOf (ty : Fmt) : Nat :=
  if Num.isInt ty then Num.wrap (Num.intLo ty) (Num.bits ty) else Num.withSign ty true (Num.infEnc ty)

def execVrmin (h : Hdr) (ty : Fmt) (d a : Reg) (s : State) := reduce h ty d a (minMax false ty) (topOf ty) s
def execVrmax (h : Hdr) (ty : Fmt) (d a : Reg) (s : State) := reduce h ty d a (minMax true ty) (bottomOf ty) s
def execVror (h : Hdr) (ty : Fmt) (d a : Reg) (s : State) := reduce h ty d a (· ||| ·) 0 s

/-- R117: an index, read unsigned and taken mod N. -/
def indexOf (ty : Fmt) (v : W64) : Nat := v.toNat % Num.count ty

def execVperm (h : Hdr) (ty : Fmt) (d a b : Reg) (s : State) :=
  let w := Num.bits ty
  vectorMap h ty d [rV a, rV b]
    (fun c j => Num.elem (c.rv a).toNat w (Num.elem (c.rv b).toNat w j % Num.count ty)) s
def execVrot (h : Hdr) (ty : Fmt) (d a : Reg) (b : Src) (s : State) :=
  vectorMap h ty d (rV a :: rS b)
    (fun c j => Num.elem (c.rv a).toNat (Num.bits ty) ((j + indexOf ty (c.rs b)) % Num.count ty)) s
def execVbcast (h : Hdr) (ty : Fmt) (d : Reg) (op : BcastOp) (s : State) : Host.Outcome State Fault Refusal :=
  match op with
  | .scalar a => vectorMap h ty d [rG a] (fun c _ => (c.rg a).toNat % 2 ^ Num.bits ty) s
  | .elem a b => vectorMap h ty d (rV a :: rS b)
      (fun c _ => Num.elem (c.rv a).toNat (Num.bits ty) (indexOf ty (c.rs b))) s
def execVins (h : Hdr) (ty : Fmt) (d a : Reg) (b : Src) (s : State) :=
  vectorMap h ty d (rG a :: rS b) (fun c j =>
    if j = indexOf ty (c.rs b) then (c.rg a).toNat % 2 ^ Num.bits ty else Num.elem (c.rv d).toNat (Num.bits ty) j) s
/-- R117: VEXT is guarded as a scalar instruction. -/
def execVext (h : Hdr) (ty : Fmt) (d a : Reg) (b : Src) (s : State) : Host.Outcome State Fault Refusal :=
  compute h (rV a :: wG d :: rS b) (fun c =>
    let x := Num.elem (c.rv a).toNat (Num.bits ty) (indexOf ty (c.rs b))
    c.wg d (if Num.isInt ty then BitVec.ofInt 64 (intElem ty x) else BitVec.ofNat 64 x)) s
def execVmov (h : Hdr) (ty : Fmt) (d : Reg) (b : Src) (s : State) :=
  vectorMap h ty d (rSV b) (fun c j => c.bElem b (Num.bits ty) j) s

/-- R118. -/
def execVzip (h : Hdr) (ty : Fmt) (hi : Bool) (d a b : Reg) (s : State) :=
  let o := if hi then Num.count ty / 2 else 0
  vectorMap h ty d [rV a, rV b] (fun c j =>
    Num.elem (if j % 2 = 0 then c.rv a else c.rv b).toNat (Num.bits ty) (o + j / 2)) s
def execVunzip (h : Hdr) (ty : Fmt) (odd : Bool) (d a b : Reg) (s : State) :=
  let half := Num.count ty / 2
  vectorMap h ty d [rV a, rV b] (fun c j =>
    Num.elem (if j < half then c.rv a else c.rv b).toNat (Num.bits ty) (2 * (j % half) + odd.toNat)) s

/-- R119: a correctly rounded function of each element. -/
def unaryFn (h : Hdr) (ty : Fmt) (rnd : Rnd) (sat : Bool) (d a : Reg) (f : Num.Val → Num.Val) (s : State) :=
  vectorMap h ty d [rV a] (fun c j =>
    Num.roundArith ty rnd sat (f (Num.value ty (Num.elem (c.rv a).toNat (Num.bits ty) j)))) s

def execVrcp (h : Hdr) (ty : Fmt) (rnd : Rnd) (sat : Bool) (d a : Reg) (s : State) :=
  unaryFn h ty rnd sat d a (Num.div (.fin false 1 0 false)) s
def execVrsq (h : Hdr) (ty : Fmt) (rnd : Rnd) (sat : Bool) (d a : Reg) (s : State) :=
  unaryFn h ty rnd sat d a Num.rsqrt s
def execVexp (h : Hdr) (ty : Fmt) (rnd : Rnd) (sat : Bool) (d a : Reg) (s : State) :=
  unaryFn h ty rnd sat d a Num.exp2 s

/-- R120. -/
def execVlut (h : Hdr) (ty : Fmt) (d a b : Reg) (idx : BitVec 4) (s : State) :=
  let w := Num.bits ty
  vectorMap h ty d (if ty = .q16 then [rV a] else [rV a, rV b]) (fun c j =>
    let m := Num.elem (c.rv a).toNat 4 (idx.toNat * Num.count ty + j)
    if ty = .q16 then Num.wrap (Num.q16Level m) 16 else Num.elem (c.rv b).toNat w m) s

end Sys2Proof.Machine
end

