-- ==== Sys2Proof/Machine/Dispatch.lean ====
section
/-!
DEFINITION. One arm per constructor of Instr.
-/

namespace Sys2Proof.Machine

def exec (i : Instr) (s : State) : Host.Outcome State Fault Refusal :=
  match i with
  | .add h d a b => Sys2Proof.Machine.execAdd h d a b s
  | .sub h d a b => Sys2Proof.Machine.execSub h d a b s
  | .mul h d a b => Sys2Proof.Machine.execMul h d a b s
  | .mulh h d a b => Sys2Proof.Machine.execMulh h d a b s
  | .mulhn h d a b => Sys2Proof.Machine.execMulhn h d a b s
  | .div h d a b => Sys2Proof.Machine.execDiv h d a b s
  | .divn h d a b => Sys2Proof.Machine.execDivn h d a b s
  | .rem h d a b => Sys2Proof.Machine.execRem h d a b s
  | .remn h d a b => Sys2Proof.Machine.execRemn h d a b s
  | .and h d a b => Sys2Proof.Machine.execAnd h d a b s
  | .or h d a b => Sys2Proof.Machine.execOr h d a b s
  | .xor h d a b => Sys2Proof.Machine.execXor h d a b s
  | .andn h d a b => Sys2Proof.Machine.execAndn h d a b s
  | .orn h d a b => Sys2Proof.Machine.execOrn h d a b s
  | .shl h d a b => Sys2Proof.Machine.execShl h d a b s
  | .shr h d a b => Sys2Proof.Machine.execShr h d a b s
  | .shra h d a b => Sys2Proof.Machine.execShra h d a b s
  | .rotr h d a b => Sys2Proof.Machine.execRotr h d a b s
  | .clz h d a => Sys2Proof.Machine.execClz h d a s
  | .ctz h d a => Sys2Proof.Machine.execCtz h d a s
  | .popc h d a => Sys2Proof.Machine.execPopc h d a s
  | .brev h d a => Sys2Proof.Machine.execBrev h d a s
  | .bext h signed d a b => Sys2Proof.Machine.execBext h signed d a b s
  | .bins h d a b => Sys2Proof.Machine.execBins h d a b s
  | .min h d a b => Sys2Proof.Machine.execMin h d a b s
  | .minn h d a b => Sys2Proof.Machine.execMinn h d a b s
  | .max h d a b => Sys2Proof.Machine.execMax h d a b s
  | .maxn h d a b => Sys2Proof.Machine.execMaxn h d a b s
  | .adds h d a b => Sys2Proof.Machine.execAdds h d a b s
  | .subs h d a b => Sys2Proof.Machine.execSubs h d a b s
  | .sext h w d a => Sys2Proof.Machine.execSext h w d a s
  | .zext h w d a => Sys2Proof.Machine.execZext h w d a s
  | .cmp h rel d e a b => Sys2Proof.Machine.execCmp h rel d e a b s
  | .cmpf h rel ty d e a b => Sys2Proof.Machine.execCmpf h rel ty d e a b s
  | .tst h z d e a b => Sys2Proof.Machine.execTst h z d e a b s
  | .pand h d a b => Sys2Proof.Machine.execPand h d a b s
  | .por h d a b => Sys2Proof.Machine.execPor h d a b s
  | .pxor h d a b => Sys2Proof.Machine.execPxor h d a b s
  | .pandn h d a b => Sys2Proof.Machine.execPandn h d a b s
  | .pnot h d a => Sys2Proof.Machine.execPnot h d a s
  | .pmov h op => Sys2Proof.Machine.execPmov h op s
  | .pset h d imm => Sys2Proof.Machine.execPset h d imm s
  | .sel h d c a b => Sys2Proof.Machine.execSel h d c a b s
  | .pcnt h ffs d a b => Sys2Proof.Machine.execPcnt h ffs d a b s
  | .br h off => Sys2Proof.Machine.execBr h off s
  | .jmp h a imm => Sys2Proof.Machine.execJmp h a imm s
  | .call h d off => Sys2Proof.Machine.execCall h d off s
  | .callr h d a imm => Sys2Proof.Machine.execCallr h d a imm s
  | .ret h a => Sys2Proof.Machine.execRet h a s
  | .loop h d off => Sys2Proof.Machine.execLoop h d off s
  | .brq h z off => Sys2Proof.Machine.execBrq h z off s
  | .nop h => Sys2Proof.Machine.execNop h s
  | .filler len => Sys2Proof.Machine.execFiller len s
  | .overlayTrap => Sys2Proof.Machine.execOverlayTrap s
  | .registerFill lines => Sys2Proof.Machine.execRegisterFill lines s
  | .ldl h m => Sys2Proof.Machine.execLdl h m s
  | .stl h m => Sys2Proof.Machine.execStl h m s
  | .ldc h m => Sys2Proof.Machine.execLdc h m s
  | .stc h m => Sys2Proof.Machine.execStc h m s
  | .ld h m => Sys2Proof.Machine.execLd h m s
  | .ldn h m => Sys2Proof.Machine.execLdn h m s
  | .st h m => Sys2Proof.Machine.execSt h m s
  | .pref h m => Sys2Proof.Machine.execPref h m s
  | .aadd h o => Sys2Proof.Machine.execAadd h o s
  | .aand h o => Sys2Proof.Machine.execAand h o s
  | .aor h o => Sys2Proof.Machine.execAor h o s
  | .axor h o => Sys2Proof.Machine.execAxor h o s
  | .amin h o => Sys2Proof.Machine.execAmin h o s
  | .amax h o => Sys2Proof.Machine.execAmax h o s
  | .aswp h o => Sys2Proof.Machine.execAswp h o s
  | .acas h o => Sys2Proof.Machine.execAcas h o s
  | .aacc h o => Sys2Proof.Machine.execAacc h o s
  | .afadd h o => Sys2Proof.Machine.execAfadd h o s
  | .afmin h o => Sys2Proof.Machine.execAfmin h o s
  | .afmax h o => Sys2Proof.Machine.execAfmax h o s
  | .acq h => Sys2Proof.Machine.execAcq h s
  | .acqC h a => Sys2Proof.Machine.execAcqC h a s
  | .rel h => Sys2Proof.Machine.execRel h s
  | .fence h => Sys2Proof.Machine.execFence h s
  | .fenceQ h mask => Sys2Proof.Machine.execFenceQ h mask s
  | .vadd h o => Sys2Proof.Machine.execVadd h o s
  | .vsub h o => Sys2Proof.Machine.execVsub h o s
  | .vmul h o => Sys2Proof.Machine.execVmul h o s
  | .vfma h o => Sys2Proof.Machine.execVfma h o s
  | .vfms h o => Sys2Proof.Machine.execVfms h o s
  | .vfnma h o => Sys2Proof.Machine.execVfnma h o s
  | .vdiv h o => Sys2Proof.Machine.execVdiv h o s
  | .vsqrt h o => Sys2Proof.Machine.execVsqrt h o s
  | .vmin h o => Sys2Proof.Machine.execVmin h o s
  | .vmax h o => Sys2Proof.Machine.execVmax h o s
  | .vabs h o => Sys2Proof.Machine.execVabs h o s
  | .vneg h o => Sys2Proof.Machine.execVneg h o s
  | .vand h o => Sys2Proof.Machine.execVand h o s
  | .vor h o => Sys2Proof.Machine.execVor h o s
  | .vxor h o => Sys2Proof.Machine.execVxor h o s
  | .vshl h o => Sys2Proof.Machine.execVshl h o s
  | .vshr h o => Sys2Proof.Machine.execVshr h o s
  | .vshra h o => Sys2Proof.Machine.execVshra h o s
  | .vadds h o => Sys2Proof.Machine.execVadds h o s
  | .vsubs h o => Sys2Proof.Machine.execVsubs h o s
  | .vmulh h o => Sys2Proof.Machine.execVmulh h o s
  | .vcmp h rel ty d e a b => Sys2Proof.Machine.execVcmp h rel ty d e a b s
  | .vsel h ty d c a b => Sys2Proof.Machine.execVsel h ty d c a b s
  | .vcvt h src dst rnd sat d a idx => Sys2Proof.Machine.execVcvt h src dst rnd sat d a idx s
  | .vrsum h ty rnd sat d a => Sys2Proof.Machine.execVrsum h ty rnd sat d a s
  | .vrmin h ty d a => Sys2Proof.Machine.execVrmin h ty d a s
  | .vrmax h ty d a => Sys2Proof.Machine.execVrmax h ty d a s
  | .vror h ty d a => Sys2Proof.Machine.execVror h ty d a s
  | .vperm h ty d a b => Sys2Proof.Machine.execVperm h ty d a b s
  | .vrot h ty d a b => Sys2Proof.Machine.execVrot h ty d a b s
  | .vbcast h ty d op => Sys2Proof.Machine.execVbcast h ty d op s
  | .vins h ty d a b => Sys2Proof.Machine.execVins h ty d a b s
  | .vext h ty d a b => Sys2Proof.Machine.execVext h ty d a b s
  | .vmov h ty d b => Sys2Proof.Machine.execVmov h ty d b s
  | .vrcp h ty rnd sat d a => Sys2Proof.Machine.execVrcp h ty rnd sat d a s
  | .vrsq h ty rnd sat d a => Sys2Proof.Machine.execVrsq h ty rnd sat d a s
  | .vexp h ty rnd sat d a => Sys2Proof.Machine.execVexp h ty rnd sat d a s
  | .vzip h ty hi d a b => Sys2Proof.Machine.execVzip h ty hi d a b s
  | .vunzip h ty odd d a b => Sys2Proof.Machine.execVunzip h ty odd d a b s
  | .vlut h ty d a b idx => Sys2Proof.Machine.execVlut h ty d a b idx s
  | .pitch h b => Sys2Proof.Machine.execPitch h b s
  | .vpack h fmt side push u a pos => Sys2Proof.Machine.execVpack h fmt side push u a pos s
  | .vpacks h push u a pos => Sys2Proof.Machine.execVpacks h push u a pos s
  | .pclaim h d pn => Sys2Proof.Machine.execPclaim h d pn s
  | .prel h pn => Sys2Proof.Machine.execPrel h pn s
  | .rclr h pn => Sys2Proof.Machine.execRclr h pn s
  | .rmul h o => Sys2Proof.Machine.execRmul h o s
  | .rtile h o => Sys2Proof.Machine.execRtile h o s
  | .rtiles h o => Sys2Proof.Machine.execRtiles h o s
  | .rext h o idx => Sys2Proof.Machine.execRext h o idx s
  | .rextm h o a row0 rows off => Sys2Proof.Machine.execRextm h o a row0 rows off s
  | .rgst h d pn hi => Sys2Proof.Machine.execRgst h d pn hi s
  | .rgld h pn a b => Sys2Proof.Machine.execRgld h pn a b s
  | .rbase h pn a => Sys2Proof.Machine.execRbase h pn a s
  | .rfuse h pn a => Sys2Proof.Machine.execRfuse h pn a s
  | .rtest h d => Sys2Proof.Machine.execRtest h d s
  | .rsave h pn a off => Sys2Proof.Machine.execRsave h pn a off s
  | .rload h pn a off => Sys2Proof.Machine.execRload h pn a off s
  | .sheafStep core => Sys2Proof.Machine.execSheafStep core s
  | .rfuseSourceRead core => Sys2Proof.Machine.execRfuseSourceRead core s
  | .rafterBackgroundTest core rafter => Sys2Proof.Machine.execRafterBackgroundTest core rafter s
  | .qput h u a => Sys2Proof.Machine.execQput h u a s
  | .qget h d u => Sys2Proof.Machine.execQget h d u s
  | .qpeek h d u => Sys2Proof.Machine.execQpeek h d u s
  | .qcnt h d u => Sys2Proof.Machine.execQcnt h d u s
  | .qpredPush h a => Sys2Proof.Machine.execQpredPush h a s
  | .qpredPop h d => Sys2Proof.Machine.execQpredPop h d s
  | .bset h u depth feed drain => Sys2Proof.Machine.execBset h u depth feed drain s
  | .bsetFree h u => Sys2Proof.Machine.execBsetFree h u s
  | .bpush h u => Sys2Proof.Machine.execBpush h u s
  | .bpop h u n => Sys2Proof.Machine.execBpop h u n s
  | .bstat h d u => Sys2Proof.Machine.execBstat h d u s
  | .fork h d t b => Sys2Proof.Machine.execFork h d t b s
  | .rdv h u n => Sys2Proof.Machine.execRdv h u n s
  | .rdvEnd h u n => Sys2Proof.Machine.execRdvEnd h u n s
  | .clusterRdvArrival t point n fin => Sys2Proof.Machine.execClusterRdvArrival t point n fin s
  | .rdvDepartureReply t => Sys2Proof.Machine.execRdvDepartureReply t s
  | .twget h o => Sys2Proof.Machine.execTwget h o s
  | .twgetC h o => Sys2Proof.Machine.execTwgetC h o s
  | .twgetRaw h o => Sys2Proof.Machine.execTwgetRaw h o s
  | .twgetPka h o => Sys2Proof.Machine.execTwgetPka h o s
  | .twgetPkb h o => Sys2Proof.Machine.execTwgetPkb h o s
  | .twput h o => Sys2Proof.Machine.execTwput h o s
  | .twputC h o => Sys2Proof.Machine.execTwputC h o s
  | .twdeal h form o => Sys2Proof.Machine.execTwdeal h form o s
  | .twcast h form o => Sys2Proof.Machine.execTwcast h form o s
  | .twremPush h o => Sys2Proof.Machine.execTwremPush h o s
  | .twremPull h o => Sys2Proof.Machine.execTwremPull h o s
  | .engineCommandStart cluster port core queue => Sys2Proof.Machine.execEngineCommandStart cluster port core queue s
  | .engineFlitLanding cluster port => Sys2Proof.Machine.execEngineFlitLanding cluster port s
  | .enginePermitReserve cluster port => Sys2Proof.Machine.execEnginePermitReserve cluster port s
  | .commandCompletion core id => Sys2Proof.Machine.execCommandCompletion core id s
  | .spawn h d a pc => Sys2Proof.Machine.execSpawn h d a pc s
  | .spawnat h d a b pc => Sys2Proof.Machine.execSpawnat h d a b pc s
  | .touch h d a b => Sys2Proof.Machine.execTouch h d a b s
  | .touchp h d e a b => Sys2Proof.Machine.execTouchp h d e a b s
  | .resolve h d a b => Sys2Proof.Machine.execResolve h d a b s
  | .tend h a => Sys2Proof.Machine.execTend h a s
  | .fcancel h d a => Sys2Proof.Machine.execFcancel h d a s
  | .fpoison h d a b => Sys2Proof.Machine.execFpoison h d a b s
  | .fstat h d a => Sys2Proof.Machine.execFstat h d a s
  | .fdrop h a => Sys2Proof.Machine.execFdrop h a s
  | .wakeDelivery park code val ent rank ready => Sys2Proof.Machine.execWakeDelivery park code val ent rank ready s
  | .futureSpill r => Sys2Proof.Machine.execFutureSpill r s
  | .spillAck r ent => Sys2Proof.Machine.execSpillAck r ent s
  | .park t => Sys2Proof.Machine.execPark t s
  | .taskDispatchChoice core => Sys2Proof.Machine.execTaskDispatchChoice core s
  | .dispatchRequest core => Sys2Proof.Machine.execDispatchRequest core s
  | .taskBinding core => Sys2Proof.Machine.execTaskBinding core s
  | .prefetchReady cluster id => Sys2Proof.Machine.execPrefetchReady cluster id s
  | .csig h d a n => Sys2Proof.Machine.execCsig h d a n s
  | .msg h d a b f n => Sys2Proof.Machine.execMsg h d a b f n s
  | .msgDelivery cluster addr data => Sys2Proof.Machine.execMsgDelivery cluster addr data s
  | .waitingTaskDecrement r => Sys2Proof.Machine.execWaitingTaskDecrement r s
  | .releaseParkWait cluster => Sys2Proof.Machine.execReleaseParkWait cluster s
  | .waitCounter h n m => Sys2Proof.Machine.execWaitCounter h n m s
  | .waitHandle h a => Sys2Proof.Machine.execWaitHandle h a s
  | .cntrdWc h d n => Sys2Proof.Machine.execCntrdWc h d n s
  | .cntrdPerf h d num => Sys2Proof.Machine.execCntrdPerf h d num s
  | .cntrdWt h d a => Sys2Proof.Machine.execCntrdWt h d a s
  | .cntrdSlot h d => Sys2Proof.Machine.execCntrdSlot h d s
  | .cntrdSlip h d => Sys2Proof.Machine.execCntrdSlip h d s
  | .cntrdBud h d kind => Sys2Proof.Machine.execCntrdBud h d kind s
  | .carm h d a b pc => Sys2Proof.Machine.execCarm h d a b pc s
  | .sbdef h n a => Sys2Proof.Machine.execSbdef h n a s
  | .sbdefFree h n => Sys2Proof.Machine.execSbdefFree h n s
  | .sbreg h d n a b pc => Sys2Proof.Machine.execSbreg h d n a b pc s
  | .sbret h n a => Sys2Proof.Machine.execSbret h n a s
  | .cro h mask t => Sys2Proof.Machine.execCro h mask t s
  | .crc h => Sys2Proof.Machine.execCrc h s
  | .pcmp h op => Sys2Proof.Machine.execPcmp h op s
  | .containmentUnwind t => Sys2Proof.Machine.execContainmentUnwind t s
  | .mfs h d r field => Sys2Proof.Machine.execMfs h d r field s
  | .mts h r b => Sys2Proof.Machine.execMts h r b s
  | .repart h b => Sys2Proof.Machine.execRepart h b s
  | .halt h => Sys2Proof.Machine.execHalt h s
  | .yield h => Sys2Proof.Machine.execYield h s
  | .tlbinvAll h => Sys2Proof.Machine.execTlbinvAll h s
  | .tlbinvPasid h a => Sys2Proof.Machine.execTlbinvPasid h a s
  | .tlbinvPage h a b => Sys2Proof.Machine.execTlbinvPage h a b s
  | .tlbinvRange h a b n => Sys2Proof.Machine.execTlbinvRange h a b n s
  | .tlbinvRetire h a => Sys2Proof.Machine.execTlbinvRetire h a s
  | .ctxld h a => Sys2Proof.Machine.execCtxld h a s
  | .ctxst h a => Sys2Proof.Machine.execCtxst h a s
  | .oret h => Sys2Proof.Machine.execOret h s
  | .brk h code => Sys2Proof.Machine.execBrk h code s
  | .deferredFault t => Sys2Proof.Machine.execDeferredFault t s
  | .loadLanding a => Sys2Proof.Machine.execLoadLanding a s
  | .ldnLanding a => Sys2Proof.Machine.execLdnLanding a s
  | .clusterStorePerform a => Sys2Proof.Machine.execClusterStorePerform a s
  | .clusterWaitPerform cluster granule => Sys2Proof.Machine.execClusterWaitPerform cluster granule s
  | .storeRegistration a => Sys2Proof.Machine.execStoreRegistration a s
  | .revoke core line words => Sys2Proof.Machine.execRevoke core line words s
  | .storeAck core id => Sys2Proof.Machine.execStoreAck core id s
  | .atomicPerform a => Sys2Proof.Machine.execAtomicPerform a s
  | .sliceLineFill a => Sys2Proof.Machine.execSliceLineFill a s
  | .slateRefresh die => Sys2Proof.Machine.execSlateRefresh die s
  | .pageWalk a => Sys2Proof.Machine.execPageWalk a s
  | .formatRangeWrite die ctl reg val => Sys2Proof.Machine.execFormatRangeWrite die ctl reg val s
  | .formatRangeApply die ctl reg => Sys2Proof.Machine.execFormatRangeApply die ctl reg s
  | .slotClockTick mesh => Sys2Proof.Machine.execSlotClockTick mesh s
  | .meshLinkRetry mesh => Sys2Proof.Machine.execMeshLinkRetry mesh s
  | .windowEnd core => Sys2Proof.Machine.execWindowEnd core s
  | .settleEnd core => Sys2Proof.Machine.execSettleEnd core s
  | .gatingEntry core => Sys2Proof.Machine.execGatingEntry core s
  | .gatingWake core => Sys2Proof.Machine.execGatingWake core s
  | .gatingExit core => Sys2Proof.Machine.execGatingExit core s
  | .throttleDown => Sys2Proof.Machine.execThrottleDown s
  | .throttleUp => Sys2Proof.Machine.execThrottleUp s
  | .packetDelivery core => Sys2Proof.Machine.execPacketDelivery core s
  | .eventQueueWrite core => Sys2Proof.Machine.execEventQueueWrite core s
  | .evqctlWrite val => Sys2Proof.Machine.execEvqctlWrite val s
  | .supervisorResume t => Sys2Proof.Machine.execSupervisorResume t s
  | .supervisorKill t => Sys2Proof.Machine.execSupervisorKill t s
  | .supervisorUnwind t => Sys2Proof.Machine.execSupervisorUnwind t s
  | .supervisorStop t => Sys2Proof.Machine.execSupervisorStop t s
  | .acterrClear t => Sys2Proof.Machine.execActerrClear t s
  | .afullWrite core off val => Sys2Proof.Machine.execAfullWrite core off val s
  | .apertureAccess core off write => Sys2Proof.Machine.execApertureAccess core off write s
  | .mismatchTimeout t => Sys2Proof.Machine.execMismatchTimeout t s
  | .signatureCompare team => Sys2Proof.Machine.execSignatureCompare team s
  | .dirtyLineUe line => Sys2Proof.Machine.execDirtyLineUe line s
  | .pageRetireRequest cluster page => Sys2Proof.Machine.execPageRetireRequest cluster page s
  | .ownerKill t bind => Sys2Proof.Machine.execOwnerKill t bind s
  | .bindingSweep t => Sys2Proof.Machine.execBindingSweep t s
  | .doorbell q val => Sys2Proof.Machine.execDoorbell q val s
  | .queueIdleUnmap q => Sys2Proof.Machine.execQueueIdleUnmap q s
  | .ringFetch q => Sys2Proof.Machine.execRingFetch q s
  | .queueReset q => Sys2Proof.Machine.execQueueReset q s
  | .hostRegisterWrite addr val => Sys2Proof.Machine.execHostRegisterWrite addr val s
  | .hostNop q idx => Sys2Proof.Machine.execHostNop q idx s
  | .launch q idx => Sys2Proof.Machine.execLaunch q idx s
  | .signal q idx => Sys2Proof.Machine.execSignal q idx s
  | .waitmem q idx => Sys2Proof.Machine.execWaitmem q idx s
  | .waitmemPoll q idx => Sys2Proof.Machine.execWaitmemPoll q idx s
  | .teamPlacement team => Sys2Proof.Machine.execTeamPlacement team s
  | .seedBinding team core => Sys2Proof.Machine.execSeedBinding team core s
  | .teamCompletion team => Sys2Proof.Machine.execTeamCompletion team s
  | .placementAgeExpiry team => Sys2Proof.Machine.execPlacementAgeExpiry team s
  | .teamSwapOut team => Sys2Proof.Machine.execTeamSwapOut team s
  | .envelope q idx => Sys2Proof.Machine.execEnvelope q idx s
  | .qclear q idx => Sys2Proof.Machine.execQclear q idx s
  | .power q idx => Sys2Proof.Machine.execPower q idx s
  | .step q idx => Sys2Proof.Machine.execStep q idx s
  | .checkpoint q idx => Sys2Proof.Machine.execCheckpoint q idx s
  | .restore q idx => Sys2Proof.Machine.execRestore q idx s
  | .attest q idx => Sys2Proof.Machine.execAttest q idx s
  | .tenant q idx => Sys2Proof.Machine.execTenant q idx s
  | .slotload q idx => Sys2Proof.Machine.execSlotload q idx s
  | .fwstage q idx => Sys2Proof.Machine.execFwstage q idx s
  | .peerRequest r => Sys2Proof.Machine.execPeerRequest r s
  | .linkDown link => Sys2Proof.Machine.execLinkDown link s
  | .linkUp link => Sys2Proof.Machine.execLinkUp link s
  | .powerOn => Sys2Proof.Machine.execPowerOn s
  | .coreReset core => Sys2Proof.Machine.execCoreReset core s
  | .softError place correctable => Sys2Proof.Machine.execSoftError place correctable s
  | .sparePageCopy page => Sys2Proof.Machine.execSparePageCopy page s
  | .checkpointCompletion q idx => Sys2Proof.Machine.execCheckpointCompletion q idx s

end Sys2Proof.Machine
end

