-- ==== Sys2Proof/Machine/Due.lean ====
section
/-!
DEFINITION. What the machine does by itself once a condition holds: each function below finds the first such event of its
kind in this cycle and carries it out, and answers none where there is none (log entry 2: DESIGN CHOICE, unsafe).
-/

namespace Sys2Proof.Machine

abbrev Result := Host.Outcome State Fault Refusal

/-- The first event that some kind yields. -/
def firstOf (l : List (State → Option Result)) (s : State) : Option Result := l.findSome? fun f => f s

/-- The first core for which an event is due. -/
def eachCore (p : Nat → Core → Bool) (f : Nat → State → Result) (s : State) : Option Result :=
  (s.cores.find? fun x => p x.1 x.2).map fun x => f x.1 s

/-- The first thread for which an event is due. -/
def eachSlot (p : Tid → Slot → Bool) (f : Tid → State → Result) (s : State) : Option Result :=
  s.cores.findSome? fun x => (x.2.slots.find? fun y => p ⟨x.1, y.1⟩ y.2).map fun y => f ⟨x.1, y.1⟩ s

def eachTeam (p : Nat → Team → Bool) (f : Nat → State → Result) (s : State) : Option Result :=
  s.teams.findSome? fun x => match x.2 with
    | some t => if p x.1 t then some (f x.1 s) else none
    | none => none

def eachQueue (p : Nat → Bool) (f : Nat → State → Result) (s : State) : Option Result :=
  (s.hq.find? fun x => p x.1).map fun x => f x.1 s

def eachCmd (p : HCmd → Bool) (f : Nat → Nat → State → Result) (s : State) : Option Result :=
  (s.hqRun.find? p).map fun c => f c.queue c.index s

/-! Threads. -/

/-- R349: the code of a kill that is over but for its last effects. -/
def dueKill : State → Option Result := fun s =>
  eachSlot (fun t x => x.killing.isSome && s.killReady t) (fun t s => .next (s.finishKill t (((s.slot t).killing).getD 0))) s

/-- R348: the packet that a fault or a kill awaits has left its place. -/
def dueRaise : State → Option Result := fun s =>
  eachSlot (fun t x => x.raising.isSome && s.placeFree t) (fun t s => .next (s.raiseAgain t)) s

def dueUnwind : State → Option Result := fun s => eachSlot (fun t x => x.unwinding.isSome && s.unwindReady t) execContainmentUnwind s

def dueStop : State → Option Result := fun s =>
  eachSlot (fun t x => x.stopping && x.stops s.now && s.placeFree t) (fun t s => .next (s.stopNow t)) s

def duePark : State → Option Result := fun s => eachSlot (fun t x => isFutureWait x && s.canPark t) execPark s

def dueMismatch : State → Option Result := fun s => eachSlot (fun _ x => x.mismatchDue s.now) execMismatchTimeout s

/-! Cores. -/

def dueGateExit : State → Option Result := fun s => eachCore (fun _ c => c.leaves s.now) execGatingExit s

/-- R361: where gating is permitted, every core of the package counts. -/
def dueGateEntry : State → Option Result := fun s =>
  if s.power.state = 1 ∨ s.power.state = 2 then ((List.range 1152).find? s.mayGate).map fun k => execGatingEntry k s else none

def dueBinding : State → Option Result := fun s => eachCore (fun k c => c.dispatch.isSome && s.bindsNow k) execTaskBinding s

def dueChoice : State → Option Result := fun s =>
  eachCore (fun k c => c.team.isSome && ((s.mayChoose k).bind fun team => s.choose k team).isSome) execTaskDispatchChoice s

def duePacket : State → Option Result := fun s =>
  eachCore (fun k c => !c.pkts.isEmpty && (s.nextPacket k c.pkts []).isSome) execPacketDelivery s

def dueHostPacket : State → Option Result := fun s =>
  if s.hostQueueOpen then
    eachCore (fun k c => c.kind == .firmware && c.pkts.any fun p => s.toHost k p && decide (p.due ≤ s.now)) execEventQueueWrite s
  else none

/-! Teams. -/

def duePlacement : State → Option Result := fun s => s.placeNext.map fun n => execTeamPlacement n s

def dueDrain : State → Option Result := fun s => (s.pendingTeams.find? s.drainDue).map fun x => execPlacementAgeExpiry x.1 s

def dueCompletion : State → Option Result := fun s => eachTeam s.teamDone execTeamCompletion s

def dueSwap : State → Option Result := fun s => eachTeam (fun _ t => s.swapDue t || s.swapReady t) execTeamSwapOut s

/-! The ridge (R253): a walk of a task starts once its charge is admitted. -/

/-- The ridge's tasks that wait and that it can start now. -/
def dueRidge : State → Option Result := fun s =>
  s.clusters.findSome? fun x =>
    if x.2.prefetch.any (fun p => !p.charged) && decide (s.ridgeTry x.1 ≠ s) then some (.next (s.ridgeTry x.1)) else none

/-! The host's queues. -/

def dueMap : State → Option Result := fun s => if s.mapReady then some (.next s.mapNext) else none
def dueFetch : State → Option Result := fun s => eachQueue s.fetchDue execRingFetch s
def dueIdle : State → Option Result := fun s => eachQueue s.idleDue execQueueIdleUnmap s
def dueReset : State → Option Result := fun s => eachQueue s.resetDue execQueueReset s
def dueSignal : State → Option Result := fun s => eachCmd (fun c => c.kind == 2 && s.firstCmd c.queue c.index) execSignal s
def duePoll : State → Option Result := fun s => eachCmd (fun c => c.pollDue s) execWaitmemPoll s
def dueStream : State → Option Result := fun s =>
  eachCmd (fun c => State.isStream c && s.suspended && decide (c.at_ ≤ s.usec)) execCheckpointCompletion s

/-! Format ranges. -/

def dueFormat : State → Option Result := fun s =>
  s.dies.findSome? fun d => (d.2.fmts.find? fun r => r.2.ready s).map fun r => execFormatRangeApply d.1 (r.1 / 8) (r.1 % 8) s

/-! What a cycle holds, in order. -/

/-- Events of the host's side, which the power states do not stop. (Log entry 2: DESIGN CHOICE, unsafe.) -/
def dueHost : State → Option Result := firstOf [dueMap, dueFetch, dueIdle, dueReset, dueSignal, duePoll, dueStream, dueHostPacket]

/-- Events before the issues of a cycle. (Log entry 2: DESIGN CHOICE, unsafe.) -/
def dueEarly : State → Option Result := firstOf
  [dueGateExit, dueKill, dueRaise, dueUnwind, dueStop, duePark, dueCompletion, dueSwap, dueDrain, duePlacement, dueFormat, dueRidge, dueBinding,
   dueChoice, duePacket, dueMismatch, dueGateEntry]

/-- R171: after the issues of a cycle and before its replays are counted. -/
def dueSettle : State → Option Result := fun s => eachCore (fun _ c => c.settled s.now) execSettleEnd s

/-- R150: a rafter that is idle in this cycle runs the test that is due, once bring-up has tested the cores. -/
def dueTest : State → Option Result := fun s =>
  if s.boot.done.get false 3 then s.cores.findSome? fun x => (s.bgDue x.1).map fun j => execRafterBackgroundTest x.1 j s else none

/-- R171: windows end at every core; a core that the state does not list has done nothing, and its first window ends
with those of the cores that stand at their reset values. -/
def dueWindow : State → Option Result := fun s =>
  match eachCore (fun _ c => c.windowOver s.now) execWindowEnd s with
  | some r => some r
  | none =>
    if s.now = 65536 then ((List.range 1152).find? fun k => (s.core k).windowOver s.now).map fun k => execWindowEnd k s else none

/-- R172: a step-up follows the window end of its cycle. -/
def dueStepUp : State → Option Result := fun s => eachCore (fun _ c => c.passedAt == s.now + 1) execStepUp s

def dueTick : State → Option Result := fun s =>
  (s.meshes.find? fun m => m.2.formed && m.2.ticked != s.now + 1).map fun m => execSlotClockTick m.1 s

/-- Events at the end of a cycle. (Log entry 2: DESIGN CHOICE, unsafe.) -/
def dueLate : State → Option Result := firstOf [dueTest, dueWindow, dueStepUp, dueTick]

end Sys2Proof.Machine
end

