-- ==== Sys2Proof/Machine/Step.lean ====
section
/-!
DEFINITION. One step of the machine (log entry 2: DESIGN CHOICE, unsafe), and the placing of an instruction where the next step fetches it (log
entry 1).
-/

namespace Sys2Proof.Machine

/-- What the agenda's entry does. -/
def runEv (e : Ev) (s : State) : Host.Outcome State Fault Refusal :=
  match e with
  | .run i => exec i s
  | .act a => perform a s
  | .present t ws addr st a => .next (s.present t ws addr st a)

/-- Does the outcome leave the current thread waiting on a counter, with no turn spent (R62 step 4)? -/
def waitsFirst (s : State) (r : Host.Outcome State Fault Refusal) : Bool :=
  match r with
  | .next s' => match (s'.slot s.cur).st with
    | .waiting (.counters _) => true
    | _ => false
  | _ => false

/-- The current thread takes its turn (R53, R62, R344): an acquire that was to precede its first issue takes effect
(R211), and a deferred fault is raised in place of an instruction, once that does not wait on a counter. -/
def issueTurn (s : State) : Host.Outcome State Fault Refusal :=
  let s := (s.firstAcquire s.cur).fixFetch s.cur
  let deferred := !(s.slot s.cur).deferred.isEmpty
  match s.fetch s.cur with
  | .trap => if deferred then exec (.deferredFault s.cur) s else exec .overlayTrap s
  | .bad f => if deferred then exec (.deferredFault s.cur) s else .next (s.faultTurn f)
  | .word i => if deferred && !waitsFirst s (exec i s) then exec (.deferredFault s.cur) s else exec i s

/-- The first entry of the agenda, if it is due in this cycle and in a phase before `phase`. -/
def State.dueEntry (s : State) (phase : Nat) : Option (Ev × State) :=
  match s.agenda with
  | p :: l => if p.due < s.now ∨ (p.due = s.now ∧ p.phase < phase) then some (p.ev, { s with agenda := l }) else none
  | [] => none

/-- What is left of a cycle once its issues are over. -/
def endOfCycle (s : State) : Host.Outcome State Fault Refusal :=
  match dueSettle s with
  | some r => r
  | none => match s.dueEntry Phase.last with
    | some (e, s) => runEv e s
    | none => match dueLate s with
      | some r => r
      | none => match s.dueEntry (Phase.last + 1) with
        | some (e, s) => runEv e s
        | none => .next s.turn.dropBudgets

/-- One step: the next entry of the agenda that is due before the issues of this cycle; then what the machine does by
itself; then the issue of the next core that has one; then the end of the cycle. In P3 the cores stand still. (Log entry 2: DESIGN CHOICE, unsafe.) (log entry 13: DESIGN CHOICE, unsafe.) -/
def step (s : State) : Host.Outcome State Fault Refusal :=
  match s.dueEntry Phase.post with
  | some (e, s) => runEv e s
  | none => match dueHost s with
    | some r => r
    | none =>
      if s.power.state = 3 then .next s.turn
      else match dueEarly s with
        | some r => r
        | none => match s.nextIssue with
          | some t => issueTurn { s with cur := t }
          | none => endOfCycle s

/-! Placing an instruction. -/

/-- The bytes of an instruction stand at the pc of a thread, inside its executable range. (Log entry 1: DESIGN CHOICE, safe.) -/
def Core.holdWord (c : Core) (pc w : Nat) : Core :=
  { c with mem := poke c.mem pc 16 w, prev := [], exb := if pc + 16 ≤ c.exb.toNat then c.exb else BitVec.ofNat 64 0x58000 }

/-- Every line of a thread's context is resident. (Log entry 1: DESIGN CHOICE, safe.) -/
def Core.holdLines (c : Core) (n : Nat) : Core :=
  let mine : List RLine := (contextLines c.part).map fun j => { slot := n, idx := j, dirty := false, evict := false }
  { c with rlines := (c.rlines.filter fun l => !l.is n) ++ mine }

/-- The instruction of `nbits` bits w stands where the next step fetches: at the pc of the thread that issues next, or
else of slot 0 of core 1, the first program core, which it makes ready (log entry 1: DESIGN CHOICE, safe). -/
def State.withFetchWord (s : State) (nbits w : Nat) : State :=
  let t := s.nextIssue.getD ⟨1, 0⟩
  let pc := (s.ctx t).pc.toNat % 0x50000 / 32 * 32
  let s := s.modSlot t fun x => { x with
    st := .ready, elig := 0, deferred := [], ctx := { x.ctx with pc := BitVec.ofNat 64 pc } }
  let s := s.modCore t.core fun c => (c.holdWord pc (w % 2 ^ nbits)).holdLines t.slot
  { s with localErrs := clearErrs s.localErrs (localErrBase t.core) pc 16 }

end Sys2Proof.Machine
end

