-- ==== Sys2Proof/Safety.lean ====
section
/-!
DEFINITION. The terms of the claims: the canonical form of memory, the legal power states, when an instruction passes
its issue (R62, R168), and what an instruction that completes leaves as it was.
-/

namespace Sys2Proof.Machine

/-! What a safe run keeps. -/

/-- The canonical form of a memory: addresses strictly rising, and no entry equal to what an unlisted address reads as. -/
def Memory.wf (m : Sparse Byte) : Bool := Sparse.wf 0 m

/-- R365, R368: the power state is P0 to P3, the limit lies within its bounds, and the core clock runs at a rate of R5. -/
def Power.legal (p : Power) : Bool :=
  decide (p.state.toNat ≤ 3) && decide (100 ≤ p.limit) && decide (p.limit ≤ 2800) && decide (600 ≤ p.mhz) && decide (p.mhz ≤ 1200)

/-- Every memory of the package is in canonical form. -/
def State.memWf (s : State) : Bool :=
  Memory.wf s.phys && Memory.wf s.hostMem && s.cores.all (fun x => Memory.wf x.2.mem) && s.clusters.all (fun x => Memory.wf x.2.mem)

/-! Passing an issue. -/

/-- R62, R168: the instruction with header h, which names the registers `uses`, passes every check of its issue by the
current thread: its registers exist (R56) and its privilege suffices, it waits on no counter (R55), its register lines
are resident (R161), its shadow check passes (R168), no watchpoint matches its address (R162), and its guard enables it
(R62, R106). -/
structure Issues (h : Hdr) (uses : List Use) (s : State) (kpriv vec stepped : Bool := false) : Prop where
  inRange  : (rK h.guard :: uses).all (·.inRange (s.core s.cur.core).part) = true
  allowed  : kpriv = true → (s.ctx s.cur).priv = true
  noWait   : (s.ctx s.cur).mustWait h.wait = false
  resident : ((rK h.guard :: uses).filterMap (·.line (s.core s.cur.core).part)).all
    (fun l => (s.core s.cur.core).resident s.cur.slot l.1) = true
  passes   : stepped = true ∨ s.verdict.1 = false
  unwatched : s.watch (· == 0) (s.ctx s.cur).pc = none
  enabled  : (if vec then Flags.laneMask ((s.ctx s.cur).rk h.guard) h.neg ≠ 0
    else Flags.scalarGuard ((s.ctx s.cur).rk h.guard) h.neg = true)

/-- The next word's address. -/
def State.nextPc (s : State) (h : Hdr) : W64 := (s.ctx s.cur).pc + BitVec.ofNat 64 (bytesOf h)

/-! What stays. -/

/-- A core but for its thread slots and what every issue moves: the arbiter, the counters of R335 and the order of use of
the register cache. -/
def Core.rest (c : Core) : Core :=
  { c with slots := [], lastServed := 0, stall := 0, issueAt := 0, late := [], perf := [], rlines := [] }

/-- A slot but for its registers and what its issue moves: the cycle of its next turn, its replays and the pass of a
watchpoint (R162). -/
def Slot.rest (x : Slot) : Slot := { x with ctx := {}, elig := 0, replays := 0, skipWatch := false }

/-- The package but for its cores, the arbiter's place, the verdict that is read, and the agenda. -/
def State.rest (s : State) : State := { s with cores := [], scan := 0, verdicts := [], agenda := [], seq := 0 }

/-- Nothing but the current thread's registers, and the agenda, has changed: every special register, accumulator, table and
memory, every other thread's registers, and every byte that a thread, a fetch or the host can read are as before. -/
structure Keeps (s t : State) : Prop where
  rest   : t.rest = s.rest
  cores  : ∀ k, (t.core k).rest = (s.core k).rest
  slots  : ∀ u, (t.slot u).rest = (s.slot u).rest
  ctxs   : ∀ u, u ≠ s.cur → t.ctx u = s.ctx u
  bytes  : ∀ team pa, t.physByte team pa = s.physByte team pa
  locals : ∀ k a, t.localRead k a 1 = s.localRead k a 1
  stores : ∀ cl a, peek (t.cluster cl).mem a 1 = peek (s.cluster cl).mem a 1

/-- The current thread of s has completed an instruction: its registers are c with the pc given, its next turn is 16
cycles on (R19), its replays are forgotten (R168), and with SSTEP clear (R157) nothing else is to come. Where an
instruction does more than write registers, s stands for the state with those effects. -/
structure Completes (s t : State) (c : Ctx) (pc : W64) : Prop where
  ctx    : t.ctx s.cur = { c with pc := pc }
  turn   : (t.slot s.cur).elig = s.now + 16
  replays : (t.slot s.cur).replays = 0
  agenda : (s.ctx s.cur).sstep = false → c.sstep = false → t.agenda = s.agenda
  keeps  : Keeps s t

/-- The current thread has spent its turn (R19) and not completed; all else is as in s. -/
structure Leaves (s t : State) : Prop where
  ctx    : t.ctx s.cur = s.ctx s.cur
  turn   : (t.slot s.cur).elig = s.now + 16
  agenda : t.agenda = s.agenda
  keeps  : Keeps s t

end Sys2Proof.Machine
end

