-- ==== Sys2Proof/Certificates/Slice0/Obligations.lean ====
section
/-!
DEFINITION. The statements about the model, from the numbered rules of the specification.
-/

namespace Sys2Proof.Claims

open Sys2Proof.Machine

/-! The registers and the effect that R83 to R98 give an instruction. A row is the header, the registers named, and the
registers of the context afterwards. -/

abbrev Row := Hdr × List Use × (Ctx → Ctx)

/-- The form of R83: gD from gA and gB or the immediate. -/
def twoSource (h : Hdr) (d a : Reg) (b : Src) (f : W64 → W64 → W64) : Option Row :=
  some (h, rG a :: wG d :: rS b, fun c => c.wg d (f (c.rg a) (c.rs b)))

/-- The form of R87: gD from gA. -/
def oneSource (h : Hdr) (d a : Reg) (f : W64 → W64) : Option Row := some (h, [rG a, wG d], fun c => c.wg d (f (c.rg a)))

/-- R84, as its text goes. -/
def quotient (signed : Bool) (a b : W64) : W64 :=
  if b = 0 then 0xFFFFFFFFFFFFFFFF#64
  else if signed then (if a = 0x8000000000000000#64 ∧ b.toInt = -1 then 0x8000000000000000#64 else BitVec.ofInt 64 (a.toInt.tdiv b.toInt))
  else BitVec.ofNat 64 (a.toNat / b.toNat)
def remainder (signed : Bool) (a b : W64) : W64 :=
  if b = 0 then a
  else if signed then (if a = 0x8000000000000000#64 ∧ b.toInt = -1 then 0 else a - BitVec.ofInt 64 (a.toInt.tdiv b.toInt) * b)
  else a - BitVec.ofNat 64 (a.toNat / b.toNat) * b

/-- R83, R84: integer arithmetic. -/
def arithmetic : Instr → Option Row
  | .add h d a b => twoSource h d a b fun x y => BitVec.ofNat 64 (x.toNat + y.toNat)
  | .sub h d a b => twoSource h d a b fun x y => BitVec.ofInt 64 (x.toInt - y.toInt)
  | .mul h d a b => twoSource h d a b fun x y => BitVec.ofNat 64 (x.toNat * y.toNat)
  | .mulh h d a b => twoSource h d a b fun x y => (BitVec.ofInt 128 (x.toInt * y.toInt)).extractLsb' 64 64
  | .mulhn h d a b => twoSource h d a b fun x y => (BitVec.ofNat 128 (x.toNat * y.toNat)).extractLsb' 64 64
  | .div h d a b => twoSource h d a b (quotient true)
  | .divn h d a b => twoSource h d a b (quotient false)
  | .rem h d a b => twoSource h d a b (remainder true)
  | .remn h d a b => twoSource h d a b (remainder false)
  | _ => none

/-- R86, R89, R90: logic, shifts, minimum, maximum, saturation and extension. -/
def logic : Instr → Option Row
  | .and h d a b => twoSource h d a b fun x y => x &&& y
  | .or h d a b => twoSource h d a b fun x y => x ||| y
  | .xor h d a b => twoSource h d a b fun x y => x ^^^ y
  | .andn h d a b => twoSource h d a b fun x y => x &&& ~~~y
  | .orn h d a b => twoSource h d a b fun x y => x ||| ~~~y
  | .shl h d a b => twoSource h d a b fun x y => BitVec.ofNat 64 (x.toNat * 2 ^ (y.extractLsb' 0 6).toNat)
  | .shr h d a b => twoSource h d a b fun x y => BitVec.ofNat 64 (x.toNat / 2 ^ (y.extractLsb' 0 6).toNat)
  | .shra h d a b => twoSource h d a b fun x y => BitVec.ofInt 64 (x.toInt / (2 ^ (y.extractLsb' 0 6).toNat : Nat))
  | .rotr h d a b => twoSource h d a b fun x y => x.rotateRight (y.extractLsb' 0 6).toNat
  | .min h d a b => twoSource h d a b fun x y => if x.toInt ≤ y.toInt then x else y
  | .minn h d a b => twoSource h d a b fun x y => if x.toNat ≤ y.toNat then x else y
  | .max h d a b => twoSource h d a b fun x y => if x.toInt ≤ y.toInt then y else x
  | .maxn h d a b => twoSource h d a b fun x y => if x.toNat ≤ y.toNat then y else x
  | .adds h d a b => twoSource h d a b fun x y => BitVec.ofInt 64 (max (-(2 ^ 63)) (min (x.toInt + y.toInt) (2 ^ 63 - 1)))
  | .subs h d a b => twoSource h d a b fun x y => BitVec.ofInt 64 (max (-(2 ^ 63)) (min (x.toInt - y.toInt) (2 ^ 63 - 1)))
  | .sext h w d a => oneSource h d a fun x => match w with
      | .b => (x.extractLsb' 0 8).signExtend 64
      | .h => (x.extractLsb' 0 16).signExtend 64
      | .w => (x.extractLsb' 0 32).signExtend 64
  | .zext h w d a => oneSource h d a fun x => match w with
      | .b => (x.extractLsb' 0 8).zeroExtend 64
      | .h => (x.extractLsb' 0 16).zeroExtend 64
      | .w => (x.extractLsb' 0 32).zeroExtend 64
  | _ => none

/-- R88: where the field of a specifier begins, and its width, cut short at bit 63. -/
def fieldAt (b : W64) : Nat := (b.extractLsb' 0 6).toNat
def fieldBits (b : W64) : Nat := min (fieldAt b + ((b.extractLsb' 6 6).toNat + 1)) 64 - fieldAt b

end Sys2Proof.Claims

open Sys2Proof Sys2Proof.Machine Sys2Proof.Claims

/-- R83, R84 (under R82): an arithmetic instruction that passes its issue writes its result to gD, goes on at the next word,
and changes nothing else. -/
def Sys2Proof.Claims.ArithmeticResult : Prop :=
  ∀ i h uses f, arithmetic i = some (h, uses, f) → ∀ s, Issues h uses s →
    ∃ t, exec i s = .next t ∧ Completes s t (f (s.ctx s.cur)) (s.nextPc h)

/-- R86, R89, R90 (under R82): the same of logic, shifts, minimum and maximum, saturation and extension. -/
def Sys2Proof.Claims.LogicResult : Prop :=
  ∀ i h uses f, logic i = some (h, uses, f) → ∀ s, Issues h uses s →
    ∃ t, exec i s = .next t ∧ Completes s t (f (s.ctx s.cur)) (s.nextPc h)

/-- R87: CLZ, CTZ, POPC and BREV, bit by bit: gD holds a value with the property that the table gives. -/
def Sys2Proof.Claims.BitCountResult : Prop :=
  ∀ (h : Hdr) (d a : Reg) (s : State), Issues h [rG a, wG d] s →
    let x := (s.ctx s.cur).rg a
    (∃ t v, exec (.clz h d a) s = .next t ∧ Completes s t ((s.ctx s.cur).wg d v) (s.nextPc h) ∧
      v.toNat ≤ 64 ∧ (∀ j, 64 - v.toNat ≤ j → x.getLsbD j = false) ∧ (v.toNat < 64 → x.getLsbD (63 - v.toNat) = true)) ∧
    (∃ t v, exec (.ctz h d a) s = .next t ∧ Completes s t ((s.ctx s.cur).wg d v) (s.nextPc h) ∧
      v.toNat ≤ 64 ∧ (∀ j, j < v.toNat → x.getLsbD j = false) ∧ (v.toNat < 64 → x.getLsbD v.toNat = true)) ∧
    (∃ t v, exec (.popc h d a) s = .next t ∧ Completes s t ((s.ctx s.cur).wg d v) (s.nextPc h) ∧
      v.toNat = ((List.range 64).countP fun j => x.getLsbD j)) ∧
    (∃ t v, exec (.brev h d a) s = .next t ∧ Completes s t ((s.ctx s.cur).wg d v) (s.nextPc h) ∧
      ∀ j, j < 64 → v.getLsbD (63 - j) = x.getLsbD j)

/-- R88: BEXT and BINS, bit by bit, with the field cut short at bit 63. -/
def Sys2Proof.Claims.BitFieldResult : Prop :=
  ∀ (h : Hdr) (d a : Reg) (b : Src) (s : State), Issues h (rG a :: wG d :: rS b) s →
    let c := s.ctx s.cur
    let pos := fieldAt (c.rs b)
    let w := fieldBits (c.rs b)
    (∀ signed, ∃ t v, exec (.bext h signed d a b) s = .next t ∧ Completes s t (c.wg d v) (s.nextPc h) ∧
      ∀ j, j < 64 → v.getLsbD j =
        if j < w then (c.rg a).getLsbD (pos + j) else signed && (c.rg a).getLsbD (pos + w - 1)) ∧
    (∃ t v, exec (.bins h d a b) s = .next t ∧ Completes s t (c.wg d v) (s.nextPc h) ∧
      ∀ j, j < 64 → v.getLsbD j = if pos ≤ j ∧ j < pos + w then (c.rg a).getLsbD (j - pos) else (c.rg d).getLsbD j)

/-- R83 to R86, R89, R90: the arithmetic and logic instructions. -/
def Obligations.ScalarResult : Prop :=
  ArithmeticResult ∧ LogicResult

/-- R87, R88: bit counts and bit fields. -/
def Obligations.BitResult : Prop :=
  BitCountResult ∧ BitFieldResult

namespace Sys2Proof.Claims

open Sys2Proof.Machine

/-- R79: all ones for true, zero for false. -/
def truth (t : Bool) : W64 := if t then 0xFFFFFFFFFFFFFFFF#64 else 0

/-- R91: a test of a and b to kD, and its complement to kE where the field is present. -/
def tested (h : Hdr) (d : KReg) (e : Option KReg) (a : Reg) (b : Src) (f : W64 → W64 → Bool) : Option Row :=
  some (h, rG a :: wK d :: useE e ++ rS b, fun c =>
    let t := f (c.rg a) (c.rs b)
    match e with
    | some e => (c.wk d (truth t)).wk e (truth !t)
    | none => c.wk d (truth t))

/-- R91: the ten relations. -/
def relation : CmpRel → W64 → W64 → Bool
  | .eq, a, b => a == b
  | .ne, a, b => a != b
  | .lt, a, b => decide (a.toInt < b.toInt)
  | .le, a, b => decide (a.toInt ≤ b.toInt)
  | .gt, a, b => decide (b.toInt < a.toInt)
  | .ge, a, b => decide (b.toInt ≤ a.toInt)
  | .ltn, a, b => decide (a.toNat < b.toNat)
  | .len, a, b => decide (a.toNat ≤ b.toNat)
  | .gtn, a, b => decide (b.toNat < a.toNat)
  | .gen, a, b => decide (b.toNat ≤ a.toNat)

/-- R91 to R98: comparisons, tests, predicate logic and moves, and selection. CMPF compares the values that the number
formats of R29 give its operands' low bits (R92). -/
def predicates : Instr → Option Row
  | .cmp h rel d e a b => tested h d e a b (relation rel)
  | .cmpf h rel ty d e a b => tested h d e a b fun x y =>
      Num.frel rel (Num.value ty (x.toNat % 2 ^ Num.bits ty)) (Num.value ty (y.toNat % 2 ^ Num.bits ty))
  | .tst h z d e a b => tested h d e a b fun x y => if z then x &&& y == 0 else x &&& y != 0
  | .pand h d a b => some (h, [rK a, rK b, wK d], fun c => c.wk d (c.rk a &&& c.rk b))
  | .por h d a b => some (h, [rK a, rK b, wK d], fun c => c.wk d (c.rk a ||| c.rk b))
  | .pxor h d a b => some (h, [rK a, rK b, wK d], fun c => c.wk d (c.rk a ^^^ c.rk b))
  | .pandn h d a b => some (h, [rK a, rK b, wK d], fun c => c.wk d (c.rk a &&& ~~~c.rk b))
  | .pnot h d a => some (h, [rK a, wK d], fun c => c.wk d (~~~c.rk a))
  | .pmov h (.toK d a) => some (h, [rG a, wK d], fun c => c.wk d (c.rg a))
  | .pmov h (.toG d a) => some (h, [rK a, wG d], fun c => c.wg d (c.rk a))
  | .pmov h (.kk d a) => some (h, [rK a, wK d], fun c => c.wk d (c.rk a))
  | .pset h d v => some (h, [wK d], fun c => c.wk d v)
  | .sel h d k a b => some (h, rG a :: wG d :: rK k :: rS b, fun c => c.wg d (if (c.rk k).getLsbD 0 then c.rg a else c.rs b))
  | _ => none

/-- R62: an instruction that comes to its verdict: its registers exist, it waits on no counter, its lines are resident and
no watchpoint matches its address. -/
structure Reaches (h : Hdr) (uses : List Use) (s : State) : Prop where
  inRange  : (rK h.guard :: uses).all (·.inRange (s.core s.cur.core).part) = true
  noWait   : (s.ctx s.cur).mustWait h.wait = false
  resident : ((rK h.guard :: uses).filterMap (·.line (s.core s.cur.core).part)).all
    (fun l => (s.core s.cur.core).resident s.cur.slot l.1) = true
  unwatched : s.watch (· == 0) (s.ctx s.cur).pc = none

/-- R99, R100: where a transfer goes, what it writes to gD, and the kind of watchpoint that stands before it (R162). -/
def transferOf (c : Ctx) : Instr → Option (Hdr × List Use × Nat × W64 × Option Reg)
  | .jmp h a imm => some (h, [rG a], 6, c.rg a + imm.getD 0, none)
  | .call h d off => some (h, [wG d], 5, c.pc + 4 * off.signExtend 64, some d)
  | .callr h d a imm => some (h, [rG a, wG d], 5, c.rg a + imm.getD 0, some d)
  | .ret h a => some (h, [rG a], 4, c.rg a, none)
  | _ => none

/-- The context after a transfer that links in d. -/
def linked (c : Ctx) : Option Reg → Ctx
  | none => c
  | some d => c.wg d (c.pc + 8)

end Sys2Proof.Claims

open Sys2Proof Sys2Proof.Machine Sys2Proof.Claims

/-- R91 to R97 (under R82): a comparison, a test, a predicate operation or a selection that passes its issue writes its
result, goes on at the next word, and changes nothing else. -/
def Sys2Proof.Claims.PredicateResult : Prop :=
  ∀ i h uses f, predicates i = some (h, uses, f) → ∀ s, Issues h uses s →
    ∃ t, exec i s = .next t ∧ Completes s t (f (s.ctx s.cur)) (s.nextPc h)

/-- R98: PCNT counts the set bits of k[A] AND k[B], or gives the index of the lowest, or 64. -/
def Sys2Proof.Claims.PredicateCount : Prop :=
  ∀ (h : Hdr) (d : Reg) (a b : KReg) (s : State), Issues h [rK a, rK b, wG d] s →
    let x := (s.ctx s.cur).rk a &&& (s.ctx s.cur).rk b
    (∃ t v, exec (.pcnt h false d a b) s = .next t ∧ Completes s t ((s.ctx s.cur).wg d v) (s.nextPc h) ∧
      v.toNat = ((List.range 64).countP fun j => x.getLsbD j)) ∧
    (∃ t v, exec (.pcnt h true d a b) s = .next t ∧ Completes s t ((s.ctx s.cur).wg d v) (s.nextPc h) ∧
      v.toNat ≤ 64 ∧ (∀ j, j < v.toNat → x.getLsbD j = false) ∧ (v.toNat < 64 → x.getLsbD v.toNat = true))

/-- R60, R99, R100: BR goes to pc + 4 × SIGNED(off, 28); NOP only goes on. -/
def Sys2Proof.Claims.BranchResult : Prop :=
  ∀ (h : Hdr) (s : State),
    let c := s.ctx s.cur
    (∀ off : BitVec 28, Issues h [] s →
      ∃ t, exec (.br h off) s = .next t ∧ Completes s t c (c.pc + 4 * off.signExtend 64)) ∧
    (Issues h [] s → ∃ t, exec (.nop h) s = .next t ∧ Completes s t c (s.nextPc h))

/-- R101: LOOP decrements gD, wrapping, and branches while the result is not zero, and else goes on at pc + 8; a LOOP
whose verdict fails does neither (R82). A counter of 0 wraps to all ones and branches; g0 reads 0 and branches always; a
counter of m + 1 becomes m, so that a loop entered with n runs its body n times. The rule's example word decodes to LOOP. -/
def Obligations.LoopResult : Prop :=
  ∀ (h : Hdr) (d : Reg) (off : BitVec 28) (s : State), h.len = .w64 →
    let c := s.ctx s.cur
    let n := BitVec.ofInt 64 ((c.rg d).toInt - 1)
    (Issues h [wG d] s → ∃ t, exec (.loop h d off) s = .next t ∧
      Completes s t (c.wg d n) (if n = 0 then c.pc + 8 else c.pc + 4 * off.signExtend 64)) ∧
    (Reaches h [wG d] s → s.verdict.1 = true → ∃ t, exec (.loop h d off) s = .next t ∧ t.ctx s.cur = c) ∧
    (∀ m, Issues h [wG d] s → (c.rg d).toNat = m + 1 → ∃ t, exec (.loop h d off) s = .next t ∧ ((t.ctx s.cur).rg d).toNat = m ∧
      (t.ctx s.cur).pc = if m = 0 then c.pc + 8 else c.pc + 4 * off.signExtend 64) ∧
    decode 0xFFFFFFA000181ABC#128 = some (.loop ⟨.w64, 15, false, 0⟩ 6 (-6))

/-- R99, R100: JMP, CALL, CALLR and RET go to their target, a multiple of 4 that no watchpoint of their kind matches; CALL
and CALLR leave pc + 8 in gD, and CALLR reads gA before it writes gD. -/
def Sys2Proof.Claims.TransferResult : Prop :=
  ∀ i s h uses kind target d, transferOf (s.ctx s.cur) i = some (h, uses, kind, target, d) → Issues h uses s →
    target.toNat % 4 = 0 → s.watch (· == kind) target = none →
      ∃ t, exec i s = .next t ∧ Completes s t (linked (s.ctx s.cur) d) target

/-- R99: a register target that is not a multiple of 4 raises ALIGN before any effect: nothing is written, pc stays, and
the fault is taken with the verdict, two cycles on (R168). -/
def Sys2Proof.Claims.TransferAlign : Prop :=
  ∀ i s h uses kind target d, transferOf (s.ctx s.cur) i = some (h, uses, kind, target, d) → Issues h uses s →
    (∀ hd r off, i ≠ .call hd r off) → target.toNat % 4 ≠ 0 →
      ∃ t, exec i s = .next t ∧ Leaves (s.raiseLater s.cur { code := 5, addr := target }) t

/-- R91 to R98: comparisons, predicate operations and selection. -/
def Obligations.Predicates : Prop :=
  PredicateResult ∧ PredicateCount

/-- R99, R100: transfers of control. -/
def Obligations.Transfers : Prop :=
  BranchResult ∧ TransferResult ∧ TransferAlign

namespace Sys2Proof.Claims

open Sys2Proof.Machine

/-- R105 to R107: a vector instruction: the header, the registers named, the element type, the destination, and its
result for element j. -/
abbrev VRow := Hdr × List Use × Fmt × Reg × (Ctx → Nat → Nat)

/-- R107: elements of v[A], of operand B and of v[C]. -/
def elemA (c : Ctx) (ty : Fmt) (a : Reg) (j : Nat) : Nat := Num.elem (c.rv a).toNat (Num.bits ty) j
def elemB (c : Ctx) (ty : Fmt) (b : Src) (j : Nat) : Nat :=
  match b with
  | .reg r => Num.elem (c.rv r).toNat (Num.bits ty) j
  | .imm v => v.toNat % 2 ^ Num.bits ty

/-- The forms of R110 and R111: element j of v[D] from elements j of A and B, and of C too for the fused forms. -/
def elements2 (h : Hdr) (o : VOps) (f : Nat → Nat → Nat) : Option VRow :=
  some (h, rV o.a :: wV o.d :: rSV o.b ++ [], o.ty, o.d, fun c j => f (elemA c o.ty o.a j) (elemB c o.ty o.b j))
def elements3 (h : Hdr) (o : VOps) (f : Nat → Nat → Nat → Nat) : Option VRow :=
  some (h, rV o.a :: wV o.d :: rSV o.b ++ [rV o.c], o.ty, o.d, fun c j =>
    f (elemA c o.ty o.a j) (elemB c o.ty o.b j) (elemA c o.ty o.c j))

/-- The unary forms: element j of v[D] from element j of A alone. -/
def elements1 (h : Hdr) (o : VOps) (f : Nat → Nat) : Option VRow :=
  some (h, [rV o.a, wV o.d], o.ty, o.d, fun c j => f (elemA c o.ty o.a j))

/-- R110: integers wrap, floats are rounded once. -/
def number (o : VOps) (i : Int) (v : Num.Val) : Nat :=
  if Num.isInt o.ty then (i % (2 ^ Num.bits o.ty : Nat)).toNat else Num.roundArith o.ty o.rnd o.sat v

/-- R111: the value of an integer element, in two's complement or unsigned. -/
def intOf (ty : Fmt) (x : Nat) : Int :=
  if Num.isSigned ty then
    if 2 ^ (Num.bits ty - 1) ≤ x % 2 ^ Num.bits ty then (x % 2 ^ Num.bits ty : Nat) - (2 ^ Num.bits ty : Nat) else (x % 2 ^ Num.bits ty : Nat)
  else x

/-- R110 to R112: the arithmetic, minimum, sign and bit instructions. -/
def vectorArithmetic : Instr → Option VRow
  | .vadd h o => elements2 h o fun a b => number o (a + b) (Num.add o.rnd (Num.value o.ty a) (Num.value o.ty b))
  | .vsub h o => elements2 h o fun a b => number o (a - b) (Num.add o.rnd (Num.value o.ty a) (Num.neg (Num.value o.ty b)))
  | .vmul h o => elements2 h o fun a b => number o (a * b) (Num.mul (Num.value o.ty a) (Num.value o.ty b))
  | .vfma h o => elements3 h o fun a b c => number o (a * b + c)
      (Num.add o.rnd (Num.mul (Num.value o.ty a) (Num.value o.ty b)) (Num.value o.ty c))
  | .vfms h o => elements3 h o fun a b c => number o (a * b - c)
      (Num.add o.rnd (Num.mul (Num.value o.ty a) (Num.value o.ty b)) (Num.neg (Num.value o.ty c)))
  | .vfnma h o => elements3 h o fun a b c => number o (c - a * b)
      (Num.add o.rnd (Num.value o.ty c) (Num.neg (Num.mul (Num.value o.ty a) (Num.value o.ty b))))
  | .vdiv h o => elements2 h o fun a b => Num.roundArith o.ty o.rnd o.sat (Num.div (Num.value o.ty a) (Num.value o.ty b))
  | .vsqrt h o => elements1 h o fun a => Num.roundArith o.ty o.rnd o.sat (Num.sqrt (Num.value o.ty a))
  | .vmin h o => elements2 h o fun a b =>
      if Num.isInt o.ty then (if intOf o.ty b < intOf o.ty a then b else a) else Num.fminmax false o.ty a b
  | .vmax h o => elements2 h o fun a b =>
      if Num.isInt o.ty then (if intOf o.ty b < intOf o.ty a then a else b) else Num.fminmax true o.ty a b
  | .vand h o => elements2 h o fun a b => a &&& b
  | .vor h o => elements2 h o fun a b => a ||| b
  | .vxor h o => elements2 h o fun a b => a ^^^ b
  | .vshl h o => elements2 h o fun a b => a * 2 ^ (b % Num.bits o.ty)
  | .vshr h o => elements2 h o fun a b => a / 2 ^ (b % Num.bits o.ty)
  | _ => none

/-- R111: the same, for the forms whose result is an integer. -/
def elementsInt (h : Hdr) (o : VOps) (f : Nat → Nat → Int) : Option VRow :=
  elements2 h o fun a b => (f a b % (2 ^ Num.bits o.ty : Nat)).toNat
def limited (ty : Fmt) (x : Int) : Int :=
  if Num.isSigned ty then max (-(2 ^ (Num.bits ty - 1) : Nat)) (min x ((2 ^ (Num.bits ty - 1) : Nat) - 1)) else max 0 (min x ((2 ^ Num.bits ty : Nat) - 1))
/-- R111: |a| or −a of a float: a NaN gives the canonical one, and else the sign bit is cleared or inverted. -/
def signOp (neg : Bool) (ty : Fmt) (a : Nat) : Nat :=
  if Num.isNan (Num.value ty a) then Num.canon ty
  else if neg && decide (a % 2 ^ Num.bits ty < Num.signBit ty) then a % Num.signBit ty + Num.signBit ty else a % Num.signBit ty

def vectorInteger : Instr → Option VRow
  | .vshra h o => elements2 h o fun a b =>
      ((if 2 ^ (Num.bits o.ty - 1) ≤ a then (a : Int) - (2 ^ Num.bits o.ty : Nat) else a) / (2 ^ (b % Num.bits o.ty) : Nat) % (2 ^ Num.bits o.ty : Nat)).toNat
  | .vadds h o => elementsInt h o fun a b => limited o.ty (intOf o.ty a + intOf o.ty b)
  | .vsubs h o => elementsInt h o fun a b => limited o.ty (intOf o.ty a - intOf o.ty b)
  | .vmulh h o => elementsInt h o fun a b => intOf o.ty a * intOf o.ty b / (2 ^ Num.bits o.ty : Nat)
  | .vabs h o => elements1 h o fun a => if Num.isInt o.ty then
      ((if o.sat then limited o.ty (intOf o.ty a).natAbs else ((intOf o.ty a).natAbs : Int)) % (2 ^ Num.bits o.ty : Nat)).toNat else signOp false o.ty a
  | .vneg h o => elements1 h o fun a => if Num.isInt o.ty then
      ((if o.sat then limited o.ty (-intOf o.ty a) else -intOf o.ty a) % (2 ^ Num.bits o.ty : Nat)).toNat else signOp true o.ty a
  | _ => none

/-- R114, R117 to R120: selection, permutations, tables and the rounded functions. -/
def vectorShape : Instr → Option VRow
  | .vsel h ty d k a b => some (h, wV d :: rV a :: rK k :: rSV b, ty, d, fun c j =>
      if (c.rk k).toNat.testBit (Num.bits ty * j / 8) then elemA c ty a j else elemB c ty b j)
  | .vperm h ty d a b => some (h, [wV d, rV a, rV b], ty, d, fun c j => elemA c ty a (elemA c ty b j % Num.count ty))
  | .vrot h ty d a b => some (h, wV d :: rV a :: rS b, ty, d, fun c j =>
      elemA c ty a ((j + (c.rs b).toNat) % Num.count ty))
  | .vbcast h ty d (.scalar a) => some (h, [wV d, rG a], ty, d, fun c _ => (c.rg a).toNat)
  | .vbcast h ty d (.elem a b) => some (h, wV d :: rV a :: rS b, ty, d, fun c _ =>
      elemA c ty a ((c.rs b).toNat % Num.count ty))
  | .vins h ty d a b => some (h, wV d :: rG a :: rS b, ty, d, fun c j =>
      if j = (c.rs b).toNat % Num.count ty then (c.rg a).toNat else elemA c ty d j)
  | .vmov h ty d b => some (h, wV d :: rSV b, ty, d, fun c j => elemB c ty b j)
  | .vzip h ty hi d a b => some (h, [wV d, rV a, rV b], ty, d, fun c j =>
      elemA c ty (if j % 2 = 0 then a else b) ((if hi then Num.count ty / 2 else 0) + j / 2))
  | .vunzip h ty odd d a b => some (h, [wV d, rV a, rV b], ty, d, fun c j =>
      let x := 2 * j + (if odd then 1 else 0)
      if x < Num.count ty then elemA c ty a x else elemA c ty b (x - Num.count ty))
  | .vrcp h ty rnd sat d a => some (h, [wV d, rV a], ty, d, fun c j =>
      Num.roundArith ty rnd sat (Num.div (.fin false 1 0 false) (Num.value ty (elemA c ty a j))))
  | .vrsq h ty rnd sat d a => some (h, [wV d, rV a], ty, d, fun c j =>
      Num.roundArith ty rnd sat (Num.rsqrt (Num.value ty (elemA c ty a j))))
  | .vexp h ty rnd sat d a => some (h, [wV d, rV a], ty, d, fun c j =>
      Num.roundArith ty rnd sat (Num.exp2 (Num.value ty (elemA c ty a j))))
  | .vlut h ty d a b idx => some (h, wV d :: rV a :: (if ty = .q16 then [] else [rV b]), ty, d, fun c j =>
      let m := Num.elem (c.rv a).toNat 4 (idx.toNat * Num.count ty + j)
      if ty = .q16 then (Num.q16Level m % 65536).toNat else elemA c ty b m)
  | _ => none

/-- R106: element j is enabled by the lane mask: the bit of its lowest byte lane. -/
def laneOn (c : Ctx) (h : Hdr) (ty : Fmt) (j : Nat) : Bool :=
  (if h.neg then ~~~c.rk h.guard else c.rk h.guard).getLsbD (Num.bits ty * j / 8)

/-- R106: the instruction writes each enabled element of v[D], keeps every other bit of it, goes on at the next word, and
changes nothing else. -/
def MasksInto (i : Instr) (r : VRow) : Prop :=
  let (h, uses, ty, d, f) := r
  ∀ s, Issues h uses s false true → ∃ t v, exec i s = .next t ∧ Completes s t ((s.ctx s.cur).wv d v) (s.nextPc h) ∧
    (∀ j, j < Num.count ty → Num.elem v.toNat (Num.bits ty) j =
      if laneOn (s.ctx s.cur) h ty j then f (s.ctx s.cur) j % 2 ^ Num.bits ty
      else Num.elem ((s.ctx s.cur).rv d).toNat (Num.bits ty) j) ∧
    (∀ b, Num.bits ty * Num.count ty ≤ b → v.getLsbD b = ((s.ctx s.cur).rv d).getLsbD b)

end Sys2Proof.Claims

open Sys2Proof Sys2Proof.Machine Sys2Proof.Claims

/-- R110 to R112 under R105 to R107: the vector arithmetic that floats share, and the bit operations. -/
def Sys2Proof.Claims.VectorArithmeticResult : Prop := ∀ i r, vectorArithmetic i = some r → MasksInto i r

/-- R111: the vector operations on integers, and VABS and VNEG of both kinds. -/
def Sys2Proof.Claims.VectorIntegerResult : Prop := ∀ i r, vectorInteger i = some r → MasksInto i r

/-- R114, R117 to R120: selection, permutations, broadcasts, tables and the rounded functions. -/
def Sys2Proof.Claims.VectorShapeResult : Prop := ∀ i r, vectorShape i = some r → MasksInto i r

/-- R105 to R112: the lane-wise vector instructions. -/
def Obligations.VectorArithmetic : Prop :=
  VectorArithmeticResult ∧ VectorIntegerResult

namespace Sys2Proof.Claims

open Sys2Proof.Machine

/-- R113: the relation of VCMP on two elements. -/
def vrelation (rel : FRel) (ty : Fmt) (a b : Nat) : Bool :=
  if Num.isInt ty then
    match rel with
    | .eq => intOf ty a == intOf ty b
    | .ne => intOf ty a != intOf ty b
    | .lt => decide (intOf ty a < intOf ty b)
    | .le => decide (intOf ty a ≤ intOf ty b)
    | .gt => decide (intOf ty b < intOf ty a)
    | .ge => decide (intOf ty b ≤ intOf ty a)
    | .un => false
    | .or => true
  else Num.frel rel (Num.value ty a) (Num.value ty b)

/-- R49: a node of the pairwise tree: of k levels, the j-th from element j × 2^k on; an absent operand gives way to the
other. -/
def node (op : Nat → Nat → Nat) (x : Nat → Option Nat) : Nat → Nat → Option Nat
  | 0, j => x j
  | k + 1, j => match node op x k (2 * j), node op x k (2 * j + 1) with
    | some l, some r => some (op l r)
    | some l, none => some l
    | none, r => r

/-- R116: a reduction: its header, type, destination and source, the operation of its nodes and its identity. -/
def reduction : Instr → Option (Hdr × Fmt × Reg × Reg × (Nat → Nat → Nat) × Nat)
  | .vrsum h ty rnd sat d a => some (h, ty, d, a, fun x y => if Num.isInt ty then
      ((if sat then limited ty (intOf ty x + intOf ty y) else intOf ty x + intOf ty y) % (2 ^ Num.bits ty : Nat)).toNat
      else Num.roundArith ty rnd sat (Num.add rnd (Num.value ty x) (Num.value ty y)), 0)
  | .vrmin h ty d a => some (h, ty, d, a, fun x y =>
      if Num.isInt ty then (if intOf ty y < intOf ty x then y else x) else Num.fminmax false ty x y,
      if Num.isInt ty then (if Num.isSigned ty then 2 ^ (Num.bits ty - 1) - 1 else 2 ^ Num.bits ty - 1) else Num.infEnc ty)
  | .vrmax h ty d a => some (h, ty, d, a, fun x y =>
      if Num.isInt ty then (if intOf ty y < intOf ty x then x else y) else Num.fminmax true ty x y,
      if Num.isInt ty then (if Num.isSigned ty then 2 ^ (Num.bits ty - 1) else 0) else Num.infEnc ty + 2 ^ (Num.bits ty - 1))
  | .vror h ty d a => some (h, ty, d, a, fun x y => x ||| y, 0)
  | _ => none

end Sys2Proof.Claims

open Sys2Proof Sys2Proof.Machine Sys2Proof.Claims

/-- R113: VCMP writes the result of each enabled element into every byte lane of it in k[D], its complement into k[E],
and keeps the bits of disabled elements. -/
def Obligations.VectorCompareResult : Prop :=
  ∀ (h : Hdr) (rel : FRel) (ty : Fmt) (d : KReg) (e : Option KReg) (a : Reg) (b : Src) (s : State),
    Issues h (rV a :: wK d :: useE e ++ rSV b) s false true →
    let c := s.ctx s.cur
    let lane (i : Nat) := 8 * i / Num.bits ty
    let holds (j : Nat) := vrelation rel ty (elemA c ty a j) (elemB c ty b j)
    ∃ t v w, exec (.vcmp h rel ty d e a b) s = .next t ∧
      Completes s t (match e with
        | some e => (c.wk d v).wk e w
        | none => c.wk d v) (s.nextPc h) ∧
      (∀ i, i < 64 → v.getLsbD i =
        if lane i < Num.count ty ∧ laneOn c h ty (lane i) then holds (lane i) else (c.rk d).getLsbD i) ∧
      (∀ e', e = some e' → ∀ i, i < 64 → w.getLsbD i =
        if lane i < Num.count ty ∧ laneOn c h ty (lane i) then !holds (lane i) else (c.rk e').getLsbD i)

/-- R115: VCVT converts the elements that both formats have, from part idx of the one with more to part idx of the one
with more; destination elements outside the part, and disabled ones, keep their contents, and the bits above 6-bit
elements become zero. -/
def Obligations.VectorConvertResult : Prop :=
  ∀ (h : Hdr) (src dst : Fmt) (rnd : Rnd) (sat : Bool) (d a : Reg) (idx : BitVec 4) (s : State),
    Issues h [rV a, wV d] s false true →
    let c := s.ctx s.cur
    let n := min (Num.count src) (Num.count dst)
    let from_ := if Num.count dst < Num.count src then idx.toNat * n else 0
    let base := if Num.count src < Num.count dst then idx.toNat * n else 0
    ∃ t v, exec (.vcvt h src dst rnd sat d a idx) s = .next t ∧ Completes s t (c.wv d v) (s.nextPc h) ∧
      (∀ j, j < Num.count dst → Num.elem v.toNat (Num.bits dst) j =
        if laneOn c h dst j ∧ base ≤ j ∧ j < base + n then
          (let x := elemA c src a (from_ + (j - base))
           if src = dst then (if Num.isNan (Num.value src x) then Num.canon dst else x)
           else Num.round dst rnd sat (Num.value src x)) % 2 ^ Num.bits dst
        else elemA c dst d j) ∧
      (Num.bits dst = 6 → ∀ b, 384 ≤ b → v.getLsbD b = false)

/-- R116 over R49: a reduction writes the tree of the enabled elements of v[A], or the identity when there is none, to
v[D] whole. -/
def Obligations.VectorReduceResult : Prop :=
  ∀ i h ty d a op ident, reduction i = some (h, ty, d, a, op, ident) → ∀ s, Issues h [rV a, wV d] s false true →
    let c := s.ctx s.cur
    let x (j : Nat) := if laneOn c h ty j then some (elemA c ty a j) else none
    let levels := if Num.bits ty = 8 ∨ Num.bits ty = 6 then 6 else if Num.bits ty = 16 then 5 else if Num.bits ty = 32 then 4 else 7
    ∃ t, exec i s = .next t ∧
      Completes s t (c.wv d (BitVec.ofNat 512 ((node op x levels 0).getD ident))) (s.nextPc h)

/-- R117: VEXT is guarded as a scalar instruction and writes element (gb or IMM) mod N to g[D], sign-extended for I types
and zero-extended otherwise. -/
def Sys2Proof.Claims.VectorExtractResult : Prop :=
  ∀ (h : Hdr) (ty : Fmt) (d a : Reg) (b : Src) (s : State), Issues h (rV a :: wG d :: rS b) s →
    let c := s.ctx s.cur
    let x := elemA c ty a ((c.rs b).toNat % Num.count ty)
    ∃ t, exec (.vext h ty d a b) s = .next t ∧
      Completes s t (c.wg d (if Num.isInt ty then BitVec.ofInt 64 (intOf ty x) else BitVec.ofNat 64 x)) (s.nextPc h)

/-- R114, R117 to R120: the vector instructions that move elements, and the rounded functions. -/
def Obligations.VectorShape : Prop :=
  VectorShapeResult ∧ VectorExtractResult

namespace Sys2Proof.Claims

open Sys2Proof.Machine

/-- The scalar instructions of R83 to R97 that one row describes. -/
def scalarRow (i : Instr) : Option Row := (arithmetic i).or ((logic i).or (predicates i))

/-- The lines of the register cache that an instruction names, and those of them that are absent (R161). -/
def named (s : State) (h : Hdr) (uses : List Use) : List Nat :=
  ((rK h.guard :: uses).filterMap (·.line (s.core s.cur.core).part)).map (·.1)
def absent (s : State) (h : Hdr) (uses : List Use) : List Nat :=
  (named s h uses).filter fun l => !(s.core s.cur.core).resident s.cur.slot l

end Sys2Proof.Claims

open Sys2Proof Sys2Proof.Machine Sys2Proof.Claims

/-- R64: an instruction whose guard is false (a vector instruction: whose lane mask is zero, R106) advances pc and changes
nothing else, for the rows of R83 to R97 and of R110 to R120. -/
def Sys2Proof.Claims.GuardFalse : Prop :=
  (∀ i h uses f, scalarRow i = some (h, uses, f) → ∀ s, Reaches h uses s → s.verdict.1 = false →
    ((s.ctx s.cur).rk h.guard).getLsbD 0 = h.neg →
    ∃ t, exec i s = .next t ∧ Completes s t (s.ctx s.cur) (s.nextPc h)) ∧
  (∀ i h uses ty d f, (vectorArithmetic i).or ((vectorInteger i).or (vectorShape i)) = some (h, uses, ty, d, f) →
    ∀ s, Reaches h uses s → s.verdict.1 = false →
    (s.ctx s.cur).rk h.guard = (if h.neg then BitVec.allOnes 64 else 0) →
    ∃ t, exec i s = .next t ∧ Completes s t (s.ctx s.cur) (s.nextPc h))

/-- R55, R62 step 4, R20: while a counter that the wait field names is not zero the thread waits on it; no turn is spent
and nothing else changes. R56: a register beyond the partition raises REGRANGE at the verdict, before any wait. -/
def Sys2Proof.Claims.WaitAndRange : Prop :=
  ∀ i h uses f, scalarRow i = some (h, uses, f) → ∀ s,
    ((rK h.guard :: uses).all (·.inRange (s.core s.cur.core).part) = true → (s.ctx s.cur).mustWait h.wait = true →
      exec i s = .next (s.setSt s.cur (.waiting (.counters h.wait)))) ∧
    ((rK h.guard :: uses).all (·.inRange (s.core s.cur.core).part) = false → s.verdict.1 = false →
      ∃ t, exec i s = .next t ∧ Leaves (s.raiseLater s.cur { code := 3 }) t)

/-- R168, R170: a failed verdict commits nothing, is counted in its verdict cycle, and the instruction issues again from
16 cycles on; after MLIM.INSN replays in a row it raises MARGIN too. -/
def Sys2Proof.Claims.VerdictFails : Prop :=
  ∀ i h uses f, scalarRow i = some (h, uses, f) → ∀ s, Reaches h uses s → s.verdict.1 = true →
    let counted := s.postAt (s.now + 2) (.replayCount s.cur.core)
    let again := (s.slot s.cur).replays
    (again < (s.core s.cur.core).insn.toNat → ∃ t, exec i s = .next t ∧ Leaves (counted.setSt s.cur .ready) t ∧
      (t.slot s.cur).replays = again + 1) ∧
    ((s.core s.cur.core).insn.toNat ≤ again → ∃ t, exec i s = .next t ∧
      Leaves (counted.postAt (s.now + 2) (.raise s.cur { code := 19, sub := 0 })) t)

/-- R161: an instruction that names an absent line does not execute: its turn becomes the register fill of the lines that
it names, which leaves those that are resident as they are. A fill into a cache with room makes every named line resident, loads from the image (here in local memory) the g
registers of the lines that were absent, and changes no other line, thread or memory. -/
def Obligations.RegisterFills : Prop :=
  (∀ i h uses f, scalarRow i = some (h, uses, f) → ∀ s,
    (rK h.guard :: uses).all (·.inRange (s.core s.cur.core).part) = true → (s.ctx s.cur).mustWait h.wait = false →
    s.imageFault s.cur = none → s.verdict.1 = false → absent s h uses ≠ [] →
    exec i s = exec (.registerFill (named s h uses)) s) ∧
  (∀ (lines : List Nat) (s : State), s.verdict.1 = false → (s.core s.cur.core).rlines.length + lines.length ≤ 384 →
    ∃ t, exec (.registerFill lines) s = .next t ∧ Keeps s t ∧ t.agenda = s.agenda ∧
      (t.slot s.cur).elig = s.now + 16 ∧ (t.ctx s.cur).pc = (s.ctx s.cur).pc ∧
      (∀ l, l ∈ lines → (t.core s.cur.core).resident s.cur.slot l = true) ∧
      (∀ n l, (s.core s.cur.core).resident n l = true → (t.core s.cur.core).resident n l = true) ∧
      (∀ l j, l ∈ lines → (s.core s.cur.core).resident s.cur.slot l = false → (s.ctx s.cur).loc = true → j < 8 →
        6 ≤ l → 8 * l + j < 48 + gCount (s.core s.cur.core).part → 8 * l + j ≠ 48 →
        (t.ctx s.cur).rg (BitVec.ofNat 6 (8 * l + j - 48)) =
          BitVec.ofNat 64 (s.localRead s.cur.core ((s.ctx s.cur).imageAddr + 64 * l + 8 * j) 8)))

/-- R181 (with R53): a fetch that reaches EXB finds the overlay trap. With OVL = 0 it saves the trap pc in OTPC, sets OVL
and goes to OVH; with OVL = 1 it raises PROT (overlay). ORET goes to OTPC and clears OVL; with OVL = 0 it raises PROT
(overlay) and changes nothing. -/
def Obligations.OverlayTrap : Prop :=
  ∀ (h : Hdr) (s : State),
    let c := s.ctx s.cur
    let k := s.core s.cur.core
    let n := if c.pc.toNat < k.exb.toNat then (lengthOf (s.fetchByte s.cur.core c.pc.toNat).toNat).getD 8 else 8
    (k.exb.toNat ≤ c.pc.toNat ∨ k.exb.toNat ≤ c.pc.toNat + n - 1 → s.fetch s.cur = .trap) ∧
    (c.ovl = false → ∃ t, exec .overlayTrap s = .next t ∧
      Completes s t { c.setStat 4 true with otpc := 4 * (c.pc / 4) } k.ovh) ∧
    (c.ovl = true → ∃ t, exec .overlayTrap s = .next t ∧
      Leaves (s.raiseLater s.cur { code := 6, sub := 16, addr := c.pc }) t) ∧
    (Issues h [] s → c.ovl = true → ∃ t, exec (.oret h) s = .next t ∧ Completes s t (c.setStat 4 false) c.otpc) ∧
    (Issues h [] s → c.ovl = false → ∃ t, exec (.oret h) s = .next t ∧
      Leaves (s.raiseLater s.cur { code := 6, sub := 16 }) t)

/-- R182, R344: BRK raises WATCH (break) with its code at its verdict, and a deferred fault is raised in place of the
instruction, the oldest first; pc stays, and nothing else is done. -/
def Sys2Proof.Claims.BreakAndDeferred : Prop :=
  (∀ (h : Hdr) (code : BitVec 12) (s : State), Issues h [] s → ∃ t, exec (.brk h code) s = .next t ∧
    Leaves (s.raiseLater s.cur { code := 21, sub := 3, info := code.zeroExtend 64 }) t) ∧
  (∀ (s : State) f l, (s.slot s.cur).deferred = f :: l → s.verdict.1 = false →
    ∃ t, exec (.deferredFault s.cur) s = .next t ∧
      Leaves ((s.modSlot s.cur fun x => { x with deferred := l }).raiseLater s.cur f) t) ∧
  (∀ (s : State) t b f, (s.slot t).st ≠ .empty → (s.slot t).bind = b →
    ∃ u, perform (.deferFault t b f) s = .next u ∧ (u.slot t).deferred = (s.slot t).deferred ++ [f] ∧ u.ctx t = s.ctx t)

/-- R345, R80, R346: a fault that no containment entry catches, in a region whose CPOL is 0, freezes its thread. Its
registers and pc stay, its slot records the fault, and the packet for its supervisor is of kind 0 and holds the fault's
number, sub-code and address and the thread's pc. -/
def Sys2Proof.Claims.FaultFreezes : Prop :=
  ∀ (s : State) (t : Tid) (f : Flt), (s.slot t).st = .ready → (s.ctx t).catcher f = none → (s.regionOf t).cpol = false →
    f.code ≠ 18 → s.placeFree t = true →
    ∃ u, perform (.raise t f) s = .next u ∧ (u.slot t).st = .frozen ∧ u.ctx t = s.ctx t ∧
      (u.slot t).code = f.code ∧ (u.slot t).sub = f.sub ∧ (u.slot t).deferred = (s.slot t).deferred ∧
      (u.slot t).spkt.extractLsb' 24 8 = 0 ∧ (u.slot t).spkt.extractLsb' 34 6 = f.code ∧
      (u.slot t).spkt.extractLsb' 40 8 = f.sub ∧ (u.slot t).spkt.extractLsb' 320 64 = f.addr ∧
      (u.slot t).spkt.extractLsb' 256 64 = (s.ctx t).pc ∧
      (u.core t.core).purlins = (s.core t.core).purlins ∧ (u.core t.core).battens = (s.core t.core).battens

/-- R345: a caught fault leaves the thread waiting for its unwind; one that none catches, where CPOL is 1, begins the
kill of R349 and is reported with kind 1. R348: a slot has one place for a packet; while an earlier one waits in it, the
thread waits with its fault. -/
def Sys2Proof.Claims.FaultUnwindsOrKills : Prop :=
  ∀ (s : State) (t : Tid) (f : Flt), (s.slot t).st = .ready → f.code ≠ 18 → f.code ≠ 19 →
    (s.placeFree t = false → ∃ u, perform (.raise t f) s = .next u ∧
      (u.slot t).st = .waiting .quiet ∧ (u.slot t).raising = some f ∧ u.ctx t = s.ctx t ∧ u.core t.core = (s.core t.core).modSlot
        t.slot fun x => { x with replays := 0, st := .waiting .quiet, raising := some f }) ∧
    (∀ i, s.placeFree t = true → (s.ctx t).catcher f = some i → ∃ u, perform (.raise t f) s = .next u ∧
      (u.slot t).st = .waiting .quiet ∧ (u.slot t).unwinding = some (f, s.now) ∧ u.ctx t = s.ctx t) ∧
    (s.placeFree t = true → (s.ctx t).catcher f = none → (s.regionOf t).cpol = true → ∃ u, perform (.raise t f) s = .next u ∧
      (u.slot t).st = .waiting .quiet ∧ (u.slot t).spkt.extractLsb' 24 8 = 1 ∧ u.ctx t = s.ctx t ∧
      (f.code ≠ 13 → (u.slot t).killing = some f.code) ∧
      ∃ p ∈ u.agenda, p.due = s.now ∧ p.ev = .act (.stopThread t))

/-- R324, R325: CRO opens the entry at CDEPTH and CRC closes the innermost; an unwind to entry i, once nothing of R198 is
outstanding and the slot's place for a packet is free (R348), writes g1 to g3, clears the entries from i on, sets CDEPTH
to i and goes to HPC. The line of g0 to g7 is filled first where it is absent, here into a cache with room, and is dirty
from then on (R161); while it is resident no other register changes. -/
def Sys2Proof.Claims.Containment : Prop :=
  (∀ (h : Hdr) (mask : BitVec 8) (tgt : Target) (s : State), Issues h (targetUses tgt) s →
    let c := s.ctx s.cur
    let a := Machine.targetOf c tgt
    (a.toNat % 4 = 0 → c.cdepth.toNat < 4 → ∃ t, exec (.cro h mask tgt) s = .next t ∧
      Completes s t { c with
        cdepth := c.cdepth + 1, stack := c.stack.put {} c.cdepth.toNat { nst := 0, mask := mask, hpc := a, valid := true } }
        (s.nextPc h)) ∧
    (a.toNat % 4 ≠ 0 → ∃ t, exec (.cro h mask tgt) s = .next t ∧ Leaves (s.raiseLater s.cur { code := 5, addr := a }) t) ∧
    (a.toNat % 4 = 0 → 4 ≤ c.cdepth.toNat → ∃ t, exec (.cro h mask tgt) s = .next t ∧
      Leaves (s.raiseLater s.cur { code := 6, sub := 14 }) t)) ∧
  (∀ (h : Hdr) (s : State), Issues h [] s →
    let c := s.ctx s.cur
    let d := c.cdepth.toNat - 1
    (c.cdepth ≠ 0 → ∃ t, exec (.crc h) s = .next t ∧ Completes s t { c with
      cdepth := c.cdepth - 1, stack := c.stack.put {} d { c.stack.get {} d with valid := false } } (s.nextPc h)) ∧
    (c.cdepth = 0 → ∃ t, exec (.crc h) s = .next t ∧ Leaves (s.raiseLater s.cur { code := 6, sub := 14 }) t)) ∧
  (∀ (s : State) (t : Tid) f due i, (s.slot t).unwinding = some (f, due) → due ≤ s.now → s.quietThread t = true →
    s.placeFree t = true → (s.slot t).force = false → (s.ctx t).catcher f = some i →
    (s.core t.core).resident t.slot 6 = true ∨ (s.core t.core).rlines.length < 384 →
    let e := (s.ctx t).stack.get {} i
    ∃ u, exec (.containmentUnwind t) s = .next u ∧ (u.slot t).st = .ready ∧ (u.slot t).unwinding = none ∧
      (u.ctx t).rg 1 = f.code.zeroExtend 64 ∧ (u.ctx t).rg 2 = f.addr ∧ (u.ctx t).rg 3 = e.nst.zeroExtend 64 ∧
      (u.ctx t).pc = e.hpc ∧ (u.ctx t).cdepth = BitVec.ofNat 3 i ∧
      (∀ j, i ≤ j → j < 4 → (u.ctx t).stack.get {} j = {}) ∧
      (∀ j, j < i → (u.ctx t).stack.get {} j = (s.ctx t).stack.get {} j) ∧
      (∀ r : Reg, 8 ≤ r.toNat → (u.ctx t).rg r = (s.ctx t).rg r) ∧
      ((s.core t.core).resident t.slot 6 = true → ∀ r : Reg, r ≠ 1 → r ≠ 2 → r ≠ 3 → (u.ctx t).rg r = (s.ctx t).rg r) ∧
      (u.core t.core).rlines.any (fun l => l.is t.slot && l.idx == 6 && l.dirty) = true ∧
      (u.ctx t).k = (s.ctx t).k ∧ (u.ctx t).v = (s.ctx t).v ∧ u.phys = s.phys ∧ ∀ v, v ≠ t → u.ctx v = s.ctx v)

/-- R326: outside paired mode PCMP has no effect; in paired mode it presents the register to the store comparator at
c + 2, and does not wait for it. -/
def Sys2Proof.Claims.PairCompareResult : Prop :=
  ∀ (h : Hdr) (op : PcmpOp) (s : State),
    let c := s.ctx s.cur
    let uses := match op with
      | .g a => [rG a]
      | .v a => [rV a]
      | .k a => [rK a]
    let words := match op with
      | .g a => [31, 0, (c.rg a).toNat]
      | .v a => [31, 1, (c.rv a).toNat]
      | .k a => [31, 2, (c.rk a).toNat]
    Issues h uses s →
    (c.paired = false → ∃ t, exec (.pcmp h op) s = .next t ∧ Completes s t c (s.nextPc h)) ∧
    (c.paired = true → s.cmpFull s.cur = false → ∃ t, exec (.pcmp h op) s = .next t ∧
      Completes (s.sched (s.now + 2) Phase.commit
        (.present s.cur words 0 false (if c.trail then none else some (.wakeKeys s.cur.core [])))) t c (s.nextPc h))

/-- R55, R56, R62, R64, R82, R168, R170: what stands before an effect: the wait, the registers, the guard and the verdict.
Where the rules admit more than one reading, it follows the model's choice of log entry 11. -/
def Obligations.IssueChecks : Prop :=
  GuardFalse ∧ WaitAndRange ∧ VerdictFails

/-- R182, R325, R344 to R346, R349: taking a fault.
Where the rules admit more than one reading, it follows the model's choice of log entries 11 and 20. -/
def Obligations.FaultsTaken : Prop :=
  BreakAndDeferred ∧ FaultFreezes ∧ FaultUnwindsOrKills

/-- R323 to R326: containment regions and PCMP.
Where the rules admit more than one reading, it follows the model's choice of log entries 11 and 46. -/
def Obligations.ContainmentAndPairs : Prop :=
  Containment ∧ PairCompareResult

namespace Sys2Proof.Claims

open Sys2Proof.Machine

/-- The address of a mem instruction of the current thread (R59) and its bytes (R197). -/
def eaOf (s : State) (m : MemOps) : W64 := (s.ctx s.cur).ea m
def atOf (s : State) (m : MemOps) : Nat := (eaOf s m).toNat

/-- R197, R162: the access is aligned to its size, and no watchpoint of its kind matches it. -/
def Aligned (s : State) (m : MemOps) (kinds : Nat → Bool) : Prop :=
  atOf s m % accessBytes m = 0 ∧ s.watch kinds (eaOf s m) = none

/-- The current thread is not one of a pair, and its region is not in debug mode (R314). -/
def Plain (s : State) : Prop := (s.ctx s.cur).paired = false ∧ (s.regionOf s.cur).dbg = false

/-- R183: the fault of n bytes at a: outside local memory; below EXB, but for a store with OVL or PRIV; in the context area
without PRIV. -/
def localRule (s : State) (a n : Nat) (store : Bool) : Option Flt :=
  let c := s.ctx s.cur
  if 0x60000 < a + n then some { code := 6, sub := 0, addr := BitVec.ofNat 64 a }
  else if a < (s.core s.cur.core).exb.toNat ∧ ¬ (store ∧ (c.ovl ∨ c.priv)) then some { code := 6, sub := 1, addr := BitVec.ofNat 64 a }
  else if 0x58000 < a + n ∧ ¬ c.priv then some { code := 6, sub := 2, addr := BitVec.ofNat 64 a }
  else none

/-- R186, R187: every granule that n bytes at a touch is FULL (.f, .fc), EMPTY (.e), or of no account. -/
def granuleRule (s : State) (core a n : Nat) (q : Qual) : Prop :=
  match q with
  | .f | .fc => ∀ b, b < n → (s.core core).empty.get false ((a + b) / 16) = false
  | .e => ∀ b, b < n → (s.core core).empty.get false ((a + b) / 16) = true
  | _ => True

/-- The n bytes at a of a core's local memory, little-endian (R2). -/
def HoldsBytes (get : Nat → Nat) (a n v : Nat) : Prop := ∀ b, b < n → get (a + b) = v / 256 ^ b % 256

end Sys2Proof.Claims

open Sys2Proof Sys2Proof.Machine Sys2Proof.Claims

/-- R183, R187, R197, R199: LDL of a thread outside paired and debug mode, over bytes without error, whose granules match
its qualifier: its register receives the bytes of local memory, and nothing else changes, but that .f and .fc acquire at
c + 2 and that .fc empties its granules. A granule that does not match makes the thread wait on it. -/
def Sys2Proof.Claims.LocalLoadResult : Prop :=
  ∀ (h : Hdr) (m : MemOps) (s : State), Issues h (memUses m true) s → Aligned s m isLoadKind → Plain s →
    let k := s.cur.core
    let a := atOf s m
    let n := accessBytes m
    localRule s a n false = none → m.qual ≠ .k →
    (s.localErr k a n = .clean → granuleRule s k a n m.qual →
      ∃ t v, exec (.ldl h m) s = .next t ∧ HoldsBytes (fun x => s.localRead k x 1) a n v ∧ v < 256 ^ n ∧
        Completes (match m.qual with
          | .fc => (s.setLocalFull k a n false).actAt (s.now + 2) (.acquireL1 s.cur none)
          | .f | .e => s.actAt (s.now + 2) (.acquireL1 s.cur none)
          | _ => s) t ((s.ctx s.cur).wdst (dstOf m) v) (s.nextPc h)) ∧
    (¬ granuleRule s k a n m.qual → ∃ t, exec (.ldl h m) s = .next t ∧
      Leaves (s.setSt s.cur (.waiting (.change (granules a n)))) t) ∧
    (granuleRule s k a n m.qual → s.localErr k a n = .uncorrectable → ∃ t, exec (.ldl h m) s = .next t ∧
      Leaves (s.raiseLater s.cur { code := 9, addr := BitVec.ofNat 64 a }) t)

/-- R183, R187, R198: STL of a thread outside paired and debug mode: its bytes are written at its verdict; with .e its
granules, which must be EMPTY, become FULL and its bytes are written at c + 3, once no release point holds (R209). -/
def Sys2Proof.Claims.LocalStoreResult : Prop :=
  ∀ (h : Hdr) (m : MemOps) (s : State), Issues h (memUses m false) s → Aligned s m isStoreKind → Plain s →
    let k := s.cur.core
    let a := atOf s m
    let n := accessBytes m
    let data := (s.ctx s.cur).storeData m
    localRule s a n true = none → (8 ≤ n ∨ s.localErr k a n ≠ .uncorrectable) →
    (m.qual = .none → ∃ t, exec (.stl h m) s = .next t ∧
      Completes (s.actAt (s.now + 2) (.localWrite s.cur a n data)) t (s.ctx s.cur) (s.nextPc h)) ∧
    (m.qual = .e → granuleRule s k a n .e → s.releaseHeld s.cur = false → ∃ t, exec (.stl h m) s = .next t ∧
      Completes ((s.setLocalFull k a n true).actAt (s.now + 3) (.localWrite s.cur a n data)) t (s.ctx s.cur) (s.nextPc h)) ∧
    (m.qual = .e → granuleRule s k a n .e → s.releaseHeld s.cur = true → ∃ t, exec (.stl h m) s = .next t ∧ Leaves s t) ∧
    (m.qual = .e → ¬ granuleRule s k a n .e → ∃ t, exec (.stl h m) s = .next t ∧
      Leaves (s.setSt s.cur (.waiting (.change (granules a n)))) t)

/-- R183, R184, R198: a local store that commits writes its n bytes, little-endian, and no other byte of any memory; the
registers stay, and so do the FULL bits.
Where the rules admit more than one reading, it follows the model's choice of log entry 11. -/
def Obligations.LocalStoreCommits : Prop :=
  ∀ (s : State) (t : Tid) (a n data : Nat), ∃ u, perform (.localWrite t a n data) s = .next u ∧
    HoldsBytes (fun x => u.localRead t.core x 1) a n data ∧
    (∀ k x, ¬ (k = t.core ∧ a ≤ x ∧ x < a + n) → u.localRead k x 1 = s.localRead k x 1) ∧
    (∀ team pa, u.physByte team pa = s.physByte team pa) ∧ u.clusters = s.clusters ∧
    (∀ k, (u.core k).empty = (s.core k).empty) ∧
    (∀ v, (u.ctx v).g = (s.ctx v).g ∧ (u.ctx v).k = (s.ctx v).k ∧ (u.ctx v).v = (s.ctx v).v ∧ (u.ctx v).pc = (s.ctx v).pc) ∧
    u.agenda = s.agenda

/-- R197, R183, R162: what stops LDL and STL: ALIGN, then a watchpoint, then PROT outside local memory, below EXB or in the
context area; nothing is done, and the fault comes with the verdict. -/
def Sys2Proof.Claims.LocalAccessFaults : Prop :=
  ∀ (h : Hdr) (m : MemOps) (s : State) (store : Bool),
    let i := if store then Instr.stl h m else Instr.ldl h m
    let kinds := if store then isStoreKind else isLoadKind
    Issues h (memUses m (!store)) s →
    (atOf s m % accessBytes m ≠ 0 → ∃ t, exec i s = .next t ∧
      Leaves (s.raiseLater s.cur { code := 5, addr := eaOf s m }) t) ∧
    (∀ f, atOf s m % accessBytes m = 0 → s.watch kinds (eaOf s m) = some f → ∃ t, exec i s = .next t ∧
      Leaves (s.raiseLater s.cur f) t) ∧
    (∀ f, Aligned s m kinds → localRule s (atOf s m) (accessBytes m) store = some f → ∃ t, exec i s = .next t ∧
      Leaves (s.raiseLater s.cur f) t)

/-- R183 to R187, R197: LDL and STL.
Where the rules admit more than one reading, it follows the model's choice of log entries 11 and 19. -/
def Obligations.LocalAccess : Prop :=
  LocalLoadResult ∧ LocalStoreResult ∧ LocalAccessFaults

namespace Sys2Proof.Claims

open Sys2Proof.Machine

/-- The thread waits for the message that carries this number. -/
def State.awaits (s : State) (id : Nat) : State := s.setSt s.cur (.waiting (.event id))

/-- R317: what the first-level TLB says of an access: nothing, a fault, or a physical address. -/
inductive Looked where
  | miss
  | fault (f : Flt)
  | hit (pa : Nat)
deriving DecidableEq

def look (s : State) (a : Acc) : Looked :=
  match findTlb (s.core s.cur.core).tlb a.pasid a.va with
  | none => .miss
  | some e => match s.resolve a e with
    | .error f => .fault f
    | .ok pa => .hit pa

/-- The bytes that the L1 gives at a physical address; device registers are never cached (R188, R191). -/
def cached (s : State) (pa n : Nat) : Option Nat := if isDevice pa then none else (s.core s.cur.core).l1Load pa n

end Sys2Proof.Claims

open Sys2Proof Sys2Proof.Machine Sys2Proof.Claims

/-- R185, R187, R197 to R199: LDC and STC of a thread outside paired and debug mode. Past its checks LDC sends its request,
performed 24 cycles after the issue, and waits for its landing; STC sends its bytes at c + 3 and completes. A word beyond
the cluster store raises PROT. -/
def Sys2Proof.Claims.ClusterAccess : Prop :=
  ∀ (h : Hdr) (m : MemOps) (s : State) (store : Bool),
    let i := if store then Instr.stc h m else Instr.ldc h m
    let n := accessBytes m
    Issues h (memUses m (!store)) s → Aligned s m (if store then isStoreKind else isLoadKind) → Plain s →
    (0x400000 < atOf s m + n → ∃ t, exec i s = .next t ∧ Leaves (s.raiseLater s.cur { code := 6, addr := eaOf s m }) t) ∧
    (atOf s m + n ≤ 0x400000 → store = false →
      let (a, s') := s.newAcc h .ldc m.qual (atOf s m) n (dstOf m) 0 0 0
      ∃ t, exec i s = .next t ∧ Leaves (State.awaits ((s'.addOut s.cur.core { id := a.id, slot := s.cur.slot, kind := .load }).performAt
        (s.now + 24) s.cur (.clusterStorePerform a)) a.id) t) ∧
    (atOf s m + n ≤ 0x400000 → store = true → (m.qual = .e → s.releaseHeld s.cur = false) →
      let (a, s') := s.newAcc h .stc m.qual (atOf s m) n .none 0 ((s.ctx s.cur).storeData m) 0
      ∃ t, exec i s = .next t ∧ Completes (s'.actAt (s.now + 3) (.cstoreSend a)) t (s.ctx s.cur) (s.nextPc h)) ∧
    (atOf s m + n ≤ 0x400000 → store = true → m.qual = .e → s.releaseHeld s.cur = true →
      ∃ t, exec i s = .next t ∧ Leaves s t)

/-- R188, R195, R197 to R199, R317: LD of an unpaired thread. An L1 hit delivers its bytes at once, or its UE fault over an
uncorrectable error; a miss sends for the line, a TLB miss for the translation, and the thread waits; a refused translation
is the instruction's fault. -/
def Sys2Proof.Claims.VirtualLoad : Prop :=
  ∀ (h : Hdr) (m : MemOps) (s : State), Issues h (memUses m true) s → Aligned s m isLoadKind → (s.ctx s.cur).paired = false →
    let n := accessBytes m
    let (a, s') := s.newAcc h .ld m.qual (atOf s m) n (dstOf m) 0 0 0
    let out (line : Nat) (s : State) : State := s.addOut s.cur.core { id := a.id, slot := s.cur.slot, kind := .load, line := line }
    (2 ^ 55 ≤ atOf s m → ∃ t, exec (.ld h m) s = .next t ∧
      Leaves (s.raiseLater s.cur { code := 7, sub := 2, addr := eaOf s m }) t) ∧
    (atOf s m < 2 ^ 55 → look s a = .miss → ∃ t, exec (.ld h m) s = .next t ∧
      Leaves (State.awaits (out (2 ^ 60) (s'.missTlb a)) a.id) t) ∧
    (∀ f, atOf s m < 2 ^ 55 → look s a = .fault f → ∃ t, exec (.ld h m) s = .next t ∧ Leaves (s.raiseLater s.cur f) t) ∧
    (∀ pa v, atOf s m < 2 ^ 55 → look s a = .hit pa → cached s pa n = some v → s.l1Err s.cur.core pa n = .uncorrectable →
      ∃ t, exec (.ld h m) s = .next t ∧ Leaves (s.raiseLater s.cur { code := 9, addr := eaOf s m }) t) ∧
    (∀ pa v, atOf s m < 2 ^ 55 → look s a = .hit pa → cached s pa n = some v → s.l1Err s.cur.core pa n = .clean →
      ∃ t, exec (.ld h m) s = .next t ∧
      Completes (s'.modCore s.cur.core (·.l1Touch (pa / 64))) t ((s.ctx s.cur).wdst (dstOf m) v) (s.nextPc h)) ∧
    (∀ pa, atOf s m < 2 ^ 55 → look s a = .hit pa → cached s pa n = none → ∃ t, exec (.ld h m) s = .next t ∧
      Leaves (State.awaits (out (pa / 64) (s'.fetchLine { a with pa := pa } s.now)) a.id) t)

/-- R188, R198, R317: ST of an unpaired thread: with its translation it commits to the L1 at c + 3 and completes; without
one it waits for it. -/
def Sys2Proof.Claims.VirtualStore : Prop :=
  ∀ (h : Hdr) (m : MemOps) (s : State), Issues h (memUses m false) s → Aligned s m isStoreKind → (s.ctx s.cur).paired = false →
    let n := accessBytes m
    let (a, s') := s.newAcc h .st m.qual (atOf s m) n .none 0 ((s.ctx s.cur).storeData m) 0
    (2 ^ 55 ≤ atOf s m → ∃ t, exec (.st h m) s = .next t ∧
      Leaves (s.raiseLater s.cur { code := 7, sub := 2, addr := eaOf s m }) t) ∧
    (atOf s m < 2 ^ 55 → look s a = .miss → ∃ t, exec (.st h m) s = .next t ∧ Leaves (State.awaits (s'.missTlb a) a.id) t) ∧
    (∀ f, atOf s m < 2 ^ 55 → look s a = .fault f → ∃ t, exec (.st h m) s = .next t ∧ Leaves (s.raiseLater s.cur f) t) ∧
    (∀ pa, atOf s m < 2 ^ 55 → look s a = .hit pa → ∃ t, exec (.st h m) s = .next t ∧
      Completes (s'.actAt (s.now + 3) (.l1Store { a with pa := pa })) t (s.ctx s.cur) (s.nextPc h))

/-- R199, R200: LDN of an unpaired thread completes at once and starts at c + 3; at 255 outstanding it waits for its
counter to fall. PREF completes whatever its address; over an unaligned or too large one it does nothing, and else it
sends for its translation, or for the line that its translation names. -/
def Sys2Proof.Claims.LooseLoads : Prop :=
  (∀ (h : Hdr) (m : MemOps) (s : State), Issues h (memUses m true) s → (s.ctx s.cur).paired = false →
    let (a, s') := s.newAcc h .ldn m.qual (atOf s m) (accessBytes m) (dstOf m) m.wc 0 (2 ^ 48 * (s.slot s.cur).ldns)
    ((s.ctx s.cur).rwc m.wc ≠ 255 → Aligned s m isLoadKind → atOf s m < 2 ^ 55 → ∃ t, exec (.ldn h m) s = .next t ∧
      Completes ((s'.addOut s.cur.core { id := a.id, slot := s.cur.slot, kind := .ldn, reg := dstLine (s.core s.cur.core).part a.dst }).actAt
        (s.now + 3) (.ldnStart a)) t (s.ctx s.cur) (s.nextPc h)) ∧
    ((s.ctx s.cur).rwc m.wc = 255 → ∃ t, exec (.ldn h m) s = .next t ∧
      Leaves (s.setSt s.cur (.waiting (.counter m.wc 254))) t)) ∧
  (∀ (h : Hdr) (m : MemOps) (s : State), Issues h [rG m.a, rG m.b] s →
    let (a, s') := s.newAcc h .pref m.qual (atOf s m) 8 .none 0 0 0
    (atOf s m % 8 ≠ 0 ∨ 2 ^ 55 ≤ atOf s m → ∃ t, exec (.pref h m) s = .next t ∧ Completes s t (s.ctx s.cur) (s.nextPc h)) ∧
    (atOf s m % 8 = 0 → atOf s m < 2 ^ 55 → (s.ctx s.cur).paired = false → look s a = .miss →
      ∃ t, exec (.pref h m) s = .next t ∧ Completes (s'.missTlb a) t (s.ctx s.cur) (s.nextPc h)) ∧
    (∀ pa, atOf s m % 8 = 0 → atOf s m < 2 ^ 55 → (s.ctx s.cur).paired = false → look s a = .hit pa → isDevice pa = false →
      cached s pa 8 = none → ∃ t, exec (.pref h m) s = .next t ∧
      Completes (s'.fetchLine { a with pa := pa } s.now) t (s.ctx s.cur) (s.nextPc h)))

/-- R188, R199 to R202: LD, ST, LDN and PREF at their issue.
Where the rules admit more than one reading, it follows the model's choice of log entry 18. -/
def Obligations.VirtualAccess : Prop :=
  VirtualLoad ∧ VirtualStore ∧ LooseLoads

namespace Sys2Proof.Claims

open Sys2Proof.Machine

/-- R203 to R206: an atomic: header, the registers named after gA, its operation, gA, its bytes, its destination and its
operands. -/
abbrev ARow := Hdr × List Use × AccKind × Reg × Nat × Dst × (Ctx → Nat) × (Ctx → Nat)

def intAtomic (h : Hdr) (o : AtomOps) (k : AtomKind) : Option ARow :=
  let n := if o.dw then 8 else 4
  some (h, wG o.d :: rG o.c :: rS o.b, .atom k o.uns .i32 .rne, o.a, n, .g o.d,
    fun c => (c.rs o.b).toNat % 256 ^ n, fun c => (c.rg o.c).toNat % 256 ^ n)
def floatAtomic (h : Hdr) (o : FAtomOps) (k : AtomKind) : Option ARow :=
  let n := Num.bits o.ty / 8
  some (h, wG o.d :: rS o.b, .atom k false o.ty o.rnd, o.a, n, .g o.d, fun c => (c.rs o.b).toNat % 256 ^ n, fun _ => 0)

def atomics : Instr → Option ARow
  | .aadd h o => intAtomic h o .add
  | .aand h o => intAtomic h o .and
  | .aor h o => intAtomic h o .or
  | .axor h o => intAtomic h o .xor
  | .amin h o => intAtomic h o .min
  | .amax h o => intAtomic h o .max
  | .aswp h o => intAtomic h o .swp
  | .acas h o => intAtomic h o .cas
  | .afadd h o => floatAtomic h o .fadd
  | .afmin h o => floatAtomic h o .fmin
  | .afmax h o => floatAtomic h o .fmax
  | .aacc h o => some (h, rS o.b, .aacc, o.a, 16, .none, fun c => aaccAddend o.ty o.rnd (c.rs o.b).toNat, fun _ => 0)
  | _ => none

/-- R203, R206: the value that an atomic leaves in memory, from the old value x and its operands. -/
def atomicValue (n : Nat) (x b c : Nat) : AtomKind → Bool → Fmt → Rnd → Nat
  | .add, _, _, _ => (x + b) % 256 ^ n
  | .and, _, _, _ => x &&& b
  | .or, _, _, _ => x ||| b
  | .xor, _, _, _ => x ^^^ b
  | .min, uns, _, _ => if uns then min x b else if Num.signed b (8 * n) < Num.signed x (8 * n) then b else x
  | .max, uns, _, _ => if uns then max x b else if Num.signed x (8 * n) < Num.signed b (8 * n) then b else x
  | .swp, _, _, _ => b
  | .cas, _, _, _ => if x = b then c else x
  | .fadd, _, ty, rnd => Num.roundArith ty rnd false (Num.add rnd (Num.value ty x) (Num.value ty b))
  | .fmin, _, ty, _ => Num.fminmax false ty x b
  | .fmax, _, ty, _ => Num.fminmax true ty x b

end Sys2Proof.Claims

open Sys2Proof Sys2Proof.Machine Sys2Proof.Claims

/-- R203 to R206, R317: an atomic of an unpaired thread at an aligned address sends its request at c + 3 and waits for the
old value; AACC does not wait. A misaligned address raises ALIGN, a refused translation its fault, and one that the
first-level TLB does not hold makes the thread wait for it.
Where the rules admit more than one reading, it follows the model's choice of log entry 18. -/
def Obligations.AtomicIssue : Prop :=
  ∀ i h uses kind a n dst data data2, atomics i = some (h, uses, kind, a, n, dst, data, data2) →
    ∀ s, Issues h (rG a :: uses) s → (s.ctx s.cur).paired = false →
      let ea := (s.ctx s.cur).rg a
      let (acc, s') := s.newAcc h kind .none ea.toNat n dst 0 (data (s.ctx s.cur)) (data2 (s.ctx s.cur))
      let sends (pa : Nat) : State :=
        (s'.addOut s.cur.core { id := acc.id, slot := s.cur.slot, kind := .atomic, line := pa / 64 }).actAt
          (s.now + 3) (.atomSend { acc with pa := pa })
      (ea.toNat % n ≠ 0 → ∃ t, exec i s = .next t ∧ Leaves (s.raiseLater s.cur { code := 5, addr := ea }) t) ∧
      (ea.toNat % n = 0 → s.watch (if kind = .aacc then isStoreKind else isAnyKind) ea = none → 2 ^ 55 ≤ ea.toNat →
        ∃ t, exec i s = .next t ∧ Leaves (s.raiseLater s.cur { code := 7, sub := 2, addr := ea }) t) ∧
      (ea.toNat % n = 0 → s.watch (if kind = .aacc then isStoreKind else isAnyKind) ea = none → ea.toNat < 2 ^ 55 →
        (look s acc = .miss → ∃ t, exec i s = .next t ∧ Leaves (State.awaits (s'.missTlb acc) acc.id) t) ∧
        (∀ f, look s acc = .fault f → ∃ t, exec i s = .next t ∧ Leaves (s.raiseLater s.cur f) t) ∧
        (∀ pa, look s acc = .hit pa → kind ≠ .aacc → ∃ t, exec i s = .next t ∧ Leaves (State.awaits (sends pa) acc.id) t) ∧
        (∀ pa, look s acc = .hit pa → kind = .aacc → ∃ t, exec i s = .next t ∧
          Completes (sends pa) t (s.ctx s.cur) (s.nextPc h)))

/-- R204 to R206: an atomic of a team that is not dual-die, performed on a line that its home slice holds clean, over bytes without error, leaves the new
value in memory, changes no other byte, and sends the old value back.
Where the rules admit more than one reading, it follows the model's choice of log entry 18. -/
def Obligations.AtomicPerforms : Prop :=
  ∀ (s : State) (a : Acc) k uns ty rnd, a.kind = .atom k uns ty rnd →
    let team := s.teamNo a.tid
    (∀ x, s.team team = some x → x.partner = none) → s.isRetired a.pa = false → s.errs = [] → (∀ l, s.slineAt team a.pa = some l → l.dirty = false) →
    (∀ b, b < a.n → s.mapped (a.pa + b) = s.mapped a.pa + b) → s.slack = [] →
    let old := s.physRead team a.pa a.n
    ∃ t, exec (.atomicPerform a) s = .next t ∧
      HoldsBytes (fun x => (t.physByte team x).toNat) a.pa a.n (atomicValue a.n old a.data a.data2 k uns ty rnd) ∧
      (∀ x, (∀ b, b < a.n → s.mapped (a.pa + b) ≠ s.mapped x) → t.physByte team x = s.physByte team x) ∧
      (∃ p ∈ t.agenda, p.due = s.now + 60 + s.far a.tid.core a.pa ∧ ∃ a', p.ev = .run (.loadLanding a') ∧
        a'.data = old ∧ a'.id = a.id ∧ a'.tid = a.tid) ∧
      (∀ u, (t.ctx u).g = (s.ctx u).g ∧ (t.ctx u).pc = (s.ctx u).pc)

/-- R209, R210, R216: ACQ acquires at c + 3; REL completes once no release point of the thread is held, and else its turn
is spent; FENCE does both; FENCE.Q joins its queues at c + 3 (R217). -/
def Sys2Proof.Claims.OrderingResult : Prop :=
  ∀ (h : Hdr) (s : State), (s.ctx s.cur).paired = false → Issues h [] s →
    let c := s.ctx s.cur
    let acquires := s.actAt (s.now + 3) (.acquireL1 s.cur none)
    (∃ t, exec (.acq h) s = .next t ∧ Completes acquires t c (s.nextPc h)) ∧
    (s.releaseHeld s.cur = false → ∃ t, exec (.rel h) s = .next t ∧ Completes s t c (s.nextPc h)) ∧
    (s.releaseHeld s.cur = false → ∃ t, exec (.fence h) s = .next t ∧ Completes acquires t c (s.nextPc h)) ∧
    (s.releaseHeld s.cur = true → (∃ t, exec (.rel h) s = .next t ∧ Leaves s t) ∧ ∃ t, exec (.fence h) s = .next t ∧ Leaves s t) ∧
    (∀ mask, ∃ t, exec (.fenceQ h mask) s = .next t ∧
      Completes (s.actAt (s.now + 3) (.join s.cur.core mask)) t c (s.nextPc h))

/-- R195, R214: ACQ with a carry descriptor: 0 gives a full acquire; a 64-byte descriptor of local memory a limited one at
c + 3; a misaligned one raises ALIGN, and one with an uncorrectable error UE. -/
def Sys2Proof.Claims.LimitedAcquire : Prop :=
  ∀ (h : Hdr) (r : Reg) (s : State), (s.ctx s.cur).paired = false → Issues h [rG r] s →
    let c := s.ctx s.cur
    let a := c.rg r
    let k := s.cur.core
    let acquires (d : Option (BitVec 512)) := s.actAt (s.now + 3) (.acquireL1 s.cur d)
    (a = 0 → ∃ t, exec (.acqC h r) s = .next t ∧ Completes (acquires none) t c (s.nextPc h)) ∧
    (a.toNat % 64 ≠ 0 → ∃ t, exec (.acqC h r) s = .next t ∧ Leaves (s.raiseLater s.cur { code := 5, addr := a }) t) ∧
    (∀ f, a ≠ 0 → a.toNat % 64 = 0 → localRule s a.toNat 64 false = some f → ∃ t, exec (.acqC h r) s = .next t ∧
      Leaves (s.raiseLater s.cur f) t) ∧
    (a ≠ 0 → a.toNat % 64 = 0 → localRule s a.toNat 64 false = none → s.localErr k a.toNat 64 = .uncorrectable →
      ∃ t, exec (.acqC h r) s = .next t ∧ Leaves (s.raiseLater s.cur { code := 9, addr := a }) t) ∧
    (a ≠ 0 → a.toNat % 64 = 0 → localRule s a.toNat 64 false = none → s.localErr k a.toNat 64 = .clean →
      ∃ t d, exec (.acqC h r) s = .next t ∧ Completes (acquires (some d)) t c (s.nextPc h) ∧
        HoldsBytes (fun x => s.localRead k x 1) a.toNat 64 d.toNat)

/-- R210: a full acquire drops from each L1 line, but for those of the carried extents, the words that the core does not
own; the bytes, the owned words and every other part of the package stay. -/
def Sys2Proof.Claims.AcquireDrops : Prop :=
  ∀ (s : State) (k slot : Nat), ∃ t, perform (.acquireL1 ⟨k, slot⟩ none) s = .next t ∧
    (t.core k).l1.length = (s.core k).l1.length ∧
    (∀ (j : Nat) (l : L1Line), (s.core k).l1[j]? = some l → (t.core k).l1[j]? =
      some { l with val := if (s.core k).keeps l.tag then l.val else l.val &&& l.own }) ∧
    (∀ j, j ≠ k → t.core j = s.core j) ∧ (t.core k).mem = (s.core k).mem ∧ (t.core k).slots = (s.core k).slots ∧
    t.phys = s.phys ∧ t.agenda = s.agenda

/-- R209 to R217: ACQ, REL and FENCE.
Where the rules admit more than one reading, it follows the model's choice of log entry 17. -/
def Obligations.Ordering : Prop :=
  OrderingResult ∧ LimitedAcquire

namespace Sys2Proof.Claims

open Sys2Proof.Machine

/-- What the performance of a cluster-store request leaves (R185, R187): a store's bytes, or the load's landing 24 cycles
on with the bytes there; .e fills and .fc empties the granules touched. -/
def PerformedAt (s t : State) (cl : Nat) (a : Acc) : Prop :=
  let byte (s : State) (x : Nat) : Nat := peek (s.cluster cl).mem x 1
  (a.kind = .stc → HoldsBytes (byte t) a.va a.n a.data ∧
    (∀ x, ¬ (a.va ≤ x ∧ x < a.va + a.n) → byte t x = byte s x) ∧ ∀ o ∈ (t.core a.tid.core).outs, o.id ≠ a.id) ∧
  (a.kind = .ldc → (∀ x, byte t x = byte s x) ∧
    ∃ p ∈ t.agenda, p.due = s.now + 24 ∧ ∃ a', p.ev = .run (.loadLanding a') ∧ a'.id = a.id ∧ a'.tid = a.tid ∧
      HoldsBytes (byte s) a.va a.n a'.data) ∧
  (∀ g, (t.cluster cl).empty.get false g =
    if a.va / 16 ≤ g ∧ g ≤ (a.va + a.n - 1) / 16 then
      if a.kind = .stc ∧ a.qual = .e then false else if a.kind = .ldc ∧ a.qual = .fc then true
      else (s.cluster cl).empty.get false g
    else (s.cluster cl).empty.get false g) ∧
  (∀ u, (t.ctx u) = s.ctx u) ∧ t.phys = s.phys

/-- R187: the granules of a cluster store that a request touches match its qualifier. -/
def matchesStore (s : State) (cl : Nat) (a : Acc) : Bool :=
  (List.range a.n).all fun b => match a.qual with
    | .f | .fc => !(s.cluster cl).empty.get false ((a.va + b) / 16)
    | .e => (s.cluster cl).empty.get false ((a.va + b) / 16)
    | _ => true

/-- R185, R208: a request has to wait: behind an access of this cycle to one of its granules, or behind an arrival before it
that waits, of its own core or for one of its granules. -/
def mustWait (c : Cluster) (now : Nat) (a : Acc) : Prop :=
  c.busy now a.va a.n = true ∨ ∃ x ∈ c.arrived.takeWhile (fun x => x.1 ≠ a.id),
    x.2.1 = some a.tid.core ∨ ∃ g ∈ granules a.va a.n, g ∈ x.2.2

/-- The home of an address of a team that is not dual-die takes the access: its page is neither held nor retired, it is no
device register, no unit of memory has an error (R195, R357), and a way of its slice is not quarantined. -/
structure Reachable (s : State) (team : BitVec 16) (pa n : Nat) : Prop where
  single  : ∀ x, s.team team = some x → x.partner = none
  memory  : isDevice pa = false
  free    : (s.cluster (s.home pa)).heldPages.contains (pa / 65536) = false
  live    : s.isRetired pa = false
  clean   : s.errs = []
  page    : ∀ b, b < n → s.mapped (pa + b) = s.mapped pa + b
  prompt  : s.slack = []
  way     : ∃ w < 16, w ∉ (s.cluster (s.home pa)).badWays

end Sys2Proof.Claims

open Sys2Proof Sys2Proof.Machine Sys2Proof.Claims

/-- R185, R187, R208: a request at its cluster store, outside debug mode and over bytes without error: behind a request of this
cycle to the same granule, or behind an earlier arrival that waits for one of its granules or comes from its own core, it
keeps its place and tries again in the next cycle; it is held while its granules do not match, and is performed otherwise. A held request is performed when its granules come to match, the oldest first, one a cycle. -/
def Sys2Proof.Claims.ClusterStorePerforms : Prop :=
  ∀ (s : State) (a : Acc), a.kind = .stc ∨ a.kind = .ldc → 0 < a.n → (s.regionOf a.tid).dbg = false → s.storeErrs = [] →
    s.slack = [] →
    let cl := clusterOf a.tid.core
    (mustWait (s.cluster cl) s.now a → ∃ t, exec (.clusterStorePerform a) s = .next t ∧
      (∃ p ∈ t.agenda, p.due = s.now + 1 ∧ p.ev = .run (.clusterStorePerform a)) ∧
      (t.cluster cl).arrived = (s.cluster cl).arrived ++
        (if (s.cluster cl).arrived.any (·.1 == a.id) then [] else [(a.id, some a.tid.core, granules a.va a.n)]) ∧
      (t.cluster cl).mem = (s.cluster cl).mem ∧ (t.cluster cl).held = (s.cluster cl).held) ∧
    (¬ mustWait (s.cluster cl) s.now a → matchesStore s cl a = false → ∃ t, exec (.clusterStorePerform a) s = .next t ∧
      (t.cluster cl).held = (s.cluster cl).held ++ [a] ∧ (t.cluster cl).mem = (s.cluster cl).mem ∧ t.agenda = s.agenda) ∧
    (¬ mustWait (s.cluster cl) s.now a → matchesStore s cl a = true → ∃ t, exec (.clusterStorePerform a) s = .next t ∧
      PerformedAt s t cl a ∧ (t.cluster cl).busy t.now a.va a.n = true) ∧
    (∀ before after g, (s.cluster cl).held = before ++ a :: after → (∀ x ∈ before, x.id ≠ a.id ∧ matchesStore s cl x = false ∧ 0 < x.n) →
      (∀ x ∈ after, x.id ≠ a.id) → a.va / 16 ≤ g → g ≤ (a.va + a.n - 1) / 16 → matchesStore s cl a = true →
      (s.cluster cl).busy s.now a.va a.n = false → ∃ t, exec (.clusterWaitPerform cl g) s = .next t ∧ PerformedAt s t cl a ∧
        (t.cluster cl).held = before ++ after ∧
        ∃ p ∈ t.agenda, p.due = s.now + 1 ∧ p.ev = .run (.clusterWaitPerform cl g))

/-- R169, R188, R199: a blocking load of an unpaired thread lands: its register receives the bytes, pc goes past it and the
thread is ready; a fetched line enters the L1. A landing whose check fails is repeated in the next cycle. -/
def Sys2Proof.Claims.LoadLands : Prop :=
  ∀ (s : State) (a : Acc),
    let x := s.slot a.tid
    a.kind ≠ .rload → a.kind ≠ .pref → x.ctx.paired = false → x.ctx.sstep = false →
    (s.stepChecks = [] → s.noRoom a = false → x.st = .waiting (.event a.id) → x.bind = a.bind → accFault a = none →
      ∃ t v, exec (.loadLanding a) s = .next t ∧
        t.ctx a.tid = { x.ctx.wdst a.dst v with pc := a.pc + BitVec.ofNat 64 a.len } ∧ (t.slot a.tid).st = .ready ∧
        (fetches a.kind = false ∨ isDevice a.pa = true → v = a.data % 256 ^ a.n) ∧
        (fetches a.kind = true → isDevice a.pa = false → (∀ f ∈ (s.core a.tid.core).fills, f.id = a.id → f.bytes = []) →
          v = a.data % 2 ^ 512 / 256 ^ (a.pa % 64) % 256 ^ a.n ∧
          ((∃ f ∈ (s.core a.tid.core).fills, f.id = a.id) →
            ∃ l ∈ (t.core a.tid.core).l1, l.tag = a.pa / 64 ∧ l.data = BitVec.ofNat 512 a.data ∧ l.val = accGood a)) ∧
        (∀ o ∈ (t.core a.tid.core).outs, o.id ≠ a.id) ∧ (∀ u, u ≠ a.tid → t.ctx u = s.ctx u) ∧
        t.phys = s.phys ∧ t.clusters = s.clusters ∧ t.agenda = s.agenda) ∧
    (s.stepChecks.head? = some true → ∃ t, exec (.loadLanding a) s = .next t ∧ t.ctx a.tid = x.ctx ∧
      (∃ p ∈ t.agenda, p.due = s.now + 1 ∧ p.ev = .run (.loadLanding a)) ∧
      ∃ p ∈ t.agenda, p.due = s.now ∧ p.ev = .act (.landRepeat a.tid.core))

/-- R199, R330: an LDN of an unpaired thread lands: its register receives the bytes and its counter falls by 1; pc stays,
and a thread that waited for that counter becomes ready. A fault of it is deferred. -/
def Sys2Proof.Claims.LooseLoadLands : Prop :=
  ∀ (s : State) (a : Acc),
    let x := s.slot a.tid
    a.kind = .ldn → x.ctx.paired = false → s.stepChecks = [] → s.noRoom a = false → x.st ≠ .empty → x.bind = a.bind →
    (accFault a = none → ∃ t v, exec (.ldnLanding a) s = .next t ∧
      t.ctx a.tid = (x.ctx.wdst a.dst v).wwc a.wc (x.ctx.rwc a.wc - 1) ∧
      (isDevice a.pa = true → v = a.data % 256 ^ a.n) ∧
      (isDevice a.pa = false → (∀ f ∈ (s.core a.tid.core).fills, f.id = a.id → f.bytes = []) →
        v = a.data % 2 ^ 512 / 256 ^ (a.pa % 64) % 256 ^ a.n ∧
        ((∃ f ∈ (s.core a.tid.core).fills, f.id = a.id) →
          ∃ l ∈ (t.core a.tid.core).l1, l.tag = a.pa / 64 ∧ l.data = BitVec.ofNat 512 a.data ∧ l.val = accGood a)) ∧
      (x.st = .waiting (.counter a.wc (x.ctx.rwc a.wc - 1)) → (t.slot a.tid).st = .ready) ∧
      (x.st = .ready → (t.slot a.tid).st = .ready) ∧ (∀ u, u ≠ a.tid → t.ctx u = s.ctx u) ∧ t.phys = s.phys) ∧
    (∀ f, accFault a = some f → ∃ t, exec (.ldnLanding a) s = .next t ∧
      t.ctx a.tid = x.ctx.wwc a.wc (x.ctx.rwc a.wc - 1) ∧ (t.slot a.tid).deferred = x.deferred ++ [f])

/-- R190, R209, R407: a store registers at its home slice: its bytes reach memory and no others change; the line is DIRTY
with the words and the thread as its owner, together with the words that the same thread owned; the acknowledgement
follows after 60 cycles (80 from another die), or after the revoke of another owner's words.
Where the rules admit more than one reading, it follows the model's choice of log entries 18 and 19. -/
def Obligations.StoreRegisters : Prop :=
  ∀ (s : State) (a : Acc),
    let team := s.teamNo a.tid
    let mine (l : SLine) := l.ownedBy s.pkg.pkgid a.tid a.bind
    a.kind = .st → Reachable s team a.pa a.n →
    let far := s.now + 60 + s.far a.tid.core a.pa
    ∃ t, exec (.storeRegistration a) s = .next t ∧
      HoldsBytes (fun x => (t.physByte team x).toNat) a.pa a.n a.data ∧
      (∀ x, (∀ b, b < a.n → s.mapped (a.pa + b) ≠ s.mapped x) → t.physByte team x = s.physByte team x) ∧
      (∀ u, t.ctx u = s.ctx u) ∧
      (∃ l, t.slineAt team a.pa = some l ∧ l.dirty = true ∧ l.opkg = s.pkg.pkgid ∧ l.ocore = BitVec.ofNat 11 a.tid.core ∧
        l.oslot = BitVec.ofNat 4 a.tid.slot ∧ l.obind = a.bind ∧
        (∀ o, s.slineAt team a.pa = some o → o.dirty = true → mine o = true → l.ownw = o.ownw ||| wordsOf a.pa a.n) ∧
        (∀ o, s.slineAt team a.pa = some o → o.dirty = true → mine o = false → l.ownw = wordsOf a.pa a.n) ∧
        (s.slineAt team a.pa = none → l.ownw = wordsOf a.pa a.n)) ∧
      ((∀ o, s.slineAt team a.pa = some o → o.dirty = false ∨ mine o = true) →
        ∃ p ∈ t.agenda, p.due = far ∧ p.ev = .run (.storeAck a.tid.core a.id)) ∧
      (∀ o, s.slineAt team a.pa = some o → o.dirty = true → mine o = false → o.ownw ≠ 0 → o.opkg = s.pkg.pkgid →
        let revoked := s.now + 60 + s.far o.ocore.toNat a.pa
        (∃ p ∈ t.agenda, p.due = revoked ∧ p.ev = .run (.revoke o.ocore.toNat (a.pa / 64) o.ownw)) ∧
        ∃ p ∈ t.agenda, p.due = max far revoked ∧ p.ev = .run (.storeAck a.tid.core a.id))

/-- R190, R209: an acknowledgement ends the store's being outstanding; a revoke takes the words of the line from the
core's L1, both owned and valid, and changes nothing else. -/
def Sys2Proof.Claims.AckAndRevoke : Prop :=
  ∀ (s : State) (k : Nat),
    (∀ id, ∃ t, exec (.storeAck k id) s = .next t ∧ (∀ o, o ∈ (t.core k).outs ↔ o ∈ (s.core k).outs ∧ o.id ≠ id) ∧
      (t.core k).slots = (s.core k).slots ∧ (t.core k).mem = (s.core k).mem ∧ (∀ j, j ≠ k → t.core j = s.core j) ∧
      t.phys = s.phys ∧ t.agenda = s.agenda) ∧
    (∀ line words, ∃ t, exec (.revoke k line words) s = .next t ∧
      (∀ (j : Nat) (l : L1Line), (s.core k).l1[j]? = some l → (t.core k).l1[j]? =
        some (if l.tag = line then { l with own := l.own &&& ~~~words, val := l.val &&& ~~~words } else l)) ∧
      (t.core k).slots = (s.core k).slots ∧ (t.core k).mem = (s.core k).mem ∧ (∀ j, j ≠ k → t.core j = s.core j) ∧
      t.phys = s.phys ∧ t.agenda = s.agenda)

/-- R189, R406: a line that a load missed has come from memory: the slice lists it, clean where it was not listed, and the
load's 64 bytes leave for its core, 60 cycles on (80 to another die). -/
def Sys2Proof.Claims.SliceLineFills : Prop :=
  ∀ (s : State) (a : Acc), a.kind = .ld → let team := s.teamNo a.tid
    Reachable s team a.pa a.n → s.slineAt team a.pa = none →
    ∃ t, exec (.sliceLineFill a) s = .next t ∧
      (∃ l, t.slineAt team a.pa = some l ∧ l.dirty = false ∧ l.ownw = 0 ∧ l.used = s.now) ∧
      (∃ p ∈ t.agenda, p.due = s.now + 60 + s.far a.tid.core a.pa ∧ ∃ a', p.ev = .run (.loadLanding a') ∧ a'.id = a.id ∧
        a'.tid = a.tid ∧ accFault a' = none ∧
        HoldsBytes (fun x => (s.loadByte team x).toNat) (a.pa / 64 * 64) 64 a'.data) ∧
      t.phys = s.phys ∧ (∀ u, t.ctx u = s.ctx u)

/-- R317: a first-level miss that hits the second-level TLB fills the first level and has its translation; on a miss there
the walk of a PASID of the right tenant starts with its first entry (R315), or waits while all 64 walkers are busy. -/
def Sys2Proof.Claims.PageWalkStarts : Prop :=
  ∀ (s : State) (a : Acc), (∀ b, a.kind ≠ .walk b) →
    let cl := clusterOf a.tid.core
    let d := dieOf a.tid.core
    (∀ e, findTlb (s.cluster cl).tlb2 a.pasid a.va = some e → ∃ t, exec (.pageWalk a) s = .next t ∧
      e ∈ (t.core a.tid.core).tlb ∧ (∃ p ∈ t.agenda, p.due = s.now ∧ p.ev = .act (.translated a none)) ∧
      (∀ u, t.ctx u = s.ctx u)) ∧
    (findTlb (s.cluster cl).tlb2 a.pasid a.va = none → 64 ≤ (s.die d).walkers → ∃ t, exec (.pageWalk a) s = .next t ∧
      (t.die d).walkWait = (s.die d).walkWait ++ [a] ∧ t.agenda = s.agenda) ∧
    (∀ root, findTlb (s.cluster cl).tlb2 a.pasid a.va = none → (s.die d).walkers < 64 → rootOf s a.pasid = some (root, a.tenant) →
      ∃ t, exec (.pageWalk a) s = .next t ∧ (t.die d).walkers = (s.die d).walkers + 1 ∧
        ∃ p ∈ t.agenda, p.due = s.now + s.walkTime d (entryAddr a.va 1 root) ∧ p.ev = .act (.walk a 1 root))

/-- R185, R187, R197: LDC and STC, and what a cluster store does.
Where the rules admit more than one reading, it follows the model's choice of log entries 11 and 17. -/
def Obligations.ClusterStores : Prop :=
  ClusterAccess ∧ ClusterStorePerforms

/-- R188, R190, R209, R210: what an acquire invalidates, acknowledgements and revokes.
Where the rules admit more than one reading, it follows the model's choice of log entries 17 and 18. -/
def Obligations.OrderEvents : Prop :=
  AcquireDrops ∧ AckAndRevoke

/-- R169, R199 to R202: loads land.
Where the rules admit more than one reading, it follows the model's choice of log entries 19 and 58. -/
def Obligations.Landings : Prop :=
  LoadLands ∧ LooseLoadLands

/-- R189, R315 to R318: lines and walks.
Where the rules admit more than one reading, it follows the model's choice of log entries 8, 9 and 36. -/
def Obligations.SliceLinesAndWalks : Prop :=
  SliceLineFills ∧ PageWalkStarts

namespace Sys2Proof.Claims

open Sys2Proof.Machine

/-- R226, R227: the pushes: header, registers, queue and value. -/
def pushOf : Instr → Option (Hdr × List Use × Nat × (Ctx → Vec))
  | .qput h u a => some (h, [if u = 6 then rV a else rG a], u.toNat, fun c => if u = 6 then c.rv a else (c.rg a).zeroExtend 512)
  | .qpredPush h a => some (h, [rK a], 7, fun c => if (c.rk a).getLsbD 0 then 1 else 0)
  | _ => none

/-- R226, R227: the pops and the peek: header, registers, queue, what the value does to the registers, and whether the
entry is taken. -/
def popOf : Instr → Option (Hdr × List Use × Nat × (Vec → Ctx → Ctx) × Bool)
  | .qget h d u => some (h, [if u = 6 then wV d else wG d], u.toNat, fun v c => if u = 6 then c.wv d v else c.wg d (v.extractLsb' 0 64), true)
  | .qpeek h d u => some (h, [if u = 6 then wV d else wG d], u.toNat, fun v c => if u = 6 then c.wv d v else c.wg d (v.extractLsb' 0 64), false)
  | .qpredPop h d => some (h, [wK d], 7, fun v c => c.wk d (truth (v.getLsbD 0)), true)
  | _ => none

/-- R223: entries of a queue register. -/
def capacity (q : Nat) : Nat := if q ≤ 5 then 8 else if q = 6 then 4 else 32

/-- R223: the queue is the context's team's, or untagged. -/
def mayUse (s : State) (q : Nat) : Prop := (s.qreg s.cur.core q).tag = none ∨ (s.qreg s.cur.core q).tag = some (s.teamNo s.cur)

/-- The queue register of the current thread's core becomes r, and those that wait on what it changes are tested again
(R222). -/
def withQueue (s : State) (q : Nat) (r : QReg) : State :=
  (s.modCore s.cur.core fun c => { c with qregs := c.qregs.put {} q r }).wakeNext s.cur.core (QReg.woken q (s.qreg s.cur.core q) r)

/-- R223, R225, R227, R228: a push of an unpaired thread reserves at issue, hands the thread's stores on, and commits at
c + 3; into an empty queue it sets the tag. A full queue makes the thread wait, and another team's raises PROT (queue). -/
def QueuePush : Prop :=
  ∀ i h uses q val, pushOf i = some (h, uses, q, val) → ∀ s, Issues h uses s → (s.ctx s.cur).paired = false → q ≤ 7 →
    let c := s.ctx s.cur
    let r := s.qreg s.cur.core q
    let room := r.entries.length + r.pres.toNat < capacity q
    (mayUse s q → room → ∃ t, exec i s = .next t ∧ Completes ((withQueue (s.shareOuts s.cur) q { r with
        pres := r.pres + 1, tag := if r.entries = [] ∧ r.pres = 0 then some (s.teamNo s.cur) else r.tag }).actAt (s.now + 3)
        (.qPush s.cur.core q (val c) true)) t c (s.nextPc h)) ∧
    (mayUse s q → ¬ room → ∃ t, exec i s = .next t ∧ Leaves (s.setSt s.cur (.waiting (.change [Res.queue q]))) t) ∧
    (¬ mayUse s q → ∃ t, exec i s = .next t ∧ Leaves (s.raiseLater s.cur { code := 6, sub := 8 }) t)

/-- R225 to R227: a pop of an unpaired thread reserves the oldest unreserved entry, whose value it delivers, and commits at
c + 3; QPEEK delivers it and takes nothing; with no such entry the thread waits. -/
def QueuePop : Prop :=
  ∀ i h uses q put takes, popOf i = some (h, uses, q, put, takes) → ∀ s, Issues h uses s → (s.ctx s.cur).paired = false →
    let c := s.ctx s.cur
    let r := s.qreg s.cur.core q
    let (id, s') := s.newId
    (∀ before e after, mayUse s q → r.entries = before ++ e :: after → (∀ x ∈ before, x.res ≠ none) → e.res = none →
      ∃ t, exec i s = .next t ∧ Completes (if takes then
        (withQueue s' q { r with entries := before ++ { e with res := some id } :: after }).actAt (s.now + 3) (.qPop s.cur.core q id true)
        else s') t (put e.val c) (s.nextPc h)) ∧
    (mayUse s q → (∀ x ∈ r.entries, x.res ≠ none) → ∃ t, exec i s = .next t ∧
      Leaves (s.setSt s.cur (.waiting (.change [Res.queuePop q]))) t) ∧
    (¬ mayUse s q → ∃ t, exec i s = .next t ∧ Leaves (s.raiseLater s.cur { code := 6, sub := 8 }) t)

/-- R102: BRQ pops q7 as QPRED does, and branches when the bit is 1, or 0 with .z. -/
def BranchOnQueue : Prop :=
  ∀ (h : Hdr) (z : Bool) (off : BitVec 28) (s : State), Issues h [] s → (s.ctx s.cur).paired = false →
    let c := s.ctx s.cur
    let r := s.qreg s.cur.core 7
    let (id, s') := s.newId
    (∀ before e after, mayUse s 7 → r.entries = before ++ e :: after → (∀ x ∈ before, x.res ≠ none) → e.res = none →
      ∃ t, exec (.brq h z off) s = .next t ∧ Completes
        ((withQueue s' 7 { r with entries := before ++ { e with res := some id } :: after }).actAt (s.now + 3) (.qPop s.cur.core 7 id true))
        t c (if e.val.getLsbD 0 = !z then c.pc + 4 * off.signExtend 64 else s.nextPc h)) ∧
    (mayUse s 7 → (∀ x ∈ r.entries, x.res ≠ none) → ∃ t, exec (.brq h z off) s = .next t ∧
      Leaves (s.setSt s.cur (.waiting (.change [Res.queuePop 7]))) t)

/-- R224, R226: QCNT delivers the queue's word as it stands. -/
def QueueCount : Prop :=
  ∀ (h : Hdr) (d : Reg) (u : BitVec 3) (s : State), Issues h [wG d] s → (s.ctx s.cur).paired = false → mayUse s u.toNat →
    let r := s.qreg s.cur.core u.toNat
    r.entries.length ≤ 32 → ∃ t w, exec (.qcnt h d u) s = .next t ∧ Completes s t ((s.ctx s.cur).wg d w) (s.nextPc h) ∧
      w.extractLsb' 0 6 = BitVec.ofNat 6 r.entries.length ∧ w.extractLsb' 8 6 = r.pres ∧
      w.extractLsb' 16 6 = BitVec.ofNat 6 (r.entries.countP fun e => e.res.isSome) ∧
      w.extractLsb' 24 6 = BitVec.ofNat 6 (capacity u.toNat) ∧ w.getLsbD 31 = r.tag.isSome ∧ w.extractLsb' 32 32 = 0

end Sys2Proof.Claims

open Sys2Proof Sys2Proof.Machine Sys2Proof.Claims

/-- R102, R223 to R228: the queue instructions.
Where the rules admit more than one reading, it follows the model's choice of log entry 21. -/
def Obligations.QueueInstructions : Prop := QueuePush ∧ QueuePop ∧ BranchOnQueue ∧ QueueCount

/-- R223, R225: the commit of a push appends its value, that of a pop removes the entry it has reserved, and a withdrawal
gives the reservation back with the order unchanged; a queue without entries and reservations loses its tag, and every
other queue stays.
Where the rules admit more than one reading, it follows the model's choice of log entry 21. -/
def Obligations.QueueCommits : Prop :=
  ∀ (s : State) (k q : Nat),
    let r := s.qreg k q
    let others (t : State) : Prop := (∀ p, p ≠ q → t.qreg k p = s.qreg k p) ∧ (∀ u, t.ctx u = s.ctx u) ∧ t.phys = s.phys ∧
      ((t.qreg k q).entries = [] → (t.qreg k q).pres = 0 → (t.qreg k q).tag = none)
    (∀ val, ∃ t, perform (.qPush k q val true) s = .next t ∧ (t.qreg k q).entries = r.entries ++ [⟨val, none⟩] ∧
      (t.qreg k q).pres = r.pres - 1 ∧ (t.qreg k q).tag = r.tag ∧ others t) ∧
    (∀ val, ∃ t, perform (.qPush k q val false) s = .next t ∧ (t.qreg k q).entries = r.entries ∧
      (t.qreg k q).pres = r.pres - 1 ∧ others t) ∧
    (∀ before e after id, r.entries = before ++ e :: after → e.res = some id → (∀ x ∈ before, x.res ≠ some id) →
      (∀ x ∈ after, x.res ≠ some id) →
      (∃ t, perform (.qPop k q id true) s = .next t ∧ (t.qreg k q).entries = before ++ after ∧ (t.qreg k q).pres = r.pres ∧ others t) ∧
      (∃ t, perform (.qPop k q id false) s = .next t ∧
        (t.qreg k q).entries = before ++ { e with res := none } :: after ∧ (t.qreg k q).tag = r.tag ∧ others t))

namespace Sys2Proof.Claims

open Sys2Proof.Machine

/-- R232: BSET of an unpaired thread claims an idle batten for its slot, with the depth, the feed and the drain handle
given and every other field at reset, but for what uncommitted pushes have reserved; BSET.FREE releases it. A batten in use raises PROT (batten), and a drain handle that
is no waiting-task handle HANDLE. -/
def BattenSet : Prop :=
  ∀ (h : Hdr) (u : BitVec 4) (s : State), (s.ctx s.cur).paired = false → (s.regionOf s.cur).dbg = false →
    let c := s.ctx s.cur
    let b := u.toNat
    let k := s.cur.core
    let sets (v : Batten) : State := s.setBatten k b v
    let fresh (depth : BitVec 5) (feed : Bool) : Batten := { depth := BitVec.ofNat 6 (depth.toNat + 1), feed := feed, owned := true, owner := BitVec.ofNat 4 s.cur.slot, pushRes := (s.batten k b).pushRes }
    (∀ depth feed, Issues h [] s →
      (s.bsetFault s.cur b = false → ∃ t, exec (.bset h u depth feed none) s = .next t ∧
        Completes (sets (fresh depth feed)) t c (s.nextPc h)) ∧
      (s.bsetFault s.cur b = true → ∃ t, exec (.bset h u depth feed none) s = .next t ∧
        Leaves (s.raiseLater s.cur { code := 6, sub := 9 }) t)) ∧
    (∀ depth feed a e, Issues h [rG a] s →
      ((c.rg a + e).extractLsb' 60 4 = 11 → s.bsetFault s.cur b = false → ∃ t, exec (.bset h u depth feed (some (a, e))) s = .next t ∧
        Completes (sets { fresh depth feed with drain := some (c.rg a + e) }) t c (s.nextPc h)) ∧
      ((c.rg a + e).extractLsb' 60 4 ≠ 11 → ∃ t, exec (.bset h u depth feed (some (a, e))) s = .next t ∧
        Leaves (s.raiseLater s.cur { code := 16, addr := c.rg a + e }) t)) ∧
    (Issues h [] s → s.bsetFault s.cur b = false → ∃ t, exec (.bsetFree h u) s = .next t ∧
      Completes (s.freeBatten k b) t c (s.nextPc h) ∧ (t.batten k b) = {}) ∧
    (Issues h [] s → s.bsetFault s.cur b = true → ∃ t, exec (.bsetFree h u) s = .next t ∧
      Leaves (s.raiseLater s.cur { code := 6, sub := 9 }) t)

/-- R231, R233: BPUSH of an unpaired thread reserves the tail entry of a thread-fed batten at issue and pushes it at c + 3;
BPOP reserves n entries and pops them at c + 3; each waits while the batten is too full, or too empty, for it: an entry that
a pop of this cycle frees counts from the next cycle on, and BPOP waits too while the bank holds the batten's oldest entries. -/
def BattenPushPop : Prop :=
  ∀ (h : Hdr) (u : BitVec 4) (s : State), Issues h [] s → (s.ctx s.cur).paired = false → (s.regionOf s.cur).dbg = false →
    let c := s.ctx s.cur
    let k := s.cur.core
    let b := u.toNat
    let x := s.batten k b
    let sets (v : Batten) : State := s.setBatten k b v
    let waits (key : Nat) := s.setSt s.cur (.waiting (.change [key]))
    let used := x.count.toNat + (if x.popAt = s.now + 1 then x.popNow else 0) + x.pushRes
    let bank := (s.core k).bankHolds b
    (x.feed = false → used < x.depth.toNat → ∃ t, exec (.bpush h u) s = .next t ∧
      Completes ((sets { x with pushRes := x.pushRes + 1 }).actAt (s.now + 3) (.bPush k b true)) t c (s.nextPc h)) ∧
    (x.feed = false → x.depth.toNat ≤ used → ∃ t, exec (.bpush h u) s = .next t ∧ Leaves (waits (Res.batten b)) t) ∧
    (x.feed = true → ∃ t, exec (.bpush h u) s = .next t ∧ Leaves (s.raiseLater s.cur { code := 6, sub := 9 }) t) ∧
    (∀ n : BitVec 6, n.toNat + 1 ≤ x.depth.toNat → x.popRes + (n.toNat + 1) ≤ x.count.toNat → bank = false →
      ∃ t, exec (.bpop h u n) s = .next t ∧
      Completes ((sets { x with popRes := x.popRes + (n.toNat + 1) }).sched (s.now + 3) Phase.land
        (.act (.bPop k b (n.toNat + 1) true))) t c (s.nextPc h)) ∧
    (∀ n : BitVec 6, n.toNat + 1 ≤ x.depth.toNat → x.count.toNat < x.popRes + (n.toNat + 1) ∨ bank = true →
      ∃ t, exec (.bpop h u n) s = .next t ∧ Leaves (waits (Res.battenPop b)) t) ∧
    (∀ n : BitVec 6, x.depth.toNat < n.toNat + 1 → ∃ t, exec (.bpop h u n) s = .next t ∧
      Leaves (s.raiseLater s.cur { code := 6, sub := 9 }) t)

/-- R230: BSTAT delivers the batten's word as it stands. -/
def BattenState : Prop :=
  ∀ (h : Hdr) (d : Reg) (u : BitVec 4) (s : State), Issues h [wG d] s → (s.ctx s.cur).paired = false →
    let b := s.batten s.cur.core u.toNat
    ∃ t w, exec (.bstat h d u) s = .next t ∧ Completes s t ((s.ctx s.cur).wg d w) (s.nextPc h) ∧
      w.extractLsb' 48 16 = b.pops ∧ w.extractLsb' 40 5 = b.head ∧ w.extractLsb' 32 5 = b.tail ∧ w.getLsbD 30 = b.feed ∧
      w.getLsbD 29 = b.drain.isSome ∧ w.getLsbD 28 = b.owned ∧ w.extractLsb' 24 4 = b.owner ∧ w.extractLsb' 16 6 = b.depth ∧
      w.extractLsb' 8 6 = b.res ∧ w.extractLsb' 0 6 = b.count

end Sys2Proof.Claims

open Sys2Proof Sys2Proof.Machine Sys2Proof.Claims

/-- R230 to R233: the batten instructions.
Where the rules admit more than one reading, it follows the model's choice of log entries 21 and 30. -/
def Obligations.BattenInstructions : Prop := BattenSet ∧ BattenPushPop ∧ BattenState

/-- R231: a push that commits makes the tail entry visible and moves TAIL on, modulo DEPTH, and in a thread-fed batten the
entry after it, where one is free, reads zero; a pop frees the head entries,
which read zero again, and moves HEAD and POPS on; an engine-fed batten returns its permits in the next cycle. Every other
batten, and the registers, stay.
Where the rules admit more than one reading, it follows the model's choice of log entry 21. -/
def Obligations.BattenCommits : Prop :=
  ∀ (s : State) (k b : Nat),
    let x := s.batten k b
    let others (t : State) : Prop := (∀ p, p ≠ b → t.batten k p = s.batten k p) ∧ (∀ u, t.ctx u = s.ctx u) ∧ t.phys = s.phys
    (∃ t, perform (.bPush k b true) s = .next t ∧ others t ∧ (t.batten k b).count = x.count + 1 ∧
      (t.batten k b).tail.toNat = (x.tail.toNat + 1) % x.depth.toNat % 32 ∧ (t.batten k b).pushRes = x.pushRes - 1 ∧
      (∀ j, (t.batten k b).entry j = if x.feed = false ∧ x.count.toNat + 1 < x.depth.toNat ∧ j = (x.tail.toNat + 1) % x.depth.toNat
        then {} else x.entry j) ∧ (t.batten k b).head = x.head) ∧
    (∃ t, perform (.bPush k b false) s = .next t ∧ others t ∧ t.batten k b = { x with pushRes := x.pushRes - 1 }) ∧
    (∀ n, x.drain = none → ∃ t, perform (.bPop k b n true) s = .next t ∧ others t ∧
      (t.batten k b).count = x.count - BitVec.ofNat 6 n ∧ (t.batten k b).pops = x.pops + BitVec.ofNat 16 n ∧
      (t.batten k b).head.toNat = (x.head.toNat + n) % x.depth.toNat % 32 ∧ (t.batten k b).popRes = x.popRes - n ∧
      (∀ j, j < n → (t.batten k b).entry ((x.head.toNat + j) % x.depth.toNat) = {}) ∧
      (∀ j, (∀ i, i < n → (x.head.toNat + i) % x.depth.toNat ≠ j) → (t.batten k b).entry j = x.entry j) ∧
      (x.feed = true → ∃ p ∈ t.agenda, p.due = s.now + 1 ∧ p.ev = .act (.permits (clusterOf k)))) ∧
    (∀ n, ∃ t, perform (.bPop k b n false) s = .next t ∧ others t ∧ t.batten k b = { x with popRes := x.popRes - n })

namespace Sys2Proof.Claims

open Sys2Proof.Machine

/-- The rendezvous point u of the current thread's core becomes p. -/
def withPoint (s : State) (u : Nat) (p : Point) : State := s.modCore s.cur.core fun c => { c with rdv := c.rdv.put {} u p }

/-- R248, R249: a word form of RDV arrives at a core point: it hands the thread's stores on (R209) and goes on to wait there, RDV.END without being a waiter; the
arrival that brings ARR to N sets the departure three cycles on, and until then the point is closing. -/
def CoreArrival : Prop :=
  ∀ (h : Hdr) (u : BitVec 4) (n : BitVec 7) (s : State), h.len = .w64 → Issues h [] s → (s.ctx s.cur).paired = false →
    let c := s.ctx s.cur
    let p := s.point s.cur.core u.toNat
    let last := p.arr.toNat + 1 = n.toNat + 1
    let w := s.shareOuts s.cur
    let arrived (waits : Bool) : State := (if last then (withPoint w u.toNat { p with
        busy := true, n := BitVec.ofNat 8 (n.toNat + 1), arr := p.arr + 1, closing := true, waiters := if waits then p.waiters ++ [s.cur] else p.waiters }).sched
          (s.now + 3) Phase.commit (.act (.rdvDepart s.cur.core u.toNat))
      else withPoint w u.toNat { p with
        busy := true, n := BitVec.ofNat 8 (n.toNat + 1), arr := p.arr + 1, closing := false, waiters := if waits then p.waiters ++ [s.cur] else p.waiters }).setSt
        s.cur (.waiting .rendezvous)
    (p.closing = false → (p.busy = true → p.n.toNat = n.toNat + 1) → ∃ t, exec (.rdv h u n) s = .next t ∧
      Completes (arrived true) t c (s.nextPc h)) ∧
    (p.closing = false → (p.busy = true → p.n.toNat = n.toNat + 1) → isForked s s.cur = true → c.sstep = false →
      ∃ t, exec (.rdvEnd h u n) s = .next t ∧
        Completes ((arrived false).actAt (s.now + 3) (.endThread s.cur 0 0)) t c (s.nextPc h)) ∧
    (p.closing = true → ∃ t, exec (.rdv h u n) s = .next t ∧ Leaves (s.setSt s.cur (.waiting (.change [Res.point u.toNat]))) t) ∧
    (p.closing = false → p.busy = true → p.n.toNat ≠ n.toNat + 1 → ∃ t, exec (.rdv h u n) s = .next t ∧
      Leaves (s.raiseLater s.cur { code := 6, sub := 11 }) t) ∧
    (isForked s s.cur = false → ∃ t, exec (.rdvEnd h u n) s = .next t ∧ Leaves (s.raiseLater s.cur { code := 6, sub := 11 }) t)

/-- R249: the 96-bit form arrives at a cluster point: it holds as a release point, and its request leaves at c + 3; the
thread waits for the departure. -/
def ClusterArrival : Prop :=
  ∀ (h : Hdr) (u : BitVec 4) (n : BitVec 7) (s : State), h.len ≠ .w64 → Issues h [] s → (s.ctx s.cur).paired = false →
    (s.releaseHeld s.cur = true → ∃ t, exec (.rdv h u n) s = .next t ∧ Leaves s t) ∧
    (s.releaseHeld s.cur = false → ∃ t, exec (.rdv h u n) s = .next t ∧
      Leaves ((s.setSt s.cur (.waiting .rendezvous)).actAt (s.now + 3) (.rdvSend s.cur u.toNat (n.toNat + 1) false)) t) ∧
    (s.releaseHeld s.cur = false → isForked s s.cur = true → ∃ t, exec (.rdvEnd h u n) s = .next t ∧
      Completes (((s.setSt s.cur (.waiting .rendezvous)).actAt (s.now + 3) (.rdvSend s.cur u.toNat (n.toNat + 1) true)).actAt
        (s.now + 3) (.endThread s.cur 0 0)) t (s.ctx s.cur) ((s.ctx s.cur).pc + 12))

/-- R247: FORK of an unpaired thread takes the slot given, the lowest empty one that its partition mode admits, whose
context it binds at c + 3, or gives all ones when there is none; a misaligned target raises ALIGN. -/
def ForkResult : Prop :=
  ∀ (h : Hdr) (d b : Reg) (tgt : Target) (s : State), Issues h (wG d :: rG b :: Machine.targetUses tgt) s → (s.ctx s.cur).paired = false →
    let c := s.ctx s.cur
    let k := s.cur.core
    let pc := Machine.targetOf c tgt
    let free (j : Nat) : Prop := ((s.core k).slot j).st = .empty ∧ ((s.core k).slot j).reserved = false
    (∀ j, pc.toNat % 4 = 0 → s.admits (s.regionOf s.cur) 0 1 = true →
      j < slotCount (s.core k).part → free j → (∀ m, m < j → ¬ free m) →
      ∃ t, exec (.fork h d tgt b) s = .next t ∧ Completes (((s.modSlot ⟨k, j⟩ fun x => { x with reserved := true }).reserveThr
        (s.regionOf s.cur) 1).actAt (s.now + 3) (.fork s.cur j pc (c.rg b) true)) t (c.wg d (BitVec.ofNat 64 j)) (s.nextPc h)) ∧
    (pc.toNat % 4 = 0 → (s.admits (s.regionOf s.cur) 0 1 = false ∨ ∀ m, m < slotCount (s.core k).part → ¬ free m) →
      ∃ t, exec (.fork h d tgt b) s = .next t ∧ Completes s t (c.wg d 0xFFFFFFFFFFFFFFFF#64) (s.nextPc h)) ∧
    (pc.toNat % 4 ≠ 0 → ∃ t, exec (.fork h d tgt b) s = .next t ∧ Leaves (s.raiseLater s.cur { code := 5, addr := pc }) t)

/-- R249: the departure makes every waiter ready and leaves the point as at reset. A cluster arrival counts, and the one
that brings ARR to N sends the departure replies, which land 24 cycles on; a reply makes its thread go on past the
instruction. -/
def Departures : Prop :=
  (∀ (s : State) (k u : Nat) ws, (s.point k u).waiters = ws → (∀ w ∈ ws, w.core = k ∧ (s.ctx w).paired = false ∧ (s.slot w).st = .waiting .rendezvous) →
    ∃ t, perform (.rdvDepart k u) s = .next t ∧ t.point k u = {} ∧ (∀ w ∈ ws, (t.slot w).st = .ready) ∧
      (∀ v, t.ctx v = s.ctx v) ∧ t.phys = s.phys) ∧
  (∀ (s : State) (w : Tid) (u n : Nat), s.slack = [] →
    let cl := clusterOf w.core
    let p : Point := (s.cluster cl).rdv.get {} u
    0 < n → n < 256 → p.arr.toNat < 255 → (p.busy = true → p.n.toNat = n) → s.routeAdmits cl cl (s.ctx w).tenant = true → ∃ t, exec (.clusterRdvArrival w u n false) s = .next t ∧
      (p.arr.toNat + 1 < n → (t.cluster cl).rdv.get {} u = { p with
        busy := true, n := BitVec.ofNat 8 n, arr := p.arr + 1, waiters := p.waiters ++ [w] } ∧ t.agenda = s.agenda) ∧
      (n ≤ p.arr.toNat + 1 → (t.cluster cl).rdv.get {} u = {} ∧
        ∀ v, v = w ∨ v ∈ p.waiters → ∃ q ∈ t.agenda, q.due = s.now + 24 ∧ q.ev = .run (.rdvDepartureReply v)) ∧
      (∀ v, t.ctx v = s.ctx v) ∧ t.phys = s.phys) ∧
  (∀ (s : State) (w : Tid), (s.slot w).st = .waiting .rendezvous → (s.ctx w).paired = false → (s.ctx w).sstep = false →
    ∃ t, exec (.rdvDepartureReply w) s = .next t ∧ (t.slot w).st = .ready ∧ t.ctx w = { s.ctx w with pc := (s.ctx w).pc + 12 } ∧
      (∀ v, v ≠ w → t.ctx v = s.ctx v) ∧ t.phys = s.phys)

end Sys2Proof.Claims

open Sys2Proof Sys2Proof.Machine Sys2Proof.Claims

/-- R247: FORK.
Where the rules admit more than one reading, it follows the model's choice of log entry 27. -/
def Obligations.ForkIssue : Prop := ForkResult

/-- R248, R249: arrivals at rendezvous points, and departures from them.
Where the rules admit more than one reading, it follows the model's choice of log entry 41. -/
def Obligations.Rendezvous : Prop := CoreArrival ∧ ClusterArrival ∧ Departures

namespace Sys2Proof.Claims

open Sys2Proof.Machine

/-- R235 to R241: the tile-walk commands: header, operands, opcode and fn. -/
def walkOf : Instr → Option (Hdr × TwOps × BitVec 8 × BitVec 4)
  | .twget h o => some (h, o, 0xC0, 0)
  | .twgetC h o => some (h, o, 0xC0, 1)
  | .twgetRaw h o => some (h, o, 0xC0, 2)
  | .twgetPka h o => some (h, o, 0xC0, 3)
  | .twgetPkb h o => some (h, o, 0xC0, 4)
  | .twput h o => some (h, o, 0xC1, 0)
  | .twputC h o => some (h, o, 0xC1, 1)
  | .twdeal h f o => some (h, o, 0xC2, match f with | .near => 0 | .raw => 2 | .pka => 3 | .pkb => 4)
  | .twcast h f o => some (h, o, 0xC4, match f with | .near => 0 | .raw => 2 | .pka => 3 | .pkb => 4)
  | .twremPush h o => some (h, o, 0xC3, 0)
  | .twremPull h o => some (h, o, 0xC3, 1)
  | _ => none

/-- R235: a command fills battens, and then names no near address. -/
def fillsBatten (op : BitVec 8) (fn : BitVec 4) : Bool := op != 0xC1 && op != 0xC3 && decide (2 ≤ fn.toNat)

/-- R236: the command as the current thread issues it, with its copy of the descriptor. -/
def walkCmd (s : State) (o : TwOps) (op : BitVec 8) (fn : BitVec 4) : Cmd :=
  let c := s.ctx s.cur
  { id := s.newId.1, op := op, fn := fn, fe := o.fe, tid := s.cur, bind := (s.slot s.cur).bind, queue := o.q.toNat, wc := o.wc
    desc := BitVec.ofNat 512 (s.localRead s.cur.core (c.rg o.d).toNat 64), ma := c.rg o.a + o.ext
    na := if fillsBatten op fn then 0 else c.rg o.b, bat := o.bat, pd := c.pd, priv := c.priv, pasid := c.pasid
    tenant := c.tenant, team := s.teamNo s.cur, after := (s.core s.cur.core).joined o.q.toNat }

/-- R236: the descriptor of 64 bytes lies in local memory that the thread can read, without error. -/
def descriptorReadable (s : State) (o : TwOps) : Prop :=
  let a := ((s.ctx s.cur).rg o.d).toNat
  localRule s a 64 false = none ∧ s.localErr s.cur.core a 64 = .clean

end Sys2Proof.Claims

open Sys2Proof Sys2Proof.Machine Sys2Proof.Claims

/-- R234 to R241: a tile-walk command of an unpaired thread whose descriptor is aligned and readable and whose checks pass
takes a place in its queue at issue and enters at c + 3; the thread goes on. At a counter of 255 it does not execute: the
thread waits until it is at most 254 (R329). An unaligned descriptor raises ALIGN, one with an uncorrectable error UE, and a
queue of 8 commands makes the thread wait until the queue changes; a failed check of R237 is its fault.
Where the rules admit more than one reading, it follows the model's choice of log entry 39. -/
def Obligations.TileWalkIssue : Prop :=
  ∀ i h o op fn, walkOf i = some (h, o, op, fn) → ∀ s,
    let c := s.ctx s.cur
    let k := s.cur.core
    let q := o.q.toNat
    let cmd := walkCmd s o op fn
    Issues h (rG o.d :: rG o.a :: (if fillsBatten op fn then [] else [rG o.b])) s → c.paired = false →
    (c.rwc o.wc = 255 → ∃ t, exec i s = .next t ∧ Leaves (s.setSt s.cur (.waiting (.counter o.wc 254))) t) ∧
    (c.rwc o.wc ≠ 255 → (c.rg o.d).toNat % 64 ≠ 0 → ∃ t, exec i s = .next t ∧ Leaves (s.raiseLater s.cur { code := 5, addr := c.rg o.d }) t) ∧
    (c.rwc o.wc ≠ 255 → (c.rg o.d).toNat % 64 = 0 → ∀ f, localRule s (c.rg o.d).toNat 64 false = some f → ∃ t, exec i s = .next t ∧
      Leaves (s.raiseLater s.cur f) t) ∧
    (c.rwc o.wc ≠ 255 → (c.rg o.d).toNat % 64 = 0 → localRule s (c.rg o.d).toNat 64 false = none →
      s.localErr k (c.rg o.d).toNat 64 = .uncorrectable → ∃ t, exec i s = .next t ∧
      Leaves (s.raiseLater s.cur { code := 9, addr := c.rg o.d }) t) ∧
    (c.rwc o.wc ≠ 255 → (c.rg o.d).toNat % 64 = 0 → descriptorReadable s o →
      (cmd.packed = false → cmd.ma.toNat % 16 ≠ 0 ∨ cmd.mstride % 16 ≠ 0 ∨ cmd.rlen % 16 ≠ 0 → ∃ t, exec i s = .next t ∧
        Leaves (s.raiseLater s.cur { code := 5, addr := cmd.ma }) t) ∧
      (cmd.alignFault = none → s.watch (if op = 0xC1 ∨ (op = 0xC3 ∧ fn = 1) then isStoreKind else isLoadKind) cmd.ma = none →
        (∀ f, s.walkFault cmd = some f → ∃ t, exec i s = .next t ∧ Leaves (s.raiseLater s.cur f) t) ∧
        (s.walkFault cmd = none → ((s.core k).cmdq q).length < 8 → ∃ t, exec i s = .next t ∧
          Completes ((s.newId.2.modCmdq k q fun l => l ++ [cmd]).actAt (s.now + 3) (.enqueue k q cmd.id)) t c (s.nextPc h)) ∧
        (s.walkFault cmd = none → 8 ≤ ((s.core k).cmdq q).length → ∃ t, exec i s = .next t ∧
          Leaves (s.setSt s.cur (.waiting (.change [Res.cmdq q]))) t)))

namespace Sys2Proof.Claims

open Sys2Proof.Machine

/-- R235: a command for one core's local memory or cluster store that packs nothing, writes its rows at na, and is of the
core's own queues. -/
def PlainWalk (c : Cmd) : Prop := c.op = 0xC0 ∧ c.packs = false ∧ c.queue < 8

/-- The message's bytes are all at the near address and beyond it (R242). -/
def flitTo (s : State) (k : Nat) (f : Flit) (t : State) : Prop :=
  HoldsBytes (fun x => t.localRead k x 1) f.near f.n f.data ∧
  (∀ x, ¬ (f.near ≤ x ∧ x < f.near + f.n) → t.localRead k x 1 = s.localRead k x 1) ∧
  (∀ g, f.near ≤ 16 * g → 16 * g + 16 ≤ f.near + f.n → (t.core k).empty.get false g = false)

end Sys2Proof.Claims

open Sys2Proof Sys2Proof.Machine Sys2Proof.Claims

/-- R234, R244, R246: at c + 3 a command enters its queue and its thread's counter rises by 1. -/
def Sys2Proof.Claims.CommandEnters : Prop :=
  ∀ (s : State) (k q : Nat) (c : Cmd), ((s.core k).cmdq q).find? (·.id == c.id) = some c → c.tid.core = k →
    (s.ctx c.tid).paired = false → ∃ t, perform (.enqueue k q c.id) s = .next t ∧
      t.ctx c.tid = (s.ctx c.tid).wwc c.wc ((s.ctx c.tid).rwc c.wc + 1) ∧ (∀ u, u ≠ c.tid → t.ctx u = s.ctx u) ∧
      (∃ c' ∈ (t.core k).cmdq q, c'.id = c.id ∧ c'.entered = true) ∧ t.phys = s.phys

/-- R234, R242: a free engine starts an eligible command: with .fe the granules that its rows cover become EMPTY at once,
and the request of its first message leaves for its source, which it reaches 60 cycles on (80 for slate), and later in another die. -/
def Sys2Proof.Claims.EngineStarts : Prop :=
  ∀ (s : State) (cl port k q : Nat) (c : Cmd) (rest : List Cmd) (pieces : List (Nat × Nat)), q < 8 → clusterOf k = cl →
    (s.core k).cmdq q = c :: rest → c.started = true → c.tid.core = k → PlainWalk c → (s.cluster cl).engines = [] →
    (s.cluster cl).tmem.getLsbD c.tenant.toNat = true → 0 < c.messages →
    s.placeMessage c c.pasid false 10 c.ma.toNat (c.message 0).2.2 = .at pieces →
    (c.fe = false → ∃ t r, exec (.engineCommandStart cl port k q) s = .next t ∧ (t.cluster cl).engines = [r] ∧ r.cmd = c ∧
      r.port = port ∧ r.next = 1 ∧ r.flits = [] ∧ r.fault = none ∧
      (∃ p ∈ t.agenda, ∃ slate, p.ev = .act (.engine cl c.id (.arrive 0 pieces slate)) ∧
        p.due = s.now + (if slate then 80 else 60) + pieces.foldl (fun m x => max m (s.far c.tid.core x.1)) 0) ∧
      (∀ u, t.ctx u = s.ctx u) ∧ (∀ a, t.localRead k a 1 = s.localRead k a 1) ∧ t.phys = s.phys) ∧
    (c.fe = true → (s.cmdRegion c).dbg = false → c.near = .localMem → ∃ t,
      exec (.engineCommandStart cl port k q) s = .next t ∧ (∀ u, t.ctx u = s.ctx u) ∧
      (∀ r g, r < c.rows → c.nearAddr r 0 / 16 ≤ g → g ≤ (c.nearAddr r 0 + c.rowBytes - 1) / 16 →
        (t.core k).empty.get false g = true))

/-- R186, R242, R244: a flit of a command to local memory lands in its cycle: its bytes are written, the granules that it
covers whole become FULL, and no other byte changes; the engine's later flits wait, one a cycle. A flit that is not due
waits. -/
def Sys2Proof.Claims.FlitLands : Prop :=
  ∀ (s : State) (cl port k : Nat) (r : Run) (f : Flit) (rest : List Flit), (s.cluster cl).engines = [r] → r.port = port →
    r.flits = f :: rest → PlainWalk r.cmd → r.fills = [] → r.cmd.near = .localMem → f.cores = [k] → r.cmd.tid.core = k →
    clusterOf k = cl → (s.cmdRegion r.cmd).dbg = false → r.cmd.stream = 0 → 0 < f.n →
    (f.due ≤ s.now → ∃ t, exec (.engineFlitLanding cl port) s = .next t ∧ flitTo s k f t ∧
      (∀ u, (t.ctx u) = s.ctx u) ∧ (∀ j a, j ≠ k → t.localRead j a 1 = s.localRead j a 1) ∧ t.phys = s.phys ∧
      (∃ r' ∈ (t.cluster cl).engines, r'.cmd = r.cmd ∧ r'.flits = rest) ∧
      (rest ≠ [] → ∃ p ∈ t.agenda, p.due = s.now + 1 ∧ p.ev = .run (.engineFlitLanding cl port))) ∧
    (s.now < f.due → ∃ t, exec (.engineFlitLanding cl port) s = .next t ∧ t.cores = s.cores ∧ t.clusters = s.clusters ∧
      ∃ p ∈ t.agenda, p.due = f.due ∧ p.ev = .run (.engineFlitLanding cl port))

/-- R231: an engine that waits for permits takes as many as its requested bytes will need and the batten has free: the
batten's RES rises by them. -/
def Sys2Proof.Claims.PermitsTaken : Prop :=
  ∀ (s : State) (cl port k : Nat) (r : Run) (f : Fill), (s.cluster cl).engines = [r] → r.port = port → r.closed = false →
    r.fills = [f] → f.cores = [k] → r.cmd.packs = true → r.asking = true → r.fault = none → r.stop = false →
    let b := r.cmd.bat.toNat
    let x := s.batten k b
    let total := r.cmd.streamBytes k
    let free := x.depth.toNat - x.count.toNat - x.res.toNat
    let n := min (r.cmd.wanted total f.asked - f.pushed - f.res) (min free 32)
    x.popAt ≠ s.now + 1 → x.depth.toNat ≤ 32 → f.len = 0 → 0 < r.cmd.covered total (f.pushed + 1) → f.pushed < f.total →
    x.res.toNat + n < 64 → ∃ t, exec (.enginePermitReserve cl port) s = .next t ∧
      (t.batten k b).res.toNat = x.res.toNat + n ∧ (t.batten k b).resq = x.resq ++ List.replicate n r.cmd.id ∧
      (t.batten k b).count = x.count ∧ (t.batten k b).entries = x.entries ∧ (∀ u, t.ctx u = s.ctx u) ∧ t.phys = s.phys

/-- R234, R243, R244: a command that has delivered everything completes: its counter falls by 1, it leaves its queue, and
the engine has it no more. A command that a fault has stopped also defers that fault to its thread, and holds its queue. -/
def Sys2Proof.Claims.CommandCompletes : Prop :=
  ∀ (s : State) (cl k : Nat) (r : Run) (others : List Run), clusterOf k = cl → (s.cluster cl).engines = r :: others →
    (∀ x ∈ others, x.cmd.id ≠ r.cmd.id) → PlainWalk r.cmd → r.cmd.tid.core = k →
    let c := r.cmd
    let x := s.slot c.tid
    x.st ≠ .empty → x.bind = c.bind → x.ctx.paired = false →
    let done (t : State) : Prop := (t.ctx c.tid) = x.ctx.wwc c.wc (x.ctx.rwc c.wc - 1) ∧ (∀ u, u ≠ c.tid → t.ctx u = s.ctx u) ∧
      (t.cluster cl).engines = others ∧ (∀ y ∈ (t.core k).cmdq c.queue, y.id ≠ c.id) ∧ t.phys = s.phys ∧
      ∀ a, t.localRead k a 1 = s.localRead k a 1
    (r.fault = none → ∃ t, exec (.commandCompletion k c.id) s = .next t ∧ done t ∧ (t.slot c.tid).deferred = x.deferred) ∧
    (∀ f, r.fault = some f → ∃ t, exec (.commandCompletion k c.id) s = .next t ∧ done t ∧
      (t.slot c.tid).deferred = x.deferred ++ [f] ∧ (t.core k).stalled.get none c.queue = some (c.tid.slot, f))

/-- R234 to R244: a tile-walk command from its queue to its completion.
Where the rules admit more than one reading, it follows the model's choice of log entry 39. -/
def Obligations.Engines : Prop :=
  CommandEnters ∧ EngineStarts ∧ FlitLands ∧ PermitsTaken ∧ CommandCompletes

namespace Sys2Proof.Claims

open Sys2Proof.Machine

/-- R122, R123: PITCH writes an admitted descriptor, with bit 63 set; GUARD (descriptor) refuses another. -/
def PitchResult : Prop :=
  ∀ h b s, Issues h (rS b) s →
    let v := (s.ctx s.cur).rs b &&& 0x7FFFFFFFFFFFFFFF#64
    (Pd.admits v = true → ∃ t, exec (.pitch h b) s = .next t ∧
      Completes s t { s.ctx s.cur with pd := v ||| 0x8000000000000000#64 } (s.nextPc h)) ∧
    (Pd.admits v = false → ∃ t, exec (.pitch h b) s = .next t ∧ Leaves (s.raiseLater s.cur { code := 10 }) t)

/-- The batten b of the current thread's core takes entries from threads and has room for one more; an entry that a pop of
this cycle frees counts from the next cycle on (R231). -/
def TailFree (s : State) (b : Nat) : Prop :=
  let x := s.batten s.cur.core b
  x.feed = false ∧ x.count.toNat + (if x.popAt = s.now + 1 then x.popNow else 0) + x.pushRes < x.depth.toNat

/-- R136, R231: the write of the tail entry that the batten will then have, and its push, are held until c + 3. -/
def writesTail (s : State) (b : Nat) (val mask : BEntry) (push : Bool) : State :=
  let k := s.cur.core
  let x := s.batten k b
  (if push then s.setBatten k b { x with pushRes := x.pushRes + 1 } else s).actAt
    (s.now + 3) (.bWrite k b ((x.tail.toNat + x.pushRes) % x.depth.toNat) val mask push true)

/-- R136: the slot of the tail entry that element j enters. -/
def packSlot (pd : W64) (side : Bool) (k : Nat) : Nat :=
  let l := Pd.l pd
  if side = true ∧ Pd.mode pd = 0 ∧ Pd.sparse pd = 0 then k / l * l + (l - 1 - k % l) else k

/-- R136: VPACK of an unpaired thread packs the image of each enabled element, or a zero and a mark where it has none. -/
def PackResult : Prop :=
  ∀ h fmt side push u a pos s, Issues h [rV a] s false true → (s.ctx s.cur).paired = false → (s.regionOf s.cur).dbg = false →
    let c := s.ctx s.cur
    let b := BitVec.toNat (w := 4) u
    let pd := c.pd
    let n := Num.count fmt
    let p := Pd.pitch pd
    let first := if h.len = .w96 then BitVec.toNat (w := 9) pos else pos.toNat * n
    let slot (j : Nat) := packSlot pd side (first + j)
    let image (j : Nat) := (Num.image fmt (elemA c fmt a j)).map (Num.limb fmt (Pd.limb pd side))
    let packs (j : Nat) : Prop := j < n ∧ laneOn c h fmt j = true ∧ first + j < Pd.slots pd ∧ slot j < Pd.slots pd
    (Pd.valid pd = true → Pd.fmt pd side = fmt → TailFree s b → ∃ t val mask, exec (.vpack h fmt side push u a pos) s = .next t ∧
      Completes (writesTail s b val mask push) t c (s.nextPc h) ∧
      (∀ j, packs j → Num.elem val.bytes.toNat p (slot j) = Num.wrap ((image j).getD 0) p ∧
        Num.elem mask.bytes.toNat p (slot j) = 2 ^ p - 1 ∧ val.marks.getLsbD (slot j) = (image j).isNone ∧
        mask.marks.getLsbD (slot j) = true) ∧
      (∀ i, i < Pd.slots pd → (∀ j, packs j → slot j ≠ i) →
        Num.elem mask.bytes.toNat p i = 0 ∧ mask.marks.getLsbD i = false)) ∧
    (Pd.valid pd = false ∨ Pd.fmt pd side ≠ fmt → ∃ t, exec (.vpack h fmt side push u a pos) s = .next t ∧
      Leaves (s.raiseLater s.cur { code := 10 }) t)

/-- R137: VPACKS of an unpaired thread copies the enabled bytes and sets no marks. -/
def PackBytes : Prop :=
  ∀ h push u a pos s, Issues h [rV a] s false true → (s.ctx s.cur).paired = false → (s.regionOf s.cur).dbg = false →
    let c := s.ctx s.cur
    let b := BitVec.toNat (w := 4) u
    let first := if h.len = .w96 then BitVec.toNat (w := 9) pos else pos.toNat * 64
    (TailFree s b → ∃ t val mask, exec (.vpacks h push u a pos) s = .next t ∧
      Completes (writesTail s b ⟨val, 0⟩ ⟨mask, 0⟩ push) t c (s.nextPc h) ∧
      ∀ i, i < 384 → if first ≤ i ∧ i - first < 64 ∧ laneOn c h .i8 (i - first) = true
        then Num.elem val.toNat 8 i = Num.elem (c.rv a).toNat 8 (i - first) ∧ Num.elem mask.toNat 8 i = 255
        else Num.elem mask.toNat 8 i = 0) ∧
    ((s.batten s.cur.core b).feed = true → ∃ t, exec (.vpacks h push u a pos) s = .next t ∧
      Leaves (s.raiseLater s.cur { code := 6, sub := 9 }) t) ∧
    ((s.batten s.cur.core b).feed = false → ¬ TailFree s b → ∃ t, exec (.vpacks h push u a pos) s = .next t ∧
      Leaves (s.setSt s.cur (.waiting (.change [Res.batten b]))) t)

/-- R136, R231: the held write changes what its mask names in the entry; with .p the entry is pushed, and in a thread-fed
batten the entry after the tail, where one is free, reads zero. -/
def PackCommits : Prop :=
  ∀ (s : State) (k b i : Nat) (val mask : BEntry) (push : Bool), let x := s.batten k b
    let zeroed (j : Nat) : Prop := push = true ∧ x.feed = false ∧ x.count.toNat + 1 < x.depth.toNat ∧
      j = (x.tail.toNat + 1) % x.depth.toNat
    ∃ t, perform (.bWrite k b i val mask push true) s = .next t ∧
    (¬ zeroed i → (t.batten k b).entry i = ⟨((x.entry i).bytes &&& ~~~mask.bytes) ||| (val.bytes &&& mask.bytes),
      ((x.entry i).marks &&& ~~~mask.marks) ||| (val.marks &&& mask.marks)⟩) ∧
    (∀ j, zeroed j → (t.batten k b).entry j = {}) ∧ (∀ j, j ≠ i → ¬ zeroed j → (t.batten k b).entry j = x.entry j) ∧ (∀ p, p ≠ b → t.batten k p = s.batten k p) ∧
    (t.batten k b).count = (if push then (s.batten k b).count + 1 else (s.batten k b).count) ∧
    (∀ u, t.ctx u = s.ctx u) ∧ t.phys = s.phys

/-- R126, R140: RGST delivers one half of the guard state of a purlin that the slot owns. -/
def GuardStored : Prop :=
  ∀ h d pn hi s, Issues h [wG d] s →
    let p := s.purlin s.cur.core (BitVec.toNat (w := 2) pn)
    (p.owned s.cur.slot = true → ∃ t w, exec (.rgst h d pn hi) s = .next t ∧ Completes s t ((s.ctx s.cur).wg d w) (s.nextPc h) ∧
      if hi = true then w.extractLsb' 50 14 = p.n ∧ w.extractLsb' 38 12 = p.base ∧ w.getLsbD 37 = p.torn ∧
          w.getLsbD 36 = (p.nanMap != 0) ∧ w.getLsbD 35 = p.claimed ∧ w.extractLsb' 31 4 = p.owner ∧
          w.extractLsb' 0 31 = p.bound.extractLsb' 64 31
        else w = p.bound.extractLsb' 0 64) ∧
    (p.owned s.cur.slot = false → ∃ t, exec (.rgst h d pn hi) s = .next t ∧ Leaves (s.raiseLater s.cur { code := 6, sub := 7 }) t)

/-- R143: REXT extracts digits of a purlin that the slot owns and that is not torn; those of an empty one are zero. -/
def Extracts : Prop :=
  ∀ h o idx s, Issues h [rG (RextOps.b o), wV o.d] s false true →
    let c := s.ctx s.cur
    let p := s.purlin s.cur.core o.pn.toNat
    let first := if h.len = .w96 then BitVec.toNat (w := 12) idx else idx.toNat * Num.count o.fmt
    let shift := ((c.rg o.b).setWidth 12).toInt
    let digit (i : Nat) : Int := if p.n = 0 then 0 else (p.digits.get 0 i).toInt
    let value (i : Nat) : Num.Val := if digit i = 0 then .zero false else .fin (decide (digit i < 0)) (digit i).natAbs (p.base.toInt - shift) false
    (p.owned s.cur.slot = true → p.torn = false → ∃ t v, exec (.rext h o idx) s = .next t ∧ Completes s t (c.wv o.d v) (s.nextPc h) ∧
      (∀ j, j < Num.count o.fmt → Num.elem v.toNat (Num.bits o.fmt) j =
        if laneOn c h o.fmt j then
          (if p.nanMap.getLsbD (first + j) then Num.canon o.fmt else Num.round o.fmt o.rnd o.sat (value (first + j))) % 2 ^ Num.bits o.fmt
        else Num.elem (c.rv o.d).toNat (Num.bits o.fmt) j) ∧
      (∀ b, Num.bits o.fmt * Num.count o.fmt ≤ b → v.getLsbD b = false)) ∧
    (p.owned s.cur.slot = false → ∃ t, exec (.rext h o idx) s = .next t ∧ Leaves (s.raiseLater s.cur { code := 6, sub := 7 }) t) ∧
    (p.owned s.cur.slot = true → p.torn = true → ∃ t, exec (.rext h o idx) s = .next t ∧ Leaves (s.raiseLater s.cur { code := 11 }) t)

end Sys2Proof.Claims

open Sys2Proof Sys2Proof.Machine Sys2Proof.Claims

/-- R122, R123, R126, R136, R137, R140, R143: PITCH, VPACK, VPACKS with their held writes, RGST and REXT.
Where the rules admit more than one reading, it follows the model's choice of log entry 30. -/
def Obligations.PackAndExtract : Prop := PitchResult ∧ PackResult ∧ PackBytes ∧ PackCommits ∧ GuardStored ∧ Extracts

namespace Sys2Proof.Claims

open Sys2Proof.Machine

/-- The current thread's purlin (R125). -/
def purlinOf (s : State) (pn : BitVec 2) : Purlin := s.purlin s.cur.core pn.toNat

/-- R127, R128: the fault of an instruction that names a purlin. -/
def ownFault (s : State) (pn : BitVec 2) (torn : Bool) : Option Flt :=
  let p := purlinOf s pn
  if ¬ (p.claimed = true ∧ p.owner.toNat = s.cur.slot) then some { code := 6, sub := 7 }
  else if torn = true ∧ p.torn = true then some { code := 11 } else none

/-- R148: an RFUSE reads the purlin, or one that has arrived waits to. -/
def Held (s : State) (pn : BitVec 2) : Prop := s.locked s.cur.core pn.toNat s.now = true

/-- An operation as the current thread issues it, with the PD of its issue (R124). -/
def opOf (s : State) (h : Hdr) (kind : BankKind) (pn : BitVec 2) : BankOp :=
  { id := s.newId.1, kind := kind, tid := s.cur, len := bytesOf h, pn := pn, issue := s.now, pd := (s.ctx s.cur).pd }

/-- R20, R129: the operation is in the bank's queue, and its thread waits for it. -/
def inBank (s : State) (op : BankOp) : State := (s.newId.2.enqueueBank s.cur.core op).setSt s.cur (.waiting (.event op.id))

/-- R138: a claim counts those of earlier issues; it commits at c + 3. -/
def ClaimResult : Prop :=
  ∀ h d pn s, Issues h [wG d] s →
    let p := purlinOf s pn
    let k := s.cur.core
    let n := s.cur.slot
    let free : Prop := if p.claimed = true then p.owner.toNat = n else ∀ x ∈ p.claims, x = n
    (free → ∃ t, exec (.pclaim h d pn) s = .next t ∧ Completes
      ((s.setPurlin k pn.toNat { p with claims := p.claims ++ [n] }).actAt (s.now + 3) (.claim k pn.toNat n true true)) t
      ((s.ctx s.cur).wg d 1) (s.nextPc h)) ∧
    (¬ free → ∃ t, exec (.pclaim h d pn) s = .next t ∧ Completes s t ((s.ctx s.cur).wg d 0) (s.nextPc h))

/-- R139, R126: the cleared purlin, and the one whose guard state comes from two registers. -/
def clearedOf (p : Purlin) : Purlin := { p with digits := [], nanMap := 0, n := 0, base := 0, torn := false, bound := 0 }
def guardedOf (p : Purlin) (a b : W64) : Purlin :=
  { p with n := b.extractLsb' 50 14, base := b.extractLsb' 38 12, torn := b.getLsbD 37, bound := b.extractLsb' 0 31 ++ a }

/-- R138 to R140: RCLR and RGLD take effect in their turn, PREL at c + 3; R148: while the purlin is read they wait in the
bank's queue. -/
def ClearResult : Prop :=
  ∀ (h : Hdr) (pn : BitVec 2) (s : State),
    let p := purlinOf s pn
    let k := s.cur.core
    let sets (v : Purlin) : State := s.setPurlin k pn.toNat v
    (Issues h [] s →
      (ownFault s pn false = none → ¬ Held s pn →
        (∃ t, exec (.rclr h pn) s = .next t ∧ Completes (sets (clearedOf p)) t (s.ctx s.cur) (s.nextPc h)) ∧
        ∃ t, exec (.prel h pn) s = .next t ∧ Completes (s.actAt (s.now + 3) (.release k pn.toNat)) t (s.ctx s.cur) (s.nextPc h)) ∧
      (ownFault s pn false = none → Held s pn →
        (∃ t, exec (.rclr h pn) s = .next t ∧ Leaves (inBank s (opOf s h .rclr pn)) t) ∧
        ∃ t, exec (.prel h pn) s = .next t ∧ Leaves (inBank s (opOf s h .prel pn)) t) ∧
      (∀ f, ownFault s pn false = some f → (∃ t, exec (.rclr h pn) s = .next t ∧ Leaves (s.raiseLater s.cur f) t) ∧
        ∃ t, exec (.prel h pn) s = .next t ∧ Leaves (s.raiseLater s.cur f) t)) ∧
    (∀ a b, Issues h [rG a, rG b] s true → ownFault s pn false = none → ¬ Held s pn → ∃ t, exec (.rgld h pn a b) s = .next t ∧
      Completes (sets (guardedOf p ((s.ctx s.cur).rg a) ((s.ctx s.cur).rg b))) t (s.ctx s.cur) (s.nextPc h))

/-- R138: what commits at c + 3. -/
def ClaimCommits : Prop :=
  ∀ (s : State) (k pn n : Nat), n < 16 → let p := s.purlin k pn
    let others (t : State) : Prop := (∀ q, q ≠ pn → t.purlin k q = s.purlin k q) ∧ (∀ u, t.ctx u = s.ctx u) ∧ t.phys = s.phys
    (∃ t, perform (.claim k pn n true true) s = .next t ∧ others t ∧
      t.purlin k pn = { p with claims := p.claims.erase n, claimed := true, owner := BitVec.ofNat 4 n }) ∧
    (∃ t, perform (.claim k pn n true false) s = .next t ∧ others t ∧ t.purlin k pn = { p with claims := p.claims.erase n }) ∧
    (∃ t, perform (.release k pn) s = .next t ∧ others t ∧ t.purlin k pn = { clearedOf p with claimed := false, owner := 0 })

/-- R124: the captured descriptor is valid and suits the instruction, and the battens that it uses are distinct. -/
def descriptorSuits (kind : BankKind) (o : RafOps) (pd : W64) : Prop :=
  Pd.valid pd = true ∧
  (match kind with
    | .rmul => Pd.sparse pd = 0
    | .rtile => Pd.mode pd ≤ 1 ∧ Pd.sparse pd = 0
    | _ => Pd.mode pd = 0 ∧ Pd.sparse pd ≠ 0) ∧
  ([o.ua.toNat, o.ub.toNat] ++ (if Pd.kind pd false ≠ 0 then [Pd.scaleBatten pd false] else [])
    ++ (if Pd.kind pd true ≠ 0 then [Pd.scaleBatten pd true] else []) ++ (if Pd.sparse pd ≠ 0 then [Pd.mb pd] else [])).Nodup

/-- R129, R141, R142: RMUL, RTILE and RTILES enter the bank with the steps of their terms; the checks come in the order
owner, torn, descriptor. -/
def MultiplyIssue : Prop :=
  ∀ i h o kind, (i = Instr.rmul h o ∧ kind = BankKind.rmul) ∨ (i = .rtile h o ∧ kind = .rtile) ∨ (i = .rtiles h o ∧ kind = .rtiles) →
    ∀ s, Issues h [] s (stepped := true) →
    let pd := (s.ctx s.cur).pd
    let n := o.cnt.toNat + 1
    let rows := o.rows.toNat + 1
    let per := if Pd.mode pd = 0 then Pd.segs pd else Pd.slots pd
    let pass := if kind = .rmul then n else (64 * rows + per - 1) / per
    let passes := if kind = .rmul ∨ Pd.mode pd ≠ 0 then 1 else Pd.kt pd / Pd.l pd
    (∀ f, ownFault s o.pn true = some f → ∃ t, exec i s = .next t ∧ Leaves (s.raiseLater s.cur f) t) ∧
    (ownFault s o.pn true = none → ¬ descriptorSuits kind o pd → ∃ t, exec i s = .next t ∧ Leaves (s.raiseLater s.cur { code := 10 }) t) ∧
    (ownFault s o.pn true = none → descriptorSuits kind o pd → ∃ t, exec i s = .next t ∧
      Leaves (inBank s { opOf s h kind o.pn with
        ua := o.ua, ub := o.ub, terms := if kind = .rmul then 1 else n, steps := pass * passes, pass := pass, rows := rows, d0 := o.d0.toNat }) t)

/-- R144, R149, R162: the checks of a stepped instruction's address. -/
def addressFault (s : State) (pn : BitVec 2) (torn : Bool) (kinds : Nat → Bool) (addr : W64) (aligned : Prop) [Decidable aligned] :
    Option Flt :=
  if ¬ aligned then (match ownFault s pn torn with
    | some f => some f
    | none => some { code := 5, addr := addr })
  else match s.watch kinds addr with
    | some f => some f
    | none => ownFault s pn torn

/-- R144, R145, R148 to R150: the operations of R408: header, registers, fault, and the operation that enters the bank. -/
def steppedOf (s : State) : Instr → Option (Hdr × List Use × Option Flt × BankOp)
  | .rextm h o a row0 rows off =>
    let c := s.ctx s.cur
    let base := c.rg o.d + off
    let stride := c.rg a
    some (h, [rG o.d, rG a, rG o.b], addressFault s o.pn true isStoreKind base ((c.rg o.d).toNat % 16 = 0 ∧ stride.toNat % 16 = 0),
      { opOf s h .rextm o.pn with
        base := base, stride := stride, shift := c.rg o.b, fmt := o.fmt, rnd := o.rnd, sat := o.sat, row0 := row0.toNat, steps := rows.toNat + 1, cstore := h.len == .w96 })
  | .rbase h pn a => some (h, [rG a], ownFault s pn true, { opOf s h .rbase pn with base := (s.ctx s.cur).rg a })
  | .rfuse h pn a =>
    let v := (s.ctx s.cur).rg a
    let src := s.cur.core / 8 * 8 + v.toNat % 8
    let n := v.toNat / 8 % 4
    let q := s.purlin src n
    let same := (s.regionOf ⟨src, q.owner.toNat⟩).rcb = (s.regionOf s.cur).rcb
    some (h, [rG a], (match ownFault s pn false with
        | some f => some f
        | none => if q.claimed = false ∨ ¬ same then some { code := 6, sub := 7 }
          else if (purlinOf s pn).torn = true ∨ q.torn = true then some { code := 11 } else none),
      { opOf s h .rfuse pn with src := (src, n) })
  | .rtest h d => some (h, [wG d], none, { opOf s h .rtest 0 with d := d })
  | .rsave h pn a off =>
    let base := (s.ctx s.cur).rg a + off
    some (h, [rG a], addressFault s pn false isStoreKind base (base.toNat % 64 = 0), { opOf s h .rsave pn with base := base, steps := 98 })
  | .rload h pn a off =>
    let base := (s.ctx s.cur).rg a + off
    some (h, [rG a], addressFault s pn false isLoadKind base (base.toNat % 64 = 0), { opOf s h .rload pn with base := base, steps := 98 })
  | _ => none

/-- R144, R145, R148 to R150: they enter the bank, unless a check refuses them. -/
def SteppedIssue : Prop :=
  ∀ i s h uses f op, steppedOf s i = some (h, uses, f, op) → Issues h uses s (stepped := true) →
    (∀ x, f = some x → ∃ t, exec i s = .next t ∧ Leaves (s.raiseLater s.cur x) t) ∧
    (f = none → ∃ t, exec i s = .next t ∧ Leaves (inBank s op) t)

end Sys2Proof.Claims

open Sys2Proof Sys2Proof.Machine Sys2Proof.Claims

/-- R124, R127 to R129, R138 to R150: the issue of the purlin and rafter instructions.
Where the rules admit more than one reading, it follows the model's choice of log entries 31 and 32. -/
def Obligations.RafterInstructions : Prop := ClaimResult ∧ ClearResult ∧ MultiplyIssue ∧ SteppedIssue

namespace Sys2Proof.Claims

open Sys2Proof.Machine

/-- A thread waits for the operation that leads its core's bank. -/
structure Leads (s : State) (k : Nat) (op : BankOp) (rest : List BankOp) : Prop where
  bank  : (s.core k).bank = op :: rest
  home  : op.tid.core = k
  waits : (s.slot op.tid).st = .waiting (.event op.id)
  plain : (s.ctx op.tid).paired = false ∧ (s.ctx op.tid).sstep = false
  free  : s.locked k op.pn.toNat op.issue = false
  checks : s.stepChecks = []

/-- The operation has left the bank, and its thread has completed it, with the registers given. -/
def Over (s t : State) (op : BankOp) (c : Ctx) : Prop :=
  t.ctx op.tid = { c with pc := (s.ctx op.tid).pc + BitVec.ofNat 64 op.len } ∧ (t.slot op.tid).st = .ready ∧
  ∀ u, u ≠ op.tid → t.ctx u = s.ctx u

end Sys2Proof.Claims

open Sys2Proof Sys2Proof.Machine Sys2Proof.Claims

/-- R129, R145, R148, R408: bank cycles: an RCLR, PREL or RGLD that waited takes effect; an RBASE in its last cycle rebases
the purlin (an empty one to n = 1 and bound 0, a higher one by a shift of every digit); a product of one step folds its
term into the purlin, frees its sheaves, and completes 4 cycles on. The bank works on in the next cycle while operations
are queued, and does nothing without one. -/
def Sys2Proof.Claims.BankCycles : Prop :=
  ∀ (s : State) (k : Nat),
    ((s.core k).bank = [] → exec (.sheafStep k) s = .next s) ∧
    ∀ op rest, Leads s k op rest →
      let p := s.purlin k op.pn.toNat
      let into (q : Purlin) (t : State) : Prop := t.purlin k op.pn.toNat = q ∧ (t.core k).bank = rest ∧ t.phys = s.phys ∧
        ∀ n, n ≠ op.pn.toNat → t.purlin k n = s.purlin k n
      (∀ a b, op.kind = .rclr ∨ op.kind = .prel ∨ op.kind = .rgld a b → ∃ t, exec (.sheafStep k) s = .next t ∧
        Over s t op (s.ctx op.tid) ∧ into (match op.kind with
          | .rclr => clearedOf p
          | .prel => { clearedOf p with claimed := false, owner := 0 }
          | _ => guardedOf p a b) t) ∧
      (op.kind = .rbase → op.started = true → op.steps = 1 → op.retired = 0 → op.held = false → op.failed = [] → op.go ≤ s.now →
        let b := (op.base.setWidth 12).toInt
        let up : Nat := 2 ^ (p.base.toInt - b).toNat
        (p.n = 0 → ∃ t, exec (.sheafStep k) s = .next t ∧ Over s t op (s.ctx op.tid) ∧
          into { p with base := op.base.setWidth 12, bound := 0, n := 1 } t) ∧
        (p.n ≠ 0 → p.base.toInt ≤ b → ∃ t, exec (.sheafStep k) s = .next t ∧ Over s t op (s.ctx op.tid) ∧ into p t) ∧
        (p.n ≠ 0 → b < p.base.toInt → p.bound.toNat * up < 2 ^ 95 → (∀ x ∈ p.digits, x.2.toInt.natAbs ≤ p.bound.toNat) →
          (p.digits.map (·.1)).Pairwise (· < ·) → ∃ t q, exec (.sheafStep k) s = .next t ∧ Over s t op (s.ctx op.tid) ∧ into q t ∧
          q.base = op.base.setWidth 12 ∧ q.bound.toNat = p.bound.toNat * up ∧ q.n = p.n ∧ q.nanMap = p.nanMap ∧
          ∀ i, (q.digits.get 0 i).toInt = (p.digits.get 0 i).toInt * up)) ∧
      (op.kind = .rmul → op.scaled = true → op.go ≤ s.now → op.steps = 1 → op.terms = 1 → op.term = 0 → op.taken = 0 →
        op.retired = 0 → op.failed = [] → s.rafters k ≠ [] → op.ua ≠ op.ub →
        let a := s.batten k op.ua.toNat
        let b := s.batten k op.ub.toNat
        0 < a.count.toNat → 0 < b.count.toNat → a.popRes = 0 → b.popRes = 0 → a.depth ≠ 0 → b.depth ≠ 0 → a.drain = none → b.drain = none →
        ∀ q, (op.product (a.entry (a.head.toNat % a.depth.toNat)) [b.entry (b.head.toNat % b.depth.toNat)] {}).termFold p = some q →
          ∃ t, exec (.sheafStep k) s = .next t ∧ into q t ∧ (∀ u, t.ctx u = s.ctx u) ∧
            (t.batten k op.ua.toNat).count = a.count - 1 ∧ (t.batten k op.ub.toNat).count = b.count - 1 ∧
            ∃ x ∈ t.agenda, x.due = s.now + 4 ∧ x.ev = .act (.bankEnd op.tid op.id op.len none))

/-- R148: an RFUSE whose read is served (nothing issued at the source before it is still to come) holds its source and takes 32 cycles for its first step, 33 steps where the base
falls; an unclaimed source raises PROT (purlin). -/
def Sys2Proof.Claims.FusedReads : Prop :=
  ∀ (s : State) (k : Nat) (op : BankOp) (rest : List BankOp), Leads s k op rest → op.kind = .rfuse → op.started = true →
    op.served = false → op.src.1 ≠ k → (s.core op.src.1).bank = [] → (s.core op.src.1).loading = [] →
    (s.core op.src.1).bankDone.1 ≠ s.now + 1 → (∀ e ∈ s.agenda, e.ev ≠ .act (.release op.src.1 op.src.2)) →
    let q := s.purlin op.src.1 op.src.2
    let p := s.purlin k op.pn.toNat
    (q.claimed = true → q.torn = false → (s.fused k op).isSome = true → ∃ t op', exec (.rfuseSourceRead k) s = .next t ∧
      (t.purlin op.src.1 op.src.2).readers = k :: q.readers ∧ (t.core k).bank = op' :: rest ∧ op'.served = true ∧
      op'.steps = (if q.n ≠ 0 ∧ p.n ≠ 0 ∧ q.base.toInt < p.base.toInt then 33 else 32) ∧ (∀ u, t.ctx u = s.ctx u)) ∧
    (q.claimed = false → (s.regionOf op.tid).cpol = false → (s.ctx op.tid).cdepth = 0 → s.placeFree op.tid = true → ∃ t, exec (.rfuseSourceRead k) s = .next t ∧
      (t.slot op.tid).st = .frozen ∧ (t.core k).bank = rest ∧ t.purlin k op.pn.toNat = p)

/-- R150, R167: a background test that passes counts; a rafter that fails it is fenced. -/
def Sys2Proof.Claims.BackgroundTests : Prop :=
  ∀ (s : State) (k j : Nat), j < 32 → s.stepChecks = [] →
    let b := (s.core k).bg.get {} j
    (s.rafterBad.contains (k, j) = false → ∃ t, exec (.rafterBackgroundTest k j) s = .next t ∧
      ((t.core k).bg.get {} j).tests = b.tests + 1 ∧ (t.core k).rfence = (s.core k).rfence ∧ (∀ u, t.ctx u = s.ctx u) ∧
      t.agenda = s.agenda) ∧
    (s.rafterBad.contains (k, j) = true → ∃ t, exec (.rafterBackgroundTest k j) s = .next t ∧
      (t.core k).rfence = (s.core k).rfence ||| BitVec.twoPow 32 j ∧ ((t.core k).bg.get {} j).tests = b.tests + 1 ∧
      ∀ u, t.ctx u = s.ctx u)

/-- R129 to R150: the cycles of a rafter bank, the reads of RFUSE, and the background tests.
Where the rules admit more than one reading, it follows the model's choice of log entries 29, 32 and 33. -/
def Obligations.BankSteps : Prop :=
  ClaimCommits ∧ BankCycles ∧ FusedReads ∧ BackgroundTests

namespace Sys2Proof.Claims

open Sys2Proof.Machine

/-- R280: the request of the current thread to a future's table. -/
def askOf (s : State) (op : FOp) (handle value : W64) (carry : Option Vec) (d : Reg) (e : KReg) : FReq :=
  let c := s.ctx s.cur
  { id := s.newId.1, op := op, handle := handle, value := value, carry := carry, pc := c.pc, tid := s.cur
    bind := (s.slot s.cur).bind, park := ((s.slot s.cur).task.map Task.park).getD 0, d := d, e := e, tenant := c.tenant, issue := s.now }

/-- The request leaves in `delay` cycles, and the thread waits for its reply. -/
def asks (s : State) (delay : Nat) (r : FReq) : State := (s.actAt (s.now + delay) (.futureSend r)).setSt s.cur (.waiting (.event r.id))

/-- R268: a future's handle has tag 10 and the number of a cluster; R376: its package can be reached. -/
def futureHandle (s : State) (h : W64) : Option Flt :=
  if ¬ (h.extractLsb' 60 4 = 10 ∧ (h.extractLsb' 44 6).toNat < 36) then some { code := 16, addr := h }
  else if s.reaches (h.extractLsb' 52 8).toNat = false then some { code := 8, addr := h } else none

/-- R286, R288: TOUCH and TOUCHP of an unpaired thread ask the future's table, and wait. -/
def TouchIssue : Prop :=
  ∀ h d e a b s desc, (s.ctx s.cur).paired = false →
    let c := s.ctx s.cur
    (Issues h [rG a, rG b, wG d] s →
      (futureHandle s (c.rg a) = none → s.carry s.cur (c.rg b) = .ok desc →
        (c.rg b = 0 ∨ s.localErr s.cur.core (c.rg b).toNat 64 = .clean) → let r := askOf s .touch (c.rg a) 0 desc d 0
        ∃ t, exec (.touch h d a b) s = .next t ∧
          Leaves (asks (s.newId.2.modSlot s.cur fun x => { x with touch := some r, outcome := none }) 3 r) t) ∧
      (∀ f, futureHandle s (c.rg a) = none → s.carry s.cur (c.rg b) = .error f → ∃ t, exec (.touch h d a b) s = .next t ∧
        Leaves (s.raiseLater s.cur f) t) ∧
      (∀ f, futureHandle s (c.rg a) = some f → ∃ t, exec (.touch h d a b) s = .next t ∧ Leaves (s.raiseLater s.cur f) t)) ∧
    (Issues h [rG a, rG b, wG d, wK e] s → futureHandle s (c.rg a) = none → s.carry s.cur (c.rg b) = .ok desc →
      (c.rg b = 0 ∨ s.localErr s.cur.core (c.rg b).toNat 64 = .clean) → ∃ t, exec (.touchp h d e a b) s = .next t ∧
      Leaves (asks s.newId.2 1 (askOf s .touchp (c.rg a) 0 desc d e)) t)

/-- R284, R289, R292: the operations that go on at once with D = 0, and wait for their value otherwise: header, D, A, the
other registers, the operation, its value, and whether a release point holds them. -/
def looseOf : Instr → Option (Hdr × Reg × Reg × List Use × (Ctx → FOp × W64) × Bool)
  | .resolve h d a b => some (h, d, a, rS b, fun c => (.resolve, c.rs b), true)
  | .fcancel h d a => some (h, d, a, [], fun _ => (.fcancel, 0), false)
  | .fpoison h d a b => some (h, d, a, rS b, fun c => (.fpoison ((c.rs b).extractLsb' 0 6), c.rs b &&& 63), false)
  | _ => none

/-- R284, R289, R292: RESOLVE, FCANCEL and FPOISON of an unpaired thread ask the table; with D = 0 the thread goes on at
once, and else it waits. RESOLVE holds as a release point. -/
def LooseIssue : Prop :=
  ∀ i h d a uses op rel, looseOf i = some (h, d, a, uses, op, rel) → ∀ s, Issues h (rG a :: wG d :: uses) s → (s.ctx s.cur).paired = false →
    let c := s.ctx s.cur
    let r := askOf s (op c).1 (c.rg a) (op c).2 none d 0
    (∀ f, futureHandle s (c.rg a) = some f → ∃ t, exec i s = .next t ∧ Leaves (s.raiseLater s.cur f) t) ∧
    (futureHandle s (c.rg a) = none → rel = true → s.releaseHeld s.cur = true → ∃ t, exec i s = .next t ∧ Leaves s t) ∧
    (futureHandle s (c.rg a) = none → rel = false ∨ s.releaseHeld s.cur = false →
      (d = 0 → ∃ t, exec i s = .next t ∧ Completes ((s.newId.2.actAt (s.now + 3) (.futureSend r)).addOut s.cur.core
        { id := r.id, slot := s.cur.slot, kind := .msg }) t c (s.nextPc h)) ∧
      (d ≠ 0 → ∃ t, exec i s = .next t ∧ Leaves (asks s.newId.2 3 r) t))

/-- R291, R292: FSTAT of a word that is no future's handle gives 2^63; FSTAT and FDROP ask the table otherwise. -/
def StateIssue : Prop :=
  ∀ h d a s, (s.ctx s.cur).paired = false →
    let c := s.ctx s.cur
    let isOne : Prop := (c.rg a).extractLsb' 60 4 = 10 ∧ ((c.rg a).extractLsb' 44 6).toNat < 36
    (Issues h [rG a, wG d] s →
      (¬ isOne → ∃ t, exec (.fstat h d a) s = .next t ∧ Completes s t (c.wg d 0x8000000000000000#64) (s.nextPc h)) ∧
      (futureHandle s (c.rg a) = none → ∃ t, exec (.fstat h d a) s = .next t ∧
        Leaves (asks s.newId.2 1 (askOf s .fstat (c.rg a) 0 none d 0)) t)) ∧
    (Issues h [rG a] s → futureHandle s (c.rg a) = none → ∃ t, exec (.fdrop h a) s = .next t ∧
      Leaves (asks s.newId.2 3 (askOf s .fdrop (c.rg a) 0 none 0 0)) t)

/-- R290: TEND of an unpaired thread that FORK did not create waits for the four counters and holds while threads that it
forked run, or as a release point; it ends its thread at c + 3. In debug mode a batten left in use raises WATCH (hazard). -/
def EndIssue : Prop :=
  ∀ h a s, h.len = .w64 → Issues h [rG a] s → (s.ctx s.cur).paired = false →
    let c := s.ctx s.cur
    let idle := c.rwc 0 = 0 ∧ c.rwc 1 = 0 ∧ c.rwc 2 = 0 ∧ c.rwc 3 = 0
    (isForked s s.cur = true → ∃ t, exec (.tend h a) s = .next t ∧ Leaves (s.raiseLater s.cur { code := 6, sub := 12 }) t) ∧
    (isForked s s.cur = false → ¬ idle → ∃ t, exec (.tend h a) s = .next t ∧ Leaves (s.setSt s.cur (.waiting (.counters 5))) t) ∧
    (isForked s s.cur = false → idle → s.hasForks s.cur = true ∨ s.releaseHeld s.cur = true → ∃ t, exec (.tend h a) s = .next t ∧ Leaves s t) ∧
    (isForked s s.cur = false → idle → s.hasForks s.cur = false → s.releaseHeld s.cur = false → s.battenHazard s.cur = true →
      ∃ t, exec (.tend h a) s = .next t ∧ Leaves (s.raiseLater s.cur { code := 21, sub := 5 }) t) ∧
    (isForked s s.cur = false → idle → s.hasForks s.cur = false → s.releaseHeld s.cur = false → s.battenHazard s.cur = false →
      ∃ t, exec (.tend h a) s = .next t ∧
      Completes ((s.newId.2.actAt (s.now + 3) (.endThread s.cur 1 (c.rg a))).setSt s.cur (.waiting (.event s.newId.1))) t c (s.nextPc h))

end Sys2Proof.Claims

open Sys2Proof Sys2Proof.Machine Sys2Proof.Claims

/-- R280, R284 to R292: the issue of the instructions that name futures.
Where the rules admit more than one reading, it follows the model's choice of log entries 23 and 62. -/
def Obligations.FutureInstructions : Prop := TouchIssue ∧ LooseIssue ∧ StateIssue ∧ EndIssue

namespace Sys2Proof.Claims

open Sys2Proof.Machine

/-- R273, R286 to R292: what an operation leaves of a resident future (states 1 QUEUED, 2 RUNNING, 3 RESOLVED, 4 CANCELLED,
5 POISONED), and the value of its reply. -/
def futureRule (f : Future) (r : FReq) : Future × W64 :=
  let pending := f.state = 1 ∨ f.state = 2
  match r.op with
  | .resolve => if pending then ({ f with state := 3, value := r.value }, 1) else (f, 0)
  | .fpoison code => if pending then ({ f with state := 5, fcode := code }, 1) else (f, 0)
  | .fcancel => (if f.state = 1 then { f with state := 4 } else if f.state = 2 then { f with creq := true } else f, f.state.zeroExtend 64)
  | .fdrop => (if pending then { f with drop := true } else { f with state := 0 }, 0)
  | .tend creq => (if f.state ≠ 2 then f else if creq = true ∨ f.creq = true then { f with state := 4 } else { f with state := 3, value := r.value }, 0)
  | .halt => (if f.state = 2 then { f with state := 4 } else f, 0)
  | .kill code => (if f.state = 2 then { f with state := 5, fcode := code } else f, 0)
  | .touch => (f, f.value)
  | _ => (f, 0)

/-- The table of a resident future that the requester's tenant may reach, without waiters, is asked. -/
structure Resident (s : State) (cl : Nat) (r : FReq) (f : Future) : Prop where
  entry : s.futureEntry cl (hEnt r.handle) = f
  live  : 1 ≤ f.state.toNat ∧ f.state.toNat ≤ 5
  gen   : f.gen = r.handle.extractLsb' 0 35
  route : s.routeAdmits (clusterOf r.tid.core) cl r.tenant = true
  owner : (s.regionByRcb f.rcb.toNat).tenant = r.tenant
  alone : f.nwait = 0 ∧ f.drop = false
  home  : r.tid.core < 4096
  quick : s.slack = []

end Sys2Proof.Claims

open Sys2Proof Sys2Proof.Machine Sys2Proof.Claims

/-- R273, R280, R286: an operation on a resident future without waiters leaves what its table gives and replies after the
time of R280; a TOUCH of an unfinished one becomes its one waiter; a future that waits is no other's. -/
def Sys2Proof.Claims.FutureTable : Prop :=
  ∀ (s : State) (cl : Nat) (r : FReq) (f : Future), Resident s cl r f →
    let others (t : State) : Prop := (∀ e, e ≠ hEnt r.handle → t.futureEntry cl e = s.futureEntry cl e) ∧ (∀ u, t.ctx u = s.ctx u) ∧
      t.phys = s.phys
    let due := s.now + (if r.tid.core / 8 = cl then 24 else if r.tid.core / 288 = cl / 36 then 60 else 80)
    ((r.op = .resolve ∨ r.op = .fcancel ∨ r.op = .fdrop ∨ ∃ code, r.op = .fpoison code) → ∃ t a, perform (.future cl r) s = .next t ∧
      others t ∧ t.futureEntry cl (hEnt r.handle) = (futureRule f r).1 ∧ a.fault = none ∧ a.val = (futureRule f r).2 ∧
      ∃ p ∈ t.agenda, p.due = due ∧ p.ev = .act (.futureReply r a)) ∧
    ((r.op = .halt ∨ (∃ creq, r.op = .tend creq) ∨ ∃ code, r.op = .kill code) → ∃ t, perform (.future cl r) s = .next t ∧
      others t ∧ t.futureEntry cl (hEnt r.handle) = (futureRule f r).1) ∧
    (r.op = .touch → f.state = 3 → ∃ t, perform (.future cl r) s = .next t ∧ others t ∧ t.futureEntry cl (hEnt r.handle) = f ∧
      ∃ p ∈ t.agenda, p.due = due ∧ p.ev = .act (.futureReply r { val := f.value })) ∧
    (r.op = .touch → f.state = 4 ∨ f.state = 5 → ∃ t, perform (.future cl r) s = .next t ∧ others t ∧ t.futureEntry cl (hEnt r.handle) = f ∧
      ∃ p ∈ t.agenda, p.due = due ∧ p.ev = .act (.futureReply r { fault := some (if f.state = 4 then { code := 14, addr := r.handle }
        else { code := 13, addr := r.handle, info := f.fcode.zeroExtend 64 }) })) ∧
    (r.op = .touch → f.state = 1 ∨ f.state = 2 → ∃ t, perform (.future cl r) s = .next t ∧ others t ∧
      t.futureEntry cl (hEnt r.handle) = { f with head := r.park, tail := r.park, nwait := 1 } ∧
      ∃ p ∈ t.agenda, p.due = due ∧ p.ev = .act (.futureReply r { wait := true })) ∧
    (r.op = .touchp ∨ r.op = .fstat → ∃ t a, perform (.future cl r) s = .next t ∧ others t ∧ t.futureEntry cl (hEnt r.handle) = f ∧
      a.fault = none ∧ (a.hit = true ↔ r.op = .touchp ∧ f.state = 3) ∧
      a.val = (if r.op = .touchp ∧ f.state = 3 then f.value
        else BitVec.ofNat 64 ((if f.creq then 2 ^ 60 else 0) + f.fcode.toNat * 2 ^ 54 + f.state.toNat)) ∧
      ∃ p ∈ t.agenda, p.due = due ∧ p.ev = .act (.futureReply r a))

/-- R169, R284 to R292: the reply of an operation lands at an unpaired thread that waits for it: its register receives the
value (TOUCHP also sets its predicate), it goes past the instruction and is ready. A fault of an operation that did not
wait is deferred. -/
def Sys2Proof.Claims.FutureReplies : Prop :=
  ∀ (s : State) (r : FReq) (a : FAns), let x := s.slot r.tid
    s.stepChecks = [] → x.bind = r.bind →
    (∀ f, a.fault = some f → r.d = 0 → r.op = .resolve ∨ r.op = .fcancel ∨ (∃ code, r.op = .fpoison code) → x.st ≠ .empty →
      ∃ t, perform (.futureReply r a) s = .next t ∧ t.ctx r.tid = x.ctx ∧ (t.slot r.tid).deferred = x.deferred ++ [f]) ∧
    (x.st = .waiting (.event r.id) → x.ctx.paired = false → x.ctx.sstep = false →
    let at_ := r.pc + 8
    (a.fault = none → r.d ≠ 0 → r.op = .resolve ∨ r.op = .fcancel ∨ r.op = .fstat ∨ (∃ code, r.op = .fpoison code) →
      ∃ t, perform (.futureReply r a) s = .next t ∧ t.ctx r.tid = { x.ctx.wg r.d a.val with pc := at_ } ∧
        (t.slot r.tid).st = .ready ∧ (∀ u, u ≠ r.tid → t.ctx u = s.ctx u) ∧ t.phys = s.phys) ∧
    (a.fault = none → r.op = .fdrop → ∃ t, perform (.futureReply r a) s = .next t ∧ t.ctx r.tid = { x.ctx with pc := at_ } ∧
      (t.slot r.tid).st = .ready ∧ (∀ u, u ≠ r.tid → t.ctx u = s.ctx u)) ∧
    (a.fault = none → r.op = .touchp → ∃ t, perform (.futureReply r a) s = .next t ∧
      t.ctx r.tid = { (x.ctx.wg r.d a.val).wk r.e (if a.hit then 0xFFFFFFFFFFFFFFFF#64 else 0) with pc := at_ } ∧
      (t.slot r.tid).st = .ready ∧ ∀ u, u ≠ r.tid → t.ctx u = s.ctx u) ∧
    (a.fault = none → r.op = .touch → a.wait = false → ∃ t, perform (.futureReply r a) s = .next t ∧
      t.ctx r.tid = { x.ctx.wg r.d a.val with pc := at_ } ∧ (t.slot r.tid).st = .ready ∧ (t.slot r.tid).touch = none ∧
      ∀ u, u ≠ r.tid → t.ctx u = s.ctx u) ∧
    (a.fault = none → r.op = .touch → a.wait = true → x.outcome = none → ∃ t, perform (.futureReply r a) s = .next t ∧
      t.ctx r.tid = x.ctx ∧ (t.slot r.tid).st = .waiting (.future r.id)))

/-- R269 to R292: what a future table does with a request, and what its reply leaves.
Where the rules admit more than one reading, it follows the model's choice of log entries 23 and 24. -/
def Obligations.FutureTables : Prop :=
  FutureTable ∧ FutureReplies

namespace Sys2Proof.Claims

open Sys2Proof.Machine

/-- R283: the record of 64 bytes at a is aligned, lies in local memory that the thread can read, without error, and names
at most four tiles; it is rec. -/
def RecordAt (s : State) (a : W64) (rec : BitVec 512) : Prop :=
  a.toNat % 64 = 0 ∧ localRule s a.toNat 64 false = none ∧ s.localErr s.cur.core a.toNat 64 = .clean ∧
  rec = BitVec.ofNat 512 (s.localRead s.cur.core a.toNat 64) ∧ recNt rec ≤ 4

/-- R278, R285: the request of a spawn that waits. -/
def spawnReq (s : State) (at_ : Bool) (target : Nat) (rec : BitVec 512) (pc : W64) (priv : Bool) (d : Reg) (after : List Nat) : SReq :=
  let c := s.ctx s.cur
  { id := s.newId.1, tid := s.cur, bind := (s.slot s.cur).bind, at_ := at_, target := target, record := rec, pc := pc, priv := priv
    team := (s.teamNo s.cur).toNat, d := d, region := c.region, tenant := c.tenant, issue := s.now, after := after }

/-- R283, R285: the task of a spawn of the current thread; R210, R285: it waits for what a release point waits for. -/
def taskOf (s : State) (rec : BitVec 512) (handle pc : W64) : Queued :=
  { record := recordCopy rec handle pc ((s.ctx s.cur).priv && (s.regionOf s.cur).privb), team := s.teamNo s.cur
    region := BitVec.ofNat 64 (s.regionOf s.cur).rcb, prio := (s.regionOf s.cur).prio, after := s.spawnAfter s.cur }

/-- R275, R285: SPAWN of an unpaired thread reserves the lowest free entry of its cluster's table and a place in its deque,
gives the handle with GEN one above, and creates the task at c + 3; with no entry to reserve it asks for a spill. -/
def SpawnIssue : Prop :=
  ∀ h d a pc rec s, Issues h [rG a, wG d] s → (s.ctx s.cur).paired = false → let c := s.ctx s.cur
    let k := s.cur.core
    let cl := clusterOf k
    let region := s.regionOf s.cur
    (RecordAt s (c.rg a) rec → (∀ f ∈ (s.cluster cl).futures, f.2.res ≠ some s.cur) →
      (∀ ent, s.admits region 1 1 = true → (s.cluster cl).freeFuture = some ent → recNt rec = 0 → (s.core k).dequeRoom = true →
        let f := s.futureEntry cl ent
        let handle := s.mkHandle 10 cl ent (f.gen + 1)
        ∃ t, exec (.spawn h d a pc) s = .next t ∧ Completes ((((s.reserveFut region).setFuture cl ent { f with res := some s.cur }).modCore k
          fun y => { y with dequeRes := y.dequeRes + 1 }).actAt (s.now + 3) (.spawnCommit s.cur ent (taskOf s rec handle pc) true none true))
          t (c.wg d handle) (s.nextPc h)) ∧
      ((s.admits region 1 1 = false ∨ (s.cluster cl).freeFuture = none) → let r := spawnReq s false k rec c.pc c.priv d []
        ∃ t, exec (.spawn h d a pc) s = .next t ∧
          Leaves ((s.newId.2.actAt (s.now + 3) (.spillSend r)).setSt s.cur (.waiting (.event r.id))) t)) ∧
    ((c.rg a).toNat % 64 ≠ 0 → ∃ t, exec (.spawn h d a pc) s = .next t ∧ Leaves (s.raiseLater s.cur { code := 5, addr := c.rg a }) t)

/-- R285: SPAWNAT of an unpaired thread asks the table of its target, a core of its team, and waits. -/
def SpawnatIssue : Prop :=
  ∀ h d a b pc rec s, Issues h [rG a, rG b, wG d] s → (s.ctx s.cur).paired = false → let c := s.ctx s.cur
    RecordAt s (c.rg a) rec →
    (∀ target, s.coreOfTeam (s.teamNo s.cur) (c.rg b).toNat = some target →
      let r := spawnReq s true target rec pc (c.priv && (s.regionOf s.cur).privb) d (s.spawnAfter s.cur)
      ∃ t, exec (.spawnat h d a b pc) s = .next t ∧
        Leaves ((s.newId.2.actAt (s.now + 3) (.spawnatSend r)).setSt s.cur (.waiting (.event r.id))) t) ∧
    (s.coreOfTeam (s.teamNo s.cur) (c.rg b).toNat = none → ∃ t, exec (.spawnat h d a b pc) s = .next t ∧
      Leaves (s.raiseLater s.cur { code := 6, sub := 12, addr := c.rg b }) t)

/-- R269, R273: the entry that a spawn leaves, QUEUED: TASK, HEAD and TAIL stay. -/
def queuedFuture (s : State) (cl ent rcb : Nat) : Future :=
  let f := s.futureEntry cl ent
  { gen := f.gen + 1, state := 1, rcb := BitVec.ofNat 46 rcb, seq := (s.cluster cl).allocs, task := f.task, head := f.head, tail := f.tail }

/-- R252, R259, R273, R285: the creation of the task at c + 3 (of a team being reset none: its future is CANCELLED), or the withdrawal of what a failed issue has reserved; a SPAWNAT
that finds an entry and room in its target's deque, and its reply. -/
def SpawnCommits : Prop :=
  (∀ (s : State) (u : Tid) (ent : Nat) (q : Queued), let cl := clusterOf u.core
    (s.noMoreTasks q.team = false → ∃ t, perform (.spawnCommit u ent q true none true) s = .next t ∧
      t.futureEntry cl ent = queuedFuture s cl ent (s.regionByRcb q.region.toNat).rcb ∧ (t.core u.core).deque = (s.core u.core).deque ++ [q] ∧
      (t.core u.core).dequeRes = (s.core u.core).dequeRes - 1 ∧ (∀ v, t.ctx v = s.ctx v) ∧ t.phys = s.phys) ∧
    (s.noMoreTasks q.team = true → ∃ t, perform (.spawnCommit u ent q true none true) s = .next t ∧
      (t.futureEntry cl ent).state = 4 ∧ (t.core u.core).deque = (s.core u.core).deque ∧ (∀ v, t.ctx v = s.ctx v) ∧ t.phys = s.phys) ∧
    (∃ t, perform (.spawnCommit u ent q true none false) s = .next t ∧
      t.futureEntry cl ent = { s.futureEntry cl ent with res := none } ∧ (t.core u.core).deque = (s.core u.core).deque ∧
      (t.core u.core).dequeRes = (s.core u.core).dequeRes - 1 ∧ (∀ v, t.ctx v = s.ctx v) ∧ t.phys = s.phys)) ∧
  (∀ (s : State) (r : SReq) (ent : Nat), let cl := clusterOf r.target
    let region := s.regionByRcb (r.region.toNat / 64 % 2 ^ 46)
    s.routeAdmits (clusterOf r.tid.core) cl r.tenant = true → s.admits region 1 1 = true → (s.cluster cl).freeFuture = some ent →
    recNt r.record = 0 → (s.core r.target).dequeRoom = true → s.slack = [] → r.tid.core < 4096 →
    let handle := s.mkHandle 10 cl ent ((s.futureEntry cl ent).gen + 1)
    ∃ t, perform (.spawnat r) s = .next t ∧ t.futureEntry cl ent = queuedFuture s cl ent region.rcb ∧
      (∃ q, (t.core r.target).deque = (s.core r.target).deque ++ [q] ∧ q.record = recordCopy r.record handle r.pc r.priv ∧
        q.after = r.after ∧ q.prio = region.prio) ∧
      (∃ p ∈ t.agenda, p.due = s.now + replyTime r.tid.core cl ∧ p.ev = .act (.spawnReply r none handle)) ∧ ∀ v, t.ctx v = s.ctx v) ∧
  (∀ (s : State) (r : SReq) (w : W64), let x := s.slot r.tid
    s.stepChecks = [] → x.bind = r.bind → x.st = .waiting (.event r.id) → x.ctx.paired = false → x.ctx.sstep = false →
    ∃ t, perform (.spawnReply r none w) s = .next t ∧ (t.slot r.tid).st = .ready ∧ (∀ v, v ≠ r.tid → t.ctx v = s.ctx v) ∧
      t.ctx r.tid = if r.at_ then { x.ctx.wg r.d w with pc := x.ctx.pc + 16 } else x.ctx)

end Sys2Proof.Claims

open Sys2Proof Sys2Proof.Machine Sys2Proof.Claims

/-- R252, R273, R275, R283, R285: SPAWN and SPAWNAT, and the creation of their tasks.
Where the rules admit more than one reading, it follows the model's choice of log entry 28. -/
def Obligations.Spawning : Prop := SpawnIssue ∧ SpawnatIssue ∧ SpawnCommits

namespace Sys2Proof.Claims

open Sys2Proof.Machine

/-- R271: a park entry that has become free: PST is 0, and of the other fields the rule's own keep what they held. -/
def freed (p : Park) : Park :=
  { val := p.val, next := p.next, team := p.team, core := p.core, slot := p.slot, prio := p.prio, ocode := p.ocode }

/-- R251, R252: a core that may choose takes the first entry of the ready queue that is its team's, binding it 4 cycles on,
or else the newest entry of its own deque, 2 cycles on. -/
def Chooses : Prop :=
  ∀ (s : State) (k : Nat) (team : BitVec 16), s.mayChoose k = some team →
    let cl := clusterOf k
    s.admits (s.teamRegion team) 0 (if (s.teamRegion team).rmode = 1 then 2 else 1) = true →
    (∀ before r after, (s.cluster cl).ready = before ++ r :: after → (∀ x ∈ before, x.team ≠ team) → (∀ x ∈ after, x ≠ r) →
      (∀ x ∈ before, x ≠ r) → r.team = team → r.cycle ≤ s.now → r.after = [] → ∃ t answer, exec (.taskDispatchChoice k) s = .next t ∧
        (t.cluster cl).ready = before ++ after ∧ (t.core k).dispatch = some ⟨.ready r, s.now, s.now + 4, answer⟩ ∧
        ∀ u, t.ctx u = s.ctx u) ∧
    (∀ older q p, (∀ x ∈ (s.cluster cl).ready, x.team ≠ team) → (s.core k).deque = older ++ [q] → q.team = team → q.after = [] →
      (s.cluster cl).parkForTask = some p → ∃ t, exec (.taskDispatchChoice k) s = .next t ∧ (t.core k).deque = older ∧
        (t.core k).dispatch = some ⟨.deque q, s.now, s.now + 2, none⟩ ∧ (t.parkAt cl p).res = true ∧
        (∃ e ∈ t.agenda, e.due = s.now ∧ e.ev = .run (.dispatchRequest k)) ∧ ∀ u, t.ctx u = s.ctx u)

/-- R251, R273: the dispatch request of a task whose future is QUEUED in the cluster's own table makes it RUNNING, with the
task's park reference, and is answered at once; for one that is CANCELLED or POISONED the answer is no. -/
def Requests : Prop :=
  ∀ (s : State) (k : Nat) (d : Dispatch) (q : Queued) (f : Future), (s.core k).dispatch = some d → d.src = .deque q →
    let h := recHandle q.record
    let cl := clusterOf k
    hPkg h = s.pkg.pkgid.toNat → hCluster h = cl → s.futureEntry cl (hEnt h) = f → f.gen = hGen h →
    s.routeAdmits cl cl (s.teamRegion q.team).tenant = true → (s.regionByRcb f.rcb.toNat).tenant = (s.teamRegion q.team).tenant →
    (f.state = 1 → ∃ t p, exec (.dispatchRequest k) s = .next t ∧ t.futureEntry cl (hEnt h) = { f with state := 2, task := s.mkPark cl p } ∧
      (t.core k).dispatch = some { d with answer := some true } ∧ ∀ u, t.ctx u = s.ctx u) ∧
    (f.state = 4 ∨ f.state = 5 → f.nwait = 0 → f.drop = false → ∃ t, exec (.dispatchRequest k) s = .next t ∧
      t.futureEntry cl (hEnt h) = f ∧ (t.core k).dispatch = some { d with answer := some false })

/-- R77, R251, R283, R294: a task whose answer is RUNNING is bound to its slot: the context starts at the record's pc with
its seeds, and PRIV only where the region allows it; a task whose answer is no is discarded, and its park entry freed. -/
def Binds : Prop :=
  ∀ (s : State) (k : Nat) (d : Dispatch) (q : Queued), (s.core k).dispatch = some d → d.src = .deque q →
    (s.teamRegion q.team).rmode ≠ 1 →
    (∀ slot, d.answer = some true → (s.core k).bindingSlot false s.now = some slot → ((s.core k).slot slot).bind.toNat + 1 ≠ 2048 →
      ((s.core k).slot slot).bind.toNat + 1 ≠ 4096 → ∃ t c w, exec (.taskBinding k) s = .next t ∧ (t.core k).dispatch = none ∧
        (∃ e ∈ t.agenda, e.due = s.now ∧ e.ev = .act (.bind ⟨k, slot⟩ c w (.acquire (recCarry q.record)))) ∧
        c.pc = recPc q.record ∧ (∀ x ∈ recSeeds q.record, c.rg x.1 = x.2) ∧ c.pasid = (s.teamRegion q.team).pasid ∧
        c.paired = false ∧ c.prio = (s.teamRegion q.team).prio ∧ w.handle = recHandle q.record ∧ w.team = q.team ∧ w.forked = false ∧
        ((s.core k).kind = .program → c.priv = (recPriv q.record && (s.teamRegion q.team).privb)) ∧ ∀ u, t.ctx u = s.ctx u) ∧
    (d.answer = some false → ∃ t, exec (.taskBinding k) s = .next t ∧ (t.core k).dispatch = none ∧
      t.parkAt (clusterOf k) (s.dispatchPark k d) = freed (s.parkAt (clusterOf k) (s.dispatchPark k d)) ∧ ∀ u, t.ctx u = s.ctx u) ∧
    (∀ u c w, ∃ t, perform (.bind u c w .fresh) s = .next t ∧ t.ctx u = c ∧ (t.slot u).st = .ready ∧ (t.slot u).task = some w ∧
      (t.slot u).bind = (s.slot u).bind + 1 ∧ ∀ v, v ≠ u → t.ctx v = s.ctx v)

/-- R253: the task of a prefetch whose walks are over enters the ready queue with kind 2. -/
def PrefetchEnds : Prop :=
  ∀ (s : State) (cl id : Nat) (p : Prefetch), (s.cluster cl).prefetch.find? (·.id == id) = some p →
    ∃ t, exec (.prefetchReady cl id) s = .next t ∧ (∀ x ∈ (t.cluster cl).prefetch, x.id ≠ id) ∧
      (∃ r ∈ (t.cluster cl).ready, r.cl = cl ∧ r.cycle = s.now ∧ r.park = p.park ∧ r.team = p.task.team ∧ r.prio = p.task.prio ∧
        r.idx = readyIndex 2 p.idx 0) ∧ (t.parkAt cl p.park).pst = 3 ∧ ∀ u, t.ctx u = s.ctx u

end Sys2Proof.Claims

open Sys2Proof Sys2Proof.Machine Sys2Proof.Claims

/-- R77, R251 to R253, R273, R294: the dispatch of tasks.
Where the rules admit more than one reading, it follows the model's choice of log entry 27. -/
def Obligations.TaskDispatch : Prop := Chooses ∧ Requests ∧ Binds ∧ PrefetchEnds

namespace Sys2Proof.Claims

open Sys2Proof.Machine

/-- R271, R287: the task of an unpaired thread whose TOUCH waits, with nothing that keeps it, parks: its park entry takes
what it waits for, its registers go to its image, and its slot is empty. -/
def Parks : Prop :=
  ∀ (s : State) (u : Tid) (k : Task) (id : Nat), (s.slot u).task = some k → (s.slot u).st = .waiting (.future id) → s.canPark u = true →
    (s.ctx u).paired = false → ∃ t, exec (.park u) s = .next t ∧ (t.slot u).st = .empty ∧ (t.slot u).task = none ∧
      (t.park k.park).pst = 2 ∧ (t.park k.park).touch = (s.slot u).touch ∧ (t.park k.park).handle = k.handle ∧
      s.now + 120 ≤ (t.park k.park).acked ∧ ∀ l ∈ (t.core u.core).rlines, l.is u.slot = false

/-- R254, R274: a wake reaches a parked task, which enters the ready queue with kind 0 and the outcome, a task that still
holds its slot, to which the outcome goes on, or an abandoned entry, which becomes free. -/
def Wakes : Prop :=
  ∀ (s : State) (ref : BitVec 26) (code : BitVec 6) (v : W64) (ent rank ready : Nat),
    let cl := parkCluster ref
    let p := s.park ref
    ∃ t, exec (.wakeDelivery ref code v ent rank ready) s = .next t ∧ (∀ u, t.ctx u = s.ctx u) ∧
      (p.pst = 2 → t.park ref = { p with ocode := code, val := v, pst := 3 } ∧ ∃ r ∈ (t.cluster cl).ready,
        r.park = parkIdx ref ∧ r.team = p.team ∧ r.prio = p.prio ∧ r.cycle = ready ∧ r.idx = readyIndex 0 ent rank) ∧
      (p.pst = 1 ∨ p.pst = 4 → t.park ref = { p with told := true } ∧ ∃ e ∈ t.agenda, e.due = max s.now (ready + 24) ∧
        e.ev = .act (.outcome ref code v ent rank)) ∧
      (p.pst = 5 → t.park ref = freed p) ∧ (p.pst = 3 → t.park ref = p)

/-- R276, R278: a spill takes its victim, which becomes SPILLING while its slot is read; with no victim the spawn takes
EXHAUSTED. Once the record is acknowledged the entry is FREE, its GEN kept, and reserved for the thread that waits. -/
def Spills : Prop :=
  ∀ (s : State) (r : SReq), let cl := clusterOf r.target
    let region := s.regionByRcb (r.region.toNat / 64 % 2 ^ 46)
    s.slack = [] → r.tid.core < 4096 →
    (s.victim cl region = none → ∃ t, exec (.futureSpill r) s = .next t ∧ (∀ i, t.futureEntry cl i = s.futureEntry cl i) ∧
      ∃ e ∈ t.agenda, e.due = s.now + replyTime r.tid.core cl ∧ e.ev = .act (.spawnReply r (some { code := 20 }) 0)) ∧
    (∀ i pa, s.victim cl region = some i → s.spillPlace r.tenant (s.mkHandle 10 cl i (s.futureEntry cl i).gen) true = .ok pa →
      ∃ t, exec (.futureSpill r) s = .next t ∧
        t.futureEntry cl i = { s.futureEntry cl i with state := 6, prior := (s.futureEntry cl i).state } ∧
        (∀ j, j ≠ i → t.futureEntry cl j = s.futureEntry cl j) ∧ ∃ e ∈ t.agenda, e.ev = .act (.spillRead r i)) ∧
    (∀ ent, r.at_ = false → (s.futureEntry cl ent).held = [] → ∃ t, exec (.spillAck r ent) s = .next t ∧
      (t.futureEntry cl ent).state = 0 ∧ (t.futureEntry cl ent).gen = (s.futureEntry cl ent).gen ∧
      (t.futureEntry cl ent).res = some r.tid ∧
      ∃ e ∈ t.agenda, e.due = s.now + replyTime r.tid.core cl ∧ e.ev = .act (.spawnReply r none 0))

end Sys2Proof.Claims

open Sys2Proof Sys2Proof.Machine Sys2Proof.Claims

/-- R254, R271, R274, R276, R278, R287: parking, wakes and spills.
Where the rules admit more than one reading, it follows the model's choice of log entries 23, 25, 26 and 44. -/
def Obligations.ParksWakesSpills : Prop := Parks ∧ Wakes ∧ Spills

namespace Sys2Proof.Claims

open Sys2Proof.Machine

/-- R297, R337: a waiting-task handle has tag 11, the number of a cluster and an entry below 256; R376. -/
def waitingFault (s : State) (h : W64) : Option Flt :=
  if ¬ (h.extractLsb' 60 4 = 11 ∧ (h.extractLsb' 44 6).toNat < 36 ∧ (h.extractLsb' 35 9).toNat < 256) then some { code := 16, addr := h }
  else if s.reaches (h.extractLsb' 52 8).toNat = false then some { code := 8, addr := h } else none

/-- R331: a decrement by the current thread. -/
def decOf (s : State) (h : Hdr) (handle : W64) (k : Nat) (csig : Bool) (d : Reg) : Dec :=
  let c := s.ctx s.cur
  { id := s.newId.1, handle := handle, k := k, tid := s.cur, bind := (s.slot s.cur).bind, tenant := c.tenant, csig := csig, d := d
    pc := c.pc, len := bytesOf h }

/-- A request leaves at c + 3, and the thread waits for its reply. -/
def sends (s : State) (a : Act) (id : Nat) : State := (s.actAt (s.now + 3) a).setSt s.cur (.waiting (.event id))

/-- R338: CSIG of an unpaired thread holds as a release point, and waits for the reply of its decrement. -/
def SignalIssue : Prop :=
  ∀ h d a n s, Issues h [rG a, wG d] s → (s.ctx s.cur).paired = false → let w := (s.ctx s.cur).rg a
    let r := decOf s h w (BitVec.toNat (w := 20) n) true d
    (∀ f, waitingFault s w = some f → ∃ t, exec (.csig h d a n) s = .next t ∧ Leaves (s.raiseLater s.cur f) t) ∧
    (waitingFault s w = none → s.releaseHeld s.cur = true → ∃ t, exec (.csig h d a n) s = .next t ∧ Leaves s t) ∧
    (waitingFault s w = none → s.releaseHeld s.cur = false → ∃ t, exec (.csig h d a n) s = .next t ∧
      Leaves (sends s.newId.2 (.decSend r) r.id) t)

/-- R339: MSG of an unpaired thread checks its operands, holds as a release point, and goes on; its message leaves at
c + 3. -/
def MessageIssue : Prop :=
  ∀ h d a b f n s, Issues h [rG d, rG a, rG b] s → (s.ctx s.cur).paired = false → let c := s.ctx s.cur
    let src := (c.rg a).toNat
    let dst := (c.rg d).toNat
    let bytes := 64 * (BitVec.toNat (w := 3) f + 1)
    let r := decOf s h (c.rg b) (BitVec.toNat (w := 20) n) false 0
    let checked : Prop := src % 64 = 0 ∧ dst % 64 = 0 ∧ s.watch isLoadKind (c.rg a) = none ∧ localRule s src bytes false = none ∧
      dst + bytes ≤ 0x400000 ∧ waitingFault s (c.rg b) = none ∧ s.localErr s.cur.core src bytes ≠ .uncorrectable
    (src % 64 ≠ 0 → ∃ t, exec (.msg h d a b f n) s = .next t ∧ Leaves (s.raiseLater s.cur { code := 5, addr := c.rg a }) t) ∧
    (src % 64 = 0 → dst % 64 ≠ 0 → ∃ t, exec (.msg h d a b f n) s = .next t ∧
      Leaves (s.raiseLater s.cur { code := 5, addr := c.rg d }) t) ∧
    (checked → s.releaseHeld s.cur = true → ∃ t, exec (.msg h d a b f n) s = .next t ∧ Leaves s t) ∧
    (checked → s.releaseHeld s.cur = false → ∃ t, exec (.msg h d a b f n) s = .next t ∧
      Completes (s.newId.2.actAt (s.now + 3) (.msgSend r src dst (f.toNat + 1))) t c (s.nextPc h))

/-- R340, R341: a request that leaves at once for its table; the thread waits as for a load. -/
def loadsFrom (s : State) : State :=
  (s.addOut s.cur.core { id := s.fresh - 1, slot := s.cur.slot, kind := .load }).setSt s.cur (.waiting (.event (s.fresh - 1)))

/-- R340: WAIT on a counter goes on once the counter is low enough; WAIT on a handle asks its table. -/
def WaitIssue : Prop :=
  (∀ h n m s, Issues h [] s → let c := s.ctx s.cur
    (c.rwc n ≤ m → ∃ t, exec (.waitCounter h n m) s = .next t ∧ Completes s t c (s.nextPc h)) ∧
    (m < c.rwc n → ∃ t, exec (.waitCounter h n m) s = .next t ∧ Leaves (s.setSt s.cur (.waiting (.counter n m))) t)) ∧
  (∀ h a s, Issues h [rG a] s → (s.ctx s.cur).paired = false → let w := (s.ctx s.cur).rg a
    (∀ f, waitingFault s w = some f → ∃ t, exec (.waitHandle h a) s = .next t ∧ Leaves (s.raiseLater s.cur f) t) ∧
    (waitingFault s w = none → ∃ t, exec (.waitHandle h a) s = .next t ∧ Leaves (loadsFrom (s.newId.2.toTable s.cur w 0
      (.act (.waitRequest (hCluster w) s.cur s.newId.1 w (s.ctx s.cur).tenant)))) t))

/-- R335, R336, R341: what CNTRD.PERF reads in the cycle of its issue, which ISSUES counts: COMMITS without the issues whose
verdicts are to come, and IDLE as the cycles since the reset in which the core did not issue. -/
def counterValue (s : State) (n : Nat) : W64 :=
  let c := s.core s.cur.core
  if n = 0 then c.perf.get 0 0 + 1
  else if n = 1 then c.perf.get 0 1 - BitVec.ofNat 64 (c.late.filter fun d => s.now < d).length
  else if n = 8 then BitVec.ofNat 64 (s.now - c.resetAt) - c.perf.get 0 0
  else c.perf.get 0 n

/-- R341: CNTRD. -/
def CounterReads : Prop :=
  ∀ h d s, (s.ctx s.cur).paired = false → let c := s.ctx s.cur
    let m := s.meshes.get {} c.tenant.toNat
    (Issues h [wG d] s →
      (∀ n, ∃ t, exec (.cntrdWc h d n) s = .next t ∧ Completes s t (c.wg d ((c.rwc n).zeroExtend 64)) (s.nextPc h)) ∧
      (∀ n, ∃ t, exec (.cntrdPerf h d n) s = .next t ∧ Completes s t (c.wg d (counterValue s n.toNat)) (s.nextPc h)) ∧
      (m.formed = true → ∃ t, exec (.cntrdSlot h d) s = .next t ∧ Completes s t (c.wg d m.clock) (s.nextPc h)) ∧
      (m.formed = true → ∃ t, exec (.cntrdSlip h d) s = .next t ∧ Completes s t (c.wg d m.slip) (s.nextPc h)) ∧
      (∀ kind, ∃ t, exec (.cntrdBud h d kind) s = .next t ∧
        Leaves (loadsFrom (s.newId.2.actAt (s.now + 60) (.budRead s.cur s.newId.1 kind d))) t)) ∧
    (∀ a, Issues h [rG a, wG d] s → let w := c.rg a
      (∀ f, waitingFault s w = some f → ∃ t, exec (.cntrdWt h d a) s = .next t ∧ Leaves (s.raiseLater s.cur f) t) ∧
      (waitingFault s w = none → ∃ t, exec (.cntrdWt h d a) s = .next t ∧ Leaves (loadsFrom (s.newId.2.toTable s.cur w 0
        (.act (.wtRead (hCluster w) s.cur s.newId.1 w d c.tenant)))) t))

end Sys2Proof.Claims

open Sys2Proof Sys2Proof.Machine Sys2Proof.Claims

/-- R335, R337 to R341: the issue of CSIG, MSG, WAIT and CNTRD.
Where the rules admit more than one reading, it follows the model's choice of log entry 40. -/
def Obligations.CounterInstructions : Prop := SignalIssue ∧ MessageIssue ∧ WaitIssue ∧ CounterReads

namespace Sys2Proof.Claims

open Sys2Proof.Machine

/-- R185, R186, R339: a flit of a message is written, and its four granules turn full; no other byte or granule changes.
Behind an access of this cycle to one of them it tries again in the next cycle. -/
def MessageLands : Prop :=
  ∀ (s : State) (cl a : Nat) (data : Vec), a % 64 = 0 →
    ((s.cluster cl).busy s.now a 64 = true → ∃ t, exec (.msgDelivery cl a data) s = .next t ∧
      (t.cluster cl).mem = (s.cluster cl).mem ∧ (t.cluster cl).empty = (s.cluster cl).empty ∧
      ∃ p ∈ t.agenda, p.due = s.now + 1 ∧ p.ev = .run (.msgDelivery cl a data)) ∧
    ((s.cluster cl).busy s.now a 64 = false → (∀ x ∈ (s.cluster cl).arrived, ∀ g ∈ granules a 64, g ∉ x.2.2) →
    ∃ t, exec (.msgDelivery cl a data) s = .next t ∧
    HoldsBytes (fun x => peek (t.cluster cl).mem x 1) a 64 data.toNat ∧
    (∀ x, ¬ (a ≤ x ∧ x < a + 64) → peek (t.cluster cl).mem x 1 = peek (s.cluster cl).mem x 1) ∧
    (∀ g, (t.cluster cl).empty.get false g = if a / 16 ≤ g ∧ g < a / 16 + 4 then false else (s.cluster cl).empty.get false g) ∧
    (∀ u, t.ctx u = s.ctx u) ∧ t.phys = s.phys)

/-- R297, R331: a decrement at its table: the fault of a handle that finds no entry (STALE), another tenant's, a
scoreboard's (PROT) or too low a count (UNDERFLOW), changing nothing; otherwise COUNT falls, an entry that reaches 0 is
released, and the reply carries COUNT. -/
def Decrements : Prop :=
  ∀ (s : State) (r : Dec), let cl := hCluster r.handle
    let i := hEnt r.handle
    let w := s.waitEntry cl i
    let finds : Prop := w.gen = hGen r.handle ∧ w.state ≠ 0
    s.routeAdmits (clusterOf r.tid.core) cl r.tenant = true → 0 < r.k → s.slack = [] → r.tid.core < 4096 →
    let replies (t : State) (f : Option Flt) (v : Nat) : Prop := ∃ e ∈ t.agenda, e.due = s.now + replyTime r.tid.core cl ∧
      e.ev = .act (.decReply r f (BitVec.ofNat 64 v))
    let fails (f : Flt) : Prop := ∃ t, exec (.waitingTaskDecrement r) s = .next t ∧ (∀ j, t.waitEntry cl j = s.waitEntry cl j) ∧
      replies t (some f) 0
    (¬ finds → fails { code := 15, addr := r.handle }) ∧
    (finds → (s.regionByRcb w.rcb.toNat).tenant ≠ r.tenant → fails { code := 8, addr := r.handle }) ∧
    (finds → (s.regionByRcb w.rcb.toNat).tenant = r.tenant →
      (w.sbl = true → fails { code := 6, sub := 13, addr := r.handle }) ∧
      (w.sbl = false → w.count.toNat < r.k → fails { code := 12, addr := r.handle }) ∧
      (w.sbl = false → r.k < w.count.toNat → ∃ t, exec (.waitingTaskDecrement r) s = .next t ∧
        t.waitEntry cl i = { w with count := BitVec.ofNat 20 (w.count.toNat - r.k) } ∧ (∀ j, j ≠ i → t.waitEntry cl j = s.waitEntry cl j) ∧
        replies t none (w.count.toNat - r.k) ∧ ∀ u, t.ctx u = s.ctx u) ∧
      (w.sbl = false → r.k = w.count.toNat → ∃ t, exec (.waitingTaskDecrement r) s = .next t ∧ (t.waitEntry cl i).state = 2 ∧
        (t.waitEntry cl i).count = 0 ∧ (∀ j, j ≠ i → t.waitEntry cl j = s.waitEntry cl j) ∧ replies t none 0 ∧
        (∀ p, (s.cluster cl).parkForTask = some p → ∃ e ∈ (t.cluster cl).ready, e.cycle = s.now ∧ e.idx = readyIndex 1 i 0 ∧
          e.park = p ∧ e.team = w.team ∧ e.prio = w.prio) ∧
        ((s.cluster cl).parkForTask = none → (t.cluster cl).relWait = (s.cluster cl).relWait ++ [(s.now, i)]) ∧
        ∀ u, t.ctx u = s.ctx u))

/-- R300: a release that waits takes the lowest free park entry, and enters the ready queue with its own cycle. -/
def ReleaseTakesPark : Prop :=
  ∀ (s : State) (cl c i p : Nat), (s.cluster cl).relWait = [(c, i)] → (s.cluster cl).freePark = some p →
    ∃ t, exec (.releaseParkWait cl) s = .next t ∧ (t.cluster cl).relWait = [] ∧ (t.parkAt cl p).pst = 3 ∧
      (t.waitEntry cl i).park = s.mkPark cl p ∧ (∃ e ∈ (t.cluster cl).ready, e.cycle = c ∧ e.idx = readyIndex 1 i 0 ∧ e.park = p) ∧
      ∀ u, t.ctx u = s.ctx u

/-- R340, R341: WAIT and CNTRD at their tables: an ARMED entry holds a WAIT; a released or freed one answers it, and another
generation is STALE; CNTRD.WT reads STATE and COUNT, or all ones. -/
def TableReads : Prop :=
  ∀ (s : State) (cl : Nat) (u : Tid) (id : Nat) (h : W64) (tenant : BitVec 6), let w := s.waitEntry cl (hEnt h)
    s.routeAdmits (clusterOf u.core) cl tenant = true → (s.regionByRcb w.rcb.toNat).tenant = tenant → s.slack = [] → u.core < 4096 →
    let due := s.now + replyTime u.core cl
    (w.gen = hGen h → w.state = 1 → (s.cluster cl).waitHeld.length < 64 → ∃ t, perform (.waitRequest cl u id h tenant) s = .next t ∧
      (t.cluster cl).waitHeld = (s.cluster cl).waitHeld ++ [(u, id, h)] ∧ t.agenda = s.agenda) ∧
    (w.gen = hGen h → w.state ≠ 1 → ∃ t, perform (.waitRequest cl u id h tenant) s = .next t ∧
      ∃ e ∈ t.agenda, e.due = due ∧ e.ev = .act (.waitReply u id 0 h)) ∧
    (w.gen ≠ hGen h → ∃ t, perform (.waitRequest cl u id h tenant) s = .next t ∧
      ∃ e ∈ t.agenda, e.due = due ∧ e.ev = .act (.waitReply u id 1 h)) ∧
    (∀ d, ∃ t, perform (.wtRead cl u id h d tenant) s = .next t ∧ ∃ e ∈ t.agenda, e.due = due ∧
      e.ev = .act (.tableReply u id 8 (some (d, if w.gen = hGen h ∧ w.state ≠ 0 then BitVec.ofNat 64 (w.state.toNat * 2 ^ 20 + w.count.toNat)
        else 0xFFFFFFFFFFFFFFFF#64)) none))

/-- R169, R331, R340: replies: a value enters its register, and the thread goes on past its instruction; the fault of a
decrement that no thread waits for is deferred. -/
def TableReplies : Prop :=
  ∀ (s : State) (u : Tid) (id : Nat), let x := s.slot u
    s.stepChecks = [] → x.st = .waiting (.event id) → x.ctx.paired = false → x.ctx.sstep = false →
    let passed (t : State) (c : Ctx) (n : Nat) : Prop := t.ctx u = { c with pc := x.ctx.pc + BitVec.ofNat 64 n } ∧ (t.slot u).st = .ready ∧
      ∀ v, v ≠ u → t.ctx v = s.ctx v
    (∀ len d v, ∃ t, perform (.tableReply u id len (some (d, v)) none) s = .next t ∧ passed t (x.ctx.wg d v) len) ∧
    (∀ len, ∃ t, perform (.tableReply u id len none none) s = .next t ∧ passed t x.ctx len) ∧
    (∀ h, ∃ t, perform (.waitReply u id 0 h) s = .next t ∧ passed t x.ctx 8) ∧
    (∀ r v, r.csig = true → r.tid = u → r.id = id → ∃ t, perform (.decReply r none v) s = .next t ∧ passed t (x.ctx.wg r.d v) r.len) ∧
    (∀ r f v, r.csig = false → r.tid = u → r.bind = x.bind → ∃ t, perform (.decReply r (some f) v) s = .next t ∧
      (t.slot u).deferred = x.deferred ++ [f] ∧ ∀ v, t.ctx v = s.ctx v)

end Sys2Proof.Claims

open Sys2Proof Sys2Proof.Machine Sys2Proof.Claims

/-- R186, R297, R300, R331, R339 to R341: messages, decrements, releases, and the replies of the tables.
Where the rules admit more than one reading, it follows the model's choice of log entry 40. -/
def Obligations.CounterEvents : Prop := MessageLands ∧ Decrements ∧ ReleaseTakesPark ∧ TableReads ∧ TableReplies

namespace Sys2Proof.Claims

open Sys2Proof.Machine

/-- R296: a request of the current thread to its cluster's tables. -/
def tableReq (s : State) (h : Hdr) (op : Nat) (d : Reg) (record : BitVec 512) (n : W64) (board : BitVec 2) : WReq :=
  let r := s.regionOf s.cur
  { id := s.newId.1, op := op, tid := s.cur, len := bytesOf h, d := d, record := record, n := n, board := board, team := s.teamNo s.cur
    rcb := r.rcb, prio := r.prio, tenant := (s.ctx s.cur).tenant }

/-- R299, R303: the copy of a record that names no tiles, with its seed pc. -/
def armed (s : State) (rec : BitVec 512) (pc : W64) : BitVec 512 :=
  recordCopy rec 0 pc ((s.ctx s.cur).priv && (s.regionOf s.cur).privb)

/-- R299, R303: CARM and SBREG of an unpaired thread hold as release points, and wait for their table. A count above 0xFFFFF
or a record that names tiles raises PROT (task). -/
def ArmIssue : Prop :=
  ∀ h d a b pc n rec s, Issues h [rG a, rG b, wG d] s → (s.ctx s.cur).paired = false → let c := s.ctx s.cur
    RecordAt s (c.rg a) rec →
    (recNt rec ≠ 0 → (∃ t, exec (.carm h d a b pc) s = .next t ∧ Leaves (s.raiseLater s.cur { code := 6, sub := 12, addr := c.rg a }) t) ∧
      ∃ t, exec (.sbreg h d n a b pc) s = .next t ∧ Leaves (s.raiseLater s.cur { code := 6, sub := 12, addr := c.rg a }) t) ∧
    (recNt rec = 0 → 0xFFFFF < (c.rg b).toNat → ∃ t, exec (.carm h d a b pc) s = .next t ∧
      Leaves (s.raiseLater s.cur { code := 6, sub := 12 }) t) ∧
    (recNt rec = 0 → s.releaseHeld s.cur = true →
      ((c.rg b).toNat ≤ 0xFFFFF → ∃ t, exec (.carm h d a b pc) s = .next t ∧ Leaves s t) ∧
      ∃ t, exec (.sbreg h d n a b pc) s = .next t ∧ Leaves s t) ∧
    (recNt rec = 0 → s.releaseHeld s.cur = false →
      ((c.rg b).toNat ≤ 0xFFFFF → let r := tableReq s h 0 d (armed s rec pc) (c.rg b) 0
        ∃ t, exec (.carm h d a b pc) s = .next t ∧ Leaves (sends s.newId.2 (.waitingSend r) r.id) t) ∧
      let r := tableReq s h 1 d (armed s rec pc) (c.rg b) n
      ∃ t, exec (.sbreg h d n a b pc) s = .next t ∧ Leaves (sends s.newId.2 (.waitingSend r) r.id) t)

/-- R302, R304: SBDEF, SBDEF.FREE and SBRET of an unpaired thread; SBRET holds as a release point. -/
def BoardIssue : Prop :=
  ∀ h n a s, (s.ctx s.cur).paired = false → let c := s.ctx s.cur
    (Issues h [rG a] s →
      (let r := tableReq s h 2 0 0 (c.rg a) n
       ∃ t, exec (.sbdef h n a) s = .next t ∧ Leaves (sends s.newId.2 (.waitingSend r) r.id) t) ∧
      (s.releaseHeld s.cur = true → ∃ t, exec (.sbret h n a) s = .next t ∧ Leaves s t) ∧
      (s.releaseHeld s.cur = false → let r := tableReq s h 4 0 0 (c.rg a) n
        ∃ t, exec (.sbret h n a) s = .next t ∧ Leaves (sends s.newId.2 (.waitingSend r) r.id) t)) ∧
    (Issues h [] s → let r := tableReq s h 3 0 0 0 n
      ∃ t, exec (.sbdefFree h n) s = .next t ∧ Leaves (sends s.newId.2 (.waitingSend r) r.id) t)

/-- R304: the tiles of a board that wait for tile (x, y): those at (x − dx, y − dy) for its stencil bits. -/
def waitsFor (b : Board) (x y u v : Nat) : Prop :=
  ∃ i, i < 25 ∧ b.mask.getLsbD i = true ∧ u + i % 5 = x + 2 ∧ v + i / 5 = y + 2

/-- R301: the tile (x, y) of a board, and its fields. -/
def tileAt (b : Board) (x y : Nat) : BitVec 15 := b.tiles.get 0 (y * (b.wm1.toNat + 1) + x)

/-- R297, R299, R302 to R304: the requests at the tables of their cluster. -/
def TableActs : Prop :=
  ∀ (s : State) (r : WReq), let cl := clusterOf r.tid.core
    let b : Board := (s.cluster cl).boards.get {} r.board.toNat
    let mine (t : State) : Board := (t.cluster cl).boards.get {} r.board.toNat
    let region := s.regionByRcb r.rcb
    s.routeAdmits cl cl r.tenant = true → s.slack = [] → r.tid.core < 4096 →
    let replies (t : State) (v : Option (Reg × W64)) (f : Option Flt) : Prop :=
      ∃ e ∈ t.agenda, e.due = s.now + 24 ∧ e.ev = .act (.tableReply r.tid r.id r.len v f)
    let fails (f : Flt) : Prop := ∃ t, perform (.waiting r) s = .next t ∧ (t.cluster cl).boards = (s.cluster cl).boards ∧
      (t.cluster cl).waits = (s.cluster cl).waits ∧ replies t none (some f)
    (r.op = 0 →
      (∀ i, i < 256 → (s.waitEntry cl i).state = 0 → (∀ j, j < i → (s.waitEntry cl j).state ≠ 0) → s.admits region 2 1 = true → r.n.toNat ≠ 0 →
        let gen := (s.waitEntry cl i).gen + 1
        let w := s.mkHandle 11 cl i gen
        ∃ t, perform (.waiting r) s = .next t ∧ replies t (some (r.d, w)) none ∧ (t.waitEntry cl i).state = 1 ∧ (t.waitEntry cl i).gen = gen ∧
          (t.waitEntry cl i).count = BitVec.ofNat 20 r.n.toNat ∧ (t.waitEntry cl i).sbl = false ∧ (t.waitEntry cl i).team = r.team ∧
          recHandle (t.waitEntry cl i).record = w ∧ recPc (t.waitEntry cl i).record = recPc r.record ∧
          ∀ j, j ≠ i → t.waitEntry cl j = s.waitEntry cl j) ∧
      (((∀ i, i < 256 → (s.waitEntry cl i).state ≠ 0) ∨ s.admits region 2 1 = false) → fails { code := 20, sub := 1 })) ∧
    (r.op = 2 →
      (r.n.getLsbD 24 = true → fails { code := 6, sub := 13 }) ∧
      (b.owned = true → b.team ≠ r.team → fails { code := 6, sub := 13 }) ∧
      (r.n.getLsbD 24 = false → (b.owned = true → b.team = r.team) → b.tiles = [] → ∃ t, perform (.waiting r) s = .next t ∧
        replies t none none ∧ (mine t).owned = true ∧ (mine t).team = r.team ∧ (mine t).wm1 = r.n.extractLsb' 0 6 ∧
        (mine t).hm1 = r.n.extractLsb' 6 6 ∧ (mine t).mask = r.n.extractLsb' 12 25 ∧
        ∀ x y, x ≤ (mine t).wm1.toNat → y ≤ (mine t).hm1.toNat →
          tileRet (tileAt (mine t) x y) = false ∧ tileReg (tileAt (mine t) x y) = false ∧
          (tileCnt (tileAt (mine t) x y)).toNat = ((List.range 25).filter fun i => (mine t).mask.getLsbD i &&
            decide (2 ≤ x + i % 5 ∧ x + i % 5 ≤ (mine t).wm1.toNat + 2 ∧ 2 ≤ y + i / 5 ∧ y + i / 5 ≤ (mine t).hm1.toNat + 2)).length)) ∧
    (r.op = 3 → (b.owned = true → b.team = r.team) → b.tiles = [] → ∃ t, perform (.waiting r) s = .next t ∧ replies t none none ∧ mine t = {}) ∧
    (let x := (r.n.extractLsb' 0 6).toNat
     let y := (r.n.extractLsb' 8 6).toNat
     (r.op = 1 ∨ r.op = 4 → b.owned = false ∨ b.team ≠ r.team ∨ b.wm1.toNat < x ∨ b.hm1.toNat < y → fails { code := 6, sub := 13 }) ∧
     (b.owned = true → b.team = r.team → x ≤ b.wm1.toNat → y ≤ b.hm1.toNat →
      (r.op = 1 → tileReg (tileAt b x y) = true → fails { code := 6, sub := 13 }) ∧
      (r.op = 4 → tileRet (tileAt b x y) = true → fails { code := 12 }) ∧
      (r.op = 4 → tileRet (tileAt b x y) = false → (∀ k, k < 4096 → tileReg (b.tiles.get 0 k) = false) → b.mask.getLsbD 12 = false →
        ∃ t, perform (.waiting r) s = .next t ∧ replies t none none ∧ tileRet (tileAt (mine t) x y) = true ∧
          (mine t).mask = b.mask ∧ (mine t).wm1 = b.wm1 ∧ (mine t).hm1 = b.hm1 ∧
          ∀ u v, u ≤ b.wm1.toNat → v ≤ b.hm1.toNat →
            (waitsFor b x y u v → tileCnt (tileAt (mine t) u v) = tileCnt (tileAt b u v) - 1) ∧
            (¬ waitsFor b x y u v → tileCnt (tileAt (mine t) u v) = tileCnt (tileAt b u v)))))

end Sys2Proof.Claims

open Sys2Proof Sys2Proof.Machine Sys2Proof.Claims

/-- R296, R297, R299, R301 to R304: CARM and the scoreboards, and their requests at the tables.
Where the rules admit more than one reading, it follows the model's choice of log entry 40. -/
def Obligations.WaitingTasksAndBoards : Prop := ArmIssue ∧ BoardIssue ∧ TableActs

namespace Sys2Proof.Claims

open Sys2Proof.Machine

/-- R155 to R167: what MFS reads of each register. -/
def registerValue (s : State) : SysReg → W64
  | .stat => (s.ctx s.cur).stat
  | .ctxb => (s.ctx s.cur).ctxb
  | .otpc => (s.ctx s.cur).otpc
  | .exb => (s.core s.cur.core).exb
  | .ovh => (s.core s.cur.core).ovh
  | .region => (s.ctx s.cur).region
  | .pasid => (s.ctx s.cur).pasid.zeroExtend 64
  | .supv => (s.ctx s.cur).supv
  | .cdepth => (s.ctx s.cur).cdepth.zeroExtend 64
  | .part => (s.core s.cur.core).part.zeroExtend 64
  | .tick => BitVec.ofNat 64 s.now - (s.core s.cur.core).tickBase
  | .pd => (s.ctx s.cur).pd
  | .ident => BitVec.ofNat 64 (s.pkg.pkgid.toNat * 2 ^ 15 + s.cur.core % 2048 * 16 + s.cur.slot % 16)
  | .mctl => let c := s.core s.cur.core
    BitVec.ofNat 64 (c.dnw.toNat * 2 ^ 16 + c.win.toNat * 2 ^ 8 + c.level.toNat)
  | .mstat => let c := s.core s.cur.core
    BitVec.ofNat 64 (c.wrep.toNat * 2 ^ 48 + c.wstep.toNat * 2 ^ 32 + c.run.toNat * 2 ^ 27 + c.clean.toNat * 2 ^ 23
      + (if c.settle then 8 else 0) + (if c.ceilhit then 4 else 0) + (if c.qcause then 2 else 0) + (if c.quar then 1 else 0))
  | .mlim => let c := s.core s.cur.core
    BitVec.ofNat 64 (c.insn.toNat * 2 ^ 24 + c.quarLim.toNat * 2 ^ 16 + c.stepLim.toNat * 2 ^ 8 + c.rpl.toNat)
  | .rfence => (s.core s.cur.core).rfence.zeroExtend 64
  | .menv => (s.core s.cur.core).menv.zeroExtend 64
  | .waddr0 => (s.ctx s.cur).waddr.get 0 0
  | .wctl0 => (s.ctx s.cur).wctl.get 0 0
  | .waddr1 => (s.ctx s.cur).waddr.get 0 1
  | .wctl1 => (s.ctx s.cur).wctl.get 0 1

/-- R175: MFS reads a register, or a field of it, zero-extended. -/
def ReadsRegister : Prop :=
  ∀ h d r field s, Issues h [wG d] s → ∃ t, exec (.mfs h d r field) s = .next t ∧
    Completes s t ((s.ctx s.cur).wg d (match field with
      | none => registerValue s r
      | some (pos, len) => BitVec.ofNat 64 ((registerValue s r).toNat / 2 ^ pos.toNat % 2 ^ (len.toNat + 1)))) (s.nextPc h)

/-- R157, R159, R162: an MTS to a register of the context writes the fields that MTS changes; PRIV can only be cleared. -/
def contextWrite (v : W64) (c : Ctx) : SysReg → Option Ctx
  | .stat => some { c with stat := (c.stat &&& ~~~0x21#64) ||| (v &&& 0x20) ||| (c.stat &&& v &&& 1) }
  | .otpc => some { c with otpc := v &&& ~~~3#64 }
  | .waddr0 => some { c with waddr := c.waddr.put 0 0 v }
  | .waddr1 => some { c with waddr := c.waddr.put 0 1 v }
  | .wctl0 => some { c with wctl := c.wctl.put 0 0 (v &&& 0x3FF) }
  | .wctl1 => some { c with wctl := c.wctl.put 0 1 (v &&& 0x3FF) }
  | _ => none

/-- R155, R159, R174, R176: MTS. A core register takes its value two cycles after the issue; one that MTS may not write
raises ILLEGAL; EXB above the context area raises PROT; CTXB, checked by R158, first writes the context's dirty lines. -/
def WritesRegister : Prop :=
  ∀ h r b s, Issues h (rS b) s (r != .otpc) → let v := (s.ctx s.cur).rs b
    (∀ c, contextWrite v (s.ctx s.cur) r = some c → ∃ t, exec (.mts h r b) s = .next t ∧ Completes s t c (s.nextPc h)) ∧
    (r ∈ [SysReg.ovh, .tick, .mctl, .mlim, .mstat, .rfence] ∨ (r = .exb ∧ (v &&& 0x7FFE0).toNat ≤ 0x58000) →
      ∃ t, exec (.mts h r b) s = .next t ∧
        Completes (s.sched (s.now + 2) Phase.last (.act (.coreReg s.cur r v))) t (s.ctx s.cur) (s.nextPc h)) ∧
    (r = .exb → 0x58000 < (v &&& 0x7FFE0).toNat → ∃ t, exec (.mts h r b) s = .next t ∧
      Leaves (s.raiseLater s.cur { code := 6, sub := 2, addr := v }) t) ∧
    (r = .ctxb → let a := (v &&& 0x7FFFFFFFFFF800#64).toNat
      let aligned : Prop := a % imageSize (s.core s.cur.core).part = 0
      let placed : Prop := v.getLsbD 63 = true → 0x58000 ≤ a ∧ a + imageSize (s.core s.cur.core).part ≤ 0x60000
      (¬ aligned → ∃ t, exec (.mts h r b) s = .next t ∧ Leaves (s.raiseLater s.cur { code := 5, addr := v }) t) ∧
      (aligned → ¬ placed → ∃ t, exec (.mts h r b) s = .next t ∧ Leaves (s.raiseLater s.cur { code := 6, sub := 2, addr := v }) t) ∧
      (aligned → placed → s.imageFault s.cur = none → ∃ t, exec (.mts h r b) s = .next t ∧
        t.ctx s.cur = { s.ctx s.cur with ctxb := v &&& 0x807FFFFFFFFFF800#64, pc := s.nextPc h } ∧ (t.slot s.cur).elig = s.now + 16 ∧
        (∀ l ∈ (t.core s.cur.core).rlines, l.is s.cur.slot = true → l.dirty = false) ∧ ∀ w, w ≠ s.cur → t.ctx w = s.ctx w)) ∧
    (r ∈ [SysReg.region, .pasid, .supv, .cdepth, .part, .pd, .ident, .menv] → ∃ t, exec (.mts h r b) s = .next t ∧
      Leaves (s.raiseLater s.cur { code := 1 }) t)

/-- R159, R164 to R167: what a core register takes; nothing else of the core's threads changes. -/
def RegisterTakes : Prop :=
  ∀ (s : State) (u : Tid) (v : W64), let k := u.core
    let c := s.core k
    let takes (r : SysReg) (p : Core → Prop) : Prop := ∃ t, perform (.coreReg u r v) s = .next t ∧ p (t.core k) ∧
      (∀ w, t.ctx w = s.ctx w) ∧ ∀ j, j ≠ k → t.core j = s.core j
    takes .exb (fun d => d.exb = v &&& 0x7FFE0) ∧ takes .ovh (fun d => d.ovh = v &&& 0x7FFFC) ∧
    takes .tick (fun d => BitVec.ofNat 64 s.now - d.tickBase = v) ∧
    takes .mlim (fun d => d.insn = v.extractLsb' 24 8 ∧ d.quarLim = v.extractLsb' 16 4 ∧ d.stepLim = v.extractLsb' 8 8 ∧ d.rpl = v.extractLsb' 0 8) ∧
    takes .mstat (fun d => d.wrep = v.extractLsb' 48 16 ∧ d.wstep = v.extractLsb' 32 16 ∧ d.run = v.extractLsb' 27 5 ∧ d.clean = v.extractLsb' 23 4) ∧
    takes .mctl (fun d => d.dnw = v.extractLsb' 16 4 ∧ d.win.toNat = max 10 (min 24 (v.extractLsb' 8 5).toNat) ∧
      (s.heldBack k = false → c.menv.toNat % 16 ≤ c.menv.toNat / 16 → d.level.toNat = max (c.menv.toNat % 16) (min (c.menv.toNat / 16) (v.extractLsb' 0 4).toNat)))

end Sys2Proof.Claims

open Sys2Proof Sys2Proof.Machine Sys2Proof.Claims

/-- R155, R157, R159, R162, R164 to R167, R174 to R176: MFS and MTS.
Where the rules admit more than one reading, it follows the model's choice of log entry 34. -/
def Obligations.SystemRegisters : Prop := ReadsRegister ∧ WritesRegister ∧ RegisterTakes

namespace Sys2Proof.Claims

open Sys2Proof.Machine

/-- R177: the core is quiescent but for slot 0. -/
def Quiescent (s : State) (k : Nat) : Prop :=
  (∀ n, 1 ≤ n → n < 16 → ((s.core k).slot n).st = .empty ∧ ((s.core k).slot n).reserved = false) ∧
  (∀ p ∈ (s.core k).purlins, p.2.claimed = false) ∧ (s.core k).bank = [] ∧ (∀ b ∈ (s.core k).battens, b.2.count = 0) ∧
  (∀ q ∈ (s.core k).qregs, q.2.entries = []) ∧ ∀ q ∈ (s.core k).cmdqs, q.2 = []

/-- R177: REPART. -/
def Repartitions : Prop :=
  (∀ h b s, Issues h (rS b) s true → let m := ((s.ctx s.cur).rs b).extractLsb' 0 2
    let may : Prop := m ≠ 3 ∧ s.cur.slot = 0 ∧ Quiescent s s.cur.core
    (¬ may → ∃ t, exec (.repart h b) s = .next t ∧ Leaves (s.raiseLater s.cur { code := 6, sub := 17 }) t) ∧
    (may → m = (s.core s.cur.core).part → ∃ t, exec (.repart h b) s = .next t ∧ Completes s t (s.ctx s.cur) (s.nextPc h)) ∧
    (may → m ≠ (s.core s.cur.core).part → ∃ t, exec (.repart h b) s = .next t ∧
      Completes (s.actAt (s.now + 3) (.repart s.cur.core m.toNat)) t (s.ctx s.cur) (s.nextPc h))) ∧
  (∀ (s : State) (k m : Nat), m < 3 → (∀ i, i < lineCount (s.core k).part → 4 ≤ i → (s.core k).resident 0 i = true) → let u : Tid := ⟨k, 0⟩
    ∃ t, perform (.repart k m) s = .next t ∧ (t.core k).part.toNat = m ∧ (t.core k).rlines = [] ∧
      (t.ctx u).ctxb = 0x8000000000058000#64 ∧ (t.ctx u).pc = (s.ctx u).pc ∧
      (∀ r : Reg, r.toNat < min (gCount (s.core k).part) (gCount (BitVec.ofNat 2 m)) → (t.ctx u).rg r = (s.ctx u).rg r) ∧
      (∀ r : Reg, gCount (s.core k).part ≤ r.toNat → (t.ctx u).rg r = 0) ∧
      (∀ r : Reg, r.toNat < min (vCount (s.core k).part) (vCount (BitVec.ofNat 2 m)) → (t.ctx u).rv r = (s.ctx u).rv r) ∧
      (∀ r : Reg, vCount (s.core k).part ≤ r.toNat → (t.ctx u).rv r = 0) ∧ ∀ w, w ≠ u → t.ctx w = s.ctx w)

/-- R178, R179: HALT of an unpaired thread waits for its counters as `~wcall` does, before its issue, and ends the thread at
c + 3; in debug mode a batten left in use raises WATCH (hazard) instead (R314). YIELD offers its slot at c + 2, and goes on. -/
def Halts : Prop :=
  ∀ h s, Issues h [] s → let c := s.ctx s.cur
    let idle := c.rwc 0 = 0 ∧ c.rwc 1 = 0 ∧ c.rwc 2 = 0 ∧ c.rwc 3 = 0
    (h.len = .w64 → c.paired = false →
      (¬ idle → exec (.halt h) s = .next (s.setSt s.cur (.waiting (.counters 5)))) ∧
      (idle → s.battenHazard s.cur = true → ∃ t, exec (.halt h) s = .next t ∧
        Leaves (s.raiseLater s.cur { code := 21, sub := 5 }) t) ∧
      (idle → s.battenHazard s.cur = false → ∃ t, exec (.halt h) s = .next t ∧
        Completes ((s.newId.2.actAt (s.now + 3) (.endThread s.cur 2 0)).setSt s.cur (.waiting (.event s.newId.1))) t c (s.nextPc h))) ∧
    ∃ t, exec (.yield h) s = .next t ∧ Completes (s.actAt (s.now + 2) (.yield s.cur s.now)) t c (s.nextPc h)

/-- R127, R178, R273, R290: the end of a thread empties its slot, releases its purlins and forgets its lines; its task's
future, in this package, is asked 21 cycles on (in its own cluster) to become what TEND or HALT makes it. -/
def Ends : Prop :=
  ∀ (s : State) (u : Tid) (kind : Nat) (v : W64) (k : Task), kind = 1 ∨ kind = 2 → (s.slot u).st ≠ .empty → (s.slot u).task = some k →
    (s.ctx u).paired = false → ∃ t, perform (.endThread u kind v) s = .next t ∧ (t.slot u).st = .empty ∧ (t.slot u).task = none ∧
      (t.slot u).bind = (s.slot u).bind ∧ (∀ n, n < 4 → (s.purlin u.core n).owned u.slot = true → t.purlin u.core n = {}) ∧
      (∀ n, n < 4 → (s.purlin u.core n).owned u.slot = false → t.purlin u.core n = s.purlin u.core n) ∧
      (∀ l ∈ (t.core u.core).rlines, l.is u.slot = false) ∧ (∀ w, w ≠ u → t.ctx w = s.ctx w) ∧
      (hTag k.handle = 10 → hPkg k.handle = s.pkg.pkgid.toNat → hCluster k.handle = clusterOf u.core → ∃ e ∈ t.agenda, ∃ r,
        e.due = s.now + 21 ∧ e.ev = .act (.future (hCluster k.handle) r) ∧ r.handle = k.handle ∧
        (kind = 1 → r.op = .tend (s.ctx u).creq ∧ r.value = v) ∧ (kind = 2 → r.op = .halt))

/-- R179, R254, R359: YIELD's offer is taken when nothing keeps the thread and a task of its priority or above waits: its slot
is empty and its task ready with kind 3; otherwise nothing happens. -/
def Offers : Prop :=
  ∀ (s : State) (u : Tid) (at_ : Nat) (k : Task), (s.slot u).task = some k → (s.slot u).st = .ready → (s.ctx u).paired = false →
    let c := s.ctx u
    let may : Prop := (∀ n, n < 4 → (s.purlin u.core n).owned u.slot = false) ∧
      (∀ b, b < 16 → ¬ ((s.batten u.core b).owned = true ∧ (s.batten u.core b).owner.toNat = u.slot)) ∧ k.forked = false ∧
      s.hasForks u = false ∧ (c.rwc 0 = 0 ∧ c.rwc 1 = 0 ∧ c.rwc 2 = 0 ∧ c.rwc 3 = 0) ∧ s.quietThread u = true ∧
      s.waitingTask u.core k.team c.prio = true
    (may → ∃ t, perform (.yield u at_) s = .next t ∧ (t.slot u).st = .empty ∧ (t.park k.park).pst = 3 ∧
      ∃ e ∈ (t.cluster (clusterOf u.core)).ready, e.cycle = s.now ∧ e.park = parkIdx k.park ∧ e.team = k.team ∧ e.prio = (s.regionOf u).prio ∧
        e.idx = readyIndex 3 (16 * (u.core % 8) + u.slot) 0) ∧
    (¬ may → perform (.yield u at_) s = .next s)

/-- R180: CTXLD and CTXST act at c + 3 on a slot that the mode admits, CTXLD on its own or a frozen one. -/
def ContextMoves : Prop :=
  ∀ h a s, Issues h [rG a] s true → let n := (((s.ctx s.cur).rg a).extractLsb' 0 4).toNat
    let k := s.cur.core
    let own : Prop := n = s.cur.slot ∨ ((s.core k).slot n).st = .frozen
    (slotCount (s.core k).part ≤ n → (∃ t, exec (.ctxld h a) s = .next t ∧ Leaves (s.raiseLater s.cur { code := 6, sub := 15 }) t) ∧
      ∃ t, exec (.ctxst h a) s = .next t ∧ Leaves (s.raiseLater s.cur { code := 6, sub := 15 }) t) ∧
    (n < slotCount (s.core k).part → s.imageFault ⟨k, n⟩ = none →
      (own → ∃ t, exec (.ctxld h a) s = .next t ∧ Completes (s.actAt (s.now + 3) (.ctxld k n)) t (s.ctx s.cur) (s.nextPc h)) ∧
      (¬ own → ∃ t, exec (.ctxld h a) s = .next t ∧ Leaves (s.raiseLater s.cur { code := 6, sub := 15 }) t) ∧
      ∃ t, exec (.ctxst h a) s = .next t ∧ Completes (s.actAt (s.now + 3) (.ctxst k n)) t (s.ctx s.cur) (s.nextPc h))

/-- R154, R180: what they do: CTXLD forgets the context's lines and takes pc, OTPC, CDEPTH and the rest of its system part
from its image, PRIV only where the region allows it; CTXST leaves no dirty line of the context, and its registers as
they are. -/
def ContextActs : Prop :=
  ∀ (s : State) (k n : Nat), let u : Tid := ⟨k, n⟩
    let word (j : Nat) : W64 := BitVec.ofNat 64 (s.imageRead k (s.ctx u) (8 * j) 8)
    (∃ t, perform (.ctxld k n) s = .next t ∧ (t.ctx u).pc = word 0 &&& ~~~3#64 ∧ (t.ctx u).otpc = word 4 &&& ~~~3#64 ∧
      (t.ctx u).cdepth = (word 8).extractLsb' 0 3 ∧ (t.ctx u).pd = admitPd (word 1) ∧
      ((t.ctx u).priv = ((word 2).getLsbD 0 && (s.regionOf u).privb)) ∧ (t.ctx u).waddr.get 0 0 = word 10 ∧
      (∀ j : BitVec 2, (t.ctx u).rwc j = (word 9).extractLsb' (8 * j.toNat) 8) ∧
      (∀ l ∈ (t.core k).rlines, l.is n = false) ∧ (∀ w, w ≠ u → t.ctx w = s.ctx w) ∧ t.phys = s.phys) ∧
    (((s.core k).slot n).st = .empty → perform (.ctxst k n) s = .next s) ∧
    (((s.core k).slot n).st ≠ .empty → ∃ t, perform (.ctxst k n) s = .next t ∧ (∀ w, t.ctx w = s.ctx w) ∧
      ∀ l ∈ (t.core k).rlines, l.is n = true → l.dirty = false)

/-- R319, R320: TLBINV: header, registers, func, and its operands. -/
def invalidates : Instr → Option (Hdr × List Use × Nat × (Ctx → BitVec 20 × Nat × Nat))
  | .tlbinvAll h => some (h, [], 0, fun _ => (0, 0, 0))
  | .tlbinvPasid h a => some (h, [rG a], 1, fun c => ((c.rg a).extractLsb' 0 20, 0, 0))
  | .tlbinvPage h a b => some (h, [rG a, rG b], 2, fun c => ((c.rg a).extractLsb' 0 20, (c.rg b).toNat, 0))
  | .tlbinvRange h a b n => some (h, [rG a, rG b], 3, fun c => ((c.rg a).extractLsb' 0 20, (c.rg b).toNat, n.toNat))
  | .tlbinvRetire h a => some (h, [rG a], 4, fun c => ((c.rg a).extractLsb' 0 20, 0, 0))
  | _ => none

/-- R319, R320: it is performed 60 cycles on; no TLB then holds a translation that matches, and every other stays; its reply
lands 340 cycles after that, where no walk is in flight, and its thread goes on past it. TLBINV.RETIRE also makes the
PASID's entry retired (STATE 2). -/
def Invalidates : Prop :=
  (∀ i h uses func args, invalidates i = some (h, uses, func, args) → ∀ s, Issues h uses s true → let (p, va, n) := args (s.ctx s.cur)
    ∃ t, exec i s = .next t ∧ Leaves ((s.newId.2.actAt (s.now + 60) (.tlbinv s.cur s.newId.1 (bytesOf h) func p va n)).setSt s.cur
      (.waiting (.event s.newId.1))) t) ∧
  (∀ (s : State) (u : Tid) (id size : Nat), (s.slot u).st = .waiting (.event id) → (s.ctx u).sstep = false →
    ∃ t, perform (.resume u id size []) s = .next t ∧ t.ctx u = { s.ctx u with pc := (s.ctx u).pc + BitVec.ofNat 64 size } ∧
      (t.slot u).st = .ready ∧ ∀ w, w ≠ u → t.ctx w = s.ctx w) ∧
  (∀ (s : State) (u : Tid) (id size : Nat) (p : BitVec 20) (va n : Nat), (s.team 0) = none → s.retired = [] →
    let a := s.pkg.ptbase.toNat + 16 * p.toNat + 8
    ∃ t, perform (.tlbinv u id size 4 p va n) s = .next t ∧ (t.physByte 0 a).toNat = (s.physByte 0 a).toNat % 64 + 128 ∧
      (∀ x, x ≠ a → t.physByte 0 x = s.physByte 0 x)) ∧
  (∀ (s : State) (u : Tid) (id size func : Nat) (p : BitVec 20) (va n : Nat), func < 4 → s.agenda = [] →
    let drops (e : Tlb) : Prop := match func with
      | 0 => True
      | 1 => e.pasid = p
      | 2 => e.pasid = p ∧ va / 2 ^ levelShift e.level = e.vpn
      | _ => e.pasid = p ∧ e.vpn * 2 ^ levelShift e.level < va + n ∧ va < (e.vpn + 1) * 2 ^ levelShift e.level
    ∃ t, perform (.tlbinv u id size func p va n) s = .next t ∧
      (∃ e ∈ t.agenda, e.due = s.now + 340 ∧ e.ev = .act (.resume u id size [])) ∧ (∀ k e, e ∈ (t.core k).tlb ↔ e ∈ (s.core k).tlb ∧ ¬ drops e) ∧
      (∀ c e, e ∈ (t.cluster c).tlb2 ↔ e ∈ (s.cluster c).tlb2 ∧ ¬ drops e) ∧ (∀ w, t.ctx w = s.ctx w) ∧ t.phys = s.phys)

/-- R154: without PRIV, a privileged instruction raises PRIV and does nothing else. -/
def privilegedForms (b : Src) (a d : Reg) (pn : BitVec 2) (n : W64) (r : SysReg) (h : Hdr) : List (Instr × List Use) :=
  [(.repart h b, rS b), (.ctxld h a, [rG a]), (.ctxst h a, [rG a]), (.tlbinvAll h, []), (.tlbinvPasid h a, [rG a]),
    (.tlbinvPage h a d, [rG a, rG d]), (.tlbinvRange h a d n, [rG a, rG d]), (.tlbinvRetire h a, [rG a]), (.rgld h pn a d, [rG a, rG d])]
    ++ (if r = .otpc then [] else [(.mts h r b, rS b)])

def NeedsPriv : Prop :=
  ∀ b a d pn n r h i uses, (i, uses) ∈ privilegedForms b a d pn n r h → ∀ s, (s.ctx s.cur).priv = false → s.verdict.1 = false →
    (rK h.guard :: uses).all (·.inRange (s.core s.cur.core).part) = true →
    ∃ t, exec i s = .next t ∧ Leaves (s.raiseLater s.cur { code := 4 }) t

/-- R62, R154, R177 to R180, R319: REPART, HALT, YIELD, CTXLD, CTXST and the five forms of TLBINV complete: every state in
which they pass the checks of their issue, and those of their rule, has a next state in which the current thread has
executed them: its pc is past REPART, HALT, YIELD, CTXLD and CTXST, and a TLBINV is on its way, with its thread waiting. -/
def SystemCompletes : Prop :=
  ∀ (h : Hdr) (a d : Reg) (b : Src) (n : W64) (s : State),
    let passed (i : Instr) : Prop := ∃ t, exec i s = .next t ∧ (t.ctx s.cur).pc = s.nextPc h ∧ (t.slot s.cur).elig = s.now + 16
    let leaves (i : Instr) : Prop := ∃ t id, exec i s = .next t ∧ (t.slot s.cur).st = .waiting (.event id) ∧
      (t.slot s.cur).elig = s.now + 16 ∧ ∃ e ∈ t.agenda, e.due = s.now + 60 ∧ ∃ func p va m, e.ev = .act (.tlbinv s.cur id (bytesOf h) func p va m)
    (Issues h (rS b) s true → s.cur.slot = 0 → ((s.ctx s.cur).rs b).extractLsb' 0 2 ≠ 3 → s.quiescent s.cur.core = true → passed (.repart h b)) ∧
    (Issues h [] s → h.len = .w64 → (s.ctx s.cur).paired = false → (s.ctx s.cur).mustWait 5 = false → s.battenHazard s.cur = false → passed (.halt h)) ∧
    (Issues h [] s → passed (.yield h)) ∧
    (∀ m : Nat, m = (((s.ctx s.cur).rg a).extractLsb' 0 4).toNat → m < slotCount (s.core s.cur.core).part →
      s.imageFault ⟨s.cur.core, m⟩ = none → Issues h [rG a] s true → (m = s.cur.slot → passed (.ctxld h a)) ∧ passed (.ctxst h a)) ∧
    (Issues h [] s true → leaves (.tlbinvAll h)) ∧ (Issues h [rG a] s true → leaves (.tlbinvPasid h a)) ∧
    (Issues h [rG a, rG d] s true → leaves (.tlbinvPage h a d)) ∧ (Issues h [rG a, rG d] s true → leaves (.tlbinvRange h a d n)) ∧
    (Issues h [rG a] s true → leaves (.tlbinvRetire h a))

end Sys2Proof.Claims

open Sys2Proof Sys2Proof.Machine Sys2Proof.Claims

/-- R154, R177 to R180, R273, R319, R320: REPART, HALT, YIELD, CTXLD, CTXST and TLBINV.
Where the rules admit more than one reading, it follows the model's choice of log entries 35 and 37. -/
def Obligations.SystemInstructions : Prop :=
  SystemCompletes ∧ Repartitions ∧ Halts ∧ Ends ∧ Offers ∧ ContextMoves ∧ ContextActs ∧ Invalidates ∧ NeedsPriv

namespace Sys2Proof.Claims

open Sys2Proof.Machine

/-- R349: a supervisor's action on a thread that is not frozen only sets ACTERR. -/
def Refused (i : Instr) (u : Tid) (s : State) : Prop :=
  ∃ t, exec i s = .next t ∧ t.slot u = { s.slot u with acterr := true } ∧ (∀ w, w ≠ u → t.slot w = s.slot w) ∧ t.agenda = s.agenda

/-- R349, R350: resume, kill, unwind and stop. -/
def Actions : Prop :=
  ∀ (s : State) (u : Tid), let x := s.slot u
    let word (j : Nat) : W64 := BitVec.ofNat 64 (s.imageRead u.core x.ctx (8 * j) 8)
    let others (t : State) : Prop := ∀ w, w ≠ u → t.ctx w = s.ctx w
    (x.st ≠ .frozen → Refused (.supervisorResume u) u s ∧ Refused (.supervisorKill u) u s ∧ Refused (.supervisorUnwind u) u s) ∧
    (x.st = .frozen →
      (∃ t, exec (.supervisorResume u) s = .next t ∧ (t.slot u).st = .ready ∧ (t.ctx u).pc = word 0 &&& ~~~3#64 ∧
        (t.ctx u).cdepth = (word 8).extractLsb' 0 3 ∧ (∀ l ∈ (t.core u.core).rlines, l.is u.slot = false) ∧ others t ∧
        (x.code = 21 → x.sub = 1 ∨ x.sub = 2 → (t.slot u).skipWatch = true)) ∧
      (∃ t, exec (.supervisorKill u) s = .next t ∧ (t.slot u).st = .waiting .quiet ∧
        (t.slot u).killing = some (if x.code = 13 then x.spkt.extractLsb' 384 6 else x.code)) ∧
      (x.ctx.cdepth = 0 → Refused (.supervisorUnwind u) u s) ∧
      (x.ctx.cdepth ≠ 0 → ∃ t f, exec (.supervisorUnwind u) s = .next t ∧ (t.slot u).st = .waiting .quiet ∧ (t.slot u).force = true ∧
        (t.slot u).unwinding = some (f, s.now) ∧ f.code = x.code ∧ f.sub = x.sub ∧ f.addr = x.spkt.extractLsb' 320 64 ∧
        t.ctx u = x.ctx ∧ others t)) ∧
    (x.st = .ready ∨ (∃ w, x.st = .waiting w) → ∃ t, exec (.supervisorStop u) s = .next t ∧ t.slot u = { x with stopping := true } ∧ others t) ∧
    (x.st = .empty ∨ x.st = .frozen → Refused (.supervisorStop u) u s) ∧
    ∃ t, exec (.acterrClear u) s = .next t ∧ t.slot u = { x with acterr := false } ∧ others t

/-- R351: the window into a core's local memory: 64 FULL bits, and a dword, of the page that LWIN names. -/
def Aperture : Prop :=
  ∀ (s : State) (k off : Nat) (v : W64), let n := (s.core k).lwin.toNat
    (11 < n → exec (.afullWrite k off v) s = .next s ∧ ∀ w, exec (.apertureAccess k off w) s = .next s) ∧
    (n ≤ 11 → 0x2000 ≤ off → off < 0x2100 → off % 8 = 0 → ∃ t, exec (.afullWrite k off v) s = .next t ∧
      (∀ g, (t.core k).empty.get false g = let first := n * 2048 + (off - 0x2000) * 8
        if first ≤ g ∧ g < first + 64 then !v.getLsbD (g - first) else (s.core k).empty.get false g) ∧
      (t.core k).mem = (s.core k).mem ∧ ∀ u, t.ctx u = s.ctx u) ∧
    (n ≤ 11 → 0x8000 ≤ off → let a := 0x8000 * n + (off - 0x8000)
      (∃ t, exec (.apertureAccess k off (some v)) s = .next t ∧ HoldsBytes (fun x => t.localRead k x 1) a 8 v.toNat ∧
        (∀ x, ¬ (a ≤ x ∧ x < a + 8) → t.localRead k x 1 = s.localRead k x 1) ∧ (t.core k).empty = (s.core k).empty ∧ ∀ u, t.ctx u = s.ctx u) ∧
      (∃ t, exec (.apertureAccess k off none) s = .next t ∧ (t.core k).mem = (s.core k).mem ∧ (t.core k).empty = (s.core k).empty ∧
        ∀ u, t.ctx u = s.ctx u))

end Sys2Proof.Claims

open Sys2Proof Sys2Proof.Machine Sys2Proof.Claims

/-- R349 to R351: what a supervisor does to a thread, and its aperture. -/
def Sys2Proof.Claims.Supervisor : Prop := Actions ∧ Aperture

/-- R346, R348, R365, R366: a packet that is due enters the ring of its supervisor's core, whose 64 bytes must be EMPTY and
become FULL, and FTAIL rises; a packet of a firmware core's thread enters the host's event queue while it has room; a host
write of EVQCTL takes HEAD, IRQ and EN, and LOGN only while the queue is off. -/
def Sys2Proof.Claims.Packets : Prop :=
  ∀ (s : State) (k : Nat) (p : Packet), (s.core k).pkts = [p] → p.due ≤ s.now →
    (let to_ := p.dest.toNat % 2048
     let c := s.core to_
     let a := 64 * c.fbase.toNat + 64 * (c.ftail.toNat % 2 ^ c.flogn.toNat)
     (s.core k).kind ≠ .firmware ∨ p.slot = none → p.dest.toNat / 2048 % 256 = s.pkg.pkgid.toNat → c.fen = true →
      (∀ g, a / 16 ≤ g → g < a / 16 + 4 → c.empty.get false g = true) → ∃ t, exec (.packetDelivery k) s = .next t ∧ (t.core k).pkts = [] ∧
        HoldsBytes (fun x => t.localRead to_ x 1) a 64 p.bits.toNat ∧
        (∀ x, ¬ (a ≤ x ∧ x < a + 64) → t.localRead to_ x 1 = s.localRead to_ x 1) ∧ (t.core to_).ftail = c.ftail + 1 ∧
        (∀ g, a / 16 ≤ g → g < a / 16 + 4 → (t.core to_).empty.get false g = false) ∧ ∀ u, t.ctx u = s.ctx u) ∧
    ((s.core k).kind = .firmware → p.slot ≠ none → s.pkg.en = true → (s.pkg.tail - s.pkg.head).toNat < 2 ^ s.pkg.logn.toNat →
      let a := s.pkg.evqbase.toNat + 64 * (s.pkg.tail.toNat % 2 ^ s.pkg.logn.toNat)
      ∃ t, exec (.eventQueueWrite k) s = .next t ∧ (t.core k).pkts = [] ∧ HoldsBytes (fun x => peek t.hostMem x 1) a 64 p.bits.toNat ∧
        (∀ x, ¬ (a ≤ x ∧ x < a + 64) → peek t.hostMem x 1 = peek s.hostMem x 1) ∧ t.pkg.tail = s.pkg.tail + 1 ∧
        t.pkg.irqs = s.pkg.irqs + (if s.pkg.irq then 1 else 0) ∧ (∀ u, t.ctx u = s.ctx u) ∧ t.phys = s.phys) ∧
    (∀ v : W64, ∃ t, exec (.evqctlWrite v) s = .next t ∧ t.pkg.head = v.extractLsb' 32 16 ∧ t.pkg.en = v.getLsbD 0 ∧
      t.pkg.irq = v.getLsbD 1 ∧ t.pkg.tail = (if v.getLsbD 0 then s.pkg.tail else v.extractLsb' 32 16) ∧
      t.pkg.logn.toNat = (if s.pkg.en then s.pkg.logn.toNat else max 6 (min 14 (v.extractLsb' 2 4).toNat)) ∧ t.cores = s.cores ∧ t.phys = s.phys)

/-- R171, R172, R361: a margin window of a powered core ends: WREP and WSTEP are 0, RUN is 0 after a clean window, and LEVEL
falls by 1 after DNW clean ones; SETTLE ends 1200 cycles after its change. A core enters gating when nothing has kept it
busy for 4096 cycles, is gated 64 cycles on unless a wake has come, and leaves it 2400 cycles after a wake. -/
def Sys2Proof.Claims.MarginAndGating : Prop :=
  ∀ (s : State) (k : Nat), let c := s.core k
    let same (t : State) : Prop := (∀ u, t.ctx u = s.ctx u) ∧ t.phys = s.phys ∧ ∀ j, j ≠ k → t.core j = s.core j
    (c.gate = .powered → c.kind ≠ .withheld → s.heldBack k = false →
      (c.rpl.toNat < c.wrep.toNat → ∃ t, exec (.windowEnd k) s = .next t ∧ same t ∧ (t.core k).wrep = 0 ∧ (t.core k).wstep = 0 ∧
        (t.core k).level = c.level ∧ (t.core k).run = c.run ∧ (t.core k).winStart = s.now) ∧
      (c.wrep.toNat ≤ c.rpl.toNat → ∃ t, exec (.windowEnd k) s = .next t ∧ same t ∧ (t.core k).wrep = 0 ∧ (t.core k).wstep = 0 ∧
        (t.core k).run = 0 ∧ (t.core k).winStart = s.now ∧ let n := min 15 (c.clean.toNat + 1)
        if c.dnw ≠ 0 ∧ c.dnw.toNat ≤ n ∧ c.menv.toNat % 16 < c.level.toNat then
          (t.core k).level.toNat = c.level.toNat - 1 ∧ (t.core k).clean = 0 ∧ (t.core k).settle = true ∧ (t.core k).settleAt = s.now + 1200
        else (t.core k).level = c.level ∧ (t.core k).clean.toNat = n)) ∧
    (c.settle = true → c.settleAt ≤ s.now → ∃ t, exec (.settleEnd k) s = .next t ∧ same t ∧ t.core k = { c with settle := false }) ∧
    (c.gate = .powered → s.power.state = 1 ∨ s.power.state = 2 → c.quietNow = true → c.busyAt + 4096 ≤ s.now →
      ∃ t, exec (.gatingEntry k) s = .next t ∧ same t ∧ (t.core k).gate = .entering s.now false ∧
        ∃ e ∈ t.agenda, e.due = s.now + 63 ∧ e.ev = .act (.gatingEnd k)) ∧
    (∀ since latch, c.gate = .entering since latch → since + 63 ≤ s.now → ∃ t, exec (.gatingEntry k) s = .next t ∧ same t ∧
      (t.core k).gate = if latch then .powered else .gated) ∧
    (∀ since latch, c.gate = .entering since latch → ∃ t, exec (.gatingWake k) s = .next t ∧ same t ∧
      t.core k = { c with gate := .entering since true }) ∧
    (c.gate = .gated → ∃ t, exec (.gatingWake k) s = .next t ∧ same t ∧ t.core k = { c with gate := .leaving s.now }) ∧
    (∀ since, c.gate = .leaving since → since + 2400 ≤ s.now → ∃ t, exec (.gatingExit k) s = .next t ∧ same t ∧
      t.core k = { c with gate := .powered, winStart := s.now, wrep := 0, wstep := 0, busyAt := s.now })

/-- R192, R313, R321, R334, R369: slot clocks tick, or slip while they are paused or a scheduled flit is absent; a retry on a
link pauses them; the throttle moves the core clock by 50 MHz between 600 and 1200 and pauses every clock for 64 cycles;
the slate refreshes for 64 of 16384 cycles; a format range takes its pending value once no team of its region is placed. -/
def Sys2Proof.Claims.ClocksAndFormats : Prop :=
  (∀ (s : State) (n : Nat), let m := s.meshes.get {} n
    (m.formed = true → m.ticked ≠ s.now + 1 →
      (m.pause = 0 → s.slotAbsent n m = false → ∃ t, exec (.slotClockTick n) s = .next t ∧
        t.meshes.get {} n = { m with clock := m.clock + 1, ticked := s.now + 1 } ∧ ∀ j, j ≠ n → t.meshes.get {} j = s.meshes.get {} j) ∧
      (0 < m.pause ∨ s.slotAbsent n m = true → ∃ t, exec (.slotClockTick n) s = .next t ∧
        t.meshes.get {} n = { m with slip := m.slip + 1, pause := m.pause - 1, ticked := s.now + 1 } ∧
        ∀ j, j ≠ n → t.meshes.get {} j = s.meshes.get {} j)) ∧
    (m.formed = true → n ≠ 0 → ∃ t, exec (.meshLinkRetry n) s = .next t ∧ t.meshes.get {} n = { m with pause := max m.pause 1 } ∧
      t.cores = s.cores ∧ t.agenda = s.agenda)) ∧
  (∀ (s : State), s.power.state.toNat < 2 → s.reduced = false → (s.meshes.map (·.1)).Pairwise (· < ·) →
    let moved (t : State) (mhz : Nat) : Prop := t.power = { s.power with mhz := mhz } ∧ t.cores = s.cores ∧ t.phys = s.phys ∧ (mhz ≠ s.power.mhz → ∀ n, (s.meshes.get {} n).formed = true →
        t.meshes.get {} n = { s.meshes.get {} n with pause := max (s.meshes.get {} n).pause 64 })
    (∃ t, exec .throttleDown s = .next t ∧ moved t (max 600 (s.power.mhz - 50))) ∧
    ∃ t, exec .throttleUp s = .next t ∧ moved t (min 1200 (s.power.mhz + 50))) ∧
  (∀ (s : State) (d : Nat), ∃ t, exec (.slateRefresh d) s = .next t ∧ t.die d = { s.die d with refresh := s.now + 64 } ∧
    (∃ e ∈ t.agenda, e.due = s.now + 16384 ∧ e.ev = .run (.slateRefresh d)) ∧ t.cores = s.cores ∧ t.phys = s.phys) ∧
  (∀ (s : State) (d ctl reg : Nat) (v : BitVec 256), let key := ctl * 8 + reg
    let old := (s.die d).fmts.get {} key
    let rcb : Nat := if old.valid then old.owner.toNat else (v.extractLsb' 210 46).toNat
    (∃ t, exec (.formatRangeWrite d ctl reg v) s = .next t ∧ (t.die d).fmts.get {} key = { old with pend := some v } ∧
      (∀ j, j ≠ key → (t.die d).fmts.get {} j = (s.die d).fmts.get {} j) ∧ t.cores = s.cores ∧ t.phys = s.phys) ∧
    (old.pend = some v → s.regionPlaced rcb = true → exec (.formatRangeApply d ctl reg) s = .next s) ∧
    (old.pend = some v → s.regionPlaced rcb = false → v.getLsbD 184 = false → ∃ t r, exec (.formatRangeApply d ctl reg) s = .next t ∧
      (t.die d).fmts.get {} key = r ∧ r.valid = false ∧ r.owner = v.extractLsb' 210 46 ∧ r.count = v.extractLsb' 186 24 ∧
      r.win = v.extractLsb' 64 64 ∧ r.src = v.extractLsb' 0 64 ∧ r.pend = none ∧ r.bad = false) ∧
    (old.pend = some v → s.regionPlaced rcb = false → v.getLsbD 184 = true →
      (v.extractLsb' 186 24 = 0 → (∀ j, j < 8 → ((s.die d).fmts.get {} (key / 8 * 8 + j)).valid = false) → ∃ t r,
        exec (.formatRangeApply d ctl reg) s = .next t ∧ (t.die d).fmts.get {} key = r ∧ r.valid = true ∧ r.pend = none ∧ r.bad = false ∧
        r.owner = v.extractLsb' 210 46)))

/-- R346 to R351, R365, R366: packets, and what a supervisor does.
Where the rules admit more than one reading, it follows the model's choice of log entries 10 and 45. -/
def Obligations.SupervisorAndPackets : Prop :=
  Supervisor ∧ Packets

/-- R171, R172, R192, R313, R321, R334, R361, R369: what passes by itself with the cycles.
Where the rules admit more than one reading, it follows the model's choice of log entries 12, 42 and 43. -/
def Obligations.MarginAndClocks : Prop :=
  MarginAndGating ∧ ClocksAndFormats

namespace Sys2Proof.Claims

open Sys2Proof.Machine

/-- Shadow bytes reach physical memory where no page is mapped elsewhere and no team has the number 0 (R271). -/
def plainPages (s : State) : Prop := s.retired = [] ∧ s.team 0 = none

/-- R354, R355: an entry that has waited 65 536 cycles unmatched raises MISMATCH (1) at both threads: their entries go, and
the fault comes first at their next issue, with the leader's address. -/
def Timeout : Prop :=
  ∀ (s : State) (u : Tid) (e : Cmp) (l : List Cmp), (s.slot u).cmp = e :: l → e.cycle + 65536 ≤ s.now → ∃ t,
    exec (.mismatchTimeout u) s = .next t ∧
    (∀ w, w = leadOf u ∨ w = partner (leadOf u) → (t.slot w).cmp = [] ∧ (t.slot w).deferred =
      { code := 18, sub := 1, addr := if (s.ctx u).trail then 0 else e.addr } :: (s.slot w).deferred) ∧
    (∀ w, w ≠ leadOf u → w ≠ partner (leadOf u) → t.slot w = s.slot w) ∧ (∀ w, t.ctx w = s.ctx w) ∧ t.phys = s.phys

/-- R220, R356: the signatures of a dual-die launch. Equal: the first team's shadow bytes are committed in one step, and no
other byte changes. Different: no byte changes, CVAL's top bit is inverted, and a packet of kind 7 is sent. Either way both
teams' shadow pages are gone. -/
def Signatures : Prop :=
  ∀ (s : State) (n : Nat) (a b : Team) (p : BitVec 16), plainPages s → s.teams.get none n = some a → a.partner = some p → p.toNat ≠ n →
    n < 65536 → s.teams.get none p.toNat = some b → a.second = false → a.done = true → b.done = true → Sparse.wf none a.shadow = true →
    let gone (t : State) (cval : W64) : Prop := (∀ x, t.teams.get none n = some x → x.shadow = [] ∧ x.partner = none ∧ x.cval = cval) ∧
      (t.teams.get none n).isSome = true ∧ (t.teams.get none p.toNat) = some { b with shadow := [], partner := none }
    (a.signature = b.signature → ∃ t, exec (.signatureCompare n) s = .next t ∧ gone t a.cval ∧
      ∀ pa, t.phys.get 0 pa = (a.shadow.get none pa).getD (s.phys.get 0 pa)) ∧
    (a.signature ≠ b.signature → ∃ t, exec (.signatureCompare n) s = .next t ∧ gone t (a.cval ^^^ BitVec.twoPow 64 63) ∧ t.phys = s.phys ∧
      let k := s.firmwareCore 0
      (((s.core k).pkts.filter (·.slot.isNone)).length < 4 →
        ∃ x, (t.core k).pkts = (s.core k).pkts ++ [x] ∧ x.bits.extractLsb' 24 8 = 7 ∧ x.dest = a.region.supv ∧
          x.bits.extractLsb' 384 64 = BitVec.ofNat 64 (leWord (a.signature.take 4) + 2 ^ 32 * leWord (b.signature.take 4))))

/-- R195: a soft error marks the 64-bit unit that it strikes, and no other: correctable in a clean unit, or uncorrectable.
One in an L1 strikes a line that the L1 holds. -/
def SoftErrors : Prop :=
  ∀ (s : State) (c : Bool),
    let struck (e e' : Sparse Err) (key : Nat) : Prop := (∀ x, x ≠ key → e'.get .clean x = e.get .clean x) ∧
      e'.get .clean key = if c then (if e.get .clean key = .clean then .correctable else e.get .clean key) else .uncorrectable
    (∀ k a, k < 1152 → a < 0x60000 → ∃ t, exec (.softError (.local k a) c) s = .next t ∧
      t = { s with localErrs := t.localErrs } ∧ struck s.localErrs t.localErrs (localErrBase k + a / 8)) ∧
    (∀ cl a, cl < 144 → a < 0x400000 → ∃ t, exec (.softError (.cstore cl a) c) s = .next t ∧
      t = { s with storeErrs := t.storeErrs } ∧ struck s.storeErrs t.storeErrs (storeErrBase cl + a / 8)) ∧
    (∀ pa, (s.place pa).coded = true → ∃ t, exec (.softError (.phys pa) c) s = .next t ∧
      t = { s with errs := t.errs, poison := t.poison } ∧ struck s.errs t.errs (s.mapped pa / 8) ∧
      ∀ x, x ∈ t.poison ↔ x ∈ s.poison ∧ x ≠ s.mapped pa / 8) ∧
    (∀ k pa, k < 1152 → (∃ y ∈ (s.core k).l1, y.tag = pa / 64) → ∃ t, exec (.softError (.l1 k pa) c) s = .next t ∧
      t = { s with l1Errs := t.l1Errs } ∧ struck s.l1Errs t.l1Errs (l1ErrBase k + pa / 8))

/-- R357: an uncorrectable error in a dirty line: its units are poisoned; its way is given up, and the way's lines leave the
slice, but for another dirty one with an error, which is dealt with in the same way by its own owner tag; its owner's kill
is on its way, and its page is to be copied. -/
def DirtyLine : Prop :=
  ∀ (s : State) (line : Nat) (l : SLine), let pa := line % 2 ^ 46 * 64
    let cl := s.home pa
    let held := (s.cluster cl).slice
    let taken (k : Nat) (y : SLine) : Prop := (k, some y) ∈ held ∧ (k = line ∨ y.way = l.way)
    let bad (k : Nat) (y : SLine) : Prop := k ≠ line ∧ y.dirty = true ∧ s.freshErr (k % 2 ^ 46 * 64) 64 = true
    let goes (k : Nat) : Prop := (∃ y, taken k y) ∧ ∀ y, taken k y → ¬ bad k y
    held.get none line = some l → l.dirty = true → ∃ t, exec (.dirtyLineUe line) s = .next t ∧
      (∀ j, j < 8 → t.errs.get .clean (s.mapped pa / 8 + j) = .uncorrectable) ∧
      (∀ x, ¬ (s.mapped pa / 8 ≤ x ∧ x < s.mapped pa / 8 + 8) → t.errs.get .clean x = s.errs.get .clean x) ∧
      (∀ j, j < 8 → s.mapped pa / 8 + j ∈ t.poison) ∧
      goes line ∧ (∀ k, goes k → (t.cluster cl).slice.get none k = none) ∧ (∀ k, ¬ goes k → (t.cluster cl).slice.get none k = held.get none k) ∧
      (∀ k y, taken k y → bad k y → ∃ e ∈ t.agenda, e.ev = .act (.dirtyLineUe k) ∧ e.due = s.now) ∧
      l.way ∈ (t.cluster cl).badWays ∧ t.phys = s.phys ∧ (∀ w, t.ctx w = s.ctx w) ∧
      (l.opkg = s.pkg.pkgid → ∃ e ∈ t.agenda, e.ev = .act (.ownerKill ⟨l.ocore.toNat, l.oslot.toNat⟩ l.obind) ∧
        e.due = s.now + (if dieOf l.ocore.toNat = dieOfCluster cl then 60 else 80)) ∧
      (pa / 65536 ∉ (s.cluster cl).heldPages → ∃ e ∈ t.agenda, e.ev = .act (.sparePageCopy (pa / 65536)) ∧ e.due = s.now)

/-- R357: a slice that is asked to retire a page holds its accesses; the page's lines become clean, but for those with an
uncorrectable error, dealt with as above; other lines stay. -/
def RetirePage : Prop :=
  ∀ (s : State) (cl page : Nat), ∃ t, exec (.pageRetireRequest cl page) s = .next t ∧ page ∈ (t.cluster cl).heldPages ∧ t.phys = s.phys ∧
    (∀ k, linePage k ≠ page → (t.cluster cl).slice.get none k = (s.cluster cl).slice.get none k) ∧
    (∀ k, linePage k = page → s.freshErr (k % 2 ^ 46 * 64) 64 = false →
      (t.cluster cl).slice.get none k = ((s.cluster cl).slice.get none k).map fun (y : SLine) => { y with dirty := false }) ∧
    (∀ k l, linePage k = page → s.freshErr (k % 2 ^ 46 * 64) 64 = true → (s.cluster cl).slice.get none k = some l → l.dirty = true →
      ∃ e ∈ t.agenda, e.ev = .act (.dirtyLineUe k))

/-- R357: the page's bytes are in a spare, which the page's address now reaches, and one spare fewer is left; without a
spare the page is retired. Its accesses are held no more. -/
def SparePage : Prop :=
  ∀ (s : State) (page : Nat), Memory.wf s.phys = true → ∃ t, exec (.sparePageCopy page) s = .next t ∧ (∀ w, t.ctx w = s.ctx w) ∧
    (∀ h, h ∈ s.pageHomes page → page ∉ (t.cluster h).heldPages) ∧
    (s.pkg.spares = 0 → t.retired.get 0 page = 1 ∧ t.phys = s.phys ∧ t.pkg = s.pkg) ∧
    (s.pkg.spares ≠ 0 → t.retired.get 0 page = 2 + s.pkg.spareAt.toNat / 65536 ∧ t.pkg.spares = s.pkg.spares - 1 ∧
      (∀ o, o < 65536 → t.phys.get 0 (s.pkg.spareAt.toNat + o) = s.phys.get 0 (s.mapped (page * 65536) + o)) ∧
      ∀ x, ¬ (s.pkg.spareAt.toNat ≤ x ∧ x < s.pkg.spareAt.toNat + 65536) → t.phys.get 0 x = s.phys.get 0 x)

/-- R357: the kill of a line's owner: of the thread that its binding record names while it holds the slot, with UE (2), whose
packet waits while the slot's place is taken (R348); none where the record has ended; and a parked task's entry is
abandoned. -/
def OwnerKills : Prop :=
  ∀ (s : State) (u : Tid) (bind : BitVec 12), let v := s.physRead 0 (s.bindingAddr u bind) 32
    let ref : BitVec 26 := BitVec.ofNat 26 (v / 2 ^ 192)
    (v / 2 ^ 129 % 2 = 1 → exec (.ownerKill u bind) s = .next s) ∧
    (v / 2 ^ 129 % 2 = 0 → (s.slot u).st ≠ .empty → (s.slot u).bind = bind → (s.slot u).killing = none →
      ∃ t, exec (.ownerKill u bind) s = .next t ∧ (t.slot u).st = .waiting .quiet ∧ (t.slot u).killing = some 9 ∧
        (s.placeFree u = true → (t.slot u).code = 9 ∧ (t.slot u).sub = 2) ∧
        (s.placeFree u = false → ∃ f, (t.slot u).raising = some f ∧ f.code = 9 ∧ f.sub = 2) ∧ t.phys = s.phys) ∧
    (v / 2 ^ 129 % 2 = 0 → ¬ ((s.slot u).st ≠ .empty ∧ (s.slot u).bind = bind) → (s.park ref).pst = 2 →
      ∃ t, exec (.ownerKill u bind) s = .next t ∧ (t.park ref).pst = 5 ∧ t.phys = s.phys)

/-- R357, R358: a binding sweep: every dirty line of the slot whose binding number lies in the half that begins is written
back, but for one with an uncorrectable error, which is dealt with by its owner tag. -/
def Sweeps : Prop :=
  ∀ (s : State) (u : Tid), let low := (s.slot u).bind.toNat + 1 ≠ 2048
    let mine (l : SLine) : Prop := l.dirty = true ∧ l.opkg = s.pkg.pkgid ∧ l.ocore.toNat = u.core ∧ l.oslot.toNat = u.slot ∧ (l.obind.toNat < 2048 ↔ low)
    ∃ t, exec (.bindingSweep u) s = .next t ∧ t.cores = s.cores ∧ t.phys = s.phys ∧ t.errs = s.errs ∧
      ∀ cl k, ((s.cluster cl).slice.get none k = none → (t.cluster cl).slice.get none k = none) ∧
        ∀ l, (s.cluster cl).slice.get none k = some l →
          (mine l → s.freshErr (k % 2 ^ 46 * 64) 64 = false → (t.cluster cl).slice.get none k = some { l with dirty := false }) ∧
          (mine l → s.freshErr (k % 2 ^ 46 * 64) 64 = true → (t.cluster cl).slice.get none k = some l ∧
            ((cl, s.cluster cl) ∈ s.clusters → (k, some l) ∈ (s.cluster cl).slice → ∃ e ∈ t.agenda, e.ev = .act (.dirtyLineUe k) ∧ e.due = s.now)) ∧
          (¬ mine l → (t.cluster cl).slice.get none k = some l)

end Sys2Proof.Claims

open Sys2Proof Sys2Proof.Machine Sys2Proof.Claims

/-- R195, R220, R354 to R358: mismatches, errors, and what follows them. The core that sends a packet of kind 7 is the
model's choice (log entry 10).
Where the rules admit more than one reading, it follows the model's choice of log entries 46, 47 and 48. -/
def Obligations.PairsAndErrors : Prop :=
  Timeout ∧ Signatures ∧ SoftErrors ∧ DirtyLine ∧ RetirePage ∧ SparePage ∧ OwnerKills ∧ Sweeps

namespace Sys2Proof.Claims

open Sys2Proof.Machine

/-- A dword of memory that a store of the host reaches, and nothing else: plain memory, its page in its own place, without
a directory line, and no team with the number 0 (R271). -/
structure PlainWord (s : State) (pa : Nat) : Prop where
  aligned : pa % 8 = 0
  memory  : (∃ k, s.place pa = .hbm k) ∨ (∃ k, s.place pa = .tier k) ∨ ∃ k, s.place pa = .cxl k
  inPlace : s.retired.get 0 (pa / 65536) = 0
  noLine  : s.slineAt 0 pa = none
  noTeam  : s.team 0 = none

/-- What a host's store of a dword leaves: its 8 bytes, and all other bytes as they were. -/
def Stored (s t : State) (pa : Nat) (v : W64) : Prop :=
  HoldsBytes (fun x => t.physRead 0 x 1) pa 8 v.toNat ∧ ∀ x, ¬ (pa ≤ x ∧ x < pa + 8) → t.phys.get 0 x = s.phys.get 0 x

/-- R257: a doorbell is ignored by a queue that is off or in reset; else it takes TAIL and the time, sets ERR to 4 when the
ring would overflow, and maps an unmapped queue to the lowest free slot. -/
def Doorbells : Prop :=
  ∀ (s : State) (q : Nat) (v : W64), let x := s.hq.get {} q
    (x.en = false ∨ x.rst = true → exec (.doorbell q v) s = .next s) ∧
    (x.en = true → x.rst = false → ∃ t, exec (.doorbell q v) s = .next t ∧ t.cores = s.cores ∧ t.phys = s.phys ∧ let y := t.hq.get {} q
      y.tail = v.extractLsb' 0 17 ∧ y.lastsig.toNat = s.usec % 2 ^ 47 ∧ y.head = x.head ∧ y.ring = x.ring ∧
      y.err = (if 2 ^ x.logn.toNat < (v.extractLsb' 0 17 - x.head).toNat then 4 else x.err) ∧
      (x.mapped = true → y.mapped = true ∧ y.slot = x.slot) ∧
      (∀ k, x.mapped = false → q ∉ s.hqWait → k < 512 → let free (j : Nat) : Bool := s.hq.all fun z => !(z.2.mapped && z.2.slot.toNat == j)
        free k = true → (∀ j, j < k → free j = false) → y.mapped = true ∧ y.slot.toNat = k))

/-- R257, R258: a quiet queue whose last signal is too old is unmapped; a mapped queue takes the ring entry at HEAD and
starts its command, in the ring's order: an unknown kind sets ERR to 1, and a ring that cannot be read to 3. -/
def Rings : Prop :=
  ∀ (s : State) (q : Nat), let x := s.hq.get {} q
    (x.mapped = true → x.rst = false → x.head = x.tail → (∀ c ∈ s.hqRun, c.queue ≠ q) → x.lastsig.toNat + x.idle.toNat < s.usec →
      ∃ t, exec (.queueIdleUnmap q) s = .next t ∧ t.hq.get {} q = { x with mapped := false } ∧ ∀ j, j ≠ q → t.hq.get {} j = s.hq.get {} j) ∧
    (s.usec ≤ x.lastsig.toNat + x.idle.toNat → exec (.queueIdleUnmap q) s = .next s) ∧
    let pa := x.ring.toNat + 64 * (x.head.toNat % 2 ^ x.logn.toNat)
    let entry := s.physRead 0 pa 64
    let kind := entry % 256
    let ready : Prop := x.mapped = true ∧ x.head ≠ x.tail ∧ x.err = 0 ∧ x.rst = false ∧
      (s.physRead 0 (pa + 1) 1 % 2 = 0 ∨ ∀ c ∈ s.hqRun, c.queue ≠ q)
    let readable : Prop := s.place pa ≠ .none ∧ s.isRetired pa = false ∧ s.errAt pa 64 ≠ .uncorrectable
    (x.mapped = false ∨ x.head = x.tail ∨ x.err ≠ 0 ∨ x.rst = true → exec (.ringFetch q) s = .next s) ∧
    (ready → ¬ readable → ∃ t, exec (.ringFetch q) s = .next t ∧ t.hq.get {} q = { x with err := 3 } ∧ t.hqRun = s.hqRun) ∧
    (ready → readable → (kind ≤ 3 ∨ 0x10 ≤ kind ∧ kind ≤ 0x19) → ∃ t, exec (.ringFetch q) s = .next t ∧
      t.hq.get {} q = { x with head := x.head + 1 } ∧ (∃ e ∈ t.agenda, e.ev = .act (.command q x.head.toNat kind) ∧ e.due = s.now) ∧
      t.hqRun = s.hqRun ++ [{ queue := q, index := x.head.toNat, entry := BitVec.ofNat 512 entry, kind := BitVec.ofNat 8 kind, at_ := s.usec }]) ∧
    (ready → readable → ¬ (kind ≤ 3 ∨ 0x10 ≤ kind ∧ kind ≤ 0x19) → ∃ t, exec (.ringFetch q) s = .next t ∧
      t.hq.get {} q = { x with head := x.head + 1, err := 1 } ∧ t.hqRun = s.hqRun)

/-- R258: NOP completes; SIGNAL stores CVAL at the word of CADDR once every earlier command of its queue has completed;
WAITMEM reads its word, and completes when a read lands that has found the word at or above CVAL; after any other it reads
again in the next microsecond. -/
def PlainCommands : Prop :=
  ∀ (s : State) (q idx : Nat), let finished (t : State) : Prop := t.hqRun = s.hqRun.filter fun c => !(c.queue == q && c.index == idx)
    (∃ t, exec (.hostNop q idx) s = .next t ∧ finished t ∧ t.phys = s.phys ∧ t.cores = s.cores) ∧
    ∀ c, s.hostCmd q idx = some c → let pa := c.caddr / 8 * 8
      PlainWord s pa →
      (s.firstCmd q idx = true → ∃ t, exec (.signal q idx) s = .next t ∧ finished t ∧ Stored s t pa c.cval ∧ t.cores = s.cores) ∧
      (s.firstCmd q idx = false → exec (.signal q idx) s = .next s) ∧
      let becomes (t : State) (f : HCmd → HCmd) : Prop := t.hqRun = s.hqRun.map fun x => if x.queue = q ∧ x.index = idx then f x else x
      let reads (t : State) : Prop := t = { s with hqRun := t.hqRun } ∧ ∃ n, s.now + 60 ≤ n ∧
        (s.slineAt 0 pa = none → n = s.now + 60 + s.far 0 pa + s.fillTime pa) ∧ becomes t fun x => { x with at_ := s.usec, reads := some n }
      (∃ t, exec (.waitmem q idx) s = .next t ∧ reads t) ∧
      (c.kind = 3 → c.lands = none → c.reads = none → c.at_ < s.usec → ∃ t, exec (.waitmemPoll q idx) s = .next t ∧ reads t) ∧
      (∀ n, c.kind = 3 → c.lands = none → c.reads = some n → n ≤ s.now → s.errAt pa 8 ≠ .uncorrectable →
        ∃ t, exec (.waitmemPoll q idx) s = .next t ∧ t.phys = s.phys ∧ t.cores = s.cores ∧ becomes t fun x => { x with
          reads := none
          lands := if c.cval.toNat ≤ ((s.fillSline 0 pa).correct pa 8).loadBytes 0 pa 8 then some (s.now + 60 + s.far 0 pa) else none }) ∧
      (∀ n, c.kind = 3 → c.lands = some n → n ≤ s.now → ∃ t, exec (.waitmemPoll q idx) s = .next t ∧ finished t ∧ t.phys = s.phys) ∧
      (c.pollDue s = false → exec (.waitmemPoll q idx) s = .next s)

/-- R258, R260: a launch that is not accepted sets ERR to 2 and ends; an accepted one is a pending team, or two of a dual-die
region, with N cores and Q contexts a core; a wrong Q, mode or image address is not accepted. -/
def Launches : Prop :=
  ∀ (s : State) (q idx : Nat) (c : HCmd), s.hostCmd q idx = some c →
    (s.launchTeam c = none → ∃ t, exec (.launch q idx) s = .next t ∧ (t.hq.get {} q).err = 2 ∧ t.teams = s.teams ∧
      t.hqRun = s.hqRun.filter fun c => !(c.queue == q && c.index == idx)) ∧
    (∀ x n, s.launchTeam c = some x → x.region.rmode ≠ 2 → 1 ≤ n → n ≤ 65535 → s.teams.get none n = none →
      (∀ m, 1 ≤ m → m < n → s.teams.get none m ≠ none) → ∃ t, exec (.launch q idx) s = .next t ∧ t = { s with teams := t.teams } ∧
        t.teams.get none n = some x ∧ (∀ m, m ≠ n → t.teams.get none m = s.teams.get none m) ∧ x.st = .pending ∧
        x.n = c.entry.toNat / 2 ^ 24 % 2 ^ 11 + 1 ∧ x.quota = c.entry.toNat / 2 ^ 16 % 256 ∧ x.entered = s.now ∧
        x.caddr = c.entry.extractLsb' 256 64 ∧ x.cval = c.entry.extractLsb' 320 64 ∧ x.arg = c.entry.extractLsb' 192 64) ∧
    (∀ x a b, s.launchTeam c = some x → x.region.rmode = 2 → 1 ≤ a → a < b → b ≤ 65535 → s.teams.get none a = none → s.teams.get none b = none →
      (∀ m, 1 ≤ m → m < b → m ≠ a → s.teams.get none m ≠ none) → ∃ t, exec (.launch q idx) s = .next t ∧ t = { s with teams := t.teams } ∧
        t.teams.get none a = some { x with partner := some (BitVec.ofNat 16 b) } ∧
        t.teams.get none b = some { x with partner := some (BitVec.ofNat 16 a), second := true }) ∧
    (c.entry.toNat / 2 ^ 16 % 256 = 0 ∨ 16 < c.entry.toNat / 2 ^ 16 % 256 ∨ c.entry.toNat / 2 ^ 10 % 4 = 3 ∨
      c.entry.toNat / 2 ^ 128 % 64 ≠ 0 → s.launchTeam c = none)

/-- R259: the reset of a queue that has no team left: HEAD = TAIL, and the queue is unmapped and off, with RSTDONE set. -/
def Resets : Prop :=
  ∀ (s : State) (q : Nat), let x := s.hq.get {} q
    (x.rst = false → exec (.queueReset q) s = .next s) ∧
    (x.rst = true → (∀ y ∈ s.teams, ∀ u, y.2 = some u → u.queue ≠ q) → ∃ t, exec (.queueReset q) s = .next t ∧ t.cores = s.cores ∧
      t.hq.get {} q = { x with head := x.tail, mapped := false, en := false, rst := false, rstdone := true } ∧ q ∉ t.hqWait ∧
      t.hqRun = s.hqRun.filter fun c => !(c.queue == q && decide (c.kind.toNat < 4)))

/-- R363, R364: a host write of a dword of memory; of HWIN, the event queue's base, a slot table and LWIN; and the read-only
TMEM, which keeps its value. A write through BAR0 reaches device space at its offset, and one through BAR2 the window that
HWIN places; how an address names its BAR is the model's choice (log entry 62). -/
def HostWrites : Prop :=
  ∀ (s : State) (v : W64),
    (∀ a, PlainWord s (a / 8 * 8) → ∃ t, exec (.hostRegisterWrite a v) s = .next t ∧ Stored s t (a / 8 * 8) v ∧ t.cores = s.cores) ∧
    (∃ t, exec (.hostRegisterWrite 0xF0000000008 v) s = .next t ∧ t = { s with pkg := { s.pkg with hwin := v.extractLsb' 32 20 } }) ∧
    (∃ t, exec (.hostRegisterWrite 0xF0000001000 v) s = .next t ∧
      t = if s.pkg.en then s else { s with pkg := { s.pkg with evqbase := v &&& ~~~63#64 } }) ∧
    (∀ d c p j, d < 4 → c < 36 → p < 5 → j < 32 → ∃ t,
      exec (.hostRegisterWrite (0xF0080010000 + d * 0x1000000 + c * 0x800 + p * 0x100 + j * 8) v) s = .next t ∧
      (∀ b, b < 8 → ((t.cluster (d * 36 + c)).slots.get 0 (p * 0x100 + j * 8 + b)) = v.extractLsb' (8 * b) 8) ∧ t.cores = s.cores) ∧
    (∀ k, k < 1152 → ∃ t, exec (.hostRegisterWrite (0xF0040000008 + k * 0x10000) v) s = .next t ∧ (t.core k).lwin = v.extractLsb' 0 4 ∧
      t.phys = s.phys) ∧
    (∀ d c, d < 4 → c < 36 → exec (.hostRegisterWrite (0xF0080004000 + d * 0x1000000 + c * 8) v) s = .next s) ∧
    (∀ o, o < 2 ^ 40 → exec (.hostRegisterWrite (2 ^ 60 + o) v) s = exec (.hostRegisterWrite (0xF0000000000 + o) v) s) ∧
    (∀ o, o < 2 ^ 32 → exec (.hostRegisterWrite (2 ^ 61 + o) v) s = exec (.hostRegisterWrite (s.pkg.hwin.toNat * 2 ^ 32 + o) v) s)

end Sys2Proof.Claims

open Sys2Proof Sys2Proof.Machine Sys2Proof.Claims

/-- R256 to R260, R363, R364: the host's queues and its writes.
Where the rules admit more than one reading, it follows the model's choice of log entries 49 and 50. -/
def Obligations.HostQueues : Prop := Doorbells ∧ Rings ∧ PlainCommands ∧ Launches ∧ Resets ∧ HostWrites

namespace Sys2Proof.Claims

open Sys2Proof.Machine

/-- R195, R261, R263, R309: a pending team that fits takes its cores, which are eligible, stopped until their image is loaded,
and cleared after a team of another tenant. A team that may not be placed stays pending. -/
def Placement : Prop :=
  ∀ (s : State) (n : Nat) (t : Team), s.teams.get none n = some t →
    (s.placeable (n, t) = false → exec (.teamPlacement n) s = .next s) ∧
    ∀ a, let x := s.asPlaced t
      t.st = .pending → t.reset = false → t.second = false → t.partner = none → s.suspended = false → s.power.state ≠ 3 → s.drained n x = false →
      s.fits x = some (a, []) → a.Nodup →
      a.length = t.n ∧
      (∀ k ∈ a, (s.core k).kind = .program ∧ (s.core k).quar = false ∧ (s.core k).team = none ∧ (s.core k).part = t.part ∧
        (∀ y ∈ (s.core k).slots, y.2.st = .empty) ∧ (s.meshOf x.region.tenant.toNat).holds (clusterOf k) = true) ∧
      ∃ u, exec (.teamPlacement n) s = .next u ∧ u.phys = s.phys ∧
        u.teams.get none n = some { x with st := .loading, cores := a, seeded := 0, leaving := false } ∧
        (∀ i k, a[i]? = some k → (u.core k).team = some (BitVec.ofNat 16 n) ∧ (u.core k).vcore = BitVec.ofNat 11 i ∧
          (u.core k).stopped = true ∧ (u.core k).lastTenant = some x.region.tenant ∧
          (u.core k).mem = (if (s.core k).lastTenant.all (· == x.region.tenant) then (s.core k).mem else []) ∧
          ∃ e ∈ u.agenda, e.ev = .act (.seed n k) ∧ s.now < e.due) ∧
        ∀ k, k ∉ a → (u.core k).team = (s.core k).team ∧ (u.core k).mem = (s.core k).mem

/-- R154, R261: a core of a new team is loaded: its image's sections, EXB and OVH, with every granule full; and its contexts
are on their way to slots 0 to Q - 1, with the seed pc and the seeds g1 to g4. -/
def Seeds : Prop :=
  ∀ (s : State) (n k : Nat) (t : Team), s.teams.get none n = some t → t.st = .loading → k ∈ t.cores → t.reset = false → t.held = [] →
    (s.core k).gate = .powered →
    let code := s.virtBytes t.region (t.code.2 / 64 + 2) (t.image.toNat + t.code.1) t.code.2
    let data := code.2.virtBytes t.region (t.data.2 / 64 + 2) (t.image.toNat + t.data.1) t.data.2
    ∃ u, exec (.seedBinding n k) s = .next u ∧ (t.code.2 ≤ t.exb.toNat → HoldsBytes (fun x => u.localRead k x 1) 0 t.code.2 code.1) ∧
      HoldsBytes (fun x => u.localRead k x 1) t.exb.toNat t.data.2 data.1 ∧ (u.core k).exb = t.exb ∧ (u.core k).ovh = t.ovh &&& 0x7FFFC ∧
      (u.core k).empty = [] ∧ (u.core k).stopped = false ∧ u.phys = s.phys ∧
      (∀ j, j < t.quota → ∃ e ∈ u.agenda, ∃ c task, e.ev = .act (.bind ⟨k, j⟩ c task .fresh) ∧ c.pc = t.seedPc ∧
        c.rg 1 = (s.core k).vcore.zeroExtend 64 ∧ c.rg 2 = BitVec.ofNat 64 j ∧ c.rg 3 = t.arg ∧ c.rg 4 = BitVec.ofNat 64 (t.n * t.quota)) ∧
      ∃ x, u.teams.get none n = some x ∧ x.seeded = t.seeded + 1 ∧ x.st = if t.cores.length ≤ t.seeded + 1 then .placed else .loading

/-- R262, R301: a team that is done leaves its cores, its ARMED entries and its scoreboards; its launch is over, and CVAL
stands at CADDR, when that is not 0. A team that is not done stays. -/
def Completion : Prop :=
  ∀ (s : State) (n : Nat) (t : Team), s.teams.get none n = some t →
    (s.teamDone n t = false → exec (.teamCompletion n) s = .next s) ∧
    (s.teamDone n t = true → n < 65536 → t.partner = none → (t.caddr = 0 ∨ PlainWord s t.caddr.toNat) →
      ∃ u, exec (.teamCompletion n) s = .next u ∧ u.teams.get none n = none ∧ (∀ k ∈ t.cores, (u.core k).team = none) ∧
        (u.hqRun = s.hqRun.filter fun c => !(c.queue == t.queue && c.index == t.index)) ∧
        (t.caddr = 0 → u.phys = s.phys) ∧ (t.caddr ≠ 0 → Stored s u t.caddr.toNat t.cval) ∧
        (∀ cl i, ((s.cluster cl).waits.get {} i).state = 1 → ((s.cluster cl).waits.get {} i).team.toNat = n →
          ((u.cluster cl).waits.get {} i).state = 0) ∧
        ∀ cl b, ¬ (((u.cluster cl).boards.get {} b).owned = true ∧ ((u.cluster cl).boards.get {} b).team.toNat = n))

/-- R264: the first gang of a sub-mesh that has been pending beyond its region's limit puts the sub-mesh into drain mode. -/
def Drains : Prop :=
  ∀ (s : State) (n : Nat) (t : Team), s.pendingTeams.find? (fun x => x.1 == n) = some (n, t) →
    let m := s.meshOf t.region.tenant.toNat
    (s.usec - t.since ≤ t.region.age → exec (.placementAgeExpiry n) s = .next s) ∧
    (t.region.age < s.usec - t.since → s.governs t.region.tenant = some n → m.drain ≠ some (BitVec.ofNat 16 n) →
      ∃ u, exec (.placementAgeExpiry n) s = .next u ∧ u = { s with meshes := u.meshes } ∧
        u.meshOf t.region.tenant.toNat = { m with drain := some (BitVec.ofNat 16 n) } ∧
        ∀ j, j ≠ t.region.tenant.toNat → u.meshOf j = s.meshOf j)

/-- R265: a team that is due to leave issues no more; once nothing of it is in flight the walks of its records begin, and
when they have ended it is swapped out, its cores are free and empty, and it is pending again as from now. -/
def Swaps : Prop :=
  ∀ (s : State) (n : Nat) (t : Team), s.teams.get none n = some t →
    (s.swapDue t = true → ∃ u, exec (.teamSwapOut n) s = .next u ∧ u.teams.get none n = some { t with leaving := true } ∧
      (∀ k ∈ t.cores, u.core k = { s.core k with stopped := true }) ∧ (∀ k, k ∉ t.cores → u.core k = s.core k) ∧ u.phys = s.phys) ∧
    (s.swapReady t = true → t.writes = none → ∃ u c, exec (.teamSwapOut n) s = .next u ∧
      u = { s with teams := u.teams } ∧ u.teams.get none n = some { t with writes := some c } ∧ s.now < c) ∧
    (s.swapReady t = true → t.writes ≠ none → ∃ u h, exec (.teamSwapOut n) s = .next u ∧ u.teams.get none n = some { t with
        st := .swapped, leaving := false, writes := none, held := h, cores := [], entered := s.now, since := s.usec, seeded := 0 } ∧
      h.length = t.cores.length ∧ ∀ k ∈ t.cores, (u.core k).team = none ∧ ∀ j, ((u.core k).slot j).st = .empty) ∧
    (s.swapDue t = false → s.swapReady t = false → exec (.teamSwapOut n) s = .next s)

end Sys2Proof.Claims

open Sys2Proof Sys2Proof.Machine Sys2Proof.Claims

/-- R154, R195, R261 to R265: the placement, loading, completion and swap of teams. The cycle in which a core's loading ends
is the model's choice (log entry 14).
Where the rules admit more than one reading, it follows the model's choice of log entries 51 and 52. -/
def Obligations.Teams : Prop := Placement ∧ Seeds ∧ Completion ∧ Drains ∧ Swaps

namespace Sys2Proof.Claims

open Sys2Proof.Machine

/-- R367: how a command ends: its status dword at CADDR + 8 and CVAL at CADDR, when CADDR is not 0, and the command is over. -/
def Completing : Prop :=
  ∀ (s : State) (c : HCmd) (st : Status), let t := s.complete c st
    t.hqRun = (s.hqRun.filter fun x => !(x.queue == c.queue && x.index == c.index)) ∧
    (c.caddr = 0 → t = { s with hqRun := t.hqRun }) ∧
    (c.caddr ≠ 0 → PlainWord s c.caddr → PlainWord s (c.caddr + 8) →
      HoldsBytes (fun x => t.physRead 0 x 1) (c.caddr + 8) 8 st.code.toNat ∧ HoldsBytes (fun x => t.physRead 0 x 1) c.caddr 8 c.cval.toNat ∧
      ∀ x, ¬ (c.caddr ≤ x ∧ x < c.caddr + 16) → t.phys.get 0 x = s.phys.get 0 x)

/-- R163, R367: ENVELOPE writes MENV of every core of the dies named, and LEVEL stays within it. -/
def Envelopes : Prop :=
  ∀ (s : State) (q idx : Nat) (c : HCmd), s.hostCmd q idx = some c →
    let floor := c.entry.extractLsb' 36 4
    let ceil := c.entry.extractLsb' 40 4
    let mask := c.entry.extractLsb' 44 4
    (ceil.toNat < floor.toNat ∨ mask = 0 → exec (.envelope q idx) s = .next (s.complete c .refused)) ∧
    (floor.toNat ≤ ceil.toNat → mask ≠ 0 → ∃ u : State, exec (.envelope q idx) s = .next (u.complete c .done) ∧ u.phys = s.phys ∧
      (∀ w, u.ctx w = s.ctx w) ∧ ∀ k, k < 1152 →
        (mask.getLsbD (dieOf k) = true → (u.core k).menv = ceil ++ floor ∧
          (u.core k).level.toNat = if s.heldBack k then 15 else max floor.toNat (min ceil.toNat (s.core k).level.toNat)) ∧
        (mask.getLsbD (dieOf k) = false → u.core k = s.core k))

/-- R367: QCLEAR gives a quarantined core without a team back. -/
def Clears : Prop :=
  ∀ (s : State) (q idx : Nat) (c : HCmd), s.hostCmd q idx = some c → let k := (c.entry.extractLsb' 64 64).toNat
    (1152 ≤ k ∨ (s.core k).quar = false → exec (.qclear q idx) s = .next (s.complete c .refused)) ∧
    (k < 1152 → (s.core k).quar = true → (s.core k).team ≠ none → exec (.qclear q idx) s = .next (s.complete c .busy)) ∧
    (k < 1152 → (s.core k).quar = true → (s.core k).team = none → ∃ u : State, exec (.qclear q idx) s = .next (u.complete c .done) ∧
      u.core k = { s.core k with quar := false, qcause := false, run := 0, ceilhit := false } ∧ (∀ j, j ≠ k → u.core j = s.core j) ∧
      u.phys = s.phys)

/-- R361, R367, R368: POWER sets the state and the limit; P3 is busy while a team is placed, and gates every core. -/
def Powers : Prop :=
  ∀ (s : State) (q idx : Nat) (c : HCmd), s.hostCmd q idx = some c →
    let p := (c.entry.extractLsb' 36 3).toNat
    let limit := (c.entry.extractLsb' 64 64).toNat
    (3 < p ∨ limit < 100 ∨ 2800 < limit → exec (.power q idx) s = .next (s.complete c .refused)) ∧
    (p = 3 → 100 ≤ limit → limit ≤ 2800 → s.anyPlaced = true → exec (.power q idx) s = .next (s.complete c .busy)) ∧
    (p ≤ 3 → 100 ≤ limit → limit ≤ 2800 → (p = 3 → s.anyPlaced = false) → ∃ u : State, exec (.power q idx) s = .next (u.complete c .done) ∧
      u.power.state.toNat = p ∧ u.power.limit = limit ∧ (s.reduced = false → p = 2 → u.power.mhz = 600) ∧
      (s.reduced = false → p < 2 → s.power.state.toNat < 2 → u.power.mhz = s.power.mhz) ∧
      (p = 3 → ∀ k, k < 1152 → (u.core k).gate = .gated) ∧ (∀ w, u.ctx w = s.ctx w) ∧ u.phys = s.phys)

/-- R370, R371, R374, R195: STEP runs the steps in order, each once in a boot; a step's record says how it ended, and the
memories that it tests read zero. Step 1 starts the firmware image that it takes, where the image holds a program; a bank
whose image is older than flash allows is refused. -/
def Steps : Prop :=
  ∀ (s : State) (q idx : Nat) (c : HCmd), s.hostCmd q idx = some c → let n := (c.entry.extractLsb' 36 8).toNat
    let down := s.boot.faulty.get 0 n
    let sound (a : Image) (least : W64) (j : Nat) : Prop := down.getLsbD j = false ∧ least.toNat ≤ a.seq.toNat
    let fails : Prop := n = 0 ∧ down.getLsbD 0 = true ∨
      n = 1 ∧ ¬ sound s.flash.firmware s.flash.seqFw 0 ∧ ¬ sound s.flash.firmware2 s.flash.seqFw 1 ∨
      n = 2 ∧ ¬ sound s.flash.config s.flash.seqCfg 0 ∧ ¬ sound s.flash.config2 s.flash.seqCfg 1
    let mayRun : Prop := s.boot.done.get false n = false ∧ (n ≠ 0 → s.boot.done.get false (n - 1) = true)
    (10 < n → exec (.step q idx) s = .next (s.complete c .refused)) ∧
    (n ≤ 10 → ¬ mayRun → exec (.step q idx) s = .next (s.complete c .busy)) ∧
    (n ≤ 10 → mayRun → fails → ∃ u : State, exec (.step q idx) s = .next (u.complete c .failed) ∧ u.boot.done = s.boot.done ∧
      ∃ o, u.boot.records.get none n = some o ∧ o.out = 1 ∧ o.tries = ((s.boot.records.get none n).getD {}).tries + 1) ∧
    (n ≤ 10 → mayRun → ¬ fails → ∃ u : State, exec (.step q idx) s = .next (u.complete c .done) ∧ u.boot.done.get false n = true ∧
      (∀ j, j ≠ n → u.boot.done.get false j = s.boot.done.get false j) ∧
      (∃ o, u.boot.records.get none n = some o ∧ o.bootseq = s.boot.seq ∧ o.tries = 0 ∧ (o.out = 0 ∨ o.out = 2 ∨ o.out = 3)) ∧
      (n = 1 → (sound s.flash.firmware s.flash.seqFw 0 → u.flash.firmware = s.flash.firmware) ∧
        (¬ sound s.flash.firmware s.flash.seqFw 0 → u.flash.firmware = s.flash.firmware2) ∧
        (u.flash.firmware.code ≠ [] → ∀ d, d < 4 → let w : Tid := ⟨s.firmwareCore d, 0⟩
          (u.slot w).st = .ready ∧ (u.ctx w).pc = u.flash.firmware.entry &&& ~~~3#64 ∧ (u.ctx w).stat.getLsbD 0 = true)) ∧
      (n = 3 → ∀ k a, (∀ y ∈ (s.core k).slots, y.2.st = .empty) → (u.core k).mem.get 0 a = 0) ∧
      (n = 4 → u.power.mhz = 600 ∧ (u.meshes.get {} 0).formed = true ∧ (u.meshes.get {} 0).clock = 0 ∧ ∀ cl a, (u.cluster cl).mem.get 0 a = 0) ∧
      (n = 5 → ∀ pa, pa < 0x6000000000 → u.phys.get 0 pa = 0) ∧
      (n = 6 → ∀ pa, 0x20000000000 ≤ pa → pa < 0x38000000000 → u.phys.get 0 pa = 0) ∧
      (n = 7 → ∀ pa, 0x80000000000 ≤ pa → pa < 0x80180000000 → u.phys.get 0 pa = 0) ∧
      (n = 10 → u.power.mhz = if s.power.state = 2 then 600 else 1200))

/-- R310, R334, R367: TENANT sets the tenant's bit of TMEM in its sub-mesh and clears it elsewhere, and forms the sub-mesh. -/
def Tenants : Prop :=
  ∀ (s : State) (q idx : Nat) (c : HCmd), s.hostCmd q idx = some c → let rcb := (c.entry.extractLsb' 64 64).toNat
    let t := s.rcbField rcb 136 6
    let mesh := BitVec.ofNat 16 (s.rcbField rcb 416 16)
    let busy : Prop := ∃ x ∈ s.teams, ∃ u, x.2 = some u ∧ u.st.placed' = true ∧ (meshRect mesh).meets (s.meshOf u.region.tenant.toNat) = true
    let sound : Prop := s.chainOk 1 rcb = true ∧ t ≠ 0 ∧ meshInGrid mesh = true
    (¬ sound → exec (.tenant q idx) s = .next (s.complete c .refused)) ∧
    (sound → busy → exec (.tenant q idx) s = .next (s.complete c .busy)) ∧
    (sound → ¬ busy → ∃ u : State, exec (.tenant q idx) s = .next (u.complete c .done) ∧ u.cores = s.cores ∧ u.phys = s.phys ∧
      (∀ cl, cl < 144 → ∀ b, (u.cluster cl).tmem.getLsbD b = if b = t then (meshRect mesh).holds cl else (s.cluster cl).tmem.getLsbD b) ∧
      (u.meshOf t).formed = true ∧ (u.meshOf t).clock = 0 ∧ (u.meshOf t).slip = 0 ∧ (u.meshOf t).rcb = rcb ∧
      ∀ cl, (u.meshOf t).holds cl = (meshRect mesh).holds cl)

/-- R312, R367: SLOTLOAD loads the tables of a sub-mesh, unless the tenant has a team placed or its NETSLOT is exceeded. -/
def SlotLoads : Prop :=
  ∀ (s : State) (q idx : Nat) (c : HCmd), s.hostCmd q idx = some c → let t := (c.entry.extractLsb' 38 6).toNat
    let m := s.meshOf t
    let busy : Prop := ∃ x ∈ s.teams, ∃ u, x.2 = some u ∧ u.st.placed' = true ∧ u.region.tenant.toNat = t
    let read := s.hostReadBytes (c.entry.extractLsb' 64 64).toNat (256 * m.ports.length)
    let n := (read.1.filter (· ≠ 0)).length
    let limit := read.2.rcbField m.rcb 320 16
    (m.formed = false ∨ t = 0 → exec (.slotload q idx) s = .next (s.complete c .refused)) ∧
    (m.formed = true → t ≠ 0 → busy → exec (.slotload q idx) s = .next (s.complete c .busy)) ∧
    (m.formed = true → t ≠ 0 → ¬ busy → limit ≠ 0 → limit < n → exec (.slotload q idx) s = .next (read.2.complete c .refused)) ∧
    (m.formed = true → t ≠ 0 → ¬ busy → (limit = 0 ∨ n ≤ limit) → ∃ u : State, exec (.slotload q idx) s = .next (u.complete c .done) ∧
      u.meshOf t = { m with slots := n } ∧ u.cores = s.cores ∧ u.phys = s.phys ∧
      ∀ i cl p j, m.ports[i]? = some (cl, p) → j < 256 → ((u.cluster cl).slots.get 0 (256 * p + j)).toNat = read.1.getD (256 * i + j) 0)

/-- R374, R375: FWSTAGE refuses an image whose signature fails or whose sequence number falls, and else writes it to the other
bank; ATTEST writes its report after the nonce. -/
def Identity : Prop :=
  ∀ (s : State) (q idx : Nat) (c : HCmd), s.hostCmd q idx = some c → let a := (c.entry.extractLsb' 64 64).toNat
    let bytes (l : List Nat) : List Byte := l.map (BitVec.ofNat 8)
    let head := s.hostReadBytes a 64
    let read := head.2.hostReadBytes a (Config.imageSize (bytes head.1))
    let seq := Config.imageSeq (bytes read.1)
    let cfg := c.entry.getLsbD 36
    let held := if cfg then read.2.flash.seqCfg else read.2.flash.seqFw
    (Config.imageVerifies (bytes read.1) = false ∨ seq.toNat < held.toNat → exec (.fwstage q idx) s = .next (read.2.complete c .refused)) ∧
    (Config.imageVerifies (bytes read.1) = true → held.toNat ≤ seq.toNat → ∃ u : State, exec (.fwstage q idx) s = .next (u.complete c .done) ∧
      u.flash.firmware = s.flash.firmware ∧ u.flash.config = s.flash.config ∧ u.cores = s.cores ∧
      (cfg = false → u.flash.firmware2 = { digest := digestWord (read.1.take (read.1.length - 4627)), seq := seq, code := Config.imageCode (bytes read.1), entry := Config.imageEntry (bytes read.1) } ∧ u.flash.swapFw = true ∧
        u.flash.seqFw = seq) ∧
      (cfg = true → u.flash.config2.seq = seq ∧ u.flash.swapCfg = true ∧ u.flash.seqCfg = seq ∧
        u.flash.config2.digest = digestWord (read.1.take (read.1.length - 4627)))) ∧
    exec (.attest q idx) s = .next ((head.2.hostWriteBytes (a + 64) (head.2.report' head.1)).complete c .done)

/-- R367, R372: CHECKPOINT is busy while a team is placed, RESTORE also while one is pending; a list that is short fails; else
placement is suspended until the stream ends, when the bytes have moved. -/
def Streams : Prop :=
  ∀ (s : State) (q idx : Nat) (c : HCmd), s.hostCmd q idx = some c → let list := s.targets c.arg
    let total := streamBytes list.2.streamRanges
    let blocks := dealAll list.1 total
    let sound : Prop := (∀ x ∈ list.1, x.link ≤ 2) ∧ (list.1.map Target'.link).Nodup
    let fits : Prop := list.1 ≠ [] ∧ (∀ i x, list.1[i]? = some x → shareOf blocks total i ≤ x.len) ∧ ∀ x ∈ list.1, list.2.targetOk x = true
    let runs (i : Instr) : Prop :=
      (¬ sound → exec i s = .next (list.2.complete c .refused)) ∧
      (sound → ¬ fits → exec i s = .next (list.2.complete c .failed)) ∧
      (sound → fits → ∃ u : State, exec i s = .next u ∧ u.suspended = true ∧ u.phys = s.phys ∧ u.cores = s.cores ∧
        u.hqRun = s.hqRun.map fun x => if x.queue = q ∧ x.index = idx then { x with at_ := s.usec + streamTime list.1 blocks total } else x)
    (s.anyPlaced = true → exec (.checkpoint q idx) s = .next (s.complete c .busy)) ∧
    (s.anyPlaced = true ∨ s.pendingTeams ≠ [] → exec (.restore q idx) s = .next (s.complete c .busy)) ∧
    (s.anyPlaced = false → runs (.checkpoint q idx)) ∧
    (s.anyPlaced = false → s.pendingTeams = [] → runs (.restore q idx)) ∧
    ((c.kind = 0x14 ∨ c.kind = 0x15) → s.suspended = true → c.at_ ≤ s.usec → ∃ u : State, exec (.checkpointCompletion q idx) s = .next u ∧
      (∃ v, v = (if c.kind = 0x14 then list.2.streamOut list.1 else list.2.streamIn list.1).complete c .done ∧
        u = { v with suspended := v.hqRun.any fun x => x.kind == 0x14 || x.kind == 0x15 }) ∧
      ∀ x ∈ u.hqRun, ¬ (x.queue = q ∧ x.index = idx))

end Sys2Proof.Claims

open Sys2Proof Sys2Proof.Machine Sys2Proof.Claims

/-- R163, R310, R312, R361, R367 to R375: the commands at the package's boundary. What a failing step finds, and the
cryptography, are inputs and constants without a value (log entries 4 and 6); which commands are refused beyond R367, and the
deal of blocks, are the model's choice (log entry 16).
Where the rules admit more than one reading, it follows the model's choice of log entries 53, 54 and 55. -/
def Obligations.BoundaryCommands : Prop :=
  Completing ∧ Envelopes ∧ Clears ∧ Powers ∧ Steps ∧ Tenants ∧ SlotLoads ∧ Identity ∧ Streams

namespace Sys2Proof.Claims

open Sys2Proof.Machine

/-- R377: what goes back to the package at the far end of a link. -/
def Answered (s t : State) (link : Nat) (a : Act) : Prop :=
  let p := (s.links.get {} link).peer.toNat
  t.linkWait = s.linkWait ++ [{ pkg := p, key := link, link := s.linkTo p link, ev := .act a, sent := s.now }]

/-- R377: among what goes out to packages at the far ends of links is the answer. -/
def AnswersWith (s t : State) (link : Nat) (a : Act) : Prop :=
  let p := (s.links.get {} link).peer.toNat
  ({ pkg := p, key := link, link := s.linkTo p link, ev := .act a, sent := s.now } : LinkMsg) ∈ t.linkWait

/-- R377: a peer's pull of bytes of one line under its peer PASID: XLATE (4) where the PASID is retired, TENANT where it is
another tenant's or a router of its way does not admit the tenant (R241), and else the bytes. -/
def PeerReads : Prop :=
  ∀ (s : State) (r : PeerReq) (cl id msg va n : Nat), r.op = .read cl id msg va n →
    let fails (f : Flt) : Prop := ∃ t, exec (.peerRequest r) s = .next t ∧ Answered s t r.link (.engine cl id (.reply msg 0 (some f))) ∧
      t = { s with linkWait := t.linkWait }
    let a := BitVec.ofNat 64 va
    let admits (pa : Nat) : Bool := s.routeAdmits (clusterOf (peerCore r.link)) (s.home pa) r.tenant
    (rootOf s r.pasid = none → fails { code := 7, sub := 4, addr := a }) ∧
    (∀ root tn, rootOf s r.pasid = some (root, tn) → tn ≠ r.tenant → fails { code := 8, addr := a }) ∧
    (∀ root level e, rootOf s r.pasid = some (root, r.tenant) → va < 2 ^ 55 → 0 < n → va % 64 + n ≤ 64 → walkFrom s va 4 root = .leaf level e →
      let pa := leafAddr level e va
      (e.getLsbD 2 = false ∨ e.getLsbD 4 = true → fails { code := 6, sub := 6, addr := a }) ∧
      (e.getLsbD 2 = true → e.getLsbD 4 = false → s.place pa = .none → fails { code := 7, sub := 3, addr := a }) ∧
      (e.getLsbD 2 = true → e.getLsbD 4 = false → ((∃ k, s.place pa = .hbm k) ∨ (∃ k, s.place pa = .tier k) ∨ ∃ k, s.place pa = .cxl k) →
        s.isRetired pa = false → s.errAt pa n ≠ .uncorrectable →
        (admits pa = false → fails { code := 8, addr := a }) ∧
        (admits pa = true → ∃ t, exec (.peerRequest r) s = .next t ∧
          AnswersWith s t r.link (.engine cl id (.reply msg (((s.fillSline 0 pa).correct pa n).loadBytes 0 pa n) none)) ∧
          t.phys = s.phys ∧ t.cores = s.cores)))

/-- R190, R377: a peer's push of a dword: refused without a byte written, or written, registered under the peer's owner tag,
and acknowledged. -/
def PeerWrites : Prop :=
  ∀ (s : State) (r : PeerReq) (cl id msg va data : Nat) (tag : Tid) (bind : BitVec 12), r.op = .write cl id msg va 8 data tag bind →
    let a := BitVec.ofNat 64 va
    (∀ root tn, rootOf s r.pasid = some (root, tn) → tn ≠ r.tenant → ∃ t, exec (.peerRequest r) s = .next t ∧ t.phys = s.phys ∧
      Answered s t r.link (.engine cl id (.ack msg (some { code := 8, addr := a })))) ∧
    (∀ root level e, rootOf s r.pasid = some (root, r.tenant) → va < 2 ^ 55 → va % 8 = 0 → walkFrom s va 4 root = .leaf level e →
      e.getLsbD 3 = true → e.getLsbD 4 = false → let pa := leafAddr level e va
      PlainWord s pa → s.inFormat pa 8 = false → s.routeAdmits (clusterOf (peerCore r.link)) (s.home pa) r.tenant = true →
      ∃ t, exec (.peerRequest r) s = .next t ∧ Stored s t pa (BitVec.ofNat 64 data) ∧ AnswersWith s t r.link (.engine cl id (.ack msg none)) ∧
        ∀ l, t.slineAt 0 pa = some l → l.opkg = (s.links.get {} r.link).peer ∧ l.dirty = true)

/-- R377: a peer's request of a future's table under its PASID is one of the peer's thread there. -/
def PeerFutures : Prop :=
  ∀ (s : State) (r : PeerReq) (q : FReq) (root : Nat), r.op = .future q → rootOf s r.pasid = some (root, r.tenant) →
    ∃ t, exec (.peerRequest r) s = .next t ∧
      t = s.futureAct (hCluster q.handle) { q with tid := ⟨peerCore r.link, q.tid.core * 16 + q.tid.slot⟩, tenant := r.tenant }

/-- R376, R377: a link that goes down is up no more, and what is in flight on it waits or takes another link to its package,
while what has arrived is done with; a link that comes up takes the messages that wait for it, once. -/
def Links : Prop :=
  ∀ (s : State) (l : Nat),
    (∃ t, exec (.linkDown l) s = .next t ∧ (t.links.get {} l).up = false ∧ (t.links.get {} l).peer = (s.links.get {} l).peer ∧
      (∀ j, j ≠ l → t.links.get {} j = s.links.get {} j) ∧ t.cores = s.cores ∧ t.phys = s.phys ∧
      (∀ m ∈ s.linkWait, (m.link ≠ some l → m ∈ t.linkWait) ∧ (m.link = some l → (m.ev.asks ≠ none ∨ s.now < m.sent + 560) →
        { m with link := t.linkTo m.pkg m.key, sent := s.now } ∈ t.linkWait)) ∧
      ∀ m ∈ t.linkWait, m ∈ s.linkWait ∧ m.link ≠ some l ∨ ∃ x ∈ s.linkWait, x.link = some l ∧ (x.ev.asks ≠ none ∨ s.now < x.sent + 560) ∧
        m = { x with link := t.linkTo x.pkg x.key, sent := s.now }) ∧
    (∃ t, exec (.linkUp l) s = .next t ∧ (t.links.get {} l).up = true ∧ (t.links.get {} l).peer = (s.links.get {} l).peer ∧
      (∀ j, j ≠ l → t.links.get {} j = s.links.get {} j) ∧ t.cores = s.cores ∧ t.phys = s.phys ∧ t.linkWait.length = s.linkWait.length ∧
      ∀ (i : Nat) (m : LinkMsg), s.linkWait[i]? = some m → (m.link ≠ none → t.linkWait[i]? = some m) ∧
        (m.link = none → t.linkWait[i]? = some { m with link := t.linkTo m.pkg m.key, sent := s.now })) ∧
    ∀ (p key k : Nat), s.linkTo p key = some k → ∃ x ∈ s.links, x.1 = k ∧ x.2.up = true ∧ x.2.peer.toNat = p

/-- R371, R374: at power-on the cores, clusters and tables are as at reset; the flash keeps its records and sequence numbers,
a staged image runs, no step has passed, and the boot sequence number rises. -/
def PowersOn : Prop :=
  ∀ (s : State), ∃ t, exec .powerOn s = .next t ∧ t.cores = State.reset.cores ∧ t.clusters = [] ∧ t.teams = [] ∧ t.agenda = [] ∧
    t.boot.done = [] ∧ t.boot.seq = s.boot.seq + 1 ∧ t.boot.records = s.boot.records ∧ t.hostMem = s.hostMem ∧
    t.flash.seqFw = s.flash.seqFw ∧ t.flash.seqCfg = s.flash.seqCfg ∧ t.flash.swapFw = false ∧ t.flash.swapCfg = false ∧
    t.flash.firmware = (if s.flash.swapFw then s.flash.firmware2 else s.flash.firmware) ∧
    t.flash.config = (if s.flash.swapCfg then s.flash.config2 else s.flash.config) ∧
    ∀ pa, ¬ (0x40000000000 ≤ pa ∧ pa < 0x80000000000) → t.phys.get 0 pa = 0

/-- R19, R159, R171, R223, R335: a core's reset: TICK and the counters are 0, its queue registers are empty and untagged, the
arbiter starts at slot 0, and a margin window begins; its threads and memory stay. -/
def CoreResets : Prop :=
  ∀ (s : State) (k : Nat), ∃ t, exec (.coreReset k) s = .next t ∧ t.tick k = 0 ∧ (∀ n, (t.core k).perf.get 0 n = 0) ∧
    ((s.core k).issueAt ≠ s.now + 1 → ∀ n, t.perf k n = 0) ∧
    (∀ q, ((t.core k).qregs.get {} q).entries = [] ∧ ((t.core k).qregs.get {} q).tag = none) ∧ (t.core k).lastServed = 15 ∧
    (t.core k).wrep = 0 ∧ (t.core k).wstep = 0 ∧ (t.core k).winStart = s.now ∧ (∀ u, t.slot u = s.slot u) ∧
    (t.core k).mem = (s.core k).mem ∧ (∀ j, j ≠ k → t.core j = s.core j) ∧ t.phys = s.phys

end Sys2Proof.Claims

open Sys2Proof Sys2Proof.Machine Sys2Proof.Claims

/-- R19, R223, R335, R371, R374, R376, R377: requests of peer packages, their links, power-on and the reset of a core.
Where the rules admit more than one reading, it follows the model's choice of log entries 22, 56 and 57. -/
def Obligations.PeersAndResets : Prop :=
  PeerReads ∧ PeerWrites ∧ PeerFutures ∧ Links ∧ PowersOn ∧ CoreResets

open Sys2Proof Sys2Proof.Machine

/-- R53, R62 (with R19): when nothing of the machine is due before the issues of a cycle, the next eligible thread issues the
instruction whose bytes stand at its pc: a step is exec of it, with that thread the current one. Bytes that decode to
nothing raise ILLEGAL in its place, and a fetch that reaches EXB takes the overlay trap. Before the turn an acquire that was
to precede the thread's first issue takes effect (R211), and the fetch corrects its bytes (R195); a deferred fault is raised
in place of an instruction that does not wait on a counter (R344). An entry of the agenda that is due comes first; and with
nothing to do a step ends the cycle.
Where the rules admit more than one reading, it follows the model's choice of log entry 2. -/
def Obligations.StepRunsDecoded : Prop :=
  ∀ (s : State),
    (∀ p l, s.agenda = p :: l → p.due < s.now → step s = runEv p.ev { s with agenda := l }) ∧
    (s.dueEntry Phase.post = none → dueHost s = none → s.power.state ≠ 3 → dueEarly s = none →
      (∀ (u : Tid), s.nextIssue = some u →
        let s' := (({ s with cur := u } : State).firstAcquire u).fixFetch u
        let pc := (s'.ctx u).pc.toNat
        let deferred : Prop := (s'.slot u).deferred ≠ []
        ((s.slot u).acq = none → (∀ n, lengthOf (s.fetchByte u.core pc).toNat = some n → errIn s.localErrs (localErrBase u.core) pc n = .clean) →
          s' = { s with cur := u }) ∧
        (s'.ctx u = s.ctx u ∧ (s'.slot u).deferred = (s.slot u).deferred) ∧
        (∀ n, let c := s'.core u.core
          let w := s'.fetchWord u.core pc n
          let word := BitVec.ofNat 128 w
          let served : Prop := s'.heldBack u.core = false ∨ w % 128 / 4 = 31 ∨ reducedOpcode (w / 128 % 256) = true
          let waits (i : Instr) : Prop := ∃ t k, exec i s' = .next t ∧ (t.slot u).st = .waiting (.counters k)
          lengthOf (s'.fetchByte u.core pc).toNat = some n → pc + n ≤ c.exb.toNat → pc % 32 + n ≤ 32 →
          errIn s'.localErrs (localErrBase u.core) pc n ≠ .uncorrectable →
          (∀ i, decode word = some i → served →
            (¬ deferred ∨ waits i → step s = exec i s') ∧ (deferred → ¬ waits i → step s = exec (.deferredFault u) s')) ∧
          (decode word = none ∨ ¬ served →
            (¬ deferred → step s = .next (s'.faultTurn { code := 1 })) ∧ (deferred → step s = exec (.deferredFault u) s')) ∧
          (c.prevAt ≠ s'.now → ∀ j, j < n → w / 256 ^ j % 256 = (c.mem.get 0 (pc + j)).toNat)) ∧
        ((s'.core u.core).exb.toNat ≤ pc →
          (¬ deferred → step s = exec .overlayTrap s') ∧ (deferred → step s = exec (.deferredFault u) s'))) ∧
      (s.nextIssue = none → step s = endOfCycle s))

/-- R52, R55, R58 to R61, R66: words written out from the encodings decode to the instructions that they stand for. -/
def Obligations.DecodeWords : Prop :=
  decode 0x0000000000000000#128 = some (.add ⟨.w64, 0, false, 0⟩ 0 0 (.reg 0)) ∧
  decode 0x000000000000003F#128 = none ∧
  decode 0xFFFFFFA000181ABC#128 = some (.loop ⟨.w64, 15, false, 0⟩ 6 (-6)) ∧
  decode 0x200000000500583C#128 = some (.qput ⟨.w64, 15, false, 0⟩ 2 5) ∧
  decode 0x1001000000005D3C#128 = some (.rdv ⟨.w64, 15, false, 0⟩ 1 1) ∧
  decode 0x000000100500743C#128 = some (.cro ⟨.w64, 15, false, 0⟩ 1 (.reg 5)) ∧
  decode 0x000000000518703C#128 = some (.csig ⟨.w64, 15, false, 0⟩ 6 5 1) ∧
  decode 0x100000200000713C#128 = some (.waitCounter ⟨.w64, 15, false, 0⟩ 1 2)

/-- R52 to R66: encoding and decoding agree: every well-formed instruction that has an encoding is what its word decodes
to, with every field at every value that the encoding admits. -/
def Obligations.DecodeEncode : Prop :=
  ∀ (i : Instr) (r : Raw), i.wf = true → encode i = some r → decode r.word = some i

/-- R63: a word of guard 15 and neg 1 is a filler, whatever its other bits hold. It waits for nothing and has no effect but
one turn and the pc's advance by its length. The three fillers of zeros are such words; the all-zero word is ADD g0, g0,
g0 under guard k0. -/
def Obligations.Filler : Prop :=
  (∀ (w : BitVec 128) (l : Len), lenOf (w.extractLsb' 0 2) = some l → w.extractLsb' 2 4 = 15 → w.getLsbD 6 = true →
    decode w = some (.filler l)) ∧
  decode 0x7C#128 = some (.filler .w64) ∧ decode 0x7D#128 = some (.filler .w96) ∧ decode 0x7E#128 = some (.filler .w128) ∧
  decode 0#128 = some (.add ⟨.w64, 0, false, 0⟩ 0 0 (.reg 0)) ∧
  ∀ (len : Len) (s : State), s.verdict.1 = false →
    ∃ t, exec (.filler len) s = .next t ∧ Completes s t (s.ctx s.cur)
      ((s.ctx s.cur).pc + match len with
        | .w64 => 8
        | .w96 => 12
        | .w128 => 16)

/-- R365, R368, R369, R371: the power state stays one of P0 to P3, with its limit from 100 to 2800 W and the core clock from
600 to 1200 MHz, over every step. -/
def Obligations.PowerLegal : Prop :=
  ∀ (s t : State), s.power.legal = true → step s = .next t → t.power.legal = true

/-- The state after reset: the power state is legal and every memory in its canonical form; no slot holds a context; the
firmware cores are the lowest of each die (R15); the arbiter starts at slot 0 (R19), every granule is full, MCTL, MLIM and
MENV hold their reset values (R163, R171), the first queue's descriptor reads as R256 gives, and only the firmware tenant
is admitted (R310). That memory reads zero is the model's choice (log entry 3). -/
def Obligations.ResetState : Prop :=
  let s := State.reset
  s.power.legal = true ∧ s.memWf = true ∧ (∀ u, (s.slot u).st = .empty) ∧
  (∀ k, k < 1152 → ((s.core k).kind = .firmware ↔ k % 288 = 0)) ∧ (∀ k, (s.core k).lastServed = 15) ∧
  (∀ k g, (s.core k).empty.get false g = false) ∧
  (∀ k, (s.core k).menv = 0xFF ∧ (s.core k).mctl = 0x0000000000100F ∧ (s.core k).mlim = 0x10040840) ∧
  (∀ q, (s.hq.get {} q).logn = 4 ∧ (s.hq.get {} q).idle = 1000 ∧ (s.hq.get {} q).en = false) ∧
  (∀ cl, (s.cluster cl).tmem = 1) ∧ (∀ k a, s.localRead k a 1 = 0) ∧ ∀ team pa, s.physByte team pa = 0
end

