-- ==== Sys2Proof/Laws/Exec.lean ====
section
/-!
SUPPORT. One equation per arm of exec: the meaning that it calls.
-/

namespace Sys2Proof.Machine

@[simp] theorem exec_add {h d a b} (s : State) : exec (.add h d a b) s = execAdd h d a b s := rfl
@[simp] theorem exec_sub {h d a b} (s : State) : exec (.sub h d a b) s = execSub h d a b s := rfl
@[simp] theorem exec_mul {h d a b} (s : State) : exec (.mul h d a b) s = execMul h d a b s := rfl
@[simp] theorem exec_mulh {h d a b} (s : State) : exec (.mulh h d a b) s = execMulh h d a b s := rfl
@[simp] theorem exec_mulhn {h d a b} (s : State) : exec (.mulhn h d a b) s = execMulhn h d a b s := rfl
@[simp] theorem exec_div {h d a b} (s : State) : exec (.div h d a b) s = execDiv h d a b s := rfl
@[simp] theorem exec_divn {h d a b} (s : State) : exec (.divn h d a b) s = execDivn h d a b s := rfl
@[simp] theorem exec_rem {h d a b} (s : State) : exec (.rem h d a b) s = execRem h d a b s := rfl
@[simp] theorem exec_remn {h d a b} (s : State) : exec (.remn h d a b) s = execRemn h d a b s := rfl
@[simp] theorem exec_and {h d a b} (s : State) : exec (.and h d a b) s = execAnd h d a b s := rfl
@[simp] theorem exec_or {h d a b} (s : State) : exec (.or h d a b) s = execOr h d a b s := rfl
@[simp] theorem exec_xor {h d a b} (s : State) : exec (.xor h d a b) s = execXor h d a b s := rfl
@[simp] theorem exec_andn {h d a b} (s : State) : exec (.andn h d a b) s = execAndn h d a b s := rfl
@[simp] theorem exec_orn {h d a b} (s : State) : exec (.orn h d a b) s = execOrn h d a b s := rfl
@[simp] theorem exec_shl {h d a b} (s : State) : exec (.shl h d a b) s = execShl h d a b s := rfl
@[simp] theorem exec_shr {h d a b} (s : State) : exec (.shr h d a b) s = execShr h d a b s := rfl
@[simp] theorem exec_shra {h d a b} (s : State) : exec (.shra h d a b) s = execShra h d a b s := rfl
@[simp] theorem exec_rotr {h d a b} (s : State) : exec (.rotr h d a b) s = execRotr h d a b s := rfl
@[simp] theorem exec_clz {h d a} (s : State) : exec (.clz h d a) s = execClz h d a s := rfl
@[simp] theorem exec_ctz {h d a} (s : State) : exec (.ctz h d a) s = execCtz h d a s := rfl
@[simp] theorem exec_popc {h d a} (s : State) : exec (.popc h d a) s = execPopc h d a s := rfl
@[simp] theorem exec_brev {h d a} (s : State) : exec (.brev h d a) s = execBrev h d a s := rfl
@[simp] theorem exec_bext {h signed d a b} (s : State) : exec (.bext h signed d a b) s = execBext h signed d a b s := rfl
@[simp] theorem exec_bins {h d a b} (s : State) : exec (.bins h d a b) s = execBins h d a b s := rfl
@[simp] theorem exec_min {h d a b} (s : State) : exec (.min h d a b) s = execMin h d a b s := rfl
@[simp] theorem exec_minn {h d a b} (s : State) : exec (.minn h d a b) s = execMinn h d a b s := rfl
@[simp] theorem exec_max {h d a b} (s : State) : exec (.max h d a b) s = execMax h d a b s := rfl
@[simp] theorem exec_maxn {h d a b} (s : State) : exec (.maxn h d a b) s = execMaxn h d a b s := rfl
@[simp] theorem exec_adds {h d a b} (s : State) : exec (.adds h d a b) s = execAdds h d a b s := rfl
@[simp] theorem exec_subs {h d a b} (s : State) : exec (.subs h d a b) s = execSubs h d a b s := rfl
@[simp] theorem exec_sext {h n d a} (s : State) : exec (.sext h n d a) s = execSext h n d a s := rfl
@[simp] theorem exec_zext {h n d a} (s : State) : exec (.zext h n d a) s = execZext h n d a s := rfl
@[simp] theorem exec_cmp {h rel d e a b} (s : State) : exec (.cmp h rel d e a b) s = execCmp h rel d e a b s := rfl
@[simp] theorem exec_cmpf {h rel ty d e a b} (s : State) : exec (.cmpf h rel ty d e a b) s = execCmpf h rel ty d e a b s := rfl
@[simp] theorem exec_tst {h z d e a b} (s : State) : exec (.tst h z d e a b) s = execTst h z d e a b s := rfl
@[simp] theorem exec_pand {h d a b} (s : State) : exec (.pand h d a b) s = execPand h d a b s := rfl
@[simp] theorem exec_por {h d a b} (s : State) : exec (.por h d a b) s = execPor h d a b s := rfl
@[simp] theorem exec_pxor {h d a b} (s : State) : exec (.pxor h d a b) s = execPxor h d a b s := rfl
@[simp] theorem exec_pandn {h d a b} (s : State) : exec (.pandn h d a b) s = execPandn h d a b s := rfl
@[simp] theorem exec_pnot {h d a} (s : State) : exec (.pnot h d a) s = execPnot h d a s := rfl
@[simp] theorem exec_pmov {h op} (s : State) : exec (.pmov h op) s = execPmov h op s := rfl
@[simp] theorem exec_pset {h d imm} (s : State) : exec (.pset h d imm) s = execPset h d imm s := rfl
@[simp] theorem exec_sel {h d c a b} (s : State) : exec (.sel h d c a b) s = execSel h d c a b s := rfl
@[simp] theorem exec_pcnt {h ffs d a b} (s : State) : exec (.pcnt h ffs d a b) s = execPcnt h ffs d a b s := rfl
@[simp] theorem exec_br {h off} (s : State) : exec (.br h off) s = execBr h off s := rfl
@[simp] theorem exec_jmp {h a imm} (s : State) : exec (.jmp h a imm) s = execJmp h a imm s := rfl
@[simp] theorem exec_call {h d off} (s : State) : exec (.call h d off) s = execCall h d off s := rfl
@[simp] theorem exec_callr {h d a imm} (s : State) : exec (.callr h d a imm) s = execCallr h d a imm s := rfl
@[simp] theorem exec_ret {h a} (s : State) : exec (.ret h a) s = execRet h a s := rfl
@[simp] theorem exec_loop {h d off} (s : State) : exec (.loop h d off) s = execLoop h d off s := rfl
@[simp] theorem exec_brq {h z off} (s : State) : exec (.brq h z off) s = execBrq h z off s := rfl
@[simp] theorem exec_nop {h} (s : State) : exec (.nop h) s = execNop h s := rfl
@[simp] theorem exec_filler {len} (s : State) : exec (.filler len) s = execFiller len s := rfl
@[simp] theorem exec_overlayTrap (s : State) : exec (.overlayTrap) s = execOverlayTrap s := rfl
@[simp] theorem exec_registerFill {lines} (s : State) : exec (.registerFill lines) s = execRegisterFill lines s := rfl
@[simp] theorem exec_ldl {h m} (s : State) : exec (.ldl h m) s = execLdl h m s := rfl
@[simp] theorem exec_stl {h m} (s : State) : exec (.stl h m) s = execStl h m s := rfl
@[simp] theorem exec_ldc {h m} (s : State) : exec (.ldc h m) s = execLdc h m s := rfl
@[simp] theorem exec_stc {h m} (s : State) : exec (.stc h m) s = execStc h m s := rfl
@[simp] theorem exec_ld {h m} (s : State) : exec (.ld h m) s = execLd h m s := rfl
@[simp] theorem exec_ldn {h m} (s : State) : exec (.ldn h m) s = execLdn h m s := rfl
@[simp] theorem exec_st {h m} (s : State) : exec (.st h m) s = execSt h m s := rfl
@[simp] theorem exec_pref {h m} (s : State) : exec (.pref h m) s = execPref h m s := rfl
@[simp] theorem exec_aadd {h o} (s : State) : exec (.aadd h o) s = execAadd h o s := rfl
@[simp] theorem exec_aand {h o} (s : State) : exec (.aand h o) s = execAand h o s := rfl
@[simp] theorem exec_aor {h o} (s : State) : exec (.aor h o) s = execAor h o s := rfl
@[simp] theorem exec_axor {h o} (s : State) : exec (.axor h o) s = execAxor h o s := rfl
@[simp] theorem exec_amin {h o} (s : State) : exec (.amin h o) s = execAmin h o s := rfl
@[simp] theorem exec_amax {h o} (s : State) : exec (.amax h o) s = execAmax h o s := rfl
@[simp] theorem exec_aswp {h o} (s : State) : exec (.aswp h o) s = execAswp h o s := rfl
@[simp] theorem exec_acas {h o} (s : State) : exec (.acas h o) s = execAcas h o s := rfl
@[simp] theorem exec_aacc {h o} (s : State) : exec (.aacc h o) s = execAacc h o s := rfl
@[simp] theorem exec_afadd {h o} (s : State) : exec (.afadd h o) s = execAfadd h o s := rfl
@[simp] theorem exec_afmin {h o} (s : State) : exec (.afmin h o) s = execAfmin h o s := rfl
@[simp] theorem exec_afmax {h o} (s : State) : exec (.afmax h o) s = execAfmax h o s := rfl
@[simp] theorem exec_acq {h} (s : State) : exec (.acq h) s = execAcq h s := rfl
@[simp] theorem exec_acqC {h a} (s : State) : exec (.acqC h a) s = execAcqC h a s := rfl
@[simp] theorem exec_rel {h} (s : State) : exec (.rel h) s = execRel h s := rfl
@[simp] theorem exec_fence {h} (s : State) : exec (.fence h) s = execFence h s := rfl
@[simp] theorem exec_fenceQ {h mask} (s : State) : exec (.fenceQ h mask) s = execFenceQ h mask s := rfl
@[simp] theorem exec_vadd {h o} (s : State) : exec (.vadd h o) s = execVadd h o s := rfl
@[simp] theorem exec_vsub {h o} (s : State) : exec (.vsub h o) s = execVsub h o s := rfl
@[simp] theorem exec_vmul {h o} (s : State) : exec (.vmul h o) s = execVmul h o s := rfl
@[simp] theorem exec_vfma {h o} (s : State) : exec (.vfma h o) s = execVfma h o s := rfl
@[simp] theorem exec_vfms {h o} (s : State) : exec (.vfms h o) s = execVfms h o s := rfl
@[simp] theorem exec_vfnma {h o} (s : State) : exec (.vfnma h o) s = execVfnma h o s := rfl
@[simp] theorem exec_vdiv {h o} (s : State) : exec (.vdiv h o) s = execVdiv h o s := rfl
@[simp] theorem exec_vsqrt {h o} (s : State) : exec (.vsqrt h o) s = execVsqrt h o s := rfl
@[simp] theorem exec_vmin {h o} (s : State) : exec (.vmin h o) s = execVmin h o s := rfl
@[simp] theorem exec_vmax {h o} (s : State) : exec (.vmax h o) s = execVmax h o s := rfl
@[simp] theorem exec_vabs {h o} (s : State) : exec (.vabs h o) s = execVabs h o s := rfl
@[simp] theorem exec_vneg {h o} (s : State) : exec (.vneg h o) s = execVneg h o s := rfl
@[simp] theorem exec_vand {h o} (s : State) : exec (.vand h o) s = execVand h o s := rfl
@[simp] theorem exec_vor {h o} (s : State) : exec (.vor h o) s = execVor h o s := rfl
@[simp] theorem exec_vxor {h o} (s : State) : exec (.vxor h o) s = execVxor h o s := rfl
@[simp] theorem exec_vshl {h o} (s : State) : exec (.vshl h o) s = execVshl h o s := rfl
@[simp] theorem exec_vshr {h o} (s : State) : exec (.vshr h o) s = execVshr h o s := rfl
@[simp] theorem exec_vshra {h o} (s : State) : exec (.vshra h o) s = execVshra h o s := rfl
@[simp] theorem exec_vadds {h o} (s : State) : exec (.vadds h o) s = execVadds h o s := rfl
@[simp] theorem exec_vsubs {h o} (s : State) : exec (.vsubs h o) s = execVsubs h o s := rfl
@[simp] theorem exec_vmulh {h o} (s : State) : exec (.vmulh h o) s = execVmulh h o s := rfl
@[simp] theorem exec_vcmp {h rel ty d e a b} (s : State) : exec (.vcmp h rel ty d e a b) s = execVcmp h rel ty d e a b s := rfl
@[simp] theorem exec_vsel {h ty d c a b} (s : State) : exec (.vsel h ty d c a b) s = execVsel h ty d c a b s := rfl
@[simp] theorem exec_vcvt {h src dst rnd sat d a idx} (s : State) : exec (.vcvt h src dst rnd sat d a idx) s = execVcvt h src dst rnd sat d a idx s := rfl
@[simp] theorem exec_vrsum {h ty rnd sat d a} (s : State) : exec (.vrsum h ty rnd sat d a) s = execVrsum h ty rnd sat d a s := rfl
@[simp] theorem exec_vrmin {h ty d a} (s : State) : exec (.vrmin h ty d a) s = execVrmin h ty d a s := rfl
@[simp] theorem exec_vrmax {h ty d a} (s : State) : exec (.vrmax h ty d a) s = execVrmax h ty d a s := rfl
@[simp] theorem exec_vror {h ty d a} (s : State) : exec (.vror h ty d a) s = execVror h ty d a s := rfl
@[simp] theorem exec_vperm {h ty d a b} (s : State) : exec (.vperm h ty d a b) s = execVperm h ty d a b s := rfl
@[simp] theorem exec_vrot {h ty d a b} (s : State) : exec (.vrot h ty d a b) s = execVrot h ty d a b s := rfl
@[simp] theorem exec_vbcast {h ty d op} (s : State) : exec (.vbcast h ty d op) s = execVbcast h ty d op s := rfl
@[simp] theorem exec_vins {h ty d a b} (s : State) : exec (.vins h ty d a b) s = execVins h ty d a b s := rfl
@[simp] theorem exec_vext {h ty d a b} (s : State) : exec (.vext h ty d a b) s = execVext h ty d a b s := rfl
@[simp] theorem exec_vmov {h ty d b} (s : State) : exec (.vmov h ty d b) s = execVmov h ty d b s := rfl
@[simp] theorem exec_vrcp {h ty rnd sat d a} (s : State) : exec (.vrcp h ty rnd sat d a) s = execVrcp h ty rnd sat d a s := rfl
@[simp] theorem exec_vrsq {h ty rnd sat d a} (s : State) : exec (.vrsq h ty rnd sat d a) s = execVrsq h ty rnd sat d a s := rfl
@[simp] theorem exec_vexp {h ty rnd sat d a} (s : State) : exec (.vexp h ty rnd sat d a) s = execVexp h ty rnd sat d a s := rfl
@[simp] theorem exec_vzip {h ty hi d a b} (s : State) : exec (.vzip h ty hi d a b) s = execVzip h ty hi d a b s := rfl
@[simp] theorem exec_vunzip {h ty odd d a b} (s : State) : exec (.vunzip h ty odd d a b) s = execVunzip h ty odd d a b s := rfl
@[simp] theorem exec_vlut {h ty d a b idx} (s : State) : exec (.vlut h ty d a b idx) s = execVlut h ty d a b idx s := rfl
@[simp] theorem exec_pitch {h b} (s : State) : exec (.pitch h b) s = execPitch h b s := rfl
@[simp] theorem exec_vpack {h fmt side push u a pos} (s : State) : exec (.vpack h fmt side push u a pos) s = execVpack h fmt side push u a pos s := rfl
@[simp] theorem exec_vpacks {h push u a pos} (s : State) : exec (.vpacks h push u a pos) s = execVpacks h push u a pos s := rfl
@[simp] theorem exec_pclaim {h d pn} (s : State) : exec (.pclaim h d pn) s = execPclaim h d pn s := rfl
@[simp] theorem exec_prel {h pn} (s : State) : exec (.prel h pn) s = execPrel h pn s := rfl
@[simp] theorem exec_rclr {h pn} (s : State) : exec (.rclr h pn) s = execRclr h pn s := rfl
@[simp] theorem exec_rmul {h o} (s : State) : exec (.rmul h o) s = execRmul h o s := rfl
@[simp] theorem exec_rtile {h o} (s : State) : exec (.rtile h o) s = execRtile h o s := rfl
@[simp] theorem exec_rtiles {h o} (s : State) : exec (.rtiles h o) s = execRtiles h o s := rfl
@[simp] theorem exec_rext {h o idx} (s : State) : exec (.rext h o idx) s = execRext h o idx s := rfl
@[simp] theorem exec_rextm {h o a row0 rows off} (s : State) : exec (.rextm h o a row0 rows off) s = execRextm h o a row0 rows off s := rfl
@[simp] theorem exec_rgst {h d pn hi} (s : State) : exec (.rgst h d pn hi) s = execRgst h d pn hi s := rfl
@[simp] theorem exec_rgld {h pn a b} (s : State) : exec (.rgld h pn a b) s = execRgld h pn a b s := rfl
@[simp] theorem exec_rbase {h pn a} (s : State) : exec (.rbase h pn a) s = execRbase h pn a s := rfl
@[simp] theorem exec_rfuse {h pn a} (s : State) : exec (.rfuse h pn a) s = execRfuse h pn a s := rfl
@[simp] theorem exec_rtest {h d} (s : State) : exec (.rtest h d) s = execRtest h d s := rfl
@[simp] theorem exec_rsave {h pn a off} (s : State) : exec (.rsave h pn a off) s = execRsave h pn a off s := rfl
@[simp] theorem exec_rload {h pn a off} (s : State) : exec (.rload h pn a off) s = execRload h pn a off s := rfl
@[simp] theorem exec_sheafStep {core} (s : State) : exec (.sheafStep core) s = execSheafStep core s := rfl
@[simp] theorem exec_rfuseSourceRead {core} (s : State) : exec (.rfuseSourceRead core) s = execRfuseSourceRead core s := rfl
@[simp] theorem exec_rafterBackgroundTest {core rafter} (s : State) : exec (.rafterBackgroundTest core rafter) s = execRafterBackgroundTest core rafter s := rfl
@[simp] theorem exec_qput {h u a} (s : State) : exec (.qput h u a) s = execQput h u a s := rfl
@[simp] theorem exec_qget {h d u} (s : State) : exec (.qget h d u) s = execQget h d u s := rfl
@[simp] theorem exec_qpeek {h d u} (s : State) : exec (.qpeek h d u) s = execQpeek h d u s := rfl
@[simp] theorem exec_qcnt {h d u} (s : State) : exec (.qcnt h d u) s = execQcnt h d u s := rfl
@[simp] theorem exec_qpredPush {h a} (s : State) : exec (.qpredPush h a) s = execQpredPush h a s := rfl
@[simp] theorem exec_qpredPop {h d} (s : State) : exec (.qpredPop h d) s = execQpredPop h d s := rfl
@[simp] theorem exec_bset {h u depth feed drain} (s : State) : exec (.bset h u depth feed drain) s = execBset h u depth feed drain s := rfl
@[simp] theorem exec_bsetFree {h u} (s : State) : exec (.bsetFree h u) s = execBsetFree h u s := rfl
@[simp] theorem exec_bpush {h u} (s : State) : exec (.bpush h u) s = execBpush h u s := rfl
@[simp] theorem exec_bpop {h u n} (s : State) : exec (.bpop h u n) s = execBpop h u n s := rfl
@[simp] theorem exec_bstat {h d u} (s : State) : exec (.bstat h d u) s = execBstat h d u s := rfl
@[simp] theorem exec_fork {h d t b} (s : State) : exec (.fork h d t b) s = execFork h d t b s := rfl
@[simp] theorem exec_rdv {h u n} (s : State) : exec (.rdv h u n) s = execRdv h u n s := rfl
@[simp] theorem exec_rdvEnd {h u n} (s : State) : exec (.rdvEnd h u n) s = execRdvEnd h u n s := rfl
@[simp] theorem exec_clusterRdvArrival {t point n fin} (s : State) : exec (.clusterRdvArrival t point n fin) s = execClusterRdvArrival t point n fin s := rfl
@[simp] theorem exec_rdvDepartureReply {t} (s : State) : exec (.rdvDepartureReply t) s = execRdvDepartureReply t s := rfl
@[simp] theorem exec_twget {h o} (s : State) : exec (.twget h o) s = execTwget h o s := rfl
@[simp] theorem exec_twgetC {h o} (s : State) : exec (.twgetC h o) s = execTwgetC h o s := rfl
@[simp] theorem exec_twgetRaw {h o} (s : State) : exec (.twgetRaw h o) s = execTwgetRaw h o s := rfl
@[simp] theorem exec_twgetPka {h o} (s : State) : exec (.twgetPka h o) s = execTwgetPka h o s := rfl
@[simp] theorem exec_twgetPkb {h o} (s : State) : exec (.twgetPkb h o) s = execTwgetPkb h o s := rfl
@[simp] theorem exec_twput {h o} (s : State) : exec (.twput h o) s = execTwput h o s := rfl
@[simp] theorem exec_twputC {h o} (s : State) : exec (.twputC h o) s = execTwputC h o s := rfl
@[simp] theorem exec_twdeal {h form o} (s : State) : exec (.twdeal h form o) s = execTwdeal h form o s := rfl
@[simp] theorem exec_twcast {h form o} (s : State) : exec (.twcast h form o) s = execTwcast h form o s := rfl
@[simp] theorem exec_twremPush {h o} (s : State) : exec (.twremPush h o) s = execTwremPush h o s := rfl
@[simp] theorem exec_twremPull {h o} (s : State) : exec (.twremPull h o) s = execTwremPull h o s := rfl
@[simp] theorem exec_engineCommandStart {cluster port core queue} (s : State) : exec (.engineCommandStart cluster port core queue) s = execEngineCommandStart cluster port core queue s := rfl
@[simp] theorem exec_engineFlitLanding {cluster port} (s : State) : exec (.engineFlitLanding cluster port) s = execEngineFlitLanding cluster port s := rfl
@[simp] theorem exec_enginePermitReserve {cluster port} (s : State) : exec (.enginePermitReserve cluster port) s = execEnginePermitReserve cluster port s := rfl
@[simp] theorem exec_commandCompletion {core id} (s : State) : exec (.commandCompletion core id) s = execCommandCompletion core id s := rfl
@[simp] theorem exec_spawn {h d a pc} (s : State) : exec (.spawn h d a pc) s = execSpawn h d a pc s := rfl
@[simp] theorem exec_spawnat {h d a b pc} (s : State) : exec (.spawnat h d a b pc) s = execSpawnat h d a b pc s := rfl
@[simp] theorem exec_touch {h d a b} (s : State) : exec (.touch h d a b) s = execTouch h d a b s := rfl
@[simp] theorem exec_touchp {h d e a b} (s : State) : exec (.touchp h d e a b) s = execTouchp h d e a b s := rfl
@[simp] theorem exec_resolve {h d a b} (s : State) : exec (.resolve h d a b) s = execResolve h d a b s := rfl
@[simp] theorem exec_tend {h a} (s : State) : exec (.tend h a) s = execTend h a s := rfl
@[simp] theorem exec_fcancel {h d a} (s : State) : exec (.fcancel h d a) s = execFcancel h d a s := rfl
@[simp] theorem exec_fpoison {h d a b} (s : State) : exec (.fpoison h d a b) s = execFpoison h d a b s := rfl
@[simp] theorem exec_fstat {h d a} (s : State) : exec (.fstat h d a) s = execFstat h d a s := rfl
@[simp] theorem exec_fdrop {h a} (s : State) : exec (.fdrop h a) s = execFdrop h a s := rfl
@[simp] theorem exec_wakeDelivery {park code val ent rank ready} (s : State) : exec (.wakeDelivery park code val ent rank ready) s = execWakeDelivery park code val ent rank ready s := rfl
@[simp] theorem exec_futureSpill {r} (s : State) : exec (.futureSpill r) s = execFutureSpill r s := rfl
@[simp] theorem exec_spillAck {r ent} (s : State) : exec (.spillAck r ent) s = execSpillAck r ent s := rfl
@[simp] theorem exec_park {t} (s : State) : exec (.park t) s = execPark t s := rfl
@[simp] theorem exec_taskDispatchChoice {core} (s : State) : exec (.taskDispatchChoice core) s = execTaskDispatchChoice core s := rfl
@[simp] theorem exec_dispatchRequest {core} (s : State) : exec (.dispatchRequest core) s = execDispatchRequest core s := rfl
@[simp] theorem exec_taskBinding {core} (s : State) : exec (.taskBinding core) s = execTaskBinding core s := rfl
@[simp] theorem exec_prefetchReady {cluster id} (s : State) : exec (.prefetchReady cluster id) s = execPrefetchReady cluster id s := rfl
@[simp] theorem exec_csig {h d a n} (s : State) : exec (.csig h d a n) s = execCsig h d a n s := rfl
@[simp] theorem exec_msg {h d a b f n} (s : State) : exec (.msg h d a b f n) s = execMsg h d a b f n s := rfl
@[simp] theorem exec_msgDelivery {cluster addr data} (s : State) : exec (.msgDelivery cluster addr data) s = execMsgDelivery cluster addr data s := rfl
@[simp] theorem exec_waitingTaskDecrement {r} (s : State) : exec (.waitingTaskDecrement r) s = execWaitingTaskDecrement r s := rfl
@[simp] theorem exec_releaseParkWait {cluster} (s : State) : exec (.releaseParkWait cluster) s = execReleaseParkWait cluster s := rfl
@[simp] theorem exec_waitCounter {h n m} (s : State) : exec (.waitCounter h n m) s = execWaitCounter h n m s := rfl
@[simp] theorem exec_waitHandle {h a} (s : State) : exec (.waitHandle h a) s = execWaitHandle h a s := rfl
@[simp] theorem exec_cntrdWc {h d n} (s : State) : exec (.cntrdWc h d n) s = execCntrdWc h d n s := rfl
@[simp] theorem exec_cntrdPerf {h d num} (s : State) : exec (.cntrdPerf h d num) s = execCntrdPerf h d num s := rfl
@[simp] theorem exec_cntrdWt {h d a} (s : State) : exec (.cntrdWt h d a) s = execCntrdWt h d a s := rfl
@[simp] theorem exec_cntrdSlot {h d} (s : State) : exec (.cntrdSlot h d) s = execCntrdSlot h d s := rfl
@[simp] theorem exec_cntrdSlip {h d} (s : State) : exec (.cntrdSlip h d) s = execCntrdSlip h d s := rfl
@[simp] theorem exec_cntrdBud {h d kind} (s : State) : exec (.cntrdBud h d kind) s = execCntrdBud h d kind s := rfl
@[simp] theorem exec_carm {h d a b pc} (s : State) : exec (.carm h d a b pc) s = execCarm h d a b pc s := rfl
@[simp] theorem exec_sbdef {h n a} (s : State) : exec (.sbdef h n a) s = execSbdef h n a s := rfl
@[simp] theorem exec_sbdefFree {h n} (s : State) : exec (.sbdefFree h n) s = execSbdefFree h n s := rfl
@[simp] theorem exec_sbreg {h d n a b pc} (s : State) : exec (.sbreg h d n a b pc) s = execSbreg h d n a b pc s := rfl
@[simp] theorem exec_sbret {h n a} (s : State) : exec (.sbret h n a) s = execSbret h n a s := rfl
@[simp] theorem exec_cro {h mask t} (s : State) : exec (.cro h mask t) s = execCro h mask t s := rfl
@[simp] theorem exec_crc {h} (s : State) : exec (.crc h) s = execCrc h s := rfl
@[simp] theorem exec_pcmp {h op} (s : State) : exec (.pcmp h op) s = execPcmp h op s := rfl
@[simp] theorem exec_containmentUnwind {t} (s : State) : exec (.containmentUnwind t) s = execContainmentUnwind t s := rfl
@[simp] theorem exec_mfs {h d r field} (s : State) : exec (.mfs h d r field) s = execMfs h d r field s := rfl
@[simp] theorem exec_mts {h r b} (s : State) : exec (.mts h r b) s = execMts h r b s := rfl
@[simp] theorem exec_repart {h b} (s : State) : exec (.repart h b) s = execRepart h b s := rfl
@[simp] theorem exec_halt {h} (s : State) : exec (.halt h) s = execHalt h s := rfl
@[simp] theorem exec_yield {h} (s : State) : exec (.yield h) s = execYield h s := rfl
@[simp] theorem exec_tlbinvAll {h} (s : State) : exec (.tlbinvAll h) s = execTlbinvAll h s := rfl
@[simp] theorem exec_tlbinvPasid {h a} (s : State) : exec (.tlbinvPasid h a) s = execTlbinvPasid h a s := rfl
@[simp] theorem exec_tlbinvPage {h a b} (s : State) : exec (.tlbinvPage h a b) s = execTlbinvPage h a b s := rfl
@[simp] theorem exec_tlbinvRange {h a b n} (s : State) : exec (.tlbinvRange h a b n) s = execTlbinvRange h a b n s := rfl
@[simp] theorem exec_tlbinvRetire {h a} (s : State) : exec (.tlbinvRetire h a) s = execTlbinvRetire h a s := rfl
@[simp] theorem exec_ctxld {h a} (s : State) : exec (.ctxld h a) s = execCtxld h a s := rfl
@[simp] theorem exec_ctxst {h a} (s : State) : exec (.ctxst h a) s = execCtxst h a s := rfl
@[simp] theorem exec_oret {h} (s : State) : exec (.oret h) s = execOret h s := rfl
@[simp] theorem exec_brk {h code} (s : State) : exec (.brk h code) s = execBrk h code s := rfl
@[simp] theorem exec_deferredFault {t} (s : State) : exec (.deferredFault t) s = execDeferredFault t s := rfl
@[simp] theorem exec_loadLanding {a} (s : State) : exec (.loadLanding a) s = execLoadLanding a s := rfl
@[simp] theorem exec_ldnLanding {a} (s : State) : exec (.ldnLanding a) s = execLdnLanding a s := rfl
@[simp] theorem exec_clusterStorePerform {a} (s : State) : exec (.clusterStorePerform a) s = execClusterStorePerform a s := rfl
@[simp] theorem exec_clusterWaitPerform {cluster granule} (s : State) : exec (.clusterWaitPerform cluster granule) s = execClusterWaitPerform cluster granule s := rfl
@[simp] theorem exec_storeRegistration {a} (s : State) : exec (.storeRegistration a) s = execStoreRegistration a s := rfl
@[simp] theorem exec_revoke {core line words} (s : State) : exec (.revoke core line words) s = execRevoke core line words s := rfl
@[simp] theorem exec_storeAck {core id} (s : State) : exec (.storeAck core id) s = execStoreAck core id s := rfl
@[simp] theorem exec_atomicPerform {a} (s : State) : exec (.atomicPerform a) s = execAtomicPerform a s := rfl
@[simp] theorem exec_sliceLineFill {a} (s : State) : exec (.sliceLineFill a) s = execSliceLineFill a s := rfl
@[simp] theorem exec_slateRefresh {die} (s : State) : exec (.slateRefresh die) s = execSlateRefresh die s := rfl
@[simp] theorem exec_pageWalk {a} (s : State) : exec (.pageWalk a) s = execPageWalk a s := rfl
@[simp] theorem exec_formatRangeWrite {die ctl reg val} (s : State) : exec (.formatRangeWrite die ctl reg val) s = execFormatRangeWrite die ctl reg val s := rfl
@[simp] theorem exec_formatRangeApply {die ctl reg} (s : State) : exec (.formatRangeApply die ctl reg) s = execFormatRangeApply die ctl reg s := rfl
@[simp] theorem exec_slotClockTick {mesh} (s : State) : exec (.slotClockTick mesh) s = execSlotClockTick mesh s := rfl
@[simp] theorem exec_meshLinkRetry {mesh} (s : State) : exec (.meshLinkRetry mesh) s = execMeshLinkRetry mesh s := rfl
@[simp] theorem exec_windowEnd {core} (s : State) : exec (.windowEnd core) s = execWindowEnd core s := rfl
@[simp] theorem exec_settleEnd {core} (s : State) : exec (.settleEnd core) s = execSettleEnd core s := rfl
@[simp] theorem exec_gatingEntry {core} (s : State) : exec (.gatingEntry core) s = execGatingEntry core s := rfl
@[simp] theorem exec_gatingWake {core} (s : State) : exec (.gatingWake core) s = execGatingWake core s := rfl
@[simp] theorem exec_gatingExit {core} (s : State) : exec (.gatingExit core) s = execGatingExit core s := rfl
@[simp] theorem exec_throttleDown (s : State) : exec (.throttleDown) s = execThrottleDown s := rfl
@[simp] theorem exec_throttleUp (s : State) : exec (.throttleUp) s = execThrottleUp s := rfl
@[simp] theorem exec_packetDelivery {core} (s : State) : exec (.packetDelivery core) s = execPacketDelivery core s := rfl
@[simp] theorem exec_eventQueueWrite {core} (s : State) : exec (.eventQueueWrite core) s = execEventQueueWrite core s := rfl
@[simp] theorem exec_evqctlWrite {val} (s : State) : exec (.evqctlWrite val) s = execEvqctlWrite val s := rfl
@[simp] theorem exec_supervisorResume {t} (s : State) : exec (.supervisorResume t) s = execSupervisorResume t s := rfl
@[simp] theorem exec_supervisorKill {t} (s : State) : exec (.supervisorKill t) s = execSupervisorKill t s := rfl
@[simp] theorem exec_supervisorUnwind {t} (s : State) : exec (.supervisorUnwind t) s = execSupervisorUnwind t s := rfl
@[simp] theorem exec_supervisorStop {t} (s : State) : exec (.supervisorStop t) s = execSupervisorStop t s := rfl
@[simp] theorem exec_acterrClear {t} (s : State) : exec (.acterrClear t) s = execActerrClear t s := rfl
@[simp] theorem exec_afullWrite {core off val} (s : State) : exec (.afullWrite core off val) s = execAfullWrite core off val s := rfl
@[simp] theorem exec_apertureAccess {core off write} (s : State) : exec (.apertureAccess core off write) s = execApertureAccess core off write s := rfl
@[simp] theorem exec_mismatchTimeout {t} (s : State) : exec (.mismatchTimeout t) s = execMismatchTimeout t s := rfl
@[simp] theorem exec_signatureCompare {team} (s : State) : exec (.signatureCompare team) s = execSignatureCompare team s := rfl
@[simp] theorem exec_dirtyLineUe {line} (s : State) : exec (.dirtyLineUe line) s = execDirtyLineUe line s := rfl
@[simp] theorem exec_pageRetireRequest {cluster page} (s : State) : exec (.pageRetireRequest cluster page) s = execPageRetireRequest cluster page s := rfl
@[simp] theorem exec_ownerKill {t bind} (s : State) : exec (.ownerKill t bind) s = execOwnerKill t bind s := rfl
@[simp] theorem exec_bindingSweep {t} (s : State) : exec (.bindingSweep t) s = execBindingSweep t s := rfl
@[simp] theorem exec_doorbell {q val} (s : State) : exec (.doorbell q val) s = execDoorbell q val s := rfl
@[simp] theorem exec_queueIdleUnmap {q} (s : State) : exec (.queueIdleUnmap q) s = execQueueIdleUnmap q s := rfl
@[simp] theorem exec_ringFetch {q} (s : State) : exec (.ringFetch q) s = execRingFetch q s := rfl
@[simp] theorem exec_queueReset {q} (s : State) : exec (.queueReset q) s = execQueueReset q s := rfl
@[simp] theorem exec_hostRegisterWrite {addr val} (s : State) : exec (.hostRegisterWrite addr val) s = execHostRegisterWrite addr val s := rfl
@[simp] theorem exec_hostNop {q idx} (s : State) : exec (.hostNop q idx) s = execHostNop q idx s := rfl
@[simp] theorem exec_launch {q idx} (s : State) : exec (.launch q idx) s = execLaunch q idx s := rfl
@[simp] theorem exec_signal {q idx} (s : State) : exec (.signal q idx) s = execSignal q idx s := rfl
@[simp] theorem exec_waitmem {q idx} (s : State) : exec (.waitmem q idx) s = execWaitmem q idx s := rfl
@[simp] theorem exec_waitmemPoll {q idx} (s : State) : exec (.waitmemPoll q idx) s = execWaitmemPoll q idx s := rfl
@[simp] theorem exec_teamPlacement {team} (s : State) : exec (.teamPlacement team) s = execTeamPlacement team s := rfl
@[simp] theorem exec_seedBinding {team core} (s : State) : exec (.seedBinding team core) s = execSeedBinding team core s := rfl
@[simp] theorem exec_teamCompletion {team} (s : State) : exec (.teamCompletion team) s = execTeamCompletion team s := rfl
@[simp] theorem exec_placementAgeExpiry {team} (s : State) : exec (.placementAgeExpiry team) s = execPlacementAgeExpiry team s := rfl
@[simp] theorem exec_teamSwapOut {team} (s : State) : exec (.teamSwapOut team) s = execTeamSwapOut team s := rfl
@[simp] theorem exec_envelope {q idx} (s : State) : exec (.envelope q idx) s = execEnvelope q idx s := rfl
@[simp] theorem exec_qclear {q idx} (s : State) : exec (.qclear q idx) s = execQclear q idx s := rfl
@[simp] theorem exec_power {q idx} (s : State) : exec (.power q idx) s = execPower q idx s := rfl
@[simp] theorem exec_step {q idx} (s : State) : exec (.step q idx) s = execStep q idx s := rfl
@[simp] theorem exec_checkpoint {q idx} (s : State) : exec (.checkpoint q idx) s = execCheckpoint q idx s := rfl
@[simp] theorem exec_restore {q idx} (s : State) : exec (.restore q idx) s = execRestore q idx s := rfl
@[simp] theorem exec_attest {q idx} (s : State) : exec (.attest q idx) s = execAttest q idx s := rfl
@[simp] theorem exec_tenant {q idx} (s : State) : exec (.tenant q idx) s = execTenant q idx s := rfl
@[simp] theorem exec_slotload {q idx} (s : State) : exec (.slotload q idx) s = execSlotload q idx s := rfl
@[simp] theorem exec_fwstage {q idx} (s : State) : exec (.fwstage q idx) s = execFwstage q idx s := rfl
@[simp] theorem exec_peerRequest {r} (s : State) : exec (.peerRequest r) s = execPeerRequest r s := rfl
@[simp] theorem exec_linkDown {link} (s : State) : exec (.linkDown link) s = execLinkDown link s := rfl
@[simp] theorem exec_linkUp {link} (s : State) : exec (.linkUp link) s = execLinkUp link s := rfl
@[simp] theorem exec_powerOn (s : State) : exec (.powerOn) s = execPowerOn s := rfl
@[simp] theorem exec_coreReset {core} (s : State) : exec (.coreReset core) s = execCoreReset core s := rfl
@[simp] theorem exec_softError {place correctable} (s : State) : exec (.softError place correctable) s = execSoftError place correctable s := rfl
@[simp] theorem exec_sparePageCopy {page} (s : State) : exec (.sparePageCopy page) s = execSparePageCopy page s := rfl
@[simp] theorem exec_checkpointCompletion {q idx} (s : State) : exec (.checkpointCompletion q idx) s = execCheckpointCompletion q idx s := rfl

end Sys2Proof.Machine
end

