-- ==== Sys2Proof/Laws/Sparse.lean ====
section
/-!
SUPPORT. The laws of sparse tables: a read after a write, other entries left alone, and the canonical form kept.
-/

namespace Sys2Proof

variable {α : Type}

@[simp] theorem Sparse.get_nil (d : α) (k : Nat) : Sparse.get d [] k = d := rfl

theorem Sparse.get_cons (d : α) (j : Nat) (v : α) (m : Sparse α) (k : Nat) :
    Sparse.get d ((j, v) :: m) k = if j = k then v else Sparse.get d m k := rfl

theorem Sparse.get_insert (d : α) (m : Sparse α) (k : Nat) (v : α) (l : Nat) :
    Sparse.get d (m.insert k v) l = if l = k then v else Sparse.get d m l := by
  induction m with
  | nil => simp [Sparse.insert, Sparse.get_cons, eq_comm]
  | cons x m ih =>
    obtain ⟨j, w⟩ := x
    simp only [Sparse.insert]
    split
    · simp only [Sparse.get_cons, eq_comm]
    · split
      · next h =>
        subst h
        simp only [Sparse.get_cons]
        by_cases hl : j = l
        · simp [hl]
        · simp [hl, Ne.symm hl]
      · next h =>
        simp only [Sparse.get_cons, ih]
        by_cases hl : j = l
        · subst hl; simp [h]
        · simp [hl]

theorem Sparse.get_filter_ne (d : α) (m : Sparse α) (k l : Nat) :
    Sparse.get d (m.filter fun x => x.1 ≠ k) l = if l = k then d else Sparse.get d m l := by
  induction m with
  | nil => simp
  | cons x m ih =>
    obtain ⟨j, w⟩ := x
    by_cases h : j = k
    · subst h
      rw [List.filter_cons_of_neg (by simp), ih, Sparse.get_cons]
      by_cases hl : l = j
      · simp [hl]
      · simp [hl, Ne.symm hl]
    · rw [List.filter_cons_of_pos (by simp [h]), Sparse.get_cons, Sparse.get_cons, ih]
      by_cases hl : j = l
      · subst hl; simp [h]
      · simp [hl]

/-- A read after a write. -/
theorem Sparse.get_put [DecidableEq α] (d : α) (m : Sparse α) (k : Nat) (v : α) (l : Nat) :
    Sparse.get d (m.put d k v) l = if l = k then v else Sparse.get d m l := by
  unfold Sparse.put
  split
  · next h => subst h; exact Sparse.get_filter_ne v m k l
  · exact Sparse.get_insert d m k v l

@[simp] theorem Sparse.get_put_self [DecidableEq α] (d : α) (m : Sparse α) (k : Nat) (v : α) :
    Sparse.get d (m.put d k v) k = v := by simp [Sparse.get_put]

theorem Sparse.get_put_ne [DecidableEq α] (d : α) (m : Sparse α) {k l : Nat} (v : α) (h : l ≠ k) :
    Sparse.get d (m.put d k v) l = Sparse.get d m l := by simp [Sparse.get_put, h]

/-! The canonical form. -/

theorem Sparse.wfFrom_mono [DecidableEq α] {d : α} {m : Sparse α} {a b : Nat} (h : Sparse.wfFrom d b m = true) (hab : a ≤ b) :
    Sparse.wfFrom d a m = true := by
  cases m with
  | nil => rfl
  | cons x m =>
    simp only [Sparse.wfFrom, Bool.and_eq_true, decide_eq_true_eq] at h ⊢
    exact ⟨⟨Nat.le_trans hab h.1.1, h.1.2⟩, h.2⟩

theorem Sparse.wfFrom_filter [DecidableEq α] {d : α} (p : Nat × α → Bool) {m : Sparse α} {a : Nat} (h : Sparse.wfFrom d a m = true) :
    Sparse.wfFrom d a (m.filter p) = true := by
  induction m generalizing a with
  | nil => rfl
  | cons x m ih =>
    simp only [Sparse.wfFrom, Bool.and_eq_true, decide_eq_true_eq] at h
    simp only [List.filter_cons]
    split
    · simp only [Sparse.wfFrom, Bool.and_eq_true, decide_eq_true_eq]
      exact ⟨h.1, ih h.2⟩
    · exact Sparse.wfFrom_mono (ih h.2) (by omega)

theorem Sparse.wfFrom_insert [DecidableEq α] {d : α} {m : Sparse α} {a k : Nat} {v : α} (h : Sparse.wfFrom d a m = true) (hk : a ≤ k)
    (hv : v ≠ d) : Sparse.wfFrom d a (m.insert k v) = true := by
  induction m generalizing a with
  | nil => simp [Sparse.insert, Sparse.wfFrom, hk, hv]
  | cons x m ih =>
    obtain ⟨j, w⟩ := x
    simp only [Sparse.wfFrom, Bool.and_eq_true, decide_eq_true_eq] at h
    simp only [Sparse.insert]
    split
    · simp only [Sparse.wfFrom, Bool.and_eq_true, decide_eq_true_eq]
      exact ⟨⟨hk, hv⟩, ⟨by omega, h.1.2⟩, h.2⟩
    · split
      · next hjk =>
        subst hjk
        simp only [Sparse.wfFrom, Bool.and_eq_true, decide_eq_true_eq]
        exact ⟨⟨hk, hv⟩, h.2⟩
      · simp only [Sparse.wfFrom, Bool.and_eq_true, decide_eq_true_eq]
        exact ⟨h.1, ih h.2 (by omega)⟩

/-- A write keeps the canonical form. -/
theorem Sparse.wf_put [DecidableEq α] {d : α} {m : Sparse α} (h : Sparse.wf d m = true) (k : Nat) (v : α) :
    Sparse.wf d (m.put d k v) = true := by
  unfold Sparse.put
  split
  · exact Sparse.wfFrom_filter _ h
  · next hv => exact Sparse.wfFrom_insert h (Nat.zero_le k) hv

theorem Sparse.wf_filter [DecidableEq α] {d : α} {m : Sparse α} (p : Nat × α → Bool) (h : Sparse.wf d m = true) :
    Sparse.wf d (m.filter p) = true := Sparse.wfFrom_filter p h

/-! Two canonical tables that read alike are the same list. -/

theorem Sparse.get_below [DecidableEq α] {d : α} {m : Sparse α} {a k : Nat} (h : Sparse.wfFrom d a m = true) (hk : k < a) :
    Sparse.get d m k = d := by
  induction m generalizing a with
  | nil => rfl
  | cons x m ih =>
    obtain ⟨j, w⟩ := x
    simp only [Sparse.wfFrom, Bool.and_eq_true, decide_eq_true_eq] at h
    rw [Sparse.get_cons, if_neg (by omega)]
    exact ih h.2 (by omega)

theorem Sparse.ext_of_wfFrom [DecidableEq α] {d : α} {m n : Sparse α} {a : Nat} (hm : Sparse.wfFrom d a m = true)
    (hn : Sparse.wfFrom d a n = true) (h : ∀ k, Sparse.get d m k = Sparse.get d n k) : m = n := by
  induction m generalizing n a with
  | nil =>
    cases n with
    | nil => rfl
    | cons y n =>
      obtain ⟨j, w⟩ := y
      simp only [Sparse.wfFrom, Bool.and_eq_true, decide_eq_true_eq] at hn
      have := h j
      simp [Sparse.get_cons] at this
      exact absurd this.symm hn.1.2
  | cons x m ih =>
    obtain ⟨i, v⟩ := x
    simp only [Sparse.wfFrom, Bool.and_eq_true, decide_eq_true_eq] at hm
    cases n with
    | nil =>
      have := h i
      simp [Sparse.get_cons] at this
      exact absurd this hm.1.2
    | cons y n =>
      obtain ⟨j, w⟩ := y
      simp only [Sparse.wfFrom, Bool.and_eq_true, decide_eq_true_eq] at hn
      have hij : i = j := by
        rcases Nat.lt_trichotomy i j with hlt | heq | hgt
        · have := h i
          rw [Sparse.get_cons, Sparse.get_cons, if_pos rfl, if_neg (by omega), Sparse.get_below hn.2 (by omega)] at this
          exact absurd this hm.1.2
        · exact heq
        · have := h j
          rw [Sparse.get_cons, Sparse.get_cons, if_pos rfl, if_neg (by omega), Sparse.get_below hm.2 (by omega)] at this
          exact absurd this.symm hn.1.2
      subst hij
      have hvw : v = w := by simpa [Sparse.get_cons] using h i
      subst hvw
      have := ih hm.2 hn.2 fun k => by
        by_cases hk : i = k
        · subst hk
          rw [Sparse.get_below hm.2 (Nat.lt_succ_self _), Sparse.get_below hn.2 (Nat.lt_succ_self _)]
        · simpa [Sparse.get_cons, hk] using h k
      rw [this]

/-- Equal memories are equal data. -/
theorem Sparse.ext_of_wf [DecidableEq α] {d : α} {m n : Sparse α} (hm : Sparse.wf d m = true) (hn : Sparse.wf d n = true)
    (h : ∀ k, Sparse.get d m k = Sparse.get d n k) : m = n := Sparse.ext_of_wfFrom hm hn h

end Sys2Proof
end

