-- ==== Sys2Proof/Laws/State.lean ====
section
/-!
SUPPORT. One lemma per field per update of the state, and what each place reads as after an update of another.
-/

namespace Sys2Proof.Machine

/-! setCore. -/

@[simp] theorem State.setCore_now (s : State) (c : Nat) (v : Core) : (s.setCore c v).now = s.now := rfl
@[simp] theorem State.setCore_scan (s : State) (c : Nat) (v : Core) : (s.setCore c v).scan = s.scan := rfl
@[simp] theorem State.setCore_cur (s : State) (c : Nat) (v : Core) : (s.setCore c v).cur = s.cur := rfl
@[simp] theorem State.setCore_clusters (s : State) (c : Nat) (v : Core) : (s.setCore c v).clusters = s.clusters := rfl
@[simp] theorem State.setCore_dies (s : State) (c : Nat) (v : Core) : (s.setCore c v).dies = s.dies := rfl
@[simp] theorem State.setCore_agenda (s : State) (c : Nat) (v : Core) : (s.setCore c v).agenda = s.agenda := rfl
@[simp] theorem State.setCore_seq (s : State) (c : Nat) (v : Core) : (s.setCore c v).seq = s.seq := rfl
@[simp] theorem State.setCore_verdicts (s : State) (c : Nat) (v : Core) : (s.setCore c v).verdicts = s.verdicts := rfl
@[simp] theorem State.setCore_stepChecks (s : State) (c : Nat) (v : Core) : (s.setCore c v).stepChecks = s.stepChecks := rfl
@[simp] theorem State.setCore_slack (s : State) (c : Nat) (v : Core) : (s.setCore c v).slack = s.slack := rfl
@[simp] theorem State.setCore_rafterBad (s : State) (c : Nat) (v : Core) : (s.setCore c v).rafterBad = s.rafterBad := rfl
@[simp] theorem State.setCore_fresh (s : State) (c : Nat) (v : Core) : (s.setCore c v).fresh = s.fresh := rfl
@[simp] theorem State.setCore_phys (s : State) (c : Nat) (v : Core) : (s.setCore c v).phys = s.phys := rfl
@[simp] theorem State.setCore_errs (s : State) (c : Nat) (v : Core) : (s.setCore c v).errs = s.errs := rfl
@[simp] theorem State.setCore_poison (s : State) (c : Nat) (v : Core) : (s.setCore c v).poison = s.poison := rfl
@[simp] theorem State.setCore_l1Errs (s : State) (c : Nat) (v : Core) : (s.setCore c v).l1Errs = s.l1Errs := rfl
@[simp] theorem State.setCore_localErrs (s : State) (c : Nat) (v : Core) : (s.setCore c v).localErrs = s.localErrs := rfl
@[simp] theorem State.setCore_storeErrs (s : State) (c : Nat) (v : Core) : (s.setCore c v).storeErrs = s.storeErrs := rfl
@[simp] theorem State.setCore_retired (s : State) (c : Nat) (v : Core) : (s.setCore c v).retired = s.retired := rfl
@[simp] theorem State.setCore_teams (s : State) (c : Nat) (v : Core) : (s.setCore c v).teams = s.teams := rfl
@[simp] theorem State.setCore_meshes (s : State) (c : Nat) (v : Core) : (s.setCore c v).meshes = s.meshes := rfl
@[simp] theorem State.setCore_hq (s : State) (c : Nat) (v : Core) : (s.setCore c v).hq = s.hq := rfl
@[simp] theorem State.setCore_hqWait (s : State) (c : Nat) (v : Core) : (s.setCore c v).hqWait = s.hqWait := rfl
@[simp] theorem State.setCore_hqRun (s : State) (c : Nat) (v : Core) : (s.setCore c v).hqRun = s.hqRun := rfl
@[simp] theorem State.setCore_budgets (s : State) (c : Nat) (v : Core) : (s.setCore c v).budgets = s.budgets := rfl
@[simp] theorem State.setCore_pkg (s : State) (c : Nat) (v : Core) : (s.setCore c v).pkg = s.pkg := rfl
@[simp] theorem State.setCore_hostMem (s : State) (c : Nat) (v : Core) : (s.setCore c v).hostMem = s.hostMem := rfl
@[simp] theorem State.setCore_power (s : State) (c : Nat) (v : Core) : (s.setCore c v).power = s.power := rfl
@[simp] theorem State.setCore_boot (s : State) (c : Nat) (v : Core) : (s.setCore c v).boot = s.boot := rfl
@[simp] theorem State.setCore_flash (s : State) (c : Nat) (v : Core) : (s.setCore c v).flash = s.flash := rfl
@[simp] theorem State.setCore_links (s : State) (c : Nat) (v : Core) : (s.setCore c v).links = s.links := rfl
@[simp] theorem State.setCore_linkWait (s : State) (c : Nat) (v : Core) : (s.setCore c v).linkWait = s.linkWait := rfl
@[simp] theorem State.setCore_cxl (s : State) (c : Nat) (v : Core) : (s.setCore c v).cxl = s.cxl := rfl
@[simp] theorem State.setCore_usec (s : State) (c : Nat) (v : Core) : (s.setCore c v).usec = s.usec := rfl
@[simp] theorem State.setCore_usecPhase (s : State) (c : Nat) (v : Core) : (s.setCore c v).usecPhase = s.usecPhase := rfl
@[simp] theorem State.setCore_suspended (s : State) (c : Nat) (v : Core) : (s.setCore c v).suspended = s.suspended := rfl

/-! modCore. -/

@[simp] theorem State.modCore_now (s : State) (c : Nat) (f : Core → Core) : (s.modCore c f).now = s.now := rfl
@[simp] theorem State.modCore_scan (s : State) (c : Nat) (f : Core → Core) : (s.modCore c f).scan = s.scan := rfl
@[simp] theorem State.modCore_cur (s : State) (c : Nat) (f : Core → Core) : (s.modCore c f).cur = s.cur := rfl
@[simp] theorem State.modCore_clusters (s : State) (c : Nat) (f : Core → Core) : (s.modCore c f).clusters = s.clusters := rfl
@[simp] theorem State.modCore_dies (s : State) (c : Nat) (f : Core → Core) : (s.modCore c f).dies = s.dies := rfl
@[simp] theorem State.modCore_agenda (s : State) (c : Nat) (f : Core → Core) : (s.modCore c f).agenda = s.agenda := rfl
@[simp] theorem State.modCore_seq (s : State) (c : Nat) (f : Core → Core) : (s.modCore c f).seq = s.seq := rfl
@[simp] theorem State.modCore_verdicts (s : State) (c : Nat) (f : Core → Core) : (s.modCore c f).verdicts = s.verdicts := rfl
@[simp] theorem State.modCore_stepChecks (s : State) (c : Nat) (f : Core → Core) : (s.modCore c f).stepChecks = s.stepChecks := rfl
@[simp] theorem State.modCore_slack (s : State) (c : Nat) (f : Core → Core) : (s.modCore c f).slack = s.slack := rfl
@[simp] theorem State.modCore_rafterBad (s : State) (c : Nat) (f : Core → Core) : (s.modCore c f).rafterBad = s.rafterBad := rfl
@[simp] theorem State.modCore_fresh (s : State) (c : Nat) (f : Core → Core) : (s.modCore c f).fresh = s.fresh := rfl
@[simp] theorem State.modCore_phys (s : State) (c : Nat) (f : Core → Core) : (s.modCore c f).phys = s.phys := rfl
@[simp] theorem State.modCore_errs (s : State) (c : Nat) (f : Core → Core) : (s.modCore c f).errs = s.errs := rfl
@[simp] theorem State.modCore_poison (s : State) (c : Nat) (f : Core → Core) : (s.modCore c f).poison = s.poison := rfl
@[simp] theorem State.modCore_l1Errs (s : State) (c : Nat) (f : Core → Core) : (s.modCore c f).l1Errs = s.l1Errs := rfl
@[simp] theorem State.modCore_localErrs (s : State) (c : Nat) (f : Core → Core) : (s.modCore c f).localErrs = s.localErrs := rfl
@[simp] theorem State.modCore_storeErrs (s : State) (c : Nat) (f : Core → Core) : (s.modCore c f).storeErrs = s.storeErrs := rfl
@[simp] theorem State.modCore_retired (s : State) (c : Nat) (f : Core → Core) : (s.modCore c f).retired = s.retired := rfl
@[simp] theorem State.modCore_teams (s : State) (c : Nat) (f : Core → Core) : (s.modCore c f).teams = s.teams := rfl
@[simp] theorem State.modCore_meshes (s : State) (c : Nat) (f : Core → Core) : (s.modCore c f).meshes = s.meshes := rfl
@[simp] theorem State.modCore_hq (s : State) (c : Nat) (f : Core → Core) : (s.modCore c f).hq = s.hq := rfl
@[simp] theorem State.modCore_hqWait (s : State) (c : Nat) (f : Core → Core) : (s.modCore c f).hqWait = s.hqWait := rfl
@[simp] theorem State.modCore_hqRun (s : State) (c : Nat) (f : Core → Core) : (s.modCore c f).hqRun = s.hqRun := rfl
@[simp] theorem State.modCore_budgets (s : State) (c : Nat) (f : Core → Core) : (s.modCore c f).budgets = s.budgets := rfl
@[simp] theorem State.modCore_pkg (s : State) (c : Nat) (f : Core → Core) : (s.modCore c f).pkg = s.pkg := rfl
@[simp] theorem State.modCore_hostMem (s : State) (c : Nat) (f : Core → Core) : (s.modCore c f).hostMem = s.hostMem := rfl
@[simp] theorem State.modCore_power (s : State) (c : Nat) (f : Core → Core) : (s.modCore c f).power = s.power := rfl
@[simp] theorem State.modCore_boot (s : State) (c : Nat) (f : Core → Core) : (s.modCore c f).boot = s.boot := rfl
@[simp] theorem State.modCore_flash (s : State) (c : Nat) (f : Core → Core) : (s.modCore c f).flash = s.flash := rfl
@[simp] theorem State.modCore_links (s : State) (c : Nat) (f : Core → Core) : (s.modCore c f).links = s.links := rfl
@[simp] theorem State.modCore_linkWait (s : State) (c : Nat) (f : Core → Core) : (s.modCore c f).linkWait = s.linkWait := rfl
@[simp] theorem State.modCore_cxl (s : State) (c : Nat) (f : Core → Core) : (s.modCore c f).cxl = s.cxl := rfl
@[simp] theorem State.modCore_usec (s : State) (c : Nat) (f : Core → Core) : (s.modCore c f).usec = s.usec := rfl
@[simp] theorem State.modCore_usecPhase (s : State) (c : Nat) (f : Core → Core) : (s.modCore c f).usecPhase = s.usecPhase := rfl
@[simp] theorem State.modCore_suspended (s : State) (c : Nat) (f : Core → Core) : (s.modCore c f).suspended = s.suspended := rfl

/-! modCluster. -/

@[simp] theorem State.modCluster_now (s : State) (c : Nat) (f : Cluster → Cluster) : (s.modCluster c f).now = s.now := rfl
@[simp] theorem State.modCluster_scan (s : State) (c : Nat) (f : Cluster → Cluster) : (s.modCluster c f).scan = s.scan := rfl
@[simp] theorem State.modCluster_cur (s : State) (c : Nat) (f : Cluster → Cluster) : (s.modCluster c f).cur = s.cur := rfl
@[simp] theorem State.modCluster_cores (s : State) (c : Nat) (f : Cluster → Cluster) : (s.modCluster c f).cores = s.cores := rfl
@[simp] theorem State.modCluster_dies (s : State) (c : Nat) (f : Cluster → Cluster) : (s.modCluster c f).dies = s.dies := rfl
@[simp] theorem State.modCluster_agenda (s : State) (c : Nat) (f : Cluster → Cluster) : (s.modCluster c f).agenda = s.agenda := rfl
@[simp] theorem State.modCluster_seq (s : State) (c : Nat) (f : Cluster → Cluster) : (s.modCluster c f).seq = s.seq := rfl
@[simp] theorem State.modCluster_verdicts (s : State) (c : Nat) (f : Cluster → Cluster) : (s.modCluster c f).verdicts = s.verdicts := rfl
@[simp] theorem State.modCluster_stepChecks (s : State) (c : Nat) (f : Cluster → Cluster) : (s.modCluster c f).stepChecks = s.stepChecks := rfl
@[simp] theorem State.modCluster_slack (s : State) (c : Nat) (f : Cluster → Cluster) : (s.modCluster c f).slack = s.slack := rfl
@[simp] theorem State.modCluster_rafterBad (s : State) (c : Nat) (f : Cluster → Cluster) : (s.modCluster c f).rafterBad = s.rafterBad := rfl
@[simp] theorem State.modCluster_fresh (s : State) (c : Nat) (f : Cluster → Cluster) : (s.modCluster c f).fresh = s.fresh := rfl
@[simp] theorem State.modCluster_phys (s : State) (c : Nat) (f : Cluster → Cluster) : (s.modCluster c f).phys = s.phys := rfl
@[simp] theorem State.modCluster_errs (s : State) (c : Nat) (f : Cluster → Cluster) : (s.modCluster c f).errs = s.errs := rfl
@[simp] theorem State.modCluster_poison (s : State) (c : Nat) (f : Cluster → Cluster) : (s.modCluster c f).poison = s.poison := rfl
@[simp] theorem State.modCluster_l1Errs (s : State) (c : Nat) (f : Cluster → Cluster) : (s.modCluster c f).l1Errs = s.l1Errs := rfl
@[simp] theorem State.modCluster_localErrs (s : State) (c : Nat) (f : Cluster → Cluster) : (s.modCluster c f).localErrs = s.localErrs := rfl
@[simp] theorem State.modCluster_storeErrs (s : State) (c : Nat) (f : Cluster → Cluster) : (s.modCluster c f).storeErrs = s.storeErrs := rfl
@[simp] theorem State.modCluster_retired (s : State) (c : Nat) (f : Cluster → Cluster) : (s.modCluster c f).retired = s.retired := rfl
@[simp] theorem State.modCluster_teams (s : State) (c : Nat) (f : Cluster → Cluster) : (s.modCluster c f).teams = s.teams := rfl
@[simp] theorem State.modCluster_meshes (s : State) (c : Nat) (f : Cluster → Cluster) : (s.modCluster c f).meshes = s.meshes := rfl
@[simp] theorem State.modCluster_hq (s : State) (c : Nat) (f : Cluster → Cluster) : (s.modCluster c f).hq = s.hq := rfl
@[simp] theorem State.modCluster_hqWait (s : State) (c : Nat) (f : Cluster → Cluster) : (s.modCluster c f).hqWait = s.hqWait := rfl
@[simp] theorem State.modCluster_hqRun (s : State) (c : Nat) (f : Cluster → Cluster) : (s.modCluster c f).hqRun = s.hqRun := rfl
@[simp] theorem State.modCluster_budgets (s : State) (c : Nat) (f : Cluster → Cluster) : (s.modCluster c f).budgets = s.budgets := rfl
@[simp] theorem State.modCluster_pkg (s : State) (c : Nat) (f : Cluster → Cluster) : (s.modCluster c f).pkg = s.pkg := rfl
@[simp] theorem State.modCluster_hostMem (s : State) (c : Nat) (f : Cluster → Cluster) : (s.modCluster c f).hostMem = s.hostMem := rfl
@[simp] theorem State.modCluster_power (s : State) (c : Nat) (f : Cluster → Cluster) : (s.modCluster c f).power = s.power := rfl
@[simp] theorem State.modCluster_boot (s : State) (c : Nat) (f : Cluster → Cluster) : (s.modCluster c f).boot = s.boot := rfl
@[simp] theorem State.modCluster_flash (s : State) (c : Nat) (f : Cluster → Cluster) : (s.modCluster c f).flash = s.flash := rfl
@[simp] theorem State.modCluster_links (s : State) (c : Nat) (f : Cluster → Cluster) : (s.modCluster c f).links = s.links := rfl
@[simp] theorem State.modCluster_linkWait (s : State) (c : Nat) (f : Cluster → Cluster) : (s.modCluster c f).linkWait = s.linkWait := rfl
@[simp] theorem State.modCluster_cxl (s : State) (c : Nat) (f : Cluster → Cluster) : (s.modCluster c f).cxl = s.cxl := rfl
@[simp] theorem State.modCluster_usec (s : State) (c : Nat) (f : Cluster → Cluster) : (s.modCluster c f).usec = s.usec := rfl
@[simp] theorem State.modCluster_usecPhase (s : State) (c : Nat) (f : Cluster → Cluster) : (s.modCluster c f).usecPhase = s.usecPhase := rfl
@[simp] theorem State.modCluster_suspended (s : State) (c : Nat) (f : Cluster → Cluster) : (s.modCluster c f).suspended = s.suspended := rfl

/-! modDie. -/

@[simp] theorem State.modDie_now (s : State) (d : Nat) (f : Die → Die) : (s.modDie d f).now = s.now := rfl
@[simp] theorem State.modDie_scan (s : State) (d : Nat) (f : Die → Die) : (s.modDie d f).scan = s.scan := rfl
@[simp] theorem State.modDie_cur (s : State) (d : Nat) (f : Die → Die) : (s.modDie d f).cur = s.cur := rfl
@[simp] theorem State.modDie_cores (s : State) (d : Nat) (f : Die → Die) : (s.modDie d f).cores = s.cores := rfl
@[simp] theorem State.modDie_clusters (s : State) (d : Nat) (f : Die → Die) : (s.modDie d f).clusters = s.clusters := rfl
@[simp] theorem State.modDie_agenda (s : State) (d : Nat) (f : Die → Die) : (s.modDie d f).agenda = s.agenda := rfl
@[simp] theorem State.modDie_seq (s : State) (d : Nat) (f : Die → Die) : (s.modDie d f).seq = s.seq := rfl
@[simp] theorem State.modDie_verdicts (s : State) (d : Nat) (f : Die → Die) : (s.modDie d f).verdicts = s.verdicts := rfl
@[simp] theorem State.modDie_stepChecks (s : State) (d : Nat) (f : Die → Die) : (s.modDie d f).stepChecks = s.stepChecks := rfl
@[simp] theorem State.modDie_slack (s : State) (d : Nat) (f : Die → Die) : (s.modDie d f).slack = s.slack := rfl
@[simp] theorem State.modDie_rafterBad (s : State) (d : Nat) (f : Die → Die) : (s.modDie d f).rafterBad = s.rafterBad := rfl
@[simp] theorem State.modDie_fresh (s : State) (d : Nat) (f : Die → Die) : (s.modDie d f).fresh = s.fresh := rfl
@[simp] theorem State.modDie_phys (s : State) (d : Nat) (f : Die → Die) : (s.modDie d f).phys = s.phys := rfl
@[simp] theorem State.modDie_errs (s : State) (d : Nat) (f : Die → Die) : (s.modDie d f).errs = s.errs := rfl
@[simp] theorem State.modDie_poison (s : State) (d : Nat) (f : Die → Die) : (s.modDie d f).poison = s.poison := rfl
@[simp] theorem State.modDie_l1Errs (s : State) (d : Nat) (f : Die → Die) : (s.modDie d f).l1Errs = s.l1Errs := rfl
@[simp] theorem State.modDie_localErrs (s : State) (d : Nat) (f : Die → Die) : (s.modDie d f).localErrs = s.localErrs := rfl
@[simp] theorem State.modDie_storeErrs (s : State) (d : Nat) (f : Die → Die) : (s.modDie d f).storeErrs = s.storeErrs := rfl
@[simp] theorem State.modDie_retired (s : State) (d : Nat) (f : Die → Die) : (s.modDie d f).retired = s.retired := rfl
@[simp] theorem State.modDie_teams (s : State) (d : Nat) (f : Die → Die) : (s.modDie d f).teams = s.teams := rfl
@[simp] theorem State.modDie_meshes (s : State) (d : Nat) (f : Die → Die) : (s.modDie d f).meshes = s.meshes := rfl
@[simp] theorem State.modDie_hq (s : State) (d : Nat) (f : Die → Die) : (s.modDie d f).hq = s.hq := rfl
@[simp] theorem State.modDie_hqWait (s : State) (d : Nat) (f : Die → Die) : (s.modDie d f).hqWait = s.hqWait := rfl
@[simp] theorem State.modDie_hqRun (s : State) (d : Nat) (f : Die → Die) : (s.modDie d f).hqRun = s.hqRun := rfl
@[simp] theorem State.modDie_budgets (s : State) (d : Nat) (f : Die → Die) : (s.modDie d f).budgets = s.budgets := rfl
@[simp] theorem State.modDie_pkg (s : State) (d : Nat) (f : Die → Die) : (s.modDie d f).pkg = s.pkg := rfl
@[simp] theorem State.modDie_hostMem (s : State) (d : Nat) (f : Die → Die) : (s.modDie d f).hostMem = s.hostMem := rfl
@[simp] theorem State.modDie_power (s : State) (d : Nat) (f : Die → Die) : (s.modDie d f).power = s.power := rfl
@[simp] theorem State.modDie_boot (s : State) (d : Nat) (f : Die → Die) : (s.modDie d f).boot = s.boot := rfl
@[simp] theorem State.modDie_flash (s : State) (d : Nat) (f : Die → Die) : (s.modDie d f).flash = s.flash := rfl
@[simp] theorem State.modDie_links (s : State) (d : Nat) (f : Die → Die) : (s.modDie d f).links = s.links := rfl
@[simp] theorem State.modDie_linkWait (s : State) (d : Nat) (f : Die → Die) : (s.modDie d f).linkWait = s.linkWait := rfl
@[simp] theorem State.modDie_cxl (s : State) (d : Nat) (f : Die → Die) : (s.modDie d f).cxl = s.cxl := rfl
@[simp] theorem State.modDie_usec (s : State) (d : Nat) (f : Die → Die) : (s.modDie d f).usec = s.usec := rfl
@[simp] theorem State.modDie_usecPhase (s : State) (d : Nat) (f : Die → Die) : (s.modDie d f).usecPhase = s.usecPhase := rfl
@[simp] theorem State.modDie_suspended (s : State) (d : Nat) (f : Die → Die) : (s.modDie d f).suspended = s.suspended := rfl

/-! modSlot. -/

@[simp] theorem State.modSlot_now (s : State) (t : Tid) (f : Slot → Slot) : (s.modSlot t f).now = s.now := rfl
@[simp] theorem State.modSlot_scan (s : State) (t : Tid) (f : Slot → Slot) : (s.modSlot t f).scan = s.scan := rfl
@[simp] theorem State.modSlot_cur (s : State) (t : Tid) (f : Slot → Slot) : (s.modSlot t f).cur = s.cur := rfl
@[simp] theorem State.modSlot_clusters (s : State) (t : Tid) (f : Slot → Slot) : (s.modSlot t f).clusters = s.clusters := rfl
@[simp] theorem State.modSlot_dies (s : State) (t : Tid) (f : Slot → Slot) : (s.modSlot t f).dies = s.dies := rfl
@[simp] theorem State.modSlot_agenda (s : State) (t : Tid) (f : Slot → Slot) : (s.modSlot t f).agenda = s.agenda := rfl
@[simp] theorem State.modSlot_seq (s : State) (t : Tid) (f : Slot → Slot) : (s.modSlot t f).seq = s.seq := rfl
@[simp] theorem State.modSlot_verdicts (s : State) (t : Tid) (f : Slot → Slot) : (s.modSlot t f).verdicts = s.verdicts := rfl
@[simp] theorem State.modSlot_stepChecks (s : State) (t : Tid) (f : Slot → Slot) : (s.modSlot t f).stepChecks = s.stepChecks := rfl
@[simp] theorem State.modSlot_slack (s : State) (t : Tid) (f : Slot → Slot) : (s.modSlot t f).slack = s.slack := rfl
@[simp] theorem State.modSlot_rafterBad (s : State) (t : Tid) (f : Slot → Slot) : (s.modSlot t f).rafterBad = s.rafterBad := rfl
@[simp] theorem State.modSlot_fresh (s : State) (t : Tid) (f : Slot → Slot) : (s.modSlot t f).fresh = s.fresh := rfl
@[simp] theorem State.modSlot_phys (s : State) (t : Tid) (f : Slot → Slot) : (s.modSlot t f).phys = s.phys := rfl
@[simp] theorem State.modSlot_errs (s : State) (t : Tid) (f : Slot → Slot) : (s.modSlot t f).errs = s.errs := rfl
@[simp] theorem State.modSlot_poison (s : State) (t : Tid) (f : Slot → Slot) : (s.modSlot t f).poison = s.poison := rfl
@[simp] theorem State.modSlot_l1Errs (s : State) (t : Tid) (f : Slot → Slot) : (s.modSlot t f).l1Errs = s.l1Errs := rfl
@[simp] theorem State.modSlot_localErrs (s : State) (t : Tid) (f : Slot → Slot) : (s.modSlot t f).localErrs = s.localErrs := rfl
@[simp] theorem State.modSlot_storeErrs (s : State) (t : Tid) (f : Slot → Slot) : (s.modSlot t f).storeErrs = s.storeErrs := rfl
@[simp] theorem State.modSlot_retired (s : State) (t : Tid) (f : Slot → Slot) : (s.modSlot t f).retired = s.retired := rfl
@[simp] theorem State.modSlot_teams (s : State) (t : Tid) (f : Slot → Slot) : (s.modSlot t f).teams = s.teams := rfl
@[simp] theorem State.modSlot_meshes (s : State) (t : Tid) (f : Slot → Slot) : (s.modSlot t f).meshes = s.meshes := rfl
@[simp] theorem State.modSlot_hq (s : State) (t : Tid) (f : Slot → Slot) : (s.modSlot t f).hq = s.hq := rfl
@[simp] theorem State.modSlot_hqWait (s : State) (t : Tid) (f : Slot → Slot) : (s.modSlot t f).hqWait = s.hqWait := rfl
@[simp] theorem State.modSlot_hqRun (s : State) (t : Tid) (f : Slot → Slot) : (s.modSlot t f).hqRun = s.hqRun := rfl
@[simp] theorem State.modSlot_budgets (s : State) (t : Tid) (f : Slot → Slot) : (s.modSlot t f).budgets = s.budgets := rfl
@[simp] theorem State.modSlot_pkg (s : State) (t : Tid) (f : Slot → Slot) : (s.modSlot t f).pkg = s.pkg := rfl
@[simp] theorem State.modSlot_hostMem (s : State) (t : Tid) (f : Slot → Slot) : (s.modSlot t f).hostMem = s.hostMem := rfl
@[simp] theorem State.modSlot_power (s : State) (t : Tid) (f : Slot → Slot) : (s.modSlot t f).power = s.power := rfl
@[simp] theorem State.modSlot_boot (s : State) (t : Tid) (f : Slot → Slot) : (s.modSlot t f).boot = s.boot := rfl
@[simp] theorem State.modSlot_flash (s : State) (t : Tid) (f : Slot → Slot) : (s.modSlot t f).flash = s.flash := rfl
@[simp] theorem State.modSlot_links (s : State) (t : Tid) (f : Slot → Slot) : (s.modSlot t f).links = s.links := rfl
@[simp] theorem State.modSlot_linkWait (s : State) (t : Tid) (f : Slot → Slot) : (s.modSlot t f).linkWait = s.linkWait := rfl
@[simp] theorem State.modSlot_cxl (s : State) (t : Tid) (f : Slot → Slot) : (s.modSlot t f).cxl = s.cxl := rfl
@[simp] theorem State.modSlot_usec (s : State) (t : Tid) (f : Slot → Slot) : (s.modSlot t f).usec = s.usec := rfl
@[simp] theorem State.modSlot_usecPhase (s : State) (t : Tid) (f : Slot → Slot) : (s.modSlot t f).usecPhase = s.usecPhase := rfl
@[simp] theorem State.modSlot_suspended (s : State) (t : Tid) (f : Slot → Slot) : (s.modSlot t f).suspended = s.suspended := rfl

/-! modCtx. -/

@[simp] theorem State.modCtx_now (s : State) (t : Tid) (f : Ctx → Ctx) : (s.modCtx t f).now = s.now := rfl
@[simp] theorem State.modCtx_scan (s : State) (t : Tid) (f : Ctx → Ctx) : (s.modCtx t f).scan = s.scan := rfl
@[simp] theorem State.modCtx_cur (s : State) (t : Tid) (f : Ctx → Ctx) : (s.modCtx t f).cur = s.cur := rfl
@[simp] theorem State.modCtx_clusters (s : State) (t : Tid) (f : Ctx → Ctx) : (s.modCtx t f).clusters = s.clusters := rfl
@[simp] theorem State.modCtx_dies (s : State) (t : Tid) (f : Ctx → Ctx) : (s.modCtx t f).dies = s.dies := rfl
@[simp] theorem State.modCtx_agenda (s : State) (t : Tid) (f : Ctx → Ctx) : (s.modCtx t f).agenda = s.agenda := rfl
@[simp] theorem State.modCtx_seq (s : State) (t : Tid) (f : Ctx → Ctx) : (s.modCtx t f).seq = s.seq := rfl
@[simp] theorem State.modCtx_verdicts (s : State) (t : Tid) (f : Ctx → Ctx) : (s.modCtx t f).verdicts = s.verdicts := rfl
@[simp] theorem State.modCtx_stepChecks (s : State) (t : Tid) (f : Ctx → Ctx) : (s.modCtx t f).stepChecks = s.stepChecks := rfl
@[simp] theorem State.modCtx_slack (s : State) (t : Tid) (f : Ctx → Ctx) : (s.modCtx t f).slack = s.slack := rfl
@[simp] theorem State.modCtx_rafterBad (s : State) (t : Tid) (f : Ctx → Ctx) : (s.modCtx t f).rafterBad = s.rafterBad := rfl
@[simp] theorem State.modCtx_fresh (s : State) (t : Tid) (f : Ctx → Ctx) : (s.modCtx t f).fresh = s.fresh := rfl
@[simp] theorem State.modCtx_phys (s : State) (t : Tid) (f : Ctx → Ctx) : (s.modCtx t f).phys = s.phys := rfl
@[simp] theorem State.modCtx_errs (s : State) (t : Tid) (f : Ctx → Ctx) : (s.modCtx t f).errs = s.errs := rfl
@[simp] theorem State.modCtx_poison (s : State) (t : Tid) (f : Ctx → Ctx) : (s.modCtx t f).poison = s.poison := rfl
@[simp] theorem State.modCtx_l1Errs (s : State) (t : Tid) (f : Ctx → Ctx) : (s.modCtx t f).l1Errs = s.l1Errs := rfl
@[simp] theorem State.modCtx_localErrs (s : State) (t : Tid) (f : Ctx → Ctx) : (s.modCtx t f).localErrs = s.localErrs := rfl
@[simp] theorem State.modCtx_storeErrs (s : State) (t : Tid) (f : Ctx → Ctx) : (s.modCtx t f).storeErrs = s.storeErrs := rfl
@[simp] theorem State.modCtx_retired (s : State) (t : Tid) (f : Ctx → Ctx) : (s.modCtx t f).retired = s.retired := rfl
@[simp] theorem State.modCtx_teams (s : State) (t : Tid) (f : Ctx → Ctx) : (s.modCtx t f).teams = s.teams := rfl
@[simp] theorem State.modCtx_meshes (s : State) (t : Tid) (f : Ctx → Ctx) : (s.modCtx t f).meshes = s.meshes := rfl
@[simp] theorem State.modCtx_hq (s : State) (t : Tid) (f : Ctx → Ctx) : (s.modCtx t f).hq = s.hq := rfl
@[simp] theorem State.modCtx_hqWait (s : State) (t : Tid) (f : Ctx → Ctx) : (s.modCtx t f).hqWait = s.hqWait := rfl
@[simp] theorem State.modCtx_hqRun (s : State) (t : Tid) (f : Ctx → Ctx) : (s.modCtx t f).hqRun = s.hqRun := rfl
@[simp] theorem State.modCtx_budgets (s : State) (t : Tid) (f : Ctx → Ctx) : (s.modCtx t f).budgets = s.budgets := rfl
@[simp] theorem State.modCtx_pkg (s : State) (t : Tid) (f : Ctx → Ctx) : (s.modCtx t f).pkg = s.pkg := rfl
@[simp] theorem State.modCtx_hostMem (s : State) (t : Tid) (f : Ctx → Ctx) : (s.modCtx t f).hostMem = s.hostMem := rfl
@[simp] theorem State.modCtx_power (s : State) (t : Tid) (f : Ctx → Ctx) : (s.modCtx t f).power = s.power := rfl
@[simp] theorem State.modCtx_boot (s : State) (t : Tid) (f : Ctx → Ctx) : (s.modCtx t f).boot = s.boot := rfl
@[simp] theorem State.modCtx_flash (s : State) (t : Tid) (f : Ctx → Ctx) : (s.modCtx t f).flash = s.flash := rfl
@[simp] theorem State.modCtx_links (s : State) (t : Tid) (f : Ctx → Ctx) : (s.modCtx t f).links = s.links := rfl
@[simp] theorem State.modCtx_linkWait (s : State) (t : Tid) (f : Ctx → Ctx) : (s.modCtx t f).linkWait = s.linkWait := rfl
@[simp] theorem State.modCtx_cxl (s : State) (t : Tid) (f : Ctx → Ctx) : (s.modCtx t f).cxl = s.cxl := rfl
@[simp] theorem State.modCtx_usec (s : State) (t : Tid) (f : Ctx → Ctx) : (s.modCtx t f).usec = s.usec := rfl
@[simp] theorem State.modCtx_usecPhase (s : State) (t : Tid) (f : Ctx → Ctx) : (s.modCtx t f).usecPhase = s.usecPhase := rfl
@[simp] theorem State.modCtx_suspended (s : State) (t : Tid) (f : Ctx → Ctx) : (s.modCtx t f).suspended = s.suspended := rfl

/-! setSt. -/

@[simp] theorem State.setSt_now (s : State) (t : Tid) (v : SlotState) : (s.setSt t v).now = s.now := rfl
@[simp] theorem State.setSt_scan (s : State) (t : Tid) (v : SlotState) : (s.setSt t v).scan = s.scan := rfl
@[simp] theorem State.setSt_cur (s : State) (t : Tid) (v : SlotState) : (s.setSt t v).cur = s.cur := rfl
@[simp] theorem State.setSt_clusters (s : State) (t : Tid) (v : SlotState) : (s.setSt t v).clusters = s.clusters := rfl
@[simp] theorem State.setSt_dies (s : State) (t : Tid) (v : SlotState) : (s.setSt t v).dies = s.dies := rfl
@[simp] theorem State.setSt_agenda (s : State) (t : Tid) (v : SlotState) : (s.setSt t v).agenda = s.agenda := rfl
@[simp] theorem State.setSt_seq (s : State) (t : Tid) (v : SlotState) : (s.setSt t v).seq = s.seq := rfl
@[simp] theorem State.setSt_verdicts (s : State) (t : Tid) (v : SlotState) : (s.setSt t v).verdicts = s.verdicts := rfl
@[simp] theorem State.setSt_stepChecks (s : State) (t : Tid) (v : SlotState) : (s.setSt t v).stepChecks = s.stepChecks := rfl
@[simp] theorem State.setSt_slack (s : State) (t : Tid) (v : SlotState) : (s.setSt t v).slack = s.slack := rfl
@[simp] theorem State.setSt_rafterBad (s : State) (t : Tid) (v : SlotState) : (s.setSt t v).rafterBad = s.rafterBad := rfl
@[simp] theorem State.setSt_fresh (s : State) (t : Tid) (v : SlotState) : (s.setSt t v).fresh = s.fresh := rfl
@[simp] theorem State.setSt_phys (s : State) (t : Tid) (v : SlotState) : (s.setSt t v).phys = s.phys := rfl
@[simp] theorem State.setSt_errs (s : State) (t : Tid) (v : SlotState) : (s.setSt t v).errs = s.errs := rfl
@[simp] theorem State.setSt_poison (s : State) (t : Tid) (v : SlotState) : (s.setSt t v).poison = s.poison := rfl
@[simp] theorem State.setSt_l1Errs (s : State) (t : Tid) (v : SlotState) : (s.setSt t v).l1Errs = s.l1Errs := rfl
@[simp] theorem State.setSt_localErrs (s : State) (t : Tid) (v : SlotState) : (s.setSt t v).localErrs = s.localErrs := rfl
@[simp] theorem State.setSt_storeErrs (s : State) (t : Tid) (v : SlotState) : (s.setSt t v).storeErrs = s.storeErrs := rfl
@[simp] theorem State.setSt_retired (s : State) (t : Tid) (v : SlotState) : (s.setSt t v).retired = s.retired := rfl
@[simp] theorem State.setSt_teams (s : State) (t : Tid) (v : SlotState) : (s.setSt t v).teams = s.teams := rfl
@[simp] theorem State.setSt_meshes (s : State) (t : Tid) (v : SlotState) : (s.setSt t v).meshes = s.meshes := rfl
@[simp] theorem State.setSt_hq (s : State) (t : Tid) (v : SlotState) : (s.setSt t v).hq = s.hq := rfl
@[simp] theorem State.setSt_hqWait (s : State) (t : Tid) (v : SlotState) : (s.setSt t v).hqWait = s.hqWait := rfl
@[simp] theorem State.setSt_hqRun (s : State) (t : Tid) (v : SlotState) : (s.setSt t v).hqRun = s.hqRun := rfl
@[simp] theorem State.setSt_budgets (s : State) (t : Tid) (v : SlotState) : (s.setSt t v).budgets = s.budgets := rfl
@[simp] theorem State.setSt_pkg (s : State) (t : Tid) (v : SlotState) : (s.setSt t v).pkg = s.pkg := rfl
@[simp] theorem State.setSt_hostMem (s : State) (t : Tid) (v : SlotState) : (s.setSt t v).hostMem = s.hostMem := rfl
@[simp] theorem State.setSt_power (s : State) (t : Tid) (v : SlotState) : (s.setSt t v).power = s.power := rfl
@[simp] theorem State.setSt_boot (s : State) (t : Tid) (v : SlotState) : (s.setSt t v).boot = s.boot := rfl
@[simp] theorem State.setSt_flash (s : State) (t : Tid) (v : SlotState) : (s.setSt t v).flash = s.flash := rfl
@[simp] theorem State.setSt_links (s : State) (t : Tid) (v : SlotState) : (s.setSt t v).links = s.links := rfl
@[simp] theorem State.setSt_linkWait (s : State) (t : Tid) (v : SlotState) : (s.setSt t v).linkWait = s.linkWait := rfl
@[simp] theorem State.setSt_cxl (s : State) (t : Tid) (v : SlotState) : (s.setSt t v).cxl = s.cxl := rfl
@[simp] theorem State.setSt_usec (s : State) (t : Tid) (v : SlotState) : (s.setSt t v).usec = s.usec := rfl
@[simp] theorem State.setSt_usecPhase (s : State) (t : Tid) (v : SlotState) : (s.setSt t v).usecPhase = s.usecPhase := rfl
@[simp] theorem State.setSt_suspended (s : State) (t : Tid) (v : SlotState) : (s.setSt t v).suspended = s.suspended := rfl

/-! setTeam. -/

@[simp] theorem State.setTeam_now (s : State) (n : Nat) (t : Option Team) : (s.setTeam n t).now = s.now := rfl
@[simp] theorem State.setTeam_scan (s : State) (n : Nat) (t : Option Team) : (s.setTeam n t).scan = s.scan := rfl
@[simp] theorem State.setTeam_cur (s : State) (n : Nat) (t : Option Team) : (s.setTeam n t).cur = s.cur := rfl
@[simp] theorem State.setTeam_cores (s : State) (n : Nat) (t : Option Team) : (s.setTeam n t).cores = s.cores := rfl
@[simp] theorem State.setTeam_clusters (s : State) (n : Nat) (t : Option Team) : (s.setTeam n t).clusters = s.clusters := rfl
@[simp] theorem State.setTeam_dies (s : State) (n : Nat) (t : Option Team) : (s.setTeam n t).dies = s.dies := rfl
@[simp] theorem State.setTeam_agenda (s : State) (n : Nat) (t : Option Team) : (s.setTeam n t).agenda = s.agenda := rfl
@[simp] theorem State.setTeam_seq (s : State) (n : Nat) (t : Option Team) : (s.setTeam n t).seq = s.seq := rfl
@[simp] theorem State.setTeam_verdicts (s : State) (n : Nat) (t : Option Team) : (s.setTeam n t).verdicts = s.verdicts := rfl
@[simp] theorem State.setTeam_stepChecks (s : State) (n : Nat) (t : Option Team) : (s.setTeam n t).stepChecks = s.stepChecks := rfl
@[simp] theorem State.setTeam_slack (s : State) (n : Nat) (t : Option Team) : (s.setTeam n t).slack = s.slack := rfl
@[simp] theorem State.setTeam_rafterBad (s : State) (n : Nat) (t : Option Team) : (s.setTeam n t).rafterBad = s.rafterBad := rfl
@[simp] theorem State.setTeam_fresh (s : State) (n : Nat) (t : Option Team) : (s.setTeam n t).fresh = s.fresh := rfl
@[simp] theorem State.setTeam_phys (s : State) (n : Nat) (t : Option Team) : (s.setTeam n t).phys = s.phys := rfl
@[simp] theorem State.setTeam_errs (s : State) (n : Nat) (t : Option Team) : (s.setTeam n t).errs = s.errs := rfl
@[simp] theorem State.setTeam_poison (s : State) (n : Nat) (t : Option Team) : (s.setTeam n t).poison = s.poison := rfl
@[simp] theorem State.setTeam_l1Errs (s : State) (n : Nat) (t : Option Team) : (s.setTeam n t).l1Errs = s.l1Errs := rfl
@[simp] theorem State.setTeam_localErrs (s : State) (n : Nat) (t : Option Team) : (s.setTeam n t).localErrs = s.localErrs := rfl
@[simp] theorem State.setTeam_storeErrs (s : State) (n : Nat) (t : Option Team) : (s.setTeam n t).storeErrs = s.storeErrs := rfl
@[simp] theorem State.setTeam_retired (s : State) (n : Nat) (t : Option Team) : (s.setTeam n t).retired = s.retired := rfl
@[simp] theorem State.setTeam_meshes (s : State) (n : Nat) (t : Option Team) : (s.setTeam n t).meshes = s.meshes := rfl
@[simp] theorem State.setTeam_hq (s : State) (n : Nat) (t : Option Team) : (s.setTeam n t).hq = s.hq := rfl
@[simp] theorem State.setTeam_hqWait (s : State) (n : Nat) (t : Option Team) : (s.setTeam n t).hqWait = s.hqWait := rfl
@[simp] theorem State.setTeam_hqRun (s : State) (n : Nat) (t : Option Team) : (s.setTeam n t).hqRun = s.hqRun := rfl
@[simp] theorem State.setTeam_budgets (s : State) (n : Nat) (t : Option Team) : (s.setTeam n t).budgets = s.budgets := rfl
@[simp] theorem State.setTeam_pkg (s : State) (n : Nat) (t : Option Team) : (s.setTeam n t).pkg = s.pkg := rfl
@[simp] theorem State.setTeam_hostMem (s : State) (n : Nat) (t : Option Team) : (s.setTeam n t).hostMem = s.hostMem := rfl
@[simp] theorem State.setTeam_power (s : State) (n : Nat) (t : Option Team) : (s.setTeam n t).power = s.power := rfl
@[simp] theorem State.setTeam_boot (s : State) (n : Nat) (t : Option Team) : (s.setTeam n t).boot = s.boot := rfl
@[simp] theorem State.setTeam_flash (s : State) (n : Nat) (t : Option Team) : (s.setTeam n t).flash = s.flash := rfl
@[simp] theorem State.setTeam_links (s : State) (n : Nat) (t : Option Team) : (s.setTeam n t).links = s.links := rfl
@[simp] theorem State.setTeam_linkWait (s : State) (n : Nat) (t : Option Team) : (s.setTeam n t).linkWait = s.linkWait := rfl
@[simp] theorem State.setTeam_cxl (s : State) (n : Nat) (t : Option Team) : (s.setTeam n t).cxl = s.cxl := rfl
@[simp] theorem State.setTeam_usec (s : State) (n : Nat) (t : Option Team) : (s.setTeam n t).usec = s.usec := rfl
@[simp] theorem State.setTeam_usecPhase (s : State) (n : Nat) (t : Option Team) : (s.setTeam n t).usecPhase = s.usecPhase := rfl
@[simp] theorem State.setTeam_suspended (s : State) (n : Nat) (t : Option Team) : (s.setTeam n t).suspended = s.suspended := rfl

/-! sched. -/

@[simp] theorem State.sched_now (s : State) (due phase : Nat) (ev : Ev) : (s.sched due phase ev).now = s.now := rfl
@[simp] theorem State.sched_scan (s : State) (due phase : Nat) (ev : Ev) : (s.sched due phase ev).scan = s.scan := rfl
@[simp] theorem State.sched_cur (s : State) (due phase : Nat) (ev : Ev) : (s.sched due phase ev).cur = s.cur := rfl
@[simp] theorem State.sched_cores (s : State) (due phase : Nat) (ev : Ev) : (s.sched due phase ev).cores = s.cores := rfl
@[simp] theorem State.sched_clusters (s : State) (due phase : Nat) (ev : Ev) : (s.sched due phase ev).clusters = s.clusters := rfl
@[simp] theorem State.sched_dies (s : State) (due phase : Nat) (ev : Ev) : (s.sched due phase ev).dies = s.dies := rfl
@[simp] theorem State.sched_verdicts (s : State) (due phase : Nat) (ev : Ev) : (s.sched due phase ev).verdicts = s.verdicts := rfl
@[simp] theorem State.sched_stepChecks (s : State) (due phase : Nat) (ev : Ev) : (s.sched due phase ev).stepChecks = s.stepChecks := rfl
@[simp] theorem State.sched_slack (s : State) (due phase : Nat) (ev : Ev) : (s.sched due phase ev).slack = s.slack := rfl
@[simp] theorem State.sched_rafterBad (s : State) (due phase : Nat) (ev : Ev) : (s.sched due phase ev).rafterBad = s.rafterBad := rfl
@[simp] theorem State.sched_fresh (s : State) (due phase : Nat) (ev : Ev) : (s.sched due phase ev).fresh = s.fresh := rfl
@[simp] theorem State.sched_phys (s : State) (due phase : Nat) (ev : Ev) : (s.sched due phase ev).phys = s.phys := rfl
@[simp] theorem State.sched_errs (s : State) (due phase : Nat) (ev : Ev) : (s.sched due phase ev).errs = s.errs := rfl
@[simp] theorem State.sched_poison (s : State) (due phase : Nat) (ev : Ev) : (s.sched due phase ev).poison = s.poison := rfl
@[simp] theorem State.sched_l1Errs (s : State) (due phase : Nat) (ev : Ev) : (s.sched due phase ev).l1Errs = s.l1Errs := rfl
@[simp] theorem State.sched_localErrs (s : State) (due phase : Nat) (ev : Ev) : (s.sched due phase ev).localErrs = s.localErrs := rfl
@[simp] theorem State.sched_storeErrs (s : State) (due phase : Nat) (ev : Ev) : (s.sched due phase ev).storeErrs = s.storeErrs := rfl
@[simp] theorem State.sched_retired (s : State) (due phase : Nat) (ev : Ev) : (s.sched due phase ev).retired = s.retired := rfl
@[simp] theorem State.sched_teams (s : State) (due phase : Nat) (ev : Ev) : (s.sched due phase ev).teams = s.teams := rfl
@[simp] theorem State.sched_meshes (s : State) (due phase : Nat) (ev : Ev) : (s.sched due phase ev).meshes = s.meshes := rfl
@[simp] theorem State.sched_hq (s : State) (due phase : Nat) (ev : Ev) : (s.sched due phase ev).hq = s.hq := rfl
@[simp] theorem State.sched_hqWait (s : State) (due phase : Nat) (ev : Ev) : (s.sched due phase ev).hqWait = s.hqWait := rfl
@[simp] theorem State.sched_hqRun (s : State) (due phase : Nat) (ev : Ev) : (s.sched due phase ev).hqRun = s.hqRun := rfl
@[simp] theorem State.sched_budgets (s : State) (due phase : Nat) (ev : Ev) : (s.sched due phase ev).budgets = s.budgets := rfl
@[simp] theorem State.sched_pkg (s : State) (due phase : Nat) (ev : Ev) : (s.sched due phase ev).pkg = s.pkg := rfl
@[simp] theorem State.sched_hostMem (s : State) (due phase : Nat) (ev : Ev) : (s.sched due phase ev).hostMem = s.hostMem := rfl
@[simp] theorem State.sched_power (s : State) (due phase : Nat) (ev : Ev) : (s.sched due phase ev).power = s.power := rfl
@[simp] theorem State.sched_boot (s : State) (due phase : Nat) (ev : Ev) : (s.sched due phase ev).boot = s.boot := rfl
@[simp] theorem State.sched_flash (s : State) (due phase : Nat) (ev : Ev) : (s.sched due phase ev).flash = s.flash := rfl
@[simp] theorem State.sched_links (s : State) (due phase : Nat) (ev : Ev) : (s.sched due phase ev).links = s.links := rfl
@[simp] theorem State.sched_linkWait (s : State) (due phase : Nat) (ev : Ev) : (s.sched due phase ev).linkWait = s.linkWait := rfl
@[simp] theorem State.sched_cxl (s : State) (due phase : Nat) (ev : Ev) : (s.sched due phase ev).cxl = s.cxl := rfl
@[simp] theorem State.sched_usec (s : State) (due phase : Nat) (ev : Ev) : (s.sched due phase ev).usec = s.usec := rfl
@[simp] theorem State.sched_usecPhase (s : State) (due phase : Nat) (ev : Ev) : (s.sched due phase ev).usecPhase = s.usecPhase := rfl
@[simp] theorem State.sched_suspended (s : State) (due phase : Nat) (ev : Ev) : (s.sched due phase ev).suspended = s.suspended := rfl

/-! Reading a place after an update. -/

theorem State.core_setCore (s : State) (c : Nat) (v : Core) (k : Nat) :
    (s.setCore c v).core k = if k = c then v else s.core k := Sparse.get_put ..

theorem State.core_modCore (s : State) (c : Nat) (f : Core → Core) (k : Nat) :
    (s.modCore c f).core k = if k = c then f (s.core c) else s.core k := Sparse.get_put ..

@[simp] theorem State.core_modCore_self (s : State) (c : Nat) (f : Core → Core) : (s.modCore c f).core c = f (s.core c) := by
  simp [State.core_modCore]

@[simp] theorem State.cluster_modCore (s : State) (c : Nat) (f : Core → Core) (k : Nat) :
    (s.modCore c f).cluster k = s.cluster k := rfl

theorem State.cluster_modCluster (s : State) (c : Nat) (f : Cluster → Cluster) (k : Nat) :
    (s.modCluster c f).cluster k = if k = c then f (s.cluster c) else s.cluster k := Sparse.get_put ..

@[simp] theorem State.cluster_modCluster_self (s : State) (c : Nat) (f : Cluster → Cluster) :
    (s.modCluster c f).cluster c = f (s.cluster c) := by simp [State.cluster_modCluster]

@[simp] theorem State.core_modCluster (s : State) (c : Nat) (f : Cluster → Cluster) (k : Nat) :
    (s.modCluster c f).core k = s.core k := rfl

@[simp] theorem State.slot_modCluster (s : State) (c : Nat) (f : Cluster → Cluster) (u : Tid) :
    (s.modCluster c f).slot u = s.slot u := rfl

@[simp] theorem State.ctx_modCluster (s : State) (c : Nat) (f : Cluster → Cluster) (u : Tid) :
    (s.modCluster c f).ctx u = s.ctx u := rfl

theorem State.die_modDie (s : State) (d : Nat) (f : Die → Die) (k : Nat) :
    (s.modDie d f).die k = if k = d then f (s.die d) else s.die k := Sparse.get_put ..

@[simp] theorem State.die_modDie_self (s : State) (d : Nat) (f : Die → Die) : (s.modDie d f).die d = f (s.die d) := by
  simp [State.die_modDie]

theorem Core.slot_modSlot (c : Core) (n : Nat) (f : Slot → Slot) (k : Nat) :
    (c.modSlot n f).slot k = if k = n then f (c.slot n) else c.slot k := Sparse.get_put ..

@[simp] theorem Core.slot_modSlot_self (c : Core) (n : Nat) (f : Slot → Slot) : (c.modSlot n f).slot n = f (c.slot n) := by
  simp [Core.slot_modSlot]

@[simp] theorem Core.modSlot_lastServed (c : Core) (n : Nat) (f : Slot → Slot) : (c.modSlot n f).lastServed = c.lastServed := rfl
@[simp] theorem Core.modSlot_exb (c : Core) (n : Nat) (f : Slot → Slot) : (c.modSlot n f).exb = c.exb := rfl
@[simp] theorem Core.modSlot_ovh (c : Core) (n : Nat) (f : Slot → Slot) : (c.modSlot n f).ovh = c.ovh := rfl
@[simp] theorem Core.modSlot_part (c : Core) (n : Nat) (f : Slot → Slot) : (c.modSlot n f).part = c.part := rfl
@[simp] theorem Core.modSlot_tickBase (c : Core) (n : Nat) (f : Slot → Slot) : (c.modSlot n f).tickBase = c.tickBase := rfl
@[simp] theorem Core.modSlot_menv (c : Core) (n : Nat) (f : Slot → Slot) : (c.modSlot n f).menv = c.menv := rfl
@[simp] theorem Core.modSlot_dnw (c : Core) (n : Nat) (f : Slot → Slot) : (c.modSlot n f).dnw = c.dnw := rfl
@[simp] theorem Core.modSlot_win (c : Core) (n : Nat) (f : Slot → Slot) : (c.modSlot n f).win = c.win := rfl
@[simp] theorem Core.modSlot_level (c : Core) (n : Nat) (f : Slot → Slot) : (c.modSlot n f).level = c.level := rfl
@[simp] theorem Core.modSlot_insn (c : Core) (n : Nat) (f : Slot → Slot) : (c.modSlot n f).insn = c.insn := rfl
@[simp] theorem Core.modSlot_quarLim (c : Core) (n : Nat) (f : Slot → Slot) : (c.modSlot n f).quarLim = c.quarLim := rfl
@[simp] theorem Core.modSlot_stepLim (c : Core) (n : Nat) (f : Slot → Slot) : (c.modSlot n f).stepLim = c.stepLim := rfl
@[simp] theorem Core.modSlot_rpl (c : Core) (n : Nat) (f : Slot → Slot) : (c.modSlot n f).rpl = c.rpl := rfl
@[simp] theorem Core.modSlot_wrep (c : Core) (n : Nat) (f : Slot → Slot) : (c.modSlot n f).wrep = c.wrep := rfl
@[simp] theorem Core.modSlot_wstep (c : Core) (n : Nat) (f : Slot → Slot) : (c.modSlot n f).wstep = c.wstep := rfl
@[simp] theorem Core.modSlot_run (c : Core) (n : Nat) (f : Slot → Slot) : (c.modSlot n f).run = c.run := rfl
@[simp] theorem Core.modSlot_clean (c : Core) (n : Nat) (f : Slot → Slot) : (c.modSlot n f).clean = c.clean := rfl
@[simp] theorem Core.modSlot_settle (c : Core) (n : Nat) (f : Slot → Slot) : (c.modSlot n f).settle = c.settle := rfl
@[simp] theorem Core.modSlot_ceilhit (c : Core) (n : Nat) (f : Slot → Slot) : (c.modSlot n f).ceilhit = c.ceilhit := rfl
@[simp] theorem Core.modSlot_qcause (c : Core) (n : Nat) (f : Slot → Slot) : (c.modSlot n f).qcause = c.qcause := rfl
@[simp] theorem Core.modSlot_quar (c : Core) (n : Nat) (f : Slot → Slot) : (c.modSlot n f).quar = c.quar := rfl
@[simp] theorem Core.modSlot_rfence (c : Core) (n : Nat) (f : Slot → Slot) : (c.modSlot n f).rfence = c.rfence := rfl
@[simp] theorem Core.modSlot_winStart (c : Core) (n : Nat) (f : Slot → Slot) : (c.modSlot n f).winStart = c.winStart := rfl
@[simp] theorem Core.modSlot_settleAt (c : Core) (n : Nat) (f : Slot → Slot) : (c.modSlot n f).settleAt = c.settleAt := rfl
@[simp] theorem Core.modSlot_mem (c : Core) (n : Nat) (f : Slot → Slot) : (c.modSlot n f).mem = c.mem := rfl
@[simp] theorem Core.modSlot_empty (c : Core) (n : Nat) (f : Slot → Slot) : (c.modSlot n f).empty = c.empty := rfl
@[simp] theorem Core.modSlot_prevAt (c : Core) (n : Nat) (f : Slot → Slot) : (c.modSlot n f).prevAt = c.prevAt := rfl
@[simp] theorem Core.modSlot_prev (c : Core) (n : Nat) (f : Slot → Slot) : (c.modSlot n f).prev = c.prev := rfl
@[simp] theorem Core.modSlot_rlines (c : Core) (n : Nat) (f : Slot → Slot) : (c.modSlot n f).rlines = c.rlines := rfl
@[simp] theorem Core.modSlot_ghosts (c : Core) (n : Nat) (f : Slot → Slot) : (c.modSlot n f).ghosts = c.ghosts := rfl
@[simp] theorem Core.modSlot_l1 (c : Core) (n : Nat) (f : Slot → Slot) : (c.modSlot n f).l1 = c.l1 := rfl
@[simp] theorem Core.modSlot_tlb (c : Core) (n : Nat) (f : Slot → Slot) : (c.modSlot n f).tlb = c.tlb := rfl
@[simp] theorem Core.modSlot_purlins (c : Core) (n : Nat) (f : Slot → Slot) : (c.modSlot n f).purlins = c.purlins := rfl
@[simp] theorem Core.modSlot_bank (c : Core) (n : Nat) (f : Slot → Slot) : (c.modSlot n f).bank = c.bank := rfl
@[simp] theorem Core.modSlot_loading (c : Core) (n : Nat) (f : Slot → Slot) : (c.modSlot n f).loading = c.loading := rfl
@[simp] theorem Core.modSlot_bankAt (c : Core) (n : Nat) (f : Slot → Slot) : (c.modSlot n f).bankAt = c.bankAt := rfl
@[simp] theorem Core.modSlot_bankUse (c : Core) (n : Nat) (f : Slot → Slot) : (c.modSlot n f).bankUse = c.bankUse := rfl
@[simp] theorem Core.modSlot_bankUseAt (c : Core) (n : Nat) (f : Slot → Slot) : (c.modSlot n f).bankUseAt = c.bankUseAt := rfl
@[simp] theorem Core.modSlot_bankDone (c : Core) (n : Nat) (f : Slot → Slot) : (c.modSlot n f).bankDone = c.bankDone := rfl
@[simp] theorem Core.modSlot_fenceNew (c : Core) (n : Nat) (f : Slot → Slot) : (c.modSlot n f).fenceNew = c.fenceNew := rfl
@[simp] theorem Core.modSlot_fenceAt (c : Core) (n : Nat) (f : Slot → Slot) : (c.modSlot n f).fenceAt = c.fenceAt := rfl
@[simp] theorem Core.modSlot_reads (c : Core) (n : Nat) (f : Slot → Slot) : (c.modSlot n f).reads = c.reads := rfl
@[simp] theorem Core.modSlot_bg (c : Core) (n : Nat) (f : Slot → Slot) : (c.modSlot n f).bg = c.bg := rfl
@[simp] theorem Core.modSlot_bgAll (c : Core) (n : Nat) (f : Slot → Slot) : (c.modSlot n f).bgAll = c.bgAll := rfl
@[simp] theorem Core.modSlot_qregs (c : Core) (n : Nat) (f : Slot → Slot) : (c.modSlot n f).qregs = c.qregs := rfl
@[simp] theorem Core.modSlot_battens (c : Core) (n : Nat) (f : Slot → Slot) : (c.modSlot n f).battens = c.battens := rfl
@[simp] theorem Core.modSlot_cmdqs (c : Core) (n : Nat) (f : Slot → Slot) : (c.modSlot n f).cmdqs = c.cmdqs := rfl
@[simp] theorem Core.modSlot_joins (c : Core) (n : Nat) (f : Slot → Slot) : (c.modSlot n f).joins = c.joins := rfl
@[simp] theorem Core.modSlot_stalled (c : Core) (n : Nat) (f : Slot → Slot) : (c.modSlot n f).stalled = c.stalled := rfl
@[simp] theorem Core.modSlot_rdv (c : Core) (n : Nat) (f : Slot → Slot) : (c.modSlot n f).rdv = c.rdv := rfl
@[simp] theorem Core.modSlot_deque (c : Core) (n : Nat) (f : Slot → Slot) : (c.modSlot n f).deque = c.deque := rfl
@[simp] theorem Core.modSlot_dequeRes (c : Core) (n : Nat) (f : Slot → Slot) : (c.modSlot n f).dequeRes = c.dequeRes := rfl
@[simp] theorem Core.modSlot_perf (c : Core) (n : Nat) (f : Slot → Slot) : (c.modSlot n f).perf = c.perf := rfl
@[simp] theorem Core.modSlot_passedAt (c : Core) (n : Nat) (f : Slot → Slot) : (c.modSlot n f).passedAt = c.passedAt := rfl
@[simp] theorem Core.modSlot_lwin (c : Core) (n : Nat) (f : Slot → Slot) : (c.modSlot n f).lwin = c.lwin := rfl
@[simp] theorem Core.modSlot_fen (c : Core) (n : Nat) (f : Slot → Slot) : (c.modSlot n f).fen = c.fen := rfl
@[simp] theorem Core.modSlot_flogn (c : Core) (n : Nat) (f : Slot → Slot) : (c.modSlot n f).flogn = c.flogn := rfl
@[simp] theorem Core.modSlot_fbase (c : Core) (n : Nat) (f : Slot → Slot) : (c.modSlot n f).fbase = c.fbase := rfl
@[simp] theorem Core.modSlot_ftail (c : Core) (n : Nat) (f : Slot → Slot) : (c.modSlot n f).ftail = c.ftail := rfl
@[simp] theorem Core.modSlot_pktSeq (c : Core) (n : Nat) (f : Slot → Slot) : (c.modSlot n f).pktSeq = c.pktSeq := rfl
@[simp] theorem Core.modSlot_dropped (c : Core) (n : Nat) (f : Slot → Slot) : (c.modSlot n f).dropped = c.dropped := rfl
@[simp] theorem Core.modSlot_pkts (c : Core) (n : Nat) (f : Slot → Slot) : (c.modSlot n f).pkts = c.pkts := rfl
@[simp] theorem Core.modSlot_team (c : Core) (n : Nat) (f : Slot → Slot) : (c.modSlot n f).team = c.team := rfl
@[simp] theorem Core.modSlot_vcore (c : Core) (n : Nat) (f : Slot → Slot) : (c.modSlot n f).vcore = c.vcore := rfl
@[simp] theorem Core.modSlot_lastTenant (c : Core) (n : Nat) (f : Slot → Slot) : (c.modSlot n f).lastTenant = c.lastTenant := rfl
@[simp] theorem Core.modSlot_extents (c : Core) (n : Nat) (f : Slot → Slot) : (c.modSlot n f).extents = c.extents := rfl
@[simp] theorem Core.modSlot_dispatch (c : Core) (n : Nat) (f : Slot → Slot) : (c.modSlot n f).dispatch = c.dispatch := rfl
@[simp] theorem Core.modSlot_chosenAt (c : Core) (n : Nat) (f : Slot → Slot) : (c.modSlot n f).chosenAt = c.chosenAt := rfl
@[simp] theorem Core.modSlot_busyAt (c : Core) (n : Nat) (f : Slot → Slot) : (c.modSlot n f).busyAt = c.busyAt := rfl
@[simp] theorem Core.modSlot_resetAt (c : Core) (n : Nat) (f : Slot → Slot) : (c.modSlot n f).resetAt = c.resetAt := rfl
@[simp] theorem Core.modSlot_stopped (c : Core) (n : Nat) (f : Slot → Slot) : (c.modSlot n f).stopped = c.stopped := rfl
@[simp] theorem Core.modSlot_gate (c : Core) (n : Nat) (f : Slot → Slot) : (c.modSlot n f).gate = c.gate := rfl
@[simp] theorem Core.modSlot_stall (c : Core) (n : Nat) (f : Slot → Slot) : (c.modSlot n f).stall = c.stall := rfl
@[simp] theorem Core.modSlot_issueAt (c : Core) (n : Nat) (f : Slot → Slot) : (c.modSlot n f).issueAt = c.issueAt := rfl
@[simp] theorem Core.modSlot_late (c : Core) (n : Nat) (f : Slot → Slot) : (c.modSlot n f).late = c.late := rfl
@[simp] theorem Core.modSlot_kind (c : Core) (n : Nat) (f : Slot → Slot) : (c.modSlot n f).kind = c.kind := rfl
@[simp] theorem Core.modSlot_outs (c : Core) (n : Nat) (f : Slot → Slot) : (c.modSlot n f).outs = c.outs := rfl
@[simp] theorem Core.modSlot_fills (c : Core) (n : Nat) (f : Slot → Slot) : (c.modSlot n f).fills = c.fills := rfl

theorem Tid.eq_iff (t u : Tid) : t = u ↔ t.core = u.core ∧ t.slot = u.slot := by
  cases t; cases u; simp

theorem State.core_modSlot (s : State) (t : Tid) (f : Slot → Slot) (k : Nat) :
    (s.modSlot t f).core k = if k = t.core then (s.core k).modSlot t.slot f else s.core k := by
  unfold State.modSlot
  rw [State.core_modCore]
  split
  · next h => rw [h]
  · rfl

theorem State.slot_modSlot (s : State) (t : Tid) (f : Slot → Slot) (u : Tid) :
    (s.modSlot t f).slot u = if u = t then f (s.slot t) else s.slot u := by
  unfold State.slot
  rw [State.core_modSlot]
  by_cases hc : u.core = t.core
  · rw [if_pos hc, Core.slot_modSlot, hc]
    by_cases hs : u.slot = t.slot
    · rw [if_pos hs, if_pos ((Tid.eq_iff ..).2 ⟨hc, hs⟩)]
    · rw [if_neg hs, if_neg fun h => hs (congrArg Tid.slot h)]
  · rw [if_neg hc, if_neg fun h => hc (congrArg Tid.core h)]

@[simp] theorem State.slot_modSlot_self (s : State) (t : Tid) (f : Slot → Slot) : (s.modSlot t f).slot t = f (s.slot t) := by
  simp [State.slot_modSlot]

theorem State.ctx_modSlot (s : State) (t : Tid) (f : Slot → Slot) (u : Tid) :
    (s.modSlot t f).ctx u = if u = t then (f (s.slot t)).ctx else s.ctx u := by
  unfold State.ctx
  rw [State.slot_modSlot]
  split <;> rfl

@[simp] theorem State.ctx_modSlot_self (s : State) (t : Tid) (f : Slot → Slot) :
    (s.modSlot t f).ctx t = (f (s.slot t)).ctx := by simp [State.ctx_modSlot]

theorem State.ctx_modCtx (s : State) (t : Tid) (f : Ctx → Ctx) (u : Tid) :
    (s.modCtx t f).ctx u = if u = t then f (s.ctx t) else s.ctx u := State.ctx_modSlot ..

@[simp] theorem State.ctx_modCtx_self (s : State) (t : Tid) (f : Ctx → Ctx) : (s.modCtx t f).ctx t = f (s.ctx t) := by
  simp [State.ctx_modCtx]

theorem State.slot_modCtx (s : State) (t : Tid) (f : Ctx → Ctx) (u : Tid) :
    (s.modCtx t f).slot u = if u = t then { s.slot t with ctx := f (s.ctx t) } else s.slot u := State.slot_modSlot ..

theorem State.slot_modCore (s : State) (c : Nat) (f : Core → Core) (u : Tid) :
    (s.modCore c f).slot u = if u.core = c then (f (s.core c)).slot u.slot else s.slot u := by
  unfold State.slot
  rw [State.core_modCore]
  split <;> rfl

theorem State.slot_setSt (s : State) (t : Tid) (v : SlotState) (u : Tid) :
    (s.setSt t v).slot u = if u = t then { s.slot t with st := v } else s.slot u := State.slot_modSlot ..

@[simp] theorem State.ctx_setSt (s : State) (t : Tid) (v : SlotState) (u : Tid) : (s.setSt t v).ctx u = s.ctx u := by
  unfold State.setSt
  rw [State.ctx_modSlot]
  split
  · next h => rw [h]; rfl
  · rfl

@[simp] theorem State.core_sched (s : State) (due phase : Nat) (ev : Ev) (k : Nat) : (s.sched due phase ev).core k = s.core k := rfl
@[simp] theorem State.slot_sched (s : State) (due phase : Nat) (ev : Ev) (u : Tid) : (s.sched due phase ev).slot u = s.slot u := rfl
@[simp] theorem State.ctx_sched (s : State) (due phase : Nat) (ev : Ev) (u : Tid) : (s.sched due phase ev).ctx u = s.ctx u := rfl
@[simp] theorem State.cluster_sched (s : State) (due phase : Nat) (ev : Ev) (k : Nat) :
    (s.sched due phase ev).cluster k = s.cluster k := rfl

/-! The agenda. -/

theorem mem_insertPend (p q : Pend) (l : List Pend) : q ∈ insertPend p l ↔ q = p ∨ q ∈ l := by
  induction l with
  | nil => simp [insertPend]
  | cons x l ih =>
    unfold insertPend
    split
    · simp only [List.mem_cons, ih]
      constructor
      · rintro (h | h | h)
        · exact .inr (.inl h)
        · exact .inl h
        · exact .inr (.inr h)
      · rintro (h | h | h)
        · exact .inr (.inl h)
        · exact .inl h
        · exact .inr (.inr h)
    · simp [List.mem_cons]

@[simp] theorem State.mem_sched (s : State) (due phase : Nat) (ev : Ev) (q : Pend) :
    q ∈ (s.sched due phase ev).agenda ↔ q = ⟨due, phase, s.seq, ev⟩ ∨ q ∈ s.agenda := mem_insertPend ..

/-! Registers (R75, R76, R78). -/

theorem Ctx.rg_wg (c : Ctx) (d : Reg) (v : W64) (r : Reg) :
    (c.wg d v).rg r = if r = 0 then 0 else if r = d then v else c.rg r := by
  unfold Ctx.rg Ctx.wg
  by_cases hr : r = 0
  · simp [hr]
  · simp only [hr, if_false]
    by_cases hd : d = 0
    · subst hd; simp only [if_true, hr, if_false]
    · simp only [hd, if_false, Sparse.get_put]
      by_cases h : r = d
      · simp [h]
      · have : r.toNat ≠ d.toNat := fun e => h (BitVec.eq_of_toNat_eq e)
        simp [h, this]

@[simp] theorem Ctx.rg_zero (c : Ctx) : c.rg 0 = 0 := rfl
@[simp] theorem Ctx.wg_zero (c : Ctx) (v : W64) : c.wg 0 v = c := rfl

theorem Ctx.rk_wk (c : Ctx) (d : KReg) (v : W64) (r : KReg) :
    (c.wk d v).rk r = if r = 15 then BitVec.allOnes 64 else if r = d then v else c.rk r := by
  unfold Ctx.rk Ctx.wk
  by_cases hr : r = 15
  · simp [hr]
  · simp only [hr, if_false]
    by_cases hd : d = 15
    · subst hd; simp only [if_true, hr, if_false]
    · simp only [hd, if_false, Sparse.get_put]
      by_cases h : r = d
      · simp [h]
      · have : r.toNat ≠ d.toNat := fun e => h (BitVec.eq_of_toNat_eq e)
        simp [h, this]

theorem Ctx.rv_wv (c : Ctx) (d : Reg) (v : Vec) (r : Reg) : (c.wv d v).rv r = if r = d then v else c.rv r := by
  unfold Ctx.rv Ctx.wv
  rw [Sparse.get_put]
  by_cases h : r = d
  · simp [h]
  · have : r.toNat ≠ d.toNat := fun e => h (BitVec.eq_of_toNat_eq e)
    simp [h, this]

@[simp] theorem Ctx.wg_pc (c : Ctx) (d : Reg) (v : W64) : (c.wg d v).pc = c.pc := by unfold Ctx.wg; split <;> rfl
@[simp] theorem Ctx.wg_k (c : Ctx) (d : Reg) (v : W64) : (c.wg d v).k = c.k := by unfold Ctx.wg; split <;> rfl
@[simp] theorem Ctx.wg_v (c : Ctx) (d : Reg) (v : W64) : (c.wg d v).v = c.v := by unfold Ctx.wg; split <;> rfl
@[simp] theorem Ctx.wg_pd (c : Ctx) (d : Reg) (v : W64) : (c.wg d v).pd = c.pd := by unfold Ctx.wg; split <;> rfl
@[simp] theorem Ctx.wg_stat (c : Ctx) (d : Reg) (v : W64) : (c.wg d v).stat = c.stat := by unfold Ctx.wg; split <;> rfl
@[simp] theorem Ctx.wg_ctxb (c : Ctx) (d : Reg) (v : W64) : (c.wg d v).ctxb = c.ctxb := by unfold Ctx.wg; split <;> rfl
@[simp] theorem Ctx.wg_otpc (c : Ctx) (d : Reg) (v : W64) : (c.wg d v).otpc = c.otpc := by unfold Ctx.wg; split <;> rfl
@[simp] theorem Ctx.wg_region (c : Ctx) (d : Reg) (v : W64) : (c.wg d v).region = c.region := by unfold Ctx.wg; split <;> rfl
@[simp] theorem Ctx.wg_pasid (c : Ctx) (d : Reg) (v : W64) : (c.wg d v).pasid = c.pasid := by unfold Ctx.wg; split <;> rfl
@[simp] theorem Ctx.wg_supv (c : Ctx) (d : Reg) (v : W64) : (c.wg d v).supv = c.supv := by unfold Ctx.wg; split <;> rfl
@[simp] theorem Ctx.wg_cdepth (c : Ctx) (d : Reg) (v : W64) : (c.wg d v).cdepth = c.cdepth := by unfold Ctx.wg; split <;> rfl
@[simp] theorem Ctx.wg_wc (c : Ctx) (d : Reg) (v : W64) : (c.wg d v).wc = c.wc := by unfold Ctx.wg; split <;> rfl
@[simp] theorem Ctx.wg_waddr (c : Ctx) (d : Reg) (v : W64) : (c.wg d v).waddr = c.waddr := by unfold Ctx.wg; split <;> rfl
@[simp] theorem Ctx.wg_wctl (c : Ctx) (d : Reg) (v : W64) : (c.wg d v).wctl = c.wctl := by unfold Ctx.wg; split <;> rfl
@[simp] theorem Ctx.wg_stack (c : Ctx) (d : Reg) (v : W64) : (c.wg d v).stack = c.stack := by unfold Ctx.wg; split <;> rfl
@[simp] theorem Ctx.wk_pc (c : Ctx) (d : KReg) (v : W64) : (c.wk d v).pc = c.pc := by unfold Ctx.wk; split <;> rfl
@[simp] theorem Ctx.wk_g (c : Ctx) (d : KReg) (v : W64) : (c.wk d v).g = c.g := by unfold Ctx.wk; split <;> rfl
@[simp] theorem Ctx.wk_v (c : Ctx) (d : KReg) (v : W64) : (c.wk d v).v = c.v := by unfold Ctx.wk; split <;> rfl
@[simp] theorem Ctx.wk_pd (c : Ctx) (d : KReg) (v : W64) : (c.wk d v).pd = c.pd := by unfold Ctx.wk; split <;> rfl
@[simp] theorem Ctx.wk_stat (c : Ctx) (d : KReg) (v : W64) : (c.wk d v).stat = c.stat := by unfold Ctx.wk; split <;> rfl
@[simp] theorem Ctx.wk_ctxb (c : Ctx) (d : KReg) (v : W64) : (c.wk d v).ctxb = c.ctxb := by unfold Ctx.wk; split <;> rfl
@[simp] theorem Ctx.wk_otpc (c : Ctx) (d : KReg) (v : W64) : (c.wk d v).otpc = c.otpc := by unfold Ctx.wk; split <;> rfl
@[simp] theorem Ctx.wk_region (c : Ctx) (d : KReg) (v : W64) : (c.wk d v).region = c.region := by unfold Ctx.wk; split <;> rfl
@[simp] theorem Ctx.wk_pasid (c : Ctx) (d : KReg) (v : W64) : (c.wk d v).pasid = c.pasid := by unfold Ctx.wk; split <;> rfl
@[simp] theorem Ctx.wk_supv (c : Ctx) (d : KReg) (v : W64) : (c.wk d v).supv = c.supv := by unfold Ctx.wk; split <;> rfl
@[simp] theorem Ctx.wk_cdepth (c : Ctx) (d : KReg) (v : W64) : (c.wk d v).cdepth = c.cdepth := by unfold Ctx.wk; split <;> rfl
@[simp] theorem Ctx.wk_wc (c : Ctx) (d : KReg) (v : W64) : (c.wk d v).wc = c.wc := by unfold Ctx.wk; split <;> rfl
@[simp] theorem Ctx.wk_waddr (c : Ctx) (d : KReg) (v : W64) : (c.wk d v).waddr = c.waddr := by unfold Ctx.wk; split <;> rfl
@[simp] theorem Ctx.wk_wctl (c : Ctx) (d : KReg) (v : W64) : (c.wk d v).wctl = c.wctl := by unfold Ctx.wk; split <;> rfl
@[simp] theorem Ctx.wk_stack (c : Ctx) (d : KReg) (v : W64) : (c.wk d v).stack = c.stack := by unfold Ctx.wk; split <;> rfl
@[simp] theorem Ctx.wv_pc (c : Ctx) (d : Reg) (v : Vec) : (c.wv d v).pc = c.pc := rfl
@[simp] theorem Ctx.wv_g (c : Ctx) (d : Reg) (v : Vec) : (c.wv d v).g = c.g := rfl
@[simp] theorem Ctx.wv_k (c : Ctx) (d : Reg) (v : Vec) : (c.wv d v).k = c.k := rfl
@[simp] theorem Ctx.wv_pd (c : Ctx) (d : Reg) (v : Vec) : (c.wv d v).pd = c.pd := rfl
@[simp] theorem Ctx.wv_stat (c : Ctx) (d : Reg) (v : Vec) : (c.wv d v).stat = c.stat := rfl
@[simp] theorem Ctx.wv_ctxb (c : Ctx) (d : Reg) (v : Vec) : (c.wv d v).ctxb = c.ctxb := rfl
@[simp] theorem Ctx.wv_otpc (c : Ctx) (d : Reg) (v : Vec) : (c.wv d v).otpc = c.otpc := rfl
@[simp] theorem Ctx.wv_region (c : Ctx) (d : Reg) (v : Vec) : (c.wv d v).region = c.region := rfl
@[simp] theorem Ctx.wv_pasid (c : Ctx) (d : Reg) (v : Vec) : (c.wv d v).pasid = c.pasid := rfl
@[simp] theorem Ctx.wv_supv (c : Ctx) (d : Reg) (v : Vec) : (c.wv d v).supv = c.supv := rfl
@[simp] theorem Ctx.wv_cdepth (c : Ctx) (d : Reg) (v : Vec) : (c.wv d v).cdepth = c.cdepth := rfl
@[simp] theorem Ctx.wv_wc (c : Ctx) (d : Reg) (v : Vec) : (c.wv d v).wc = c.wc := rfl
@[simp] theorem Ctx.wv_waddr (c : Ctx) (d : Reg) (v : Vec) : (c.wv d v).waddr = c.waddr := rfl
@[simp] theorem Ctx.wv_wctl (c : Ctx) (d : Reg) (v : Vec) : (c.wv d v).wctl = c.wctl := rfl
@[simp] theorem Ctx.wv_stack (c : Ctx) (d : Reg) (v : Vec) : (c.wv d v).stack = c.stack := rfl

end Sys2Proof.Machine
end

