-- ==== Sys2Proof/Laws/Issue.lean ====
section
/-!
SUPPORT. What the issue of an instruction does (R62, R168): the state that its own effect starts from, the one equation
of an issue that passes, and what stays.
-/

namespace Sys2Proof.Machine

/-- The state that the effect of an instruction starts from, when its issue passes. -/
def State.begun (s : State) (h : Hdr) (uses : List Use) (stepped : Bool := false) : State :=
  (if stepped then s.beginIssue else s.beginIssue.verdict.2).modCore s.cur.core
    (·.nameLines s.now s.cur.slot ((rK h.guard :: uses).filterMap (·.line (s.core s.cur.core).part)))

/-- What an issue changes before the effect of its instruction: the turn of the current slot, and what `rest` leaves
out. -/
structure Begun (s t : State) : Prop where
  cur    : t.cur = s.cur
  slotEq : ∀ u, t.slot u = if u = s.cur then { s.slot s.cur with elig := s.now + 16 } else s.slot u
  cores  : ∀ k, (t.core k).rest = (s.core k).rest
  rest   : t.rest = s.rest
  agenda : t.agenda = s.agenda
  now    : t.now = s.now
  seq    : t.seq = s.seq

theorem State.rest_modCore (s : State) (c : Nat) (f : Core → Core) : (s.modCore c f).rest = s.rest := by
  simp [State.rest]

theorem State.rest_modSlot (s : State) (t : Tid) (f : Slot → Slot) : (s.modSlot t f).rest = s.rest := by
  simp [State.rest]

theorem State.rest_modCtx (s : State) (t : Tid) (f : Ctx → Ctx) : (s.modCtx t f).rest = s.rest := by
  simp [State.rest]

theorem State.rest_sched (s : State) (due phase : Nat) (ev : Ev) : (s.sched due phase ev).rest = s.rest := by
  simp [State.rest]

/-- A change of a core that touches neither its slots nor what `rest` keeps. -/
theorem Begun.modCore {s t : State} (b : Begun s t) (k : Nat) (f : Core → Core) (hr : ∀ c, (f c).rest = c.rest)
    (hf : ∀ c, (f c).slots = c.slots) : Begun s (t.modCore k f) where
  cur := by simpa using b.cur
  slotEq u := by
    rw [State.slot_modCore, ← b.slotEq]
    split
    · next h => subst h; simp only [Core.slot, hf]; rfl
    · rfl
  cores j := by
    rw [State.core_modCore]
    split
    · next h => subst h; rw [hr]; exact b.cores j
    · exact b.cores j
  rest := by rw [State.rest_modCore]; exact b.rest
  agenda := by simpa using b.agenda
  now := by simpa using b.now
  seq := by simpa using b.seq

theorem State.slot_beginIssue (s : State) (u : Tid) :
    s.beginIssue.slot u = if u = s.cur then { s.slot s.cur with elig := s.now + 16 } else s.slot u := by
  simp only [State.beginIssue, State.count, State.slot_modCore, State.core_modCore_self, Core.slot, Core.modSlot, Sparse.get_put]
  by_cases hc : u.core = s.cur.core
  · simp only [hc, if_true]
    by_cases hs : u.slot = s.cur.slot
    · rw [if_pos hs, if_pos ((Tid.eq_iff ..).2 ⟨hc, hs⟩)]; rfl
    · rw [if_neg hs, if_neg fun h => hs (congrArg Tid.slot h)]
      simp only [State.slot, hc]; rfl
  · rw [if_neg hc, if_neg hc, if_neg fun h => hc (congrArg Tid.core h)]; rfl

theorem beginIssue_begun (s : State) : Begun s s.beginIssue where
  cur := by simp [State.beginIssue, State.count]
  slotEq := s.slot_beginIssue
  cores k := by
    unfold State.beginIssue State.count
    rw [State.core_modCore, State.core_modCore_self, State.core_modCore]
    split
    · next h => subst h; rfl
    · rfl
  rest := by simp [State.beginIssue, State.count, State.rest]
  agenda := by simp [State.beginIssue, State.count]
  now := by simp [State.beginIssue, State.count]
  seq := by simp [State.beginIssue, State.count]

theorem State.verdict_snd (s : State) : s.verdict.2 = { s with verdicts := s.verdicts.tail } := by
  unfold State.verdict
  split
  · next h => simp only [h, List.tail_nil]; rw [← h]
  · next h => simp only [h, List.tail_cons]

theorem State.verdict_beginIssue (s : State) : s.beginIssue.verdict.1 = s.verdict.1 := by
  have : s.beginIssue.verdicts = s.verdicts := by simp [State.beginIssue, State.count]
  unfold State.verdict
  rw [this]
  cases s.verdicts <;> rfl

theorem Begun.verdict {s t : State} (b : Begun s t) : Begun s t.verdict.2 := by
  rw [State.verdict_snd]
  exact ⟨b.cur, b.slotEq, b.cores, b.rest, b.agenda, b.now, b.seq⟩

theorem begun_begun (s : State) (h : Hdr) (uses : List Use) (st : Bool) : Begun s (s.begun h uses st) := by
  unfold State.begun
  refine Begun.modCore ?_ _ _ (fun _ => rfl) (fun _ => rfl)
  split
  · exact beginIssue_begun s
  · exact (beginIssue_begun s).verdict

theorem Begun.ctx {s t : State} (b : Begun s t) (u : Tid) : t.ctx u = s.ctx u := by
  unfold State.ctx
  rw [b.slotEq]
  split
  · next e => rw [e]
  · rfl

theorem Begun.watch {s t : State} (b : Begun s t) (kinds : Nat → Bool) (a : W64) : t.watch kinds a = s.watch kinds a := by
  unfold State.watch State.ctx
  rw [b.cur, b.slotEq, if_pos rfl]

@[simp] theorem begun_cur (s : State) (h : Hdr) (uses : List Use) (st : Bool) : (s.begun h uses st).cur = s.cur :=
  (begun_begun s h uses st).cur
@[simp] theorem begun_now (s : State) (h : Hdr) (uses : List Use) (st : Bool) : (s.begun h uses st).now = s.now :=
  (begun_begun s h uses st).now
@[simp] theorem begun_seq (s : State) (h : Hdr) (uses : List Use) (st : Bool) : (s.begun h uses st).seq = s.seq :=
  (begun_begun s h uses st).seq
@[simp] theorem begun_agenda (s : State) (h : Hdr) (uses : List Use) (st : Bool) : (s.begun h uses st).agenda = s.agenda :=
  (begun_begun s h uses st).agenda
@[simp] theorem begun_ctx (s : State) (h : Hdr) (uses : List Use) (st : Bool) (u : Tid) :
    (s.begun h uses st).ctx u = s.ctx u := (begun_begun s h uses st).ctx u
@[simp] theorem begun_watch (s : State) (h : Hdr) (uses : List Use) (st : Bool) (kinds : Nat → Bool) (a : W64) :
    (s.begun h uses st).watch kinds a = s.watch kinds a := (begun_begun s h uses st).watch kinds a

/-- R62, R168: an instruction that passes its issue does what its body says, and its outcome is settled. -/
theorem issue_passes {h : Hdr} {uses : List Use} {s : State} {kpriv vec stepped : Bool} (resv : Bool)
    (hi : Issues h uses s kpriv vec stepped) (body : Bool → State → Step1) (own : Bool := false) :
    issue h uses body s kpriv vec resv stepped own =
      .next ((s.begun h uses stepped).settle s.cur (s.nextPc h) (body true (s.begun h uses stepped))) := by
  have hbad : s.decodeFault s.cur (rK h.guard :: uses) kpriv = none := by
    unfold State.decodeFault
    rw [hi.inRange]
    cases kpriv
    · simp
    · simp [hi.allowed rfl]
  have hmiss : (((rK h.guard :: uses).filterMap (·.line (s.core s.cur.core).part)).map (·.1)).filter
      (fun i => !(s.core s.cur.core).resident s.cur.slot i) = [] := by
    rw [List.filter_eq_nil_iff]
    intro a ha
    obtain ⟨l, hl, rfl⟩ := List.mem_map.1 ha
    simpa using (List.all_eq_true.1 hi.resident) l hl
  have hguard := hi.enabled
  have hw : (s.begun h uses stepped).watch (· == 0) (s.ctx s.cur).pc = none := by
    rw [begun_watch]; exact hi.unwatched
  have hfail : (if stepped then (false, s.beginIssue) else s.beginIssue.verdict) =
      (false, if stepped then s.beginIssue else s.beginIssue.verdict.2) := by
    cases stepped
    · have := hi.passes
      simp only [Bool.false_eq_true, false_or] at this
      simp only [Bool.false_eq_true, if_false]
      exact Prod.ext (by rw [State.verdict_beginIssue]; exact this) rfl
    · rfl
  have hn : (if stepped then s.beginIssue else s.beginIssue.verdict.2).now = s.now := by
    split
    · exact (beginIssue_begun s).now
    · exact (beginIssue_begun s).verdict.now
  unfold State.begun at hw ⊢
  unfold issue
  simp only [hn, hbad, hi.noWait, Option.isNone_none, Bool.true_and, Bool.false_eq_true, if_false, hfail, hmiss,
    List.isEmpty_nil, Bool.not_true, hw, hguard, decide_true]
  rfl

/-! Completion (R80, R168). -/

/-- The slot of a thread that completes. -/
def Slot.done (x : Slot) (pc : W64) : Slot := { x with replays := 0, skipWatch := false, ctx := { x.ctx with pc := pc } }

theorem slot_retire (s : State) (t : Tid) (pc : W64) (u : Tid) :
    (s.retire t pc).slot u = if u = t then (s.slot t).done pc else s.slot u := by
  unfold State.retire
  rw [State.slot_modCore, State.core_modSlot, if_pos rfl, State.slot_modSlot]
  by_cases hc : u.core = t.core
  · rw [if_pos hc]
    simp only [Core.slot, Core.modSlot, Sparse.get_put]
    by_cases hs : u.slot = t.slot
    · rw [if_pos hs, if_pos ((Tid.eq_iff ..).2 ⟨hc, hs⟩)]; rfl
    · rw [if_neg hs, if_neg fun h => hs (congrArg Tid.slot h)]
      simp only [State.slot, Core.slot, hc]
  · rw [if_neg hc, if_neg fun h => hc (congrArg Tid.core h), if_neg fun h => hc (congrArg Tid.core h)]

theorem core_retire_rest (s : State) (t : Tid) (pc : W64) (k : Nat) : ((s.retire t pc).core k).rest = (s.core k).rest := by
  unfold State.retire
  rw [State.core_modCore, State.core_modSlot, State.core_modSlot, if_pos rfl]
  split
  · next h => subst h; rfl
  · rfl

@[simp] theorem retire_agenda (s : State) (t : Tid) (pc : W64) : (s.retire t pc).agenda = s.agenda := by
  simp [State.retire]

theorem rest_retire (s : State) (t : Tid) (pc : W64) : (s.retire t pc).rest = s.rest := by
  simp [State.retire, State.rest]

@[simp] theorem slot_finish (s : State) (t : Tid) (pc : W64) (u : Tid) :
    (s.finish t pc).slot u = if u = t then (s.slot t).done pc else s.slot u := by
  unfold State.finish
  dsimp only
  split
  · exact slot_retire s t pc u
  · exact slot_retire s t pc u

theorem core_finish_rest (s : State) (t : Tid) (pc : W64) (k : Nat) : ((s.finish t pc).core k).rest = (s.core k).rest := by
  unfold State.finish
  dsimp only
  split
  · exact core_retire_rest s t pc k
  · exact core_retire_rest s t pc k

theorem rest_finish (s : State) (t : Tid) (pc : W64) : (s.finish t pc).rest = s.rest := by
  unfold State.finish
  dsimp only
  split
  · unfold State.actAt; rw [State.rest_sched, rest_retire]
  · exact rest_retire s t pc

theorem ctx_finish (s : State) (t : Tid) (pc : W64) (u : Tid) :
    (s.finish t pc).ctx u = if u = t then { s.ctx t with pc := pc } else s.ctx u := by
  unfold State.ctx
  rw [slot_finish]
  split <;> rfl

theorem finish_agenda (s : State) (t : Tid) (pc : W64) (h : (s.ctx t).sstep = false) :
    (s.finish t pc).agenda = s.agenda := by
  have : ((s.retire t pc).ctx t).sstep = (s.ctx t).sstep := by
    unfold State.ctx; rw [slot_retire, if_pos rfl]; rfl
  unfold State.finish
  dsimp only
  rw [this, h, if_neg (by decide)]
  exact retire_agenda s t pc

theorem mem_finish (s : State) (t : Tid) (pc : W64) (q : Pend) (h : q ∈ s.agenda) : q ∈ (s.finish t pc).agenda := by
  unfold State.finish
  dsimp only
  split
  · unfold State.actAt
    rw [State.mem_sched]
    exact .inr (by rw [retire_agenda]; exact h)
  · rw [retire_agenda]; exact h

/-! Keeping (what an instruction leaves as it was). -/

theorem State.rest_phys {s t : State} (h : t.rest = s.rest) : t.phys = s.phys := by
  have := congrArg State.phys h; exact this
theorem State.rest_teams {s t : State} (h : t.rest = s.rest) : t.teams = s.teams := by
  have := congrArg State.teams h; exact this
theorem State.rest_retired {s t : State} (h : t.rest = s.rest) : t.retired = s.retired := by
  have := congrArg State.retired h; exact this
theorem State.rest_clusters {s t : State} (h : t.rest = s.rest) : t.clusters = s.clusters := by
  have := congrArg State.clusters h; exact this

theorem Core.rest_mem {c d : Core} (h : c.rest = d.rest) : c.mem = d.mem := by
  have := congrArg Core.mem h; exact this

/-- Memory reads are those of before wherever the package, the cores and the slots are. -/
theorem Keeps.mk' {s t : State} (rest : t.rest = s.rest) (cores : ∀ k, (t.core k).rest = (s.core k).rest)
    (slots : ∀ u, (t.slot u).rest = (s.slot u).rest) (ctxs : ∀ u, u ≠ s.cur → t.ctx u = s.ctx u) : Keeps s t where
  rest := rest
  cores := cores
  slots := slots
  ctxs := ctxs
  bytes team pa := by
    unfold State.physByte State.team State.mapped
    rw [State.rest_phys rest, State.rest_teams rest, State.rest_retired rest]
  locals k a := by unfold State.localRead; rw [Core.rest_mem (cores k)]
  stores cl a := by unfold State.cluster; rw [State.rest_clusters rest]

theorem keeps_finish {s t : State} (rest : t.rest = s.rest) (cores : ∀ k, (t.core k).rest = (s.core k).rest)
    (slots : ∀ u, (t.slot u).rest = (s.slot u).rest) (ctxs : ∀ u, u ≠ s.cur → t.ctx u = s.ctx u) (pc : W64) :
    Keeps s (t.finish s.cur pc) :=
  .mk' (by rw [rest_finish]; exact rest) (fun k => by rw [core_finish_rest]; exact cores k)
    (fun u => by
      rw [slot_finish]
      split
      · next h => subst h; exact slots _
      · exact slots u)
    (fun u hu => by rw [ctx_finish, if_neg hu]; exact ctxs u hu)

/-- A slot whose replays are forgotten. -/
def Slot.calmed (x : Slot) : Slot := { x with replays := 0 }

/-- t is s, but that the current thread has spent its turn and its registers are c; its replays may be forgotten. -/
structure Worked (s t : State) (c : Ctx) : Prop where
  cur    : t.cur = s.cur
  now    : t.now = s.now
  seq    : t.seq = s.seq
  slotEq : ∀ u, (t.slot u).calmed =
    if u = s.cur then { (s.slot s.cur).calmed with elig := s.now + 16, ctx := c } else (s.slot u).calmed
  cores  : ∀ k, (t.core k).rest = (s.core k).rest
  rest   : t.rest = s.rest
  agenda : t.agenda = s.agenda

theorem worked_begun (s : State) (h : Hdr) (uses : List Use) (st : Bool) : Worked s (s.begun h uses st) (s.ctx s.cur) where
  cur := begun_cur ..
  now := begun_now ..
  seq := begun_seq ..
  slotEq u := by
    rw [(begun_begun s h uses st).slotEq]
    split <;> rfl
  cores := (begun_begun s h uses st).cores
  rest := (begun_begun s h uses st).rest
  agenda := (begun_begun s h uses st).agenda

theorem Worked.ctx {s t : State} {c : Ctx} (w : Worked s t c) : t.ctx s.cur = c := by
  have := congrArg Slot.ctx (w.slotEq s.cur)
  rwa [if_pos rfl] at this

theorem Worked.turn {s t : State} {c : Ctx} (w : Worked s t c) : (t.slot s.cur).elig = s.now + 16 := by
  have := congrArg Slot.elig (w.slotEq s.cur)
  rwa [if_pos rfl] at this

theorem Worked.slot_rest {s t : State} {c : Ctx} (w : Worked s t c) (u : Tid) : (t.slot u).rest = (s.slot u).rest := by
  have := congrArg Slot.rest (w.slotEq u)
  split at this
  · next h => subst h; exact this
  · exact this

theorem Worked.ctx_other {s t : State} {c : Ctx} (w : Worked s t c) {u : Tid} (h : u ≠ s.cur) : t.ctx u = s.ctx u := by
  have := congrArg Slot.ctx (w.slotEq u)
  rwa [if_neg h] at this

/-- A change of the current thread's registers. -/
theorem Worked.modCtx {s t : State} {c : Ctx} (w : Worked s t c) (f : Ctx → Ctx) : Worked s (t.modCtx s.cur f) (f c) where
  cur := by simpa using w.cur
  now := by simpa using w.now
  seq := by simpa using w.seq
  slotEq u := by
    rw [State.slot_modCtx]
    split
    · next h =>
      have e := w.slotEq s.cur
      rw [if_pos rfl] at e
      rw [← w.ctx]
      exact congrArg (fun x : Slot => { x with ctx := f (t.ctx s.cur) }) e
    · next h => rw [w.slotEq, if_neg h]
  cores k := by
    unfold State.modCtx
    rw [State.core_modSlot]
    split
    · exact w.cores k
    · exact w.cores k
  rest := by rw [State.rest_modCtx]; exact w.rest
  agenda := by simpa using w.agenda

/-- The same entry joins the agenda. -/
theorem Worked.sched {s t : State} {c : Ctx} (w : Worked s t c) (due phase : Nat) (ev : Ev) :
    Worked (s.sched due phase ev) (t.sched due phase ev) c where
  cur := w.cur
  now := w.now
  seq := by unfold State.sched; exact congrArg (· + 1) w.seq
  slotEq := w.slotEq
  cores := w.cores
  rest := w.rest
  agenda := by unfold State.sched; rw [w.seq, w.agenda]

/-- The same change of a core, of what an issue does not itself change. -/
theorem Worked.modCore {s t : State} {c : Ctx} (w : Worked s t c) (k : Nat) (f : Core → Core)
    (hs : ∀ c, (f c).slots = c.slots) (hr : ∀ c d : Core, c.rest = d.rest → (f c).rest = (f d).rest) :
    Worked (s.modCore k f) (t.modCore k f) c where
  cur := by simpa using w.cur
  now := by simpa using w.now
  seq := by simpa using w.seq
  slotEq u := by
    have key : ∀ (s : State) (u : Tid), (s.modCore k f).slot u = s.slot u := fun s u => by
      rw [State.slot_modCore]
      split
      · next h => subst h; simp only [Core.slot, hs]; rfl
      · rfl
    rw [key, w.slotEq]
    change _ = if u = s.cur then { ((s.modCore k f).slot s.cur).calmed with elig := s.now + 16, ctx := c }
      else ((s.modCore k f).slot u).calmed
    simp only [key]
  cores j := by
    rw [State.core_modCore, State.core_modCore]
    split
    · next h => subst h; exact hr _ _ (w.cores j)
    · exact w.cores j
  rest := by rw [State.rest_modCore, State.rest_modCore]; exact w.rest
  agenda := by simpa using w.agenda

/-- The same change of a slot, of what an issue does not itself change. -/
theorem Worked.modSlot {s t : State} {c : Ctx} (w : Worked s t c) (u : Tid) (f : Slot → Slot)
    (hf : ∀ (x : Slot) e c, f { x with elig := e, ctx := c } = { f x with elig := e, ctx := c })
    (hc : ∀ x : Slot, (f x).calmed = f x.calmed) :
    Worked (s.modSlot u f) (t.modSlot u f) c where
  cur := by simpa using w.cur
  now := by simpa using w.now
  seq := by simpa using w.seq
  slotEq v := by
    change _ = if v = s.cur then { ((s.modSlot u f).slot s.cur).calmed with elig := s.now + 16, ctx := c }
      else ((s.modSlot u f).slot v).calmed
    simp only [State.slot_modSlot]
    by_cases h : v = u
    · subst h
      by_cases h2 : v = s.cur
      · subst h2; simp only [if_true, hc]; rw [w.slotEq, if_pos rfl, hf]
      · rw [if_neg h2]; simp only [if_true, hc]; rw [w.slotEq, if_neg h2]
    · rw [if_neg h]
      by_cases h2 : v = s.cur
      · subst h2; simp only [if_true]; rw [if_neg h, w.slotEq, if_pos rfl]
      · rw [if_neg h2, w.slotEq, if_neg h2, if_neg h]
  cores k := by
    rw [State.core_modSlot, State.core_modSlot]
    split
    · exact w.cores k
    · exact w.cores k
  rest := by rw [State.rest_modSlot, State.rest_modSlot]; exact w.rest
  agenda := by simpa using w.agenda

theorem Worked.setSt {s t : State} {c : Ctx} (w : Worked s t c) (u : Tid) (v : SlotState) :
    Worked (s.setSt u v) (t.setSt u v) c := w.modSlot u _ (fun _ _ _ => rfl) (fun _ => rfl)

/-- The replays of the current thread are forgotten (R170). -/
theorem Worked.calm {s t : State} {c : Ctx} (w : Worked s t c) (u : Tid) : Worked s (t.calm u) c where
  cur := by simpa [State.calm] using w.cur
  now := by simpa [State.calm] using w.now
  seq := by simpa [State.calm] using w.seq
  slotEq v := by
    rw [← w.slotEq]
    unfold State.calm
    rw [State.slot_modSlot]
    split
    · next h => subst h; rfl
    · rfl
  cores k := by
    unfold State.calm
    rw [State.core_modSlot]
    split <;> exact w.cores k
  rest := by unfold State.calm; rw [State.rest_modSlot]; exact w.rest
  agenda := by simpa [State.calm] using w.agenda

theorem Worked.clusterEq {s t : State} {c : Ctx} (w : Worked s t c) (k : Nat) : t.cluster k = s.cluster k := by
  unfold State.cluster
  rw [State.rest_clusters w.rest]

theorem Worked.modCluster {s t : State} {c : Ctx} (w : Worked s t c) (k : Nat) (f : Cluster → Cluster) :
    Worked (s.modCluster k f) (t.modCluster k f) c where
  cur := w.cur
  now := w.now
  seq := w.seq
  slotEq := w.slotEq
  cores := w.cores
  rest := by
    have h := w.rest
    unfold State.rest at h ⊢
    unfold State.modCluster
    rw [w.clusterEq]
    simp only [State.mk.injEq] at h ⊢
    simp only [h, and_self]
  agenda := w.agenda

/-- The next message's number is taken. -/
theorem Worked.newId {s t : State} {c : Ctx} (w : Worked s t c) : t.newId.1 = s.newId.1 ∧ Worked s.newId.2 t.newId.2 c := by
  have hf : t.fresh = s.fresh := by have := congrArg State.fresh w.rest; exact this
  refine ⟨hf, w.cur, w.now, w.seq, w.slotEq, w.cores, ?_, w.agenda⟩
  have h := w.rest
  unfold State.rest at h ⊢
  unfold State.newId
  simp only [State.mk.injEq] at h ⊢
  simp only [h, and_self]

/-- The current thread goes on at pc. -/
theorem Worked.completes {s t : State} {c : Ctx} (w : Worked s t c) (pc : W64) : Completes s (t.finish s.cur pc) c pc := by
  have hx := w.ctx
  refine ⟨?_, ?_, ?_, ?_, keeps_finish w.rest w.cores ?_ ?_ pc⟩
  · rw [ctx_finish, if_pos rfl, hx]
  · rw [slot_finish, if_pos rfl]; exact w.turn
  · rw [slot_finish, if_pos rfl]; rfl
  · intro _ h2
    rw [finish_agenda _ _ _ (by rw [hx]; exact h2)]
    exact w.agenda
  · exact w.slot_rest
  · exact fun u hu => w.ctx_other hu

/-- The current thread has spent its turn. -/
theorem Worked.leaves {s t : State} (w : Worked s t (s.ctx s.cur)) : Leaves s t where
  ctx := w.ctx
  turn := w.turn
  agenda := w.agenda
  keeps := .mk' w.rest w.cores w.slot_rest fun u hu => w.ctx_other hu

/-- The current thread waits for the verdict's fault, with nothing done. -/
theorem Worked.raises {s t : State} (w : Worked s t (s.ctx s.cur)) (f : Flt) :
    Leaves (s.raiseLater s.cur f) (t.raiseLater s.cur f) := by
  unfold State.raiseLater State.actAt
  rw [w.now]
  exact (w.sched _ _ _).leaves

section
variable {h : Hdr} {uses : List Use} {s : State} {kpriv vec stepped : Bool} {body : Bool → State → Step1}

/-- An issue whose effect is on the registers alone. -/
theorem issue_next (resv : Bool) (hi : Issues h uses s kpriv vec stepped) (f : Ctx → Ctx)
    (hb : body true (s.begun h uses stepped) = .next ((s.begun h uses stepped).modCtx s.cur f)) :
    ∃ t, issue h uses body s kpriv vec resv stepped = .next t ∧ Completes s t (f (s.ctx s.cur)) (s.nextPc h) :=
  ⟨_, by rw [issue_passes resv hi, hb]; rfl, ((worked_begun s h uses stepped).modCtx f).completes _⟩

/-- An issue without an effect. -/
theorem issue_nothing (resv : Bool) (hi : Issues h uses s kpriv vec stepped)
    (hb : body true (s.begun h uses stepped) = .next (s.begun h uses stepped)) :
    ∃ t, issue h uses body s kpriv vec resv stepped = .next t ∧ Completes s t (s.ctx s.cur) (s.nextPc h) :=
  ⟨_, by rw [issue_passes resv hi, hb]; rfl, (worked_begun s h uses stepped).completes _⟩

theorem issue_jump (resv : Bool) (hi : Issues h uses s kpriv vec stepped) (pc : W64)
    (hb : body true (s.begun h uses stepped) = .jump (s.begun h uses stepped) pc) :
    ∃ t, issue h uses body s kpriv vec resv stepped = .next t ∧ Completes s t (s.ctx s.cur) pc :=
  ⟨_, by rw [issue_passes resv hi, hb]; rfl, (worked_begun s h uses stepped).completes _⟩

theorem issue_jump_modCtx (resv : Bool) (hi : Issues h uses s kpriv vec stepped) (pc : W64) (f : Ctx → Ctx)
    (hb : body true (s.begun h uses stepped) = .jump ((s.begun h uses stepped).modCtx s.cur f) pc) :
    ∃ t, issue h uses body s kpriv vec resv stepped = .next t ∧ Completes s t (f (s.ctx s.cur)) pc :=
  ⟨_, by rw [issue_passes resv hi, hb]; rfl, ((worked_begun s h uses stepped).modCtx f).completes _⟩

/-- An issue whose operation faults: nothing is done, and the fault is taken with the verdict. -/
theorem issue_fault (resv : Bool) (hi : Issues h uses s kpriv vec stepped) (f : Flt)
    (hb : body true (s.begun h uses stepped) = .fault f) :
    ∃ t, issue h uses body s kpriv vec resv stepped = .next t ∧ Leaves (s.raiseLater s.cur f) t :=
  ⟨_, by rw [issue_passes resv hi, hb]; rfl, (worked_begun s h uses stepped).raises f⟩

end

/-- The registers of the current thread after `compute`. -/
theorem compute_completes {h : Hdr} {uses : List Use} {s : State} {vec : Bool} (hi : Issues h uses s false vec) (f : Ctx → Ctx) :
    ∃ t, compute h uses f s vec = .next t ∧ Completes s t (f (s.ctx s.cur)) (s.nextPc h) :=
  issue_next false hi f (by rw [begun_cur])

end Sys2Proof.Machine
end

