-- ==== Sys2Proof/Laws/Lanes.lean ====
section
/-!
SUPPORT. The elements of packed rows and of masked vectors (R105, R106).
-/

namespace Sys2Proof

theorem Num.pack_succ (w n : Nat) (f : Nat → Nat) :
    Num.pack w (n + 1) f = f 0 % 2 ^ w + 2 ^ w * Num.pack w n (fun j => f (j + 1)) := by
  unfold Num.pack
  rw [List.range_succ_eq_map, List.foldr_cons, List.foldr_map]

theorem Num.pack_lt (w n : Nat) (f : Nat → Nat) : Num.pack w n f < 2 ^ (w * n) := by
  induction n generalizing f with
  | zero => exact Nat.pow_pos (by decide)
  | succ n ih =>
    rw [Num.pack_succ, Nat.mul_add, Nat.mul_one, Nat.add_comm (w * n) w, Nat.pow_add]
    have h1 := Nat.mod_lt (f 0) (Nat.pow_pos (n := w) (show 0 < 2 by decide))
    have h2 : 2 ^ w * (Num.pack w n (fun j => f (j + 1)) + 1) ≤ 2 ^ w * 2 ^ (w * n) := Nat.mul_le_mul_left _ (ih _)
    rw [Nat.mul_add] at h2
    omega

/-- Element j of a packed row. -/
theorem Num.elem_pack (w n : Nat) (f : Nat → Nat) {j : Nat} (hj : j < n) : Num.elem (Num.pack w n f) w j = f j % 2 ^ w := by
  induction n generalizing f j with
  | zero => omega
  | succ n ih =>
    have hp : 0 < 2 ^ w := Nat.pow_pos (by decide)
    rw [Num.pack_succ]
    cases j with
    | zero => simp [Num.elem, Nat.add_mul_mod_self_left]
    | succ j =>
      have := ih (fun i => f (i + 1)) (Nat.lt_of_succ_lt_succ hj)
      unfold Num.elem at this ⊢
      rw [Nat.mul_add, Nat.mul_one, Nat.add_comm (w * j) w, Nat.pow_add, ← Nat.div_div_eq_div_mul,
        Nat.add_mul_div_left _ _ hp, Nat.div_eq_of_lt (Nat.mod_lt _ hp), Nat.zero_add]
      exact this

/-- R106: an enabled element has its result, a disabled one its old contents. -/
theorem Num.elem_lanes (old : Vec) {w n : Nat} (lm : Nat) (f : Nat → Nat) (hw : w * n ≤ 512) {j : Nat} (hj : j < n) :
    Num.elem (Num.lanes old w n lm f).toNat w j = if Num.enabled lm w j then f j % 2 ^ w else Num.elem old.toNat w j := by
  have hlt := Num.pack_lt w n (fun j => if Num.enabled lm w j then f j else Num.elem old.toNat w j)
  have ho := old.isLt
  have hsum : Num.pack w n (fun j => if Num.enabled lm w j then f j else Num.elem old.toNat w j)
      + old.toNat / 2 ^ (w * n) * 2 ^ (w * n) < 2 ^ 512 := by
    have h1 : old.toNat / 2 ^ (w * n) < 2 ^ (512 - w * n) := by
      apply Nat.div_lt_of_lt_mul
      rw [← Nat.pow_add, Nat.add_sub_cancel' hw]
      exact ho
    have h2 : (old.toNat / 2 ^ (w * n) + 1) * 2 ^ (w * n) ≤ 2 ^ (512 - w * n) * 2 ^ (w * n) := Nat.mul_le_mul_right _ h1
    rw [← Nat.pow_add, Nat.sub_add_cancel hw, Nat.add_mul, Nat.one_mul] at h2
    omega
  have he := Num.elem_pack w n (fun j => if Num.enabled lm w j then f j else Num.elem old.toNat w j) hj
  unfold Num.lanes
  rw [BitVec.toNat_ofNat, Nat.mod_eq_of_lt hsum]
  have hsplit : w * n = w * j + w + w * (n - j - 1) := by
    obtain ⟨k, rfl⟩ : ∃ k, n = j + 1 + k := ⟨n - j - 1, by omega⟩
    rw [Nat.mul_add, Nat.mul_add, Nat.mul_one]
    congr 2
    omega
  have hpj : 0 < 2 ^ (w * j) := Nat.pow_pos (by decide)
  unfold Num.elem at he ⊢
  generalize Num.pack w n _ = p at *
  generalize old.toNat / 2 ^ (w * n) = q
  rw [hsplit, Nat.pow_add, Nat.pow_add, Nat.mul_assoc, Nat.mul_left_comm q, Nat.add_mul_div_left _ _ hpj,
    Nat.mul_left_comm q, Nat.add_mul_mod_self_left, he]
  split
  · rfl
  · exact Nat.mod_mod ..

/-- Bits above the elements are those of before. -/
theorem Num.getLsbD_lanes (old : Vec) (w n lm : Nat) (f : Nat → Nat) {i : Nat} (hi : w * n ≤ i) :
    (Num.lanes old w n lm f).getLsbD i = old.getLsbD i := by
  have hlt := Num.pack_lt w n (fun j => if Num.enabled lm w j then f j else Num.elem old.toNat w j)
  unfold Num.lanes
  generalize Num.pack w n _ = p at *
  by_cases h : i < 512
  · rw [BitVec.getLsbD_ofNat]
    simp only [h, decide_true, Bool.true_and]
    rw [show i = (i - w * n) + w * n by omega, ← Nat.testBit_div_two_pow, Nat.add_mul_div_right _ _ (Nat.pow_pos (show 0 < 2 by decide)),
      Nat.div_eq_of_lt hlt, Nat.zero_add, Nat.testBit_div_two_pow, BitVec.getLsbD]
  · rw [BitVec.getLsbD_of_ge _ _ (by omega), BitVec.getLsbD_of_ge _ _ (by omega)]

end Sys2Proof
end

