-- ==== Sys2Proof/Laws/Memory.lean ====
section
/-!
SUPPORT. The laws of memory: a read after a write gives what was written, other bytes stay, and every operation that
writes a memory keeps its canonical form.
-/

namespace Sys2Proof.Machine

/-! Bytes. -/

theorem get_poke (m : Sparse Byte) (a n v x : Nat) :
    Sparse.get 0 (poke m a n v) x = if a ≤ x ∧ x < a + n then BitVec.ofNat 8 (v / 256 ^ (x - a)) else Sparse.get 0 m x := by
  induction n generalizing m a v with
  | zero => rw [poke, if_neg (by omega)]
  | succ n ih =>
    rw [poke, ih, Sparse.get_put]
    by_cases h : x = a
    · subst h; simp <;> omega
    · by_cases h2 : a + 1 ≤ x ∧ x < a + 1 + n
      · rw [if_pos h2, if_pos (by omega), Nat.div_div_eq_div_mul, show x - a = (x - (a + 1)) + 1 by omega, Nat.pow_succ,
          Nat.mul_comm]
      · rw [if_neg h2, if_neg h, if_neg (by omega)]

theorem get_poke_out (m : Sparse Byte) {a n x : Nat} (v : Nat) (h : x < a ∨ a + n ≤ x) :
    Sparse.get 0 (poke m a n v) x = Sparse.get 0 m x := by
  rw [get_poke, if_neg (by omega)]

/-- A read of the bytes that were written. -/
theorem peek_poke (m : Sparse Byte) (a n v : Nat) : peek (poke m a n v) a n = v % 256 ^ n := by
  have key : ∀ k b, b + k ≤ a + n → a ≤ b → peek (poke m a n v) b k = v / 256 ^ (b - a) % 256 ^ k := by
    intro k
    induction k with
    | zero => intro b _ _; simp [peek, Nat.mod_one]
    | succ k ih =>
      intro b h1 h2
      rw [peek, ih (b + 1) (by omega) (by omega), get_poke, if_pos (by omega), BitVec.toNat_ofNat,
        show b + 1 - a = (b - a) + 1 by omega, show (256 : Nat) ^ (b - a + 1) = 256 ^ (b - a) * 256 from Nat.pow_succ ..,
        ← Nat.div_div_eq_div_mul, show (256 : Nat) ^ (k + 1) = 256 * 256 ^ k from Nat.pow_succ' .., Nat.mod_mul]
  have := key n a (by omega) (by omega)
  simpa using this

theorem peek_poke_out (m : Sparse Byte) {a n b k : Nat} (v : Nat) (h : b + k ≤ a ∨ a + n ≤ b) :
    peek (poke m a n v) b k = peek m b k := by
  induction k generalizing b with
  | zero => rfl
  | succ k ih => rw [peek, peek, ih (by omega), get_poke_out m v (by omega)]

/-! The canonical form of one memory. -/

theorem Memory.wf_nil : Memory.wf [] = true := rfl

theorem Memory.wf_put {m : Sparse Byte} (h : Memory.wf m = true) (a : Nat) (b : Byte) : Memory.wf (m.put 0 a b) = true :=
  Sparse.wf_put h a b

theorem Memory.wf_filter {m : Sparse Byte} (h : Memory.wf m = true) (p : Nat × Byte → Bool) : Memory.wf (m.filter p) = true :=
  Sparse.wf_filter p h

theorem Memory.wf_poke {m : Sparse Byte} (h : Memory.wf m = true) (a n v : Nat) : Memory.wf (poke m a n v) = true := by
  induction n generalizing m a v with
  | zero => exact h
  | succ n ih => exact ih (Memory.wf_put h a _) _ _

/-- A table of memories written one entry at a time. -/
theorem Memory.wf_foldl {β : Type} {f : Sparse Byte → β → Sparse Byte} (hf : ∀ m x, Memory.wf m = true → Memory.wf (f m x) = true)
    (l : List β) {m : Sparse Byte} (h : Memory.wf m = true) : Memory.wf (l.foldl f m) = true := by
  induction l generalizing m with
  | nil => exact h
  | cons x l ih => exact ih (hf m x h)

/-! The canonical form of every memory of the package. -/

theorem Sparse.all_put {α : Type} [DecidableEq α] {p : Nat × α → Bool} {d : α} {m : Sparse α} {k : Nat} {v : α} (h : m.all p = true)
    (hv : p (k, v) = true) : (m.put d k v).all p = true := by
  simp only [List.all_eq_true] at h ⊢
  unfold Sparse.put
  split
  · intro x hx; exact h x (List.mem_filter.1 hx).1
  · revert h
    induction m with
    | nil => intro _; simpa [Sparse.insert] using hv
    | cons y m ih =>
      intro h x hx
      have h1 := h y (by simp)
      have h2 := ih (fun z hz => h z (by simp [hz]))
      simp only [Sparse.insert] at hx
      split at hx
      · rcases List.mem_cons.1 hx with rfl | hx
        · exact hv
        · exact h x hx
      · split at hx
        · rcases List.mem_cons.1 hx with rfl | hx
          · exact hv
          · exact h x (by simp [hx])
        · rcases List.mem_cons.1 hx with rfl | hx
          · exact h1
          · exact h2 x hx

theorem Sparse.all_get {α : Type} {p : α → Bool} {d : α} {m : Sparse α} (h : m.all (fun x => p x.2) = true) (hd : p d = true) (k : Nat) :
    p (Sparse.get d m k) = true := by
  induction m with
  | nil => exact hd
  | cons y m ih =>
    simp only [List.all_cons, Bool.and_eq_true] at h
    rw [Sparse.get_cons]
    split
    · exact h.1
    · exact ih h.2

theorem State.memWf_core {s : State} (h : s.memWf = true) (c : Nat) : Memory.wf (s.core c).mem = true := by
  simp only [State.memWf, Bool.and_eq_true] at h
  exact Sparse.all_get (p := fun x : Core => Memory.wf x.mem) h.1.2 rfl c

theorem State.memWf_cluster {s : State} (h : s.memWf = true) (c : Nat) : Memory.wf (s.cluster c).mem = true := by
  simp only [State.memWf, Bool.and_eq_true] at h
  exact Sparse.all_get (p := fun x : Cluster => Memory.wf x.mem) h.2 rfl c

theorem State.memWf_phys {s : State} (h : s.memWf = true) : Memory.wf s.phys = true := by
  simp only [State.memWf, Bool.and_eq_true] at h; exact h.1.1.1

theorem State.memWf_host {s : State} (h : s.memWf = true) : Memory.wf s.hostMem = true := by
  simp only [State.memWf, Bool.and_eq_true] at h; exact h.1.1.2

/-- What has the same memories is as canonical. -/
theorem State.memWf_of_eq {s t : State} (h : s.memWf = true) (hp : t.phys = s.phys) (hh : t.hostMem = s.hostMem)
    (hc : t.cores = s.cores) (hl : t.clusters = s.clusters) : t.memWf = true := by
  simpa only [State.memWf, hp, hh, hc, hl] using h

theorem State.memWf_reset : State.reset.memWf = true := rfl

theorem State.memWf_modCore {s : State} (h : s.memWf = true) (c : Nat) {f : Core → Core}
    (hf : ∀ x, Memory.wf x.mem = true → Memory.wf (f x).mem = true) : (s.modCore c f).memWf = true := by
  have hc := hf _ (State.memWf_core h c)
  simp only [State.memWf, Bool.and_eq_true] at h ⊢
  exact ⟨⟨h.1.1, Sparse.all_put h.1.2 hc⟩, h.2⟩

theorem State.memWf_modCluster {s : State} (h : s.memWf = true) (c : Nat) {f : Cluster → Cluster}
    (hf : ∀ x, Memory.wf x.mem = true → Memory.wf (f x).mem = true) : (s.modCluster c f).memWf = true := by
  have hc := hf _ (State.memWf_cluster h c)
  simp only [State.memWf, Bool.and_eq_true] at h ⊢
  exact ⟨h.1, Sparse.all_put h.2 hc⟩

/-- A change of a core that leaves its memory alone. -/
theorem State.memWf_modCore_same {s : State} (h : s.memWf = true) (c : Nat) {f : Core → Core} (hf : ∀ x, (f x).mem = x.mem) :
    (s.modCore c f).memWf = true :=
  State.memWf_modCore h c fun x hx => by rw [hf]; exact hx

theorem State.memWf_modCluster_same {s : State} (h : s.memWf = true) (c : Nat) {f : Cluster → Cluster} (hf : ∀ x, (f x).mem = x.mem) :
    (s.modCluster c f).memWf = true :=
  State.memWf_modCluster h c fun x hx => by rw [hf]; exact hx

theorem State.memWf_setPhys {s : State} (h : s.memWf = true) {m : Sparse Byte} (hm : Memory.wf m = true) :
    { s with phys := m : State }.memWf = true := by
  simp only [State.memWf, Bool.and_eq_true] at h ⊢
  exact ⟨⟨⟨hm, h.1.1.2⟩, h.1.2⟩, h.2⟩

theorem State.memWf_setHost {s : State} (h : s.memWf = true) {m : Sparse Byte} (hm : Memory.wf m = true) :
    { s with hostMem := m : State }.memWf = true := by
  simp only [State.memWf, Bool.and_eq_true] at h ⊢
  exact ⟨⟨⟨h.1.1.1, hm⟩, h.1.2⟩, h.2⟩

theorem State.memWf_foldl {β : Type} {f : State → β → State} (hf : ∀ s x, s.memWf = true → (f s x).memWf = true) (l : List β)
    {s : State} (h : s.memWf = true) : (l.foldl f s).memWf = true := by
  induction l generalizing s with
  | nil => exact h
  | cons x l ih => exact ih (hf s x h)

/-! Every operation that writes a memory. -/

theorem State.memWf_localWrite {s : State} (h : s.memWf = true) (core a n data : Nat) : (s.localWrite core a n data).memWf = true :=
  State.memWf_modCore h core fun _ hx => Memory.wf_poke hx a n data

theorem State.memWf_physPut {s : State} (h : s.memWf = true) (team : BitVec 16) (pa : Nat) (b : Byte) :
    (s.physPut team pa b).memWf = true := by
  have hp := State.memWf_setPhys h (Memory.wf_put (State.memWf_phys h) (s.mapped pa) b)
  unfold State.physPut
  split
  · split
    · exact h
    · exact hp
  · exact hp

theorem State.memWf_physWrite {s : State} (h : s.memWf = true) (team : BitVec 16) (pa n v : Nat) :
    (s.physWrite team pa n v).memWf = true := by
  induction n generalizing s pa v with
  | zero => exact h
  | succ n ih => exact ih (State.memWf_physPut h team pa _) _ _

theorem Core.wf_holdWord {c : Core} (h : Memory.wf c.mem = true) (pc w : Nat) : Memory.wf (c.holdWord pc w).mem = true :=
  Memory.wf_poke h pc 16 w

theorem Core.mem_setRdv (c : Core) (m : Sparse Point) : { c with rdv := m : Core }.mem = c.mem := rfl

theorem Core.mem_ite {p : Prop} [Decidable p] {a b c : Core} (ha : a.mem = c.mem) (hb : b.mem = c.mem) :
    (if p then a else b).mem = c.mem := by split <;> assumption

theorem Core.wf_loadLine {c : Core} (h : Memory.wf c.mem = true) (off v : Nat) : Memory.wf (c.loadLine off v).mem = true := by
  by_cases h0 : off < 0x60000
  · rw [Core.loadLine, if_pos h0]; exact Memory.wf_poke h _ _ _
  · have e : (c.loadLine off v).mem = c.mem := by
      rw [Core.loadLine, if_neg h0]
      refine Core.mem_ite rfl (Core.mem_ite rfl (Core.mem_ite rfl (Core.mem_ite rfl (Core.mem_ite rfl (Core.mem_ite rfl
        (Core.mem_ite rfl (Core.mem_ite rfl (Core.mem_ite rfl ?_))))))))
      exact (Core.mem_setRdv _ _).trans (Core.mem_ite rfl rfl)
    rw [e]; exact h

theorem State.memWf_setErrs {s : State} (h : s.memWf = true) (e : Sparse Err) : { s with localErrs := e : State }.memWf = true := h

theorem State.memWf_setStoreErrs {s : State} (h : s.memWf = true) (e : Sparse Err) : { s with storeErrs := e : State }.memWf = true := h

theorem State.memWf_ite {b : Prop} [Decidable b] {s t : State} (hs : s.memWf = true) (ht : t.memWf = true) :
    (if b then s else t).memWf = true := by split <;> assumption

theorem State.memWf_freshImage {s : State} (h : s.memWf = true) (t : Tid) : (s.freshImage t).memWf = true := by
  unfold State.freshImage
  refine State.memWf_setErrs (State.memWf_modCore h t.core fun x hx => ?_) _
  refine Memory.wf_foldl (fun m j hm => ?_) _ (Memory.wf_filter hx _)
  dsimp only
  split
  · exact hm
  · exact Memory.wf_poke hm _ _ _

theorem State.memWf_clearFor {s : State} (h : s.memWf = true) (tenant : BitVec 6) (core : Nat) : (s.clearFor tenant core).memWf = true := by
  unfold State.clearFor
  dsimp only
  refine State.memWf_modCluster_same ?_ _ ?_
  case refine_2 => intro _; rfl
  refine State.memWf_modCore_same ?_ _ ?_
  case refine_2 => intro _; rfl
  have h1 := State.memWf_ite (b := (!(match (s.core core).lastTenant with | some x => x != tenant | none => false)) = true) h
    (State.memWf_setErrs (State.memWf_modCore (f := fun c => { c with mem := [], empty := [] }) h core fun _ _ => rfl)
      (s.localErrs.filter fun x => !(decide (localErrBase core ≤ x.1) && decide (x.1 < localErrBase core + 49152))))
  refine State.memWf_ite h1 (State.memWf_setStoreErrs (State.memWf_modCluster h1 _ fun _ _ => rfl) _)

theorem State.memWf_zeroPhys {s : State} (h : s.memWf = true) (f : Nat → Bool) : (s.zeroPhys f).memWf = true :=
  State.memWf_setPhys h (Memory.wf_filter (State.memWf_phys h) fun x => !f x.1)

end Sys2Proof.Machine
end

