-- ==== Sys2Proof/Tests/Slice0.lean ====
section
/-!
SUPPORT. The model's own tests: well-formedness, decoding, single instructions on small states, and for every statement
a witness of its hypotheses. Expected values are from the specification: its examples, its tables, or worked by hand.
-/

namespace Sys2Proof.Tests

open Sys2Proof Sys2Proof.Machine Sys2Proof.Claims

set_option Elab.async false

/-! Well-formedness: for each check a term that it refuses (R55 to R67 and the descriptions), beside one that it accepts. -/

/-- A 64-bit, a 96-bit and a 128-bit header: guard k15, no wait. -/
def hA : Hdr := ⟨.w64, 15, false, 0⟩
def hB : Hdr := ⟨.w96, 15, false, 0⟩
def hC : Hdr := ⟨.w128, 15, false, 0⟩

/-- R55, R63, R52: the wait field, the filler's guard, and lengths that an instruction does not have. -/
theorem test_wf_headers :
    (Instr.add ⟨.w64, 15, false, 5⟩ 1 2 (.reg 3)).wf = true ∧ (Instr.add ⟨.w64, 15, false, 6⟩ 1 2 (.reg 3)).wf = false ∧
    (Instr.add ⟨.w64, 15, true, 0⟩ 1 2 (.reg 3)).wf = false ∧ (Instr.clz hC 1 2).wf = false ∧ (Instr.sext hB .b 1 2).wf = false ∧
    (Instr.pand hB 1 2 3).wf = false ∧ (Instr.br hB 0).wf = false ∧ (Instr.rsave hA 0 1 0).wf = false ∧
    (Instr.pitch hB (.reg 1)).wf = false ∧ (Instr.twget hA ⟨0, 0, false, 0, 1, 2, 3, 0⟩).wf = false ∧
    (Instr.vcvt hC .f32 .i8 .rne false 1 2 0).wf = false := by decide +kernel

/-- R58, R91: immediates that the length cannot hold; the E field and its register; the C field. -/
theorem test_wf_operands :
    (Instr.add hA 1 2 (.imm 0x7FF)).wf = true ∧ (Instr.add hA 1 2 (.imm 0x800)).wf = false ∧
    (Instr.add hB 1 2 (.imm 0x80000000)).wf = false ∧ (Instr.add hC 1 2 (.imm 0x80000000)).wf = true ∧
    (Instr.cmp hA .eq 1 none 2 (.reg 3)).wf = false ∧ (Instr.cmp hA .eq 1 (some 2) 2 (.imm 3)).wf = false ∧
    (Instr.cmp hA .eq 1 (some 1) 2 (.reg 3)).wf = false ∧ (Instr.cmp hA .eq 15 (some 15) 2 (.reg 3)).wf = true ∧
    (Instr.sel hA 1 2 3 (.imm 4)).wf = false ∧ (Instr.acas hA ⟨1, 2, .imm 3, 4, true, false⟩).wf = false ∧
    (Instr.jmp hA 1 (some 0x800)).wf = false := by decide +kernel

/-- R92, R110 to R121: types, rounding, saturation and unused operands of the vector instructions. -/
theorem test_wf_vectors :
    (Instr.cmpf hA .eq .i8 1 (some 2) 2 (.reg 3)).wf = false ∧ (Instr.vadd hA ⟨.i8, .rtz, false, 1, 2, .reg 3, 0⟩).wf = false ∧
    (Instr.vadd hA ⟨.i8, .rne, true, 1, 2, .reg 3, 0⟩).wf = false ∧ (Instr.vadd hA ⟨.e4m3, .rne, false, 1, 2, .reg 3, 0⟩).wf = false ∧
    (Instr.vadd hA ⟨.f32, .rtz, true, 1, 2, .reg 3, 0⟩).wf = true ∧ (Instr.vdiv hA ⟨.i32, .rne, false, 1, 2, .reg 3, 0⟩).wf = false ∧
    (Instr.vsqrt hA ⟨.f32, .rne, false, 1, 2, .reg 3, 0⟩).wf = false ∧ (Instr.vfma hA ⟨.f32, .rne, false, 1, 2, .imm 3, 4⟩).wf = false ∧
    (Instr.vand hA ⟨.f32, .rne, false, 1, 2, .reg 3, 0⟩).wf = false ∧ (Instr.vabs hA ⟨.n8, .rne, false, 1, 2, .reg 0, 0⟩).wf = false ∧
    (Instr.vcmp hA .un .i8 1 (some 2) 3 (.reg 4)).wf = false ∧ (Instr.vcvt hA .q16 .i8 .rne false 1 2 0).wf = false ∧
    (Instr.vcvt hA .f32 .i8 .rne false 1 2 4).wf = false ∧ (Instr.vcvt hA .f32 .i8 .rne false 1 2 3).wf = true ∧
    (Instr.vror hA .f32 1 2).wf = false ∧ (Instr.vrsum hA .i8 .rtz false 1 2).wf = false ∧ (Instr.vperm hA .e2m1 1 2 3).wf = false ∧
    (Instr.vexp hA .i8 .rne false 1 2).wf = false ∧ (Instr.vlut hA .i8 1 2 3 2).wf = false ∧ (Instr.vlut hA .q16 1 2 3 0).wf = false := by
  decide +kernel

/-- R187, R194 to R206: qualifiers, sizes, counters and displacements of memory accesses, and the forms of atomics. -/
theorem test_wf_memory :
    (Instr.ldl hA ⟨1, 2, 0, false, 0, 3, false, .e, 0, 0⟩).wf = false ∧ (Instr.stl hA ⟨1, 2, 0, false, 0, 3, false, .f, 0, 0⟩).wf = false ∧
    (Instr.ld hA ⟨1, 2, 0, false, 0, 3, false, .fc, 0, 0⟩).wf = false ∧ (Instr.st hA ⟨1, 2, 0, false, 0, 3, false, .k, 0, 0⟩).wf = false ∧
    (Instr.ld hA ⟨1, 2, 0, false, 0, 2, true, .none, 0, 0⟩).wf = false ∧ (Instr.ld hA ⟨1, 2, 0, false, 0, 3, false, .none, 1, 0⟩).wf = false ∧
    (Instr.ld hA ⟨1, 2, 3, false, 0, 3, false, .none, 0, 0⟩).wf = false ∧ (Instr.ld hA ⟨1, 2, 0, false, 0, 3, false, .none, 0, 0x4000⟩).wf = false ∧
    (Instr.ld hC ⟨1, 2, 0, false, 0, 3, false, .none, 0, 0⟩).wf = false ∧ (Instr.pref hA ⟨1, 2, 0, false, 0, 3, false, .none, 0, 0⟩).wf = false ∧
    (Instr.pref hA ⟨0, 2, 0, false, 0, 2, false, .none, 0, 0⟩).wf = false ∧ (Instr.aadd hA ⟨1, 2, .reg 3, 4, true, false⟩).wf = false ∧
    (Instr.aadd hA ⟨1, 2, .reg 3, 0, true, true⟩).wf = false ∧ (Instr.amin hA ⟨1, 2, .reg 3, 0, true, true⟩).wf = true ∧
    (Instr.aacc hA ⟨.i8, .rne, 0, 2, .reg 3⟩).wf = false ∧ (Instr.aacc hA ⟨.f32, .rne, 1, 2, .reg 3⟩).wf = false ∧
    (Instr.aacc hA ⟨.i32, .rtz, 0, 2, .reg 3⟩).wf = false ∧ (Instr.afmin hA ⟨.f32, .rtz, 1, 2, .reg 3⟩).wf = false ∧
    (Instr.fenceQ hA 0).wf = false := by decide +kernel

/-- R136 to R149, R223 to R249: the operands of the purlin, queue, batten and rendezvous instructions. -/
theorem test_wf_units :
    (Instr.pitch hA (.imm 0)).wf = false ∧ (Instr.vpack hA .f32 false false 0 1 0).wf = false ∧ (Instr.vpack hA .i8 false false 0 1 64).wf = false ∧
    (Instr.vpacks hA false 0 1 6).wf = false ∧ (Instr.vpacks hB false 0 1 6).wf = true ∧ (Instr.rmul hA ⟨1, 1, 0, 0, 0, 0⟩).wf = false ∧
    (Instr.rmul hA ⟨1, 2, 0, 64, 0, 0⟩).wf = false ∧ (Instr.rmul hA ⟨1, 2, 0, 0, 8, 0⟩).wf = false ∧ (Instr.rmul hA ⟨1, 2, 0, 0, 0, 1⟩).wf = false ∧
    (Instr.rtile hA ⟨1, 2, 0, 64, 0, 0⟩).wf = false ∧ (Instr.rtile hA ⟨1, 2, 0, 0, 16, 0⟩).wf = false ∧
    (Instr.rext hA ⟨.q16, .rne, false, 0, 1, 2⟩ 0).wf = false ∧ (Instr.rext hA ⟨.f32, .rne, false, 0, 1, 2⟩ 256).wf = false ∧
    (Instr.rext hB ⟨.i8, .rne, false, 0, 1, 2⟩ 4033).wf = false ∧ (Instr.rextm hB ⟨.f32, .rne, false, 0, 1, 2⟩ 3 32 32 0).wf = false ∧
    (Instr.rextm hB ⟨.f32, .rne, false, 0, 1, 2⟩ 3 0 0 0x100000000).wf = false ∧ (Instr.qput hA 7 1).wf = false ∧ (Instr.qget hA 1 7).wf = false ∧
    (Instr.bset hA 0 0 false (some (1, 0))).wf = false ∧ (Instr.bset hC 0 0 false none).wf = false ∧ (Instr.fork hA 1 (.rel 0) 2).wf = false ∧
    (Instr.fork hB 1 (.reg 3) 2).wf = false ∧ (Instr.rdv hA 0 16).wf = false ∧ (Instr.twput hC ⟨0, 0, true, 0, 1, 2, 3, 0⟩).wf = false ∧
    (Instr.twget hC ⟨0, 0, false, 1, 1, 2, 3, 0⟩).wf = false ∧ (Instr.twgetRaw hC ⟨0, 0, false, 1, 1, 2, 3, 0⟩).wf = false ∧
    (Instr.twdeal hC .raw ⟨0, 0, true, 1, 1, 2, 0, 0⟩).wf = false := by decide +kernel

/-- R283 to R341, R324, R155 to R177, R319: the operands of the task, counter and system instructions. -/
theorem test_wf_system :
    (Instr.spawn hC 1 2 0x102).wf = false ∧ (Instr.csig hA 1 2 0).wf = false ∧ (Instr.csig hA 1 2 65).wf = false ∧ (Instr.csig hB 1 2 65).wf = true ∧
    (Instr.msg hA 1 2 3 0 2).wf = false ∧ (Instr.cntrdBud hA 1 5).wf = false ∧ (Instr.cro hA 0 (.reg 1)).wf = false ∧
    (Instr.cro hA 1 (.rel 0)).wf = false ∧ (Instr.mfs hA 1 .stat (some (0, 0))).wf = false ∧ (Instr.mfs hB 1 .stat (some (32, 32))).wf = false ∧
    (Instr.mfs hB 1 .stat (some (32, 31))).wf = true ∧ (Instr.mts hA .region (.reg 1)).wf = false ∧ (Instr.repart hA (.imm 3)).wf = false ∧
    (Instr.tlbinvRange hC 1 2 0).wf = false ∧ (Instr.resolve hA 1 2 (.imm 0x800)).wf = false := by decide +kernel

/-! Decoding: words written out from the encodings of R52 to R66, bit by bit. -/

/-- R55, R58, R60, R62, R63: scalar, predicate and control words, the fillers, and a word with a reserved field. -/
theorem test_decode_scalar :
    decode 0#128 = some (.add ⟨.w64, 0, false, 0⟩ 0 0 (.reg 0)) ∧ decode 0x3F#128 = none ∧
    decode 0xFFFFFFA000181ABC#128 = some (.loop hA 6 (-6)) ∧ decode 0x000000000700753C#128 = some (.pcmp hA (.g 7)) ∧
    decode 0x7C#128 = some (.filler .w64) ∧ decode 0x7D#128 = some (.filler .w96) ∧ decode 0x7E#128 = some (.filler .w128) := by decide +kernel

/-- Queues, rendezvous and tile walks. -/
theorem test_decode_queues :
    decode 0x200000000500583C#128 = some (.qput hA 2 5) ∧ decode 0x20000000001858BC#128 = some (.qget hA 6 2) ∧
    decode 0x1001000000005D3C#128 = some (.rdv hA 1 1) := by decide +kernel

/-- Counters, messages and waiting tasks. -/
theorem test_decode_counters :
    decode 0x000000000518703C#128 = some (.csig hA 6 5 1) ∧ decode 0x00010001841C70BC#128 = some (.msg hA 7 4 6 1 1) ∧
    decode 0x100000200000713C#128 = some (.waitCounter hA 1 2) ∧ decode 0x000010000500713C#128 = some (.waitHandle hA 5) ∧
    decode 0x20000000001071BC#128 = some (.cntrdWc hA 4 2) ∧ decode 0x00001050001071BC#128 = some (.cntrdPerf hA 4 5) ∧
    decode 0x00002000051071BC#128 = some (.cntrdWt hA 4 5) ∧ decode 0x10000000050072BC#128 = some (.sbdef hA 1 5) ∧
    decode 0x10001000000072BC#128 = some (.sbdefFree hA 1) ∧ decode 0x10000000050073BC#128 = some (.sbret hA 1 5) := by decide +kernel

/-- Containment and the TLBs. -/
theorem test_decode_system :
    decode 0x000000100500743C#128 = some (.cro hA 1 (.reg 5)) ∧ decode 0x74BC#128 = some (.crc hA) ∧
    decode 0x0000000000007ABC#128 = some (.tlbinvAll hA) ∧ decode 0x0100000005007ABC#128 = some (.tlbinvPasid hA 5) ∧
    decode 0x0200000185007ABC#128 = some (.tlbinvPage hA 5 6) ∧ decode 0x0400000005007ABC#128 = some (.tlbinvRetire hA 5) := by decide +kernel

/-! Small states, and the hypotheses of the statements. -/

/-- After reset, in cycle 100, slot 0 of core 1 issues with the registers given, all of them resident; f and g change its
core and the package. -/
def at1 (c : Ctx) (f : Core → Core := id) (g : State → State := id) : State :=
  g (({ State.reset with now := 100, cur := ⟨1, 0⟩ } : State).modCore 1 fun k =>
    f (({ k with slots := [(0, { st := .ready, ctx := c, bind := 1 })] } : Core).holdLines 0))

/-- A context with these g registers. -/
def gs (l : List (Reg × W64)) : Ctx := l.foldl (fun c x => c.wg x.1 x.2) {}

def u1 : Tid := ⟨1, 0⟩

/-- The registers that a meaning leaves to the current thread. -/
def after (i : Instr) (s : State) : Option Ctx :=
  match exec i s with
  | .next t => some (t.ctx s.cur)
  | _ => none

/-- R62: the checks of an issue, as one. -/
def mayIssue (h : Hdr) (uses : List Use) (s : State) (kpriv vec stepped : Bool) : Bool :=
  (rK h.guard :: uses).all (·.inRange (s.core s.cur.core).part) && (!kpriv || (s.ctx s.cur).priv) && !(s.ctx s.cur).mustWait h.wait
    && ((rK h.guard :: uses).filterMap (·.line (s.core s.cur.core).part)).all (fun l => (s.core s.cur.core).resident s.cur.slot l.1)
    && (stepped || !s.verdict.1) && decide (s.watch (· == 0) (s.ctx s.cur).pc = none)
    && (if vec then decide (Flags.laneMask ((s.ctx s.cur).rk h.guard) h.neg ≠ 0) else Flags.scalarGuard ((s.ctx s.cur).rk h.guard) h.neg)

theorem issues {h : Hdr} {uses : List Use} {s : State} {kpriv vec stepped : Bool} (hb : mayIssue h uses s kpriv vec stepped = true) :
    Issues h uses s kpriv vec stepped := by
  simp only [mayIssue, Bool.and_eq_true, Bool.or_eq_true, Bool.not_eq_true', decide_eq_true_eq] at hb
  obtain ⟨⟨⟨⟨⟨⟨h1, h2⟩, h3⟩, h4⟩, h5⟩, h6⟩, h7⟩ := hb
  refine ⟨h1, fun hp => ?_, h3, h4, h5, h6, ?_⟩
  · rcases h2 with h2 | h2
    · rw [hp] at h2; cases h2
    · exact h2
  · revert h7
    cases vec <;> simp

theorem reaches {h : Hdr} {uses : List Use} {s : State} (hb : ((rK h.guard :: uses).all (·.inRange (s.core s.cur.core).part)
    && !(s.ctx s.cur).mustWait h.wait
    && ((rK h.guard :: uses).filterMap (·.line (s.core s.cur.core).part)).all (fun l => (s.core s.cur.core).resident s.cur.slot l.1)
    && decide (s.watch (· == 0) (s.ctx s.cur).pc = none)) = true) : Reaches h uses s := by
  simp only [Bool.and_eq_true, Bool.not_eq_true', decide_eq_true_eq] at hb
  exact ⟨hb.1.1.1, hb.1.1.2, hb.1.2, hb.2⟩

/-! Scalar instructions (R83 to R102). -/

/-- R84, R86, R88 to R90: the corners of their tables. -/
theorem test_scalar_corners :
    (after (.div hA 1 2 (.reg 3)) (at1 (gs [(2, 0x8000000000000000), (3, 0xFFFFFFFFFFFFFFFF)]))).map (·.rg 1) = some 0x8000000000000000 ∧
    (after (.rem hA 1 2 (.reg 3)) (at1 (gs [(2, -7), (3, 2)]))).map (·.rg 1) = some (-1) ∧
    (after (.divn hA 1 2 (.reg 3)) (at1 (gs [(2, 7)]))).map (·.rg 1) = some (-1) ∧
    (after (.mulh hA 1 2 (.reg 3)) (at1 (gs [(2, -1), (3, 2)]))).map (·.rg 1) = some (-1) ∧
    (after (.shra hA 1 2 (.imm 65)) (at1 (gs [(2, -4)]))).map (·.rg 1) = some (-2) ∧
    (after (.adds hA 1 2 (.reg 2)) (at1 (gs [(2, 0x7FFFFFFFFFFFFFFF)]))).map (·.rg 1) = some 0x7FFFFFFFFFFFFFFF ∧
    (after (.bext hA true 1 2 (.imm 0xC4)) (at1 (gs [(2, 0x80)]))).map (·.rg 1) = some (-8) ∧
    (after (.sext hA .h 1 2) (at1 (gs [(2, 0x18000)]))).map (·.rg 1) = some 0xFFFFFFFFFFFF8000 := by decide +kernel

/-- R78: g0 reads zero and takes no write; R80: k15 reads all ones. -/
theorem test_zero_register :
    (after (.add hA 0 2 (.imm 5)) (at1 (gs [(2, 7)]))).map (·.rg 0) = some 0 ∧
    (after (.pmov hA (.toG 1 15)) (at1 {})).map (·.rg 1) = some 0xFFFFFFFFFFFFFFFF ∧
    (after (.cmp hA .lt 1 (some 2) 3 (.reg 4)) (at1 (gs [(3, -1), (4, 1)]))).map (fun c => (c.rk 1, c.rk 2)) = some (0xFFFFFFFFFFFFFFFF, 0) := by
  decide +kernel

/-- R101: LOOP takes the branch while its counter is not zero, and goes on at pc + 8 then. -/
theorem test_loop :
    (after (.loop hA 6 (-6)) (at1 { gs [(6, 2)] with pc := 0x100 })).map (fun c => (c.rg 6, c.pc)) = some (1, 0xE8) ∧
    (after (.loop hA 6 (-6)) (at1 { gs [(6, 1)] with pc := 0x100 })).map (fun c => (c.rg 6, c.pc)) = some (0, 0x108) := by decide +kernel

/-- R100: CALLR reads gA before it writes gD. -/
theorem test_callr : (after (.callr hA 1 1 none) (at1 { gs [(1, 0x40)] with pc := 0x100 })).map (fun c => (c.rg 1, c.pc)) = some (0x108, 0x40) := by
  decide +kernel

theorem witness_ScalarResult :
    (∃ i h uses f, arithmetic i = some (h, uses, f) ∧ Issues h uses (at1 {})) ∧ ∃ i h uses f, logic i = some (h, uses, f) ∧ Issues h uses (at1 {}) :=
  ⟨⟨.div hB 1 2 (.reg 3), _, _, _, rfl, issues (by decide +kernel)⟩, ⟨.xor hC 0 2 (.imm 3), _, _, _, rfl, issues (by decide +kernel)⟩⟩

theorem witness_BitResult : Issues hA [rG 2, wG 1] (at1 {}) ∧ Issues hA (rG 2 :: wG 1 :: rS (.reg 3)) (at1 (gs [(3, 0xFFF)])) :=
  ⟨issues (by decide +kernel), issues (by decide +kernel)⟩

theorem witness_LoopResult : Issues hA [wG 6] (at1 (gs [(6, 1)])) ∧ ((at1 (gs [(6, 1)])).ctx u1).rg 6 = BitVec.ofNat 64 (0 + 1) ∧
    Reaches hA [wG 6] (at1 {} id fun s => { s with verdicts := [true] }) ∧ (at1 {} id fun s => { s with verdicts := [true] }).verdict.1 = true :=
  ⟨issues (by decide +kernel), by decide +kernel, reaches (by decide +kernel), by decide +kernel⟩

theorem witness_Predicates : (∃ i h uses f, predicates i = some (h, uses, f) ∧ Issues h uses (at1 {})) ∧ Issues hA [rK 1, rK 2, wG 1] (at1 {}) :=
  ⟨⟨.cmp hA .lt 1 (some 15) 2 (.reg 3), _, _, _, rfl, issues (by decide +kernel)⟩, issues (by decide +kernel)⟩

theorem witness_Transfers : Issues hA [] (at1 {}) ∧
    (∃ h uses kind target d, transferOf ((at1 {}).ctx u1) (.callr hA 1 2 none) = some (h, uses, kind, target, d) ∧ Issues h uses (at1 {}) ∧
      target.toNat % 4 = 0 ∧ (at1 {}).watch (· == kind) target = none) ∧
    ∃ h uses kind target d, transferOf ((at1 (gs [(2, 3)])).ctx u1) (.ret hA 2) = some (h, uses, kind, target, d) ∧
      Issues h uses (at1 (gs [(2, 3)])) ∧ target.toNat % 4 ≠ 0 :=
  ⟨issues (by decide +kernel), ⟨_, _, _, _, _, rfl, issues (by decide +kernel), by decide +kernel, by decide +kernel⟩,
    ⟨_, _, _, _, _, rfl, issues (by decide +kernel), by decide +kernel⟩⟩

/-! Vector instructions (R104 to R121). -/

/-- A vector of N elements of the type, the j-th given by f. -/
def lanes (ty : Fmt) (f : Nat → Nat) : Vec :=
  BitVec.ofNat 512 ((List.range (Num.count ty)).foldl (fun m j => m + f j % 2 ^ Num.bits ty * 2 ^ (Num.bits ty * j)) 0)

/-- v1 and v2 count from 250 and 10; k1 enables the byte lanes of elements 0 and 2 of 32 bits. -/
def vecs (ty : Fmt) : Ctx := { (({} : Ctx).wv 1 (lanes ty (· + 250))).wv 2 (lanes ty (· + 10)) with k := [(1, 0xF0F)] }

def elemOf (ty : Fmt) (r : Reg) (j : Nat) (c : Ctx) : Nat := Num.elem (c.rv r).toNat (Num.bits ty) j

/-- R110 to R112: sums wrap, saturated sums stay at the limit, shifts take their count modulo the width; R106: a disabled
element keeps its contents. -/
theorem test_vector_integer :
    (after (.vadd hA ⟨.i8, .rne, false, 3, 1, .reg 2, 0⟩) (at1 (vecs .i8))).map (elemOf .i8 3 0) = some 4 ∧
    (after (.vadds hA ⟨.n8, .rne, false, 3, 1, .reg 2, 0⟩) (at1 (vecs .n8))).map (elemOf .n8 3 0) = some 255 ∧
    (after (.vshl hA ⟨.i8, .rne, false, 3, 1, .imm 9, 0⟩) (at1 (vecs .i8))).map (elemOf .i8 3 1) = some 246 ∧
    (after (.vadd ⟨.w64, 1, false, 0⟩ ⟨.i32, .rne, false, 1, 1, .reg 2, 0⟩) (at1 (vecs .i32))).map (fun c => (elemOf .i32 1 0 c, elemOf .i32 1 1 c, elemOf .i32 1 2 c))
      = some (260, 251, 264) := by decide +kernel

/-- R110, R33: 1.0 + 2^-24 rounds to even, and up under RUP. -/
theorem test_vector_float :
    (after (.vadd hA ⟨.f32, .rne, false, 3, 1, .reg 2, 0⟩) (at1 (({} : Ctx).wv 1 0x3F800000 |>.wv 2 0x33800000))).map (elemOf .f32 3 0) = some 0x3F800000 ∧
    (after (.vadd hA ⟨.f32, .rup, false, 3, 1, .reg 2, 0⟩) (at1 (({} : Ctx).wv 1 0x3F800000 |>.wv 2 0x33800000))).map (elemOf .f32 3 0) = some 0x3F800001 := by
  decide +kernel

/-- R117: VEXT sign-extends an I element; the index is taken modulo N. -/
theorem test_vext : (after (.vext hA .i8 5 1 (.imm 65)) (at1 (vecs .i8))).map (·.rg 5) = some (-5) := by decide +kernel

theorem witness_VectorArithmetic :
    (∃ i h uses ty d f, vectorArithmetic i = some (h, uses, ty, d, f) ∧ Issues h uses (at1 (vecs .i32)) false true) ∧
    ∃ i h uses ty d f, vectorInteger i = some (h, uses, ty, d, f) ∧ Issues h uses (at1 (vecs .i32)) false true :=
  ⟨⟨.vfma ⟨.w64, 1, true, 0⟩ ⟨.f32, .rne, false, 3, 1, .reg 2, 3⟩, _, _, _, _, _, rfl, issues (by decide +kernel)⟩,
    ⟨.vadds ⟨.w64, 1, false, 0⟩ ⟨.i32, .rne, false, 3, 1, .reg 2, 0⟩, _, _, _, _, _, rfl, issues (by decide +kernel)⟩⟩

theorem witness_VectorCompareResult : Issues hA (rV 1 :: wK 3 :: useE (some 4) ++ rSV (.reg 2)) (at1 (vecs .i8)) false true :=
  issues (by decide +kernel)

theorem witness_VectorConvertResult : Issues hA [rV 1, wV 3] (at1 (vecs .f32)) false true := issues (by decide +kernel)

theorem witness_VectorReduceResult : ∃ i h ty d a op ident, reduction i = some (h, ty, d, a, op, ident) ∧
    Issues h [rV a, wV d] (at1 (vecs .i32)) false true :=
  ⟨.vrmin ⟨.w64, 1, false, 0⟩ .i32 3 1, _, _, _, _, _, _, rfl, issues (by decide +kernel)⟩

theorem witness_VectorShape :
    (∃ i h uses ty d f, vectorShape i = some (h, uses, ty, d, f) ∧ Issues h uses (at1 (vecs .i32)) false true) ∧
    Issues hA (rV 1 :: wG 5 :: rS (.reg 4)) (at1 (vecs .i8)) :=
  ⟨⟨.vsel hA .i32 3 1 1 (.reg 2), _, _, _, _, _, rfl, issues (by decide +kernel)⟩, issues (by decide +kernel)⟩

/-! What stands before an effect, and faults (R55, R161, R168, R181, R344 to R349). -/

theorem witness_IssueChecks :
    (∃ i h uses f, scalarRow i = some (h, uses, f) ∧ Reaches h uses (at1 {}) ∧ (at1 {}).verdict.1 = false ∧
      (((at1 {}).ctx u1).rk h.guard).getLsbD 0 = h.neg) ∧
    (∃ i h uses ty d f, (vectorArithmetic i).or ((vectorInteger i).or (vectorShape i)) = some (h, uses, ty, d, f) ∧ Reaches h uses (at1 {}) ∧
      ((at1 {}).ctx u1).rk h.guard = if h.neg then BitVec.allOnes 64 else 0) ∧
    (∃ h : Hdr, ((at1 { wc := [(0, 1)] }).ctx u1).mustWait h.wait = true ∧ (rK h.guard :: [rG 1]).all (·.inRange ((at1 {}).core 1).part) = true) ∧
    (rK 15 :: [rG 32]).all (·.inRange ((at1 {}).core 1).part) = false ∧
    (let s := at1 {} id fun s => { s with verdicts := [true] }
     s.verdict.1 = true ∧ (s.slot u1).replays < (s.core 1).insn.toNat) ∧
    (let s := at1 {} (fun k => { k with insn := 0 }) fun s => { s with verdicts := [true] }
     s.verdict.1 = true ∧ (s.core 1).insn.toNat ≤ (s.slot u1).replays) :=
  ⟨⟨.add ⟨.w64, 1, false, 0⟩ 1 2 (.reg 3), _, _, _, rfl, reaches (by decide +kernel), by decide +kernel, by decide +kernel⟩,
    ⟨.vadd ⟨.w64, 1, false, 0⟩ ⟨.i8, .rne, false, 1, 2, .reg 3, 0⟩, _, _, _, _, _, rfl, reaches (by decide +kernel), by decide +kernel⟩,
    ⟨⟨.w64, 15, false, 1⟩, by decide +kernel, by decide +kernel⟩, by decide +kernel, by decide +kernel, by decide +kernel⟩

/-- Core 1 without the lines of g0 to g7 (line 6), whose image is in local memory. -/
def noLine6 : State := at1 { ctxb := 0x8000000000058000 } fun k => { k with rlines := k.rlines.filter fun l => l.idx != 6 }

theorem witness_RegisterFills :
    (let s := noLine6
     (rK 15 :: [rG 2, wG 1]).all (·.inRange (s.core 1).part) = true ∧ (s.ctx u1).mustWait 0 = false ∧ s.imageFault u1 = none ∧
      s.verdict.1 = false ∧ absent s hA [rG 2, wG 1] = [6, 6]) ∧
    (let s := noLine6
     s.verdict.1 = false ∧ (s.core 1).rlines.length + [6].length ≤ 384 ∧ (s.core 1).resident 0 6 = false ∧ (s.ctx u1).loc = true ∧
      8 * 6 + 7 < 48 + gCount (s.core 1).part) := by decide +kernel

/-- R181: the trap at EXB saves the trap pc and goes to OVH, and ORET goes back. -/
theorem test_overlay_trap :
    (after .overlayTrap (at1 { pc := 0x2004 } fun k => { k with exb := 0x2000, ovh := 0x300 })).map (fun c => (c.pc, c.otpc, c.ovl)) = some (0x300, 0x2004, true) ∧
    (after (.oret hA) (at1 { pc := 0x300, otpc := 0x2004, stat := 0x10 })).map (fun c => (c.pc, c.ovl)) = some (0x2004, false) := by decide +kernel

theorem witness_OverlayTrap :
    (let s := at1 { pc := 0x2000 } fun k => { k with exb := 0x2000 }
     (s.core 1).exb.toNat ≤ (s.ctx u1).pc.toNat ∧ (s.ctx u1).ovl = false) ∧
    (let s := at1 { pc := 0x1FFC } fun k => { k with exb := 0x2000 }
     (s.core 1).exb.toNat ≤ (s.ctx u1).pc.toNat + (lengthOf (s.fetchByte 1 0x1FFC).toNat).getD 8 - 1) ∧
    Issues hA [] (at1 { stat := 0x10 }) ∧ ((at1 { stat := 0x10 }).ctx u1).ovl = true ∧ Issues hA [] (at1 {}) ∧ ((at1 {}).ctx u1).ovl = false :=
  ⟨by decide +kernel, by decide +kernel, issues (by decide +kernel), by decide +kernel, issues (by decide +kernel), by decide +kernel⟩

def aFlt : Flt := { code := 5, addr := 0x33 }
def ueFlt : Flt := { code := 9, addr := 0x33 }

/-- Core 1's slot 0 as f leaves it. -/
def slot1 (c : Ctx) (f : Slot → Slot) (g : State → State := id) : State := g ((at1 c).modSlot u1 f)

/-- A placed team 1 of core 1, of the region given. -/
def inTeam (r : Region) (s : State) : State :=
  let t : Team := { st := .placed, region := r, cores := [1] }
  let k : Task := { team := 1, vcore := 0, park := 0, handle := 0, forked := false }
  (({ s with teams := [(1, some t)] } : State).modCore 1 fun c => { c with team := some 1 }).modSlot u1 fun x => { x with task := some k }

/-- A stack of one containment entry, with its handler at 0x40. -/
def caught : Ctx := { cdepth := 1, stack := [(0, { mask := 0xFF, hpc := 0x40, valid := true })] }

theorem witness_FaultsTaken :
    Issues hA [] (at1 {}) ∧ (let s := slot1 {} fun x => { x with deferred := [aFlt] }
      (s.slot u1).deferred = aFlt :: [] ∧ s.verdict.1 = false) ∧
    ((at1 {}).slot u1).st ≠ .empty ∧ ((at1 {}).slot u1).bind = 1 ∧
    (((at1 {}).slot u1).st = .ready ∧ ((at1 {}).ctx u1).catcher aFlt = none ∧ ((at1 {}).regionOf u1).cpol = false ∧ (at1 {}).placeFree u1 = true) ∧
    (at1 {} fun k => { k with pkts := [{ slot := some 0, bits := 0, dest := 0, due := 500 }] }).placeFree u1 = false ∧
    ((at1 caught).ctx u1).catcher ueFlt = some 0 ∧
    (let s := inTeam { cpol := true } (at1 {})
     (s.slot u1).st = .ready ∧ (s.ctx u1).catcher aFlt = none ∧ (s.regionOf u1).cpol = true ∧ s.placeFree u1 = true) ∧ ueFlt.code ≠ 18 ∧ ueFlt.code ≠ 19 :=
  ⟨issues (by decide +kernel), by decide +kernel, by decide +kernel, by decide +kernel, by decide +kernel, by decide +kernel, by decide +kernel, by decide +kernel,
    by decide, by decide⟩

/-- R325: the unwind gives g1 the fault's number, g2 its address and g3 the note, and goes to the handler. -/
theorem test_unwind :
    (match exec (.containmentUnwind u1) (slot1 caught fun x => { x with st := .waiting .quiet, unwinding := some (ueFlt, 90) }) with
    | .next t => some ((t.ctx u1).rg 1, (t.ctx u1).rg 2, (t.ctx u1).pc, (t.ctx u1).cdepth)
    | _ => none) = some (9, 0x33, 0x40, 0) := by decide +kernel

theorem witness_ContainmentAndPairs :
    Issues hA (targetUses (.reg 5)) (at1 { cdepth := 3 }) ∧ (Machine.targetOf ((at1 { cdepth := 3 }).ctx u1) (.reg 5)).toNat % 4 = 0 ∧
    (Machine.targetOf ((at1 (gs [(5, 2)])).ctx u1) (.reg 5)).toNat % 4 ≠ 0 ∧ Issues hA (targetUses (.reg 5)) (at1 { cdepth := 4 }) ∧
    Issues hA [] (at1 { cdepth := 1 }) ∧ Issues hA [] (at1 {}) ∧
    (let s := slot1 caught fun x => { x with st := .waiting .quiet, unwinding := some (ueFlt, 100) }
     (s.slot u1).unwinding = some (ueFlt, 100) ∧ 100 ≤ s.now ∧ s.quietThread u1 = true ∧ (s.slot u1).force = false ∧ (s.ctx u1).catcher ueFlt = some 0 ∧
      s.placeFree u1 = true ∧ (s.core 1).resident 0 6 = true) ∧
    (noLine6.core 1).rlines.length < 384 ∧
    Issues hA [rG 7] (at1 {}) ∧ ((at1 {}).ctx u1).paired = false ∧ Issues hA [rG 7] (at1 { stat := 2 }) ∧
    ((at1 { stat := 2 }).ctx u1).paired = true ∧ (at1 { stat := 2 }).cmpFull u1 = false :=
  ⟨issues (by decide +kernel), by decide +kernel, by decide +kernel, issues (by decide +kernel), issues (by decide +kernel), issues (by decide +kernel),
    by decide +kernel, by decide +kernel, issues (by decide +kernel), by decide +kernel, issues (by decide +kernel), by decide +kernel, by decide +kernel⟩

/-! Loads, stores and atomics (R183 to R217). -/

/-- A dword access without index. -/
def mem8 (d a : Reg) : MemOps := ⟨d, a, 0, false, 0, 3, false, .none, 0, 0⟩
def memQ (d a : Reg) (q : Qual) : MemOps := ⟨d, a, 0, false, 0, 3, false, q, 0, 0⟩

def withMem (l : Sparse Byte) (k : Core) : Core := { k with mem := l }

/-- R2, R59, R197: a word load is little-endian and zero-extended; the index is scaled. -/
theorem test_ldl : (after (.ldl hA ⟨1, 2, 3, true, 2, 2, false, .none, 0, 4⟩) (at1 (gs [(2, 0x3000), (3, 1)]) (withMem [(0x3008, 0x11), (0x300B, 0x84)]))).map (·.rg 1)
    = some 0x84000011 := by decide +kernel

/-- R198: STL's bytes are written two cycles after the issue. -/
theorem test_stl :
    (match exec (.stl hA (mem8 1 2)) (at1 (gs [(1, 0x1122), (2, 0x3000)])) with
      | .next t => some ((t.agenda.map fun p => (p.due, p.ev)), t.localRead 1 0x3000 8)
      | _ => none) = some ([(102, .act (.localWrite u1 0x3000 8 0x1122))], 0) ∧
    (match perform (.localWrite u1 0x3000 8 0x1122) (at1 {}) with
      | .next t => some (t.localRead 1 0x3000 8, t.localRead 1 0x3008 8)
      | _ => none) = some (0x1122, 0) := by decide +kernel

theorem witness_LocalAccess :
    (let s := at1 (gs [(2, 0x57FF8)])
     let m := mem8 1 2
     Issues hA (memUses m true) s ∧ Issues hA (memUses m false) s ∧ Aligned s m isLoadKind ∧ Aligned s m isStoreKind ∧ Plain s ∧
      localRule s 0x57FF8 8 false = none ∧ localRule s 0x57FF8 8 true = none ∧ s.localErr 1 0x57FF8 8 = .clean ∧ s.releaseHeld u1 = false) ∧
    (let s := at1 (gs [(2, 0x3000)]) fun k => { k with empty := [(0x300, true)], outs := [{ id := 9, slot := 0, kind := .store }] }
     Issues hA (memUses (memQ 1 2 .f) true) s ∧ ¬ granuleRule s 1 0x3000 8 .f ∧ granuleRule s 1 0x3000 8 .e ∧ s.releaseHeld u1 = true ∧
      ¬ granuleRule (at1 {}) 1 0x3000 8 .e) ∧
    (at1 {} id fun s => { s with localErrs := [(localErrBase 1 + 0x600, .uncorrectable)] }).localErr 1 0x3000 8 = .uncorrectable ∧
    (let s := at1 (gs [(2, 0x58000)])
     Aligned s (mem8 1 2) isLoadKind ∧ localRule s 0x58000 8 false = some { code := 6, sub := 2, addr := 0x58000 } ∧
      localRule s 0x5FFFC 8 true = some { code := 6, sub := 0, addr := 0x5FFFC }) ∧
    localRule (at1 {} fun k => { k with exb := 0x2000 }) 0x1FF8 8 false = some { code := 6, sub := 1, addr := 0x1FF8 } ∧
    atOf (at1 (gs [(2, 0x3004)])) (mem8 1 2) % accessBytes (mem8 1 2) ≠ 0 ∧
    (at1 { gs [(2, 0x3000)] with waddr := [(0, 0x3000)], wctl := [(0, 0x3)] }).watch isLoadKind 0x3000 ≠ none :=
  ⟨⟨issues (by decide +kernel), issues (by decide +kernel), ⟨by decide +kernel, by decide +kernel⟩, ⟨by decide +kernel, by decide +kernel⟩,
      ⟨by decide +kernel, by decide +kernel⟩, by decide +kernel, by decide +kernel, by decide +kernel, by decide +kernel⟩,
    ⟨issues (by decide +kernel), fun h => by have := h 0 (by decide); revert this; decide +kernel,
      fun b hb => by revert hb; revert b; decide +kernel, by decide +kernel, fun h => by have := h 0 (by decide); revert this; decide +kernel⟩,
    by decide +kernel, ⟨⟨by decide +kernel, by decide +kernel⟩, by decide +kernel, by decide +kernel⟩, by decide +kernel, by decide +kernel,
    by decide +kernel⟩

/-- A translation of the first GiB to itself, readable and writable. -/
def flat : Tlb := { pasid := 0, level := 2, vpn := 0, leaf := 0xF, tenant := 0 }
def withTlb (k : Core) : Core := { k with tlb := [flat] }
def accAt (s : State) (m : MemOps) (kind : AccKind) : Acc := (s.newAcc hA kind m.qual (atOf s m) (accessBytes m) (dstOf m) 0 0 0).1
def aLine (tag : Nat) (val : BitVec 16) : L1Line := { tag := tag, own := 0, val := val, data := 0x1234 }

theorem witness_VirtualAccess :
    (let s := at1 (gs [(2, 0x3000)]) withTlb
     let m := mem8 1 2
     Issues hA (memUses m true) s ∧ Issues hA (memUses m false) s ∧ Issues hA [rG m.a, rG m.b] s ∧ Aligned s m isLoadKind ∧ Aligned s m isStoreKind ∧
      (s.ctx u1).paired = false ∧ atOf s m < 2 ^ 55 ∧ look s (accAt s m .ld) = .hit 0x3000 ∧ look s (accAt s m .st) = .hit 0x3000 ∧
      cached s 0x3000 8 = none ∧ isDevice 0x3000 = false ∧ (s.ctx u1).rwc 0 ≠ 255) ∧
    (let s := at1 (gs [(2, 0x3000)]) fun k => { withTlb k with l1 := [aLine 0xC0 0xFFFF] }
     look s (accAt s (mem8 1 2) .ld) = .hit 0x3000 ∧ cached s 0x3000 8 = some 0x1234 ∧ s.l1Err 1 0x3000 8 = .clean ∧
      State.l1Err { s with l1Errs := [(l1ErrBase 1 + 0x600, .uncorrectable)] } 1 0x3000 8 = .uncorrectable) ∧
    (let s := at1 (gs [(2, 0x3000)])
     look s (accAt s (mem8 1 2) .ld) = .miss) ∧
    (let s := at1 (gs [(2, 0x3000)]) fun k => { k with tlb := [{ flat with leaf := 0x3 }] }
     look s (accAt s (mem8 1 2) .ld) = .fault { code := 6, sub := 6, addr := 0x3000 }) ∧
    2 ^ 55 ≤ atOf (at1 (gs [(2, 0x80000000000000)])) (mem8 1 2) ∧ atOf (at1 (gs [(2, 0x3004)])) (mem8 0 2) % 8 ≠ 0 ∧
    ((at1 { wc := [(0, 255)] }).ctx u1).rwc 0 = 255 :=
  ⟨⟨issues (by decide +kernel), issues (by decide +kernel), issues (by decide +kernel), ⟨by decide +kernel, by decide +kernel⟩,
      ⟨by decide +kernel, by decide +kernel⟩, by decide +kernel, by decide +kernel, by decide +kernel, by decide +kernel, by decide +kernel,
      by decide +kernel, by decide +kernel⟩,
    ⟨by decide +kernel, by decide +kernel⟩, by decide +kernel, by decide +kernel, by decide +kernel, by decide +kernel, by decide +kernel⟩

/-- The access of an atomic at g2. -/
def atomAcc (s : State) (k : AtomKind) : Acc := (s.newAcc hA (.atom k false .i32 .rne) .none ((s.ctx u1).rg 2).toNat 8 (.g 1) 0 0 0).1

theorem witness_AtomicIssue :
    (∃ h uses kind a n dst data data2, atomics (.aadd hA ⟨1, 2, .reg 3, 0, true, false⟩) = some (h, uses, kind, a, n, dst, data, data2) ∧
      Issues h (rG a :: uses) (at1 (gs [(2, 0x3000)]) withTlb)) ∧
    (∃ h uses kind a n dst data data2, atomics (.aacc hA ⟨.f32, .rne, 0, 2, .reg 3⟩) = some (h, uses, kind, a, n, dst, data, data2) ∧
      Issues h (rG a :: uses) (at1 (gs [(2, 0x3000)]) withTlb) ∧ kind = .aacc) ∧
    (let s := at1 (gs [(2, 0x3000)]) withTlb
     (s.ctx u1).paired = false ∧ s.watch isAnyKind 0x3000 = none ∧ s.watch isStoreKind 0x3000 = none ∧ look s (atomAcc s .add) = .hit 0x3000) ∧
    (let s := at1 (gs [(2, 0x3000)])
     look s (atomAcc s .add) = .miss) ∧
    (let s := at1 (gs [(2, 0x3000)]) fun k => { k with tlb := [{ flat with leaf := 0x7 }] }
     look s (atomAcc s .add) = .fault { code := 6, sub := 6, addr := 0x3000 }) :=
  ⟨⟨_, _, _, _, _, _, _, _, rfl, issues (by decide +kernel)⟩, ⟨_, _, _, _, _, _, _, _, rfl, issues (by decide +kernel), rfl⟩, by decide +kernel,
    by decide +kernel, by decide +kernel⟩

/-- An access of core 1's slot 0 to a physical dword. -/
def anAcc (kind : AccKind) (pa data : Nat) : Acc :=
  { id := 7, tid := u1, bind := 1, pc := 0x100, len := 8, kind := kind, qual := .none, va := pa, pa := pa, n := 8, data := data, data2 := 0
    dst := .g 5, wc := 1, issue := 40, priv := false, pasid := 0, tenant := 0 }

/-- R203 to R206: what the integer atomics leave in memory, from 0xFFFFFFFFFFFFFFFF and 2. -/
theorem test_atomics :
    let s := at1 {} id fun s => { s with phys := (List.range 8).map fun j => (0x3000 + j, 0xFF) }
    let leaves (k : AtomKind) (uns : Bool) : Option Nat := match exec (.atomicPerform (anAcc (.atom k uns .i32 .rne) 0x3000 2)) s with
      | .next t => some (t.physRead 0 0x3000 8)
      | _ => none
    leaves .add false = some 1 ∧ leaves .min false = some 0xFFFFFFFFFFFFFFFF ∧ leaves .min true = some 2 ∧ leaves .max false = some 2 ∧
    leaves .swp false = some 2 ∧ leaves .cas false = some 0xFFFFFFFFFFFFFFFF := by decide +kernel

theorem absent_of {α : Type} {x : Option α} {P : α → Prop} (h : x = none) : ∀ y, x = some y → P y := fun y hy => by rw [h] at hy; cases hy

/-- The home of an address takes accesses: nothing is retired, held or wrong, and no team is dual-die. -/
theorem reachable {s : State} {team : BitVec 16} {pa n : Nat} (h1 : s.team team = none) (h2 : isDevice pa = false)
    (h3 : (s.cluster (s.home pa)).heldPages = [] ∧ (s.cluster (s.home pa)).badWays = []) (h4 : s.retired = []) (h5 : s.errs = []) (h6 : s.slack = []) : Reachable s team pa n where
  single x hx := by rw [h1] at hx; cases hx
  memory := h2
  free := by rw [h3.1]; rfl
  live := by rw [State.isRetired, h4]; rfl
  clean := h5
  page b _ := by simp only [State.mapped, h4]; rfl
  prompt := h6
  way := ⟨0, by decide, by rw [h3.2]; simp⟩

theorem witness_AtomicPerforms :
    let s := at1 {}
    let a := anAcc (.atom .add false .i32 .rne) 0x3000 2
    a.kind = .atom .add false .i32 .rne ∧ (∀ x, s.team (s.teamNo a.tid) = some x → x.partner = none) ∧ s.isRetired a.pa = false ∧ s.errs = [] ∧
    (∀ l, s.slineAt (s.teamNo a.tid) a.pa = some l → l.dirty = false) ∧ (∀ b, b < a.n → s.mapped (a.pa + b) = s.mapped a.pa + b) ∧ s.slack = [] :=
  ⟨rfl, absent_of (by decide +kernel), by decide +kernel, by decide +kernel, absent_of (by decide +kernel),
    fun b hb => by revert hb; revert b; decide +kernel, by decide +kernel⟩

theorem witness_StoreRegisters :
    (∃ l : SLine, (anAcc .st 0x3000 2).kind = .st ∧ Reachable (at1 {}) 0 0x3000 8 ∧ (at1 {}).slineAt 0 0x3000 = none ∧
      (let s := (at1 {}).setSline 0 0x3000 (some l)
       s.slineAt 0 0x3000 = some l ∧ l.dirty = true ∧ l.ownedBy s.pkg.pkgid u1 1 = false ∧ l.ownw ≠ 0 ∧ l.opkg = s.pkg.pkgid)) ∧
    (let l : SLine := { dirty := true, ownw := 1, opkg := 0, ocore := 1, oslot := 0, obind := 1, used := 100 }
     let s := (at1 {}).setSline 0 0x3000 (some l)
     s.slineAt 0 0x3000 = some l ∧ l.ownedBy s.pkg.pkgid u1 1 = true) :=
  ⟨⟨{ dirty := true, ownw := 1, opkg := 0, ocore := 2, oslot := 0, obind := 1, used := 100 }, rfl,
      reachable (by decide +kernel) (by decide +kernel) (by decide +kernel) (by decide +kernel) (by decide +kernel) (by decide +kernel), by decide +kernel, by decide +kernel⟩,
    by decide +kernel⟩

theorem witness_Ordering :
    Issues hA [] (at1 {}) ∧ ((at1 {}).ctx u1).paired = false ∧ (at1 {}).releaseHeld u1 = false ∧
    (at1 {} fun k => { k with outs := [{ id := 9, slot := 0, kind := .store }] }).releaseHeld u1 = true ∧ Issues hA [rG 5] (at1 {}) ∧
    ((at1 {}).ctx u1).rg 5 = 0 ∧
    (let s := at1 (gs [(5, 0x57FC0)])
     Issues hA [rG 5] s ∧ (s.ctx u1).rg 5 ≠ 0 ∧ localRule s 0x57FC0 64 false = none ∧ s.localErr 1 0x57FC0 64 = .clean ∧
      State.localErr { s with localErrs := [(localErrBase 1 + 0xAFF8, .uncorrectable)] } 1 0x57FC0 64 = .uncorrectable) ∧
    localRule (at1 {}) 0x58000 64 false ≠ none ∧ (((at1 (gs [(5, 0x20)])).ctx u1).rg 5).toNat % 64 ≠ 0 :=
  ⟨issues (by decide +kernel), by decide +kernel, by decide +kernel, by decide +kernel, issues (by decide +kernel), by decide +kernel,
    ⟨issues (by decide +kernel), by decide +kernel, by decide +kernel, by decide +kernel⟩, by decide +kernel, by decide +kernel⟩

/-- The same with a request of the cluster store. -/
def csAcc (kind : AccKind) (q : Qual) (va : Nat) : Acc := { anAcc kind va 5 with qual := q }

theorem witness_ClusterStores :
    (let s := at1 (gs [(2, 0x3FFFF8)])
     Issues hA (memUses (mem8 1 2) true) s ∧ Issues hA (memUses (mem8 1 2) false) s ∧ Aligned s (mem8 1 2) isLoadKind ∧
      Aligned s (mem8 1 2) isStoreKind ∧ Plain s ∧ atOf s (mem8 1 2) + 8 ≤ 0x400000 ∧ s.releaseHeld u1 = false) ∧
    0x400000 < atOf (at1 (gs [(2, 0x400000)])) (mem8 1 2) + 8 ∧
    (at1 {} fun k => { k with outs := [{ id := 9, slot := 0, kind := .store }] }).releaseHeld u1 = true ∧
    (let s := at1 {}
     let a := csAcc .stc .e 0x3000
     0 < a.n ∧ (s.regionOf a.tid).dbg = false ∧ s.storeErrs = [] ∧ s.slack = [] ∧ ¬ mustWait (s.cluster 0) s.now a ∧
      matchesStore s 0 a = false ∧ matchesStore s 0 (csAcc .ldc .f 0x3000) = true) ∧
    mustWait (((at1 {}).modCluster 0 fun c => { c with lastGran := [(0x300, 101)] }).cluster 0) 100 (csAcc .stc .e 0x3000) ∧
    mustWait (((at1 {}).modCluster 0 fun c => { c with arrived := [(6, some 1, [0x500])] }).cluster 0) 100 (csAcc .stc .e 0x3000) := by
  refine ⟨⟨issues (by decide +kernel), issues (by decide +kernel), ⟨by decide +kernel, by decide +kernel⟩, ⟨by decide +kernel, by decide +kernel⟩,
    ⟨by decide +kernel, by decide +kernel⟩, by decide +kernel, by decide +kernel⟩, by decide +kernel, by decide +kernel,
    ⟨by decide +kernel, by decide +kernel, by decide +kernel, by decide +kernel, ?_, by decide +kernel, by decide +kernel⟩,
    Or.inl (by decide +kernel), Or.inr ⟨(6, some 1, [0x500]), by decide +kernel, Or.inl rfl⟩⟩
  rintro (h | ⟨x, hx, -⟩)
  · revert h; decide +kernel
  · have e : ((at1 {}).cluster 0).arrived = [] := by decide +kernel
    rw [e] at hx; simp at hx

/-- A held store that its granules now match, behind one that they do not. -/
def heldStore : State := (at1 {}).modCluster 0 fun c => { c with
  held := [{ csAcc .stc .e 0x5000 with id := 6 }, csAcc .stc .e 0x3000], empty := [(0x300, true)] }

theorem witness_ClusterWait :
    let a := csAcc .stc .e 0x3000
    (heldStore.cluster 0).held = [{ csAcc .stc .e 0x5000 with id := 6 }] ++ a :: [] ∧ matchesStore heldStore 0 { csAcc .stc .e 0x5000 with id := 6 } = false ∧
    matchesStore heldStore 0 a = true ∧ (heldStore.cluster 0).busy 100 0x3000 8 = false := by decide +kernel

/-- Core 1's slot 0 waits for access 7. -/
def awaiting (c : Ctx) (f : Core → Core := id) (g : State → State := id) : State :=
  g (((at1 c f).setSt u1 (.waiting (.event 7))).addOut 1 { id := 7, slot := 0, kind := .load })

/-- The line that access 7 has sent for. -/
def aFill : LineFill := { id := 7, line := 0xC0, bytes := [] }

theorem witness_Landings :
    (let s := awaiting {} fun k => { k with fills := [aFill] }
     let a := anAcc .ld 0x3000 2
     (s.slot u1).ctx.paired = false ∧ (s.slot u1).ctx.sstep = false ∧ s.stepChecks = [] ∧ s.noRoom a = false ∧
      (s.slot u1).st = .waiting (.event a.id) ∧ (s.slot u1).bind = a.bind ∧ accFault a = none ∧ fetches a.kind = true ∧ isDevice a.pa = false ∧
      (∀ f ∈ (s.core 1).fills, f.id = a.id → f.bytes = []) ∧ ∃ f ∈ (s.core 1).fills, f.id = a.id) ∧
    (awaiting {} id fun s => { s with stepChecks := [true] }).stepChecks.head? = some true ∧ fetches (anAcc .ldc 0x3000 2).kind = false ∧
    (let s := slot1 { wc := [(1, 1)] } (fun x => { x with st := .waiting (.counter 1 0) }) fun s => s.modCore 1 fun k => { k with fills := [aFill] }
     let a := anAcc .ldn 0x3000 2
     isDevice a.pa = false ∧ (∀ f ∈ (s.core 1).fills, f.id = a.id → f.bytes = []) ∧ (∃ f ∈ (s.core 1).fills, f.id = a.id) ∧
     s.stepChecks = [] ∧ s.noRoom a = false ∧ (s.slot u1).st ≠ .empty ∧ (s.slot u1).bind = a.bind ∧ accFault a = none ∧
      (s.slot u1).st = .waiting (.counter a.wc ((s.slot u1).ctx.rwc a.wc - 1))) ∧
    accFault (answer (anAcc .ldn 0x3000 2) 0 (some { code := 9, addr := 0x3000 })) = some { code := 9, addr := 0x3000 } := by decide +kernel

/-- R199: a load's value enters its register when it lands, and the thread goes on past it. -/
theorem test_landing :
    (match exec (.loadLanding (anAcc .ldc 0x3000 0x77)) (awaiting { pc := 0x100 }) with
    | .next t => some ((t.ctx u1).rg 5, (t.ctx u1).pc, (t.slot u1).st)
    | _ => none) = some (0x77, 0x108, .ready) := by decide +kernel

theorem witness_OrderEvents : (((at1 {} fun k => { k with l1 := [aLine 0xC0 0xFFFF] }).core 1).l1[0]? = some (aLine 0xC0 0xFFFF)) := by decide +kernel

/-- PASID 0's page table: its entry at 0, of tenant 0, with its root at 0x10000. -/
def withRoot (s : State) : State := { s with phys := [(1, 0), (2, 1), (8, 0x40)] }

theorem witness_SliceLinesAndWalks :
    Reachable (at1 {}) 0 0x3000 8 ∧ (at1 {}).slineAt 0 0x3000 = none ∧ (anAcc .ld 0x3000 0).kind = .ld ∧
    findTlb (((at1 {}).modCluster 0 fun c => { c with tlb2 := [flat] }).cluster 0).tlb2 0 0x3000 = some flat ∧
    (let s := (at1 {}).modDie 0 fun d => { d with walkers := 64 }
     findTlb (s.cluster 0).tlb2 0 0x3000 = none ∧ 64 ≤ (s.die 0).walkers) ∧
    (let s := withRoot (at1 {})
     findTlb (s.cluster 0).tlb2 0 0x3000 = none ∧ (s.die 0).walkers < 64 ∧ rootOf s 0 = some (0x10000, 0)) :=
  ⟨reachable (by decide +kernel) (by decide +kernel) (by decide +kernel) (by decide +kernel) (by decide +kernel) (by decide +kernel),
    by decide +kernel, rfl, by decide +kernel, by decide +kernel, by decide +kernel⟩

/-! Queues, battens, threads and tile walks (R222 to R249). -/

def qs (l : List (Nat × QReg)) (k : Core) : Core := { k with qregs := l }

/-- R225: a push and a pop of q2 commit three cycles after their issues. -/
theorem test_queue :
    (match exec (.qput hA 2 5) (at1 (gs [(5, 0x55)])) with
      | .next t => some ((t.qreg 1 2).pres, (t.qreg 1 2).entries, t.agenda.map fun p => (p.due, p.ev))
      | _ => none) = some (1, [], [(103, .act (.qPush 1 2 0x55 true))]) ∧
    (after (.qget hA 6 2) (at1 {} (qs [(2, { entries := [⟨0x77, none⟩] })]))).map (·.rg 6) = some 0x77 := by decide +kernel

theorem witness_QueueInstructions :
    (∃ h uses q val, pushOf (.qput hA 6 5) = some (h, uses, q, val) ∧ Issues h uses (at1 {}) ∧ q ≤ 7) ∧
    (∃ h uses q put takes, popOf (.qpredPop hA 3) = some (h, uses, q, put, takes) ∧ Issues h uses (at1 {})) ∧ ((at1 {}).ctx u1).paired = false ∧
    (mayUse (at1 {}) 7 ∧ ((at1 {}).qreg 1 7).entries.length + ((at1 {}).qreg 1 7).pres.toNat < capacity 7) ∧
    (let s := at1 {} (qs [(6, { pres := 4 })])
     mayUse s 6 ∧ ¬ (s.qreg 1 6).entries.length + (s.qreg 1 6).pres.toNat < capacity 6 ∧ ∀ x ∈ (s.qreg 1 6).entries, x.res ≠ none) ∧
    (let s := at1 {} (qs [(7, { entries := [⟨1, some 3⟩, ⟨0, none⟩], tag := some 0 })])
     mayUse s 7 ∧ (s.qreg 1 7).entries = [⟨1, some 3⟩] ++ ⟨0, none⟩ :: [] ∧ (s.qreg 1 7).entries.length ≤ 32) ∧
    ¬ mayUse (at1 {} (qs [(7, { entries := [⟨1, none⟩], tag := some 9 })])) 7 ∧ Issues hA [] (at1 {}) ∧ Issues hA [wG 5] (at1 {}) :=
  ⟨⟨_, _, _, _, rfl, issues (by decide +kernel), by decide⟩, ⟨_, _, _, _, _, rfl, issues (by decide +kernel)⟩, by decide +kernel,
    ⟨Or.inl (by decide +kernel), by decide +kernel⟩, ⟨Or.inl (by decide +kernel), by decide +kernel, by decide +kernel⟩,
    ⟨Or.inr (by decide +kernel), by decide +kernel, by decide +kernel⟩, fun h => by rcases h with h | h <;> revert h <;> decide +kernel,
    issues (by decide +kernel), issues (by decide +kernel)⟩

theorem witness_QueueCommits :
    let s := at1 {} (qs [(2, { entries := [⟨1, some 3⟩, ⟨2, some 4⟩] })])
    (s.qreg 1 2).entries = [⟨1, some 3⟩] ++ ⟨2, some 4⟩ :: [] ∧ (∀ x ∈ [(⟨1, some 3⟩ : QEntry)], x.res ≠ some 4) ∧ ∀ x ∈ ([] : List QEntry), x.res ≠ some 4 := by
  decide +kernel

def bs (l : List (Nat × Batten)) (k : Core) : Core := { k with battens := l }

theorem witness_BattenInstructions :
    Issues hA [] (at1 {}) ∧ ((at1 {}).ctx u1).paired = false ∧ ((at1 {}).regionOf u1).dbg = false ∧ (at1 {}).bsetFault u1 3 = false ∧
    (at1 {} (bs [(3, { owned := true, owner := 1, count := 1 })])).bsetFault u1 3 = true ∧
    Issues hC [rG 5] (at1 (gs [(5, 0xB000000000000000)])) ∧ (((at1 (gs [(5, 0xB000000000000000)])).ctx u1).rg 5 + 0).extractLsb' 60 4 = 11 ∧
    (((at1 {}).ctx u1).rg 5 + 0).extractLsb' 60 4 ≠ 11 ∧
    TailFree (at1 {}) 3 ∧ ((at1 {}).core 1).bankHolds 3 = false ∧
    (let s := at1 {} (bs [(3, { count := 31, pushRes := 1 })])
     (s.batten 1 3).feed = false ∧ (s.batten 1 3).depth.toNat ≤ (s.batten 1 3).count.toNat + (s.batten 1 3).pushRes ∧
      (30 : BitVec 6).toNat + 1 ≤ (s.batten 1 3).depth.toNat ∧ (s.batten 1 3).popRes + ((30 : BitVec 6).toNat + 1) ≤ (s.batten 1 3).count.toNat ∧
      (31 : BitVec 6).toNat + 1 ≤ (s.batten 1 3).depth.toNat ∧ (s.batten 1 3).count.toNat < (s.batten 1 3).popRes + ((31 : BitVec 6).toNat + 1) ∧
      (s.batten 1 3).depth.toNat < (32 : BitVec 6).toNat + 1) ∧
    (let s := at1 {} (bs [(3, { count := 31, popNow := 1, popAt := 101 })])
     (s.batten 1 3).depth.toNat ≤ (s.batten 1 3).count.toNat + (if (s.batten 1 3).popAt = s.now + 1 then (s.batten 1 3).popNow else 0) + (s.batten 1 3).pushRes) ∧
    ((at1 {} fun k => { k with bank := [{ id := 7, kind := .rmul, tid := u1, len := 8, pn := 0, issue := 50, ua := 3, taken := 1 }] }).core 1).bankHolds 3 = true ∧
    ((at1 {} (bs [(3, { feed := true })])).batten 1 3).feed = true ∧ Issues hA [wG 5] (at1 {}) :=
  ⟨issues (by decide +kernel), by decide +kernel, by decide +kernel, by decide +kernel, by decide +kernel, issues (by decide +kernel), by decide +kernel,
    by decide +kernel, ⟨by decide +kernel, by decide +kernel⟩, by decide +kernel, by decide +kernel, by decide +kernel, by decide +kernel, by decide +kernel,
    issues (by decide +kernel)⟩

theorem witness_BattenCommits :
    let s := at1 {} (bs [(3, { feed := true, count := 2, head := 31 })])
    (s.batten 1 3).drain = none ∧ (s.batten 1 3).feed = true ∧ ∀ i, i < 2 → ((s.batten 1 3).head.toNat + i) % (s.batten 1 3).depth.toNat ≠ 1 := by decide +kernel

/-- Core 1 with all slots taken. -/
def fullCore (k : Core) : Core := { k with slots := k.slots ++ (List.range 15).map fun j => (j + 1, { st := .frozen }) }

theorem witness_ForkIssue :
    Issues hA (wG 1 :: rG 3 :: targetUses (.reg 5)) (at1 (gs [(5, 0x40)])) ∧ ((at1 {}).ctx u1).paired = false ∧
    (let s := at1 (gs [(5, 0x40)])
     (Machine.targetOf (s.ctx u1) (.reg 5)).toNat % 4 = 0 ∧ s.admits (s.regionOf u1) 0 1 = true ∧ 1 < slotCount (s.core 1).part ∧
      ((s.core 1).slot 1).st = .empty ∧ ((s.core 1).slot 1).reserved = false ∧ ∀ m, m < 1 → ¬ (((s.core 1).slot m).st = .empty ∧ ((s.core 1).slot m).reserved = false)) ∧
    (let s := at1 {} fullCore
     ∀ m, m < slotCount (s.core 1).part → ¬ (((s.core 1).slot m).st = .empty ∧ ((s.core 1).slot m).reserved = false)) ∧
    (Machine.targetOf ((at1 (gs [(5, 0x42)])).ctx u1) (.reg 5)).toNat % 4 ≠ 0 :=
  ⟨issues (by decide +kernel), by decide +kernel, by decide +kernel, by decide +kernel, by decide +kernel⟩

def forkedTask : Task := { team := 0, vcore := 0, park := 0, handle := 0, forked := true }

theorem witness_Rendezvous :
    Issues hA [] (at1 {}) ∧ Issues hB [] (at1 {}) ∧ ((at1 {}).ctx u1).paired = false ∧ ((at1 {}).point 1 3).closing = false ∧ ((at1 {}).point 1 3).busy = false ∧
    isForked (at1 {}) u1 = false ∧ (at1 {}).releaseHeld u1 = false ∧
    (at1 {} fun k => { k with outs := [{ id := 9, slot := 0, kind := .store }] }).releaseHeld u1 = true ∧
    (let s := (at1 {} fun k => { k with rdv := [(3, { busy := true, n := 2, arr := 1 })] }).modSlot u1 fun x => { x with task := some forkedTask }
     (s.point 1 3).closing = false ∧ (s.point 1 3).n.toNat = (1 : BitVec 7).toNat + 1 ∧ (s.point 1 3).n.toNat ≠ (2 : BitVec 7).toNat + 1 ∧
      isForked s u1 = true ∧ (s.ctx u1).sstep = false) ∧
    ((at1 {} fun k => { k with rdv := [(3, { busy := true, n := 2, arr := 2, closing := true })] }).point 1 3).closing = true ∧
    (let s := (slot1 {} fun x => { x with st := .waiting .rendezvous }).modCore 1 fun k => { k with rdv := [(3, { busy := true, n := 1, arr := 1, waiters := [u1] })] }
     (s.point 1 3).waiters = [u1] ∧ (∀ w ∈ [u1], w.core = 1 ∧ (s.ctx w).paired = false ∧ (s.slot w).st = .waiting .rendezvous) ∧
      (s.ctx u1).sstep = false) ∧
    (at1 {}).routeAdmits (clusterOf 1) (clusterOf 1) ((at1 {}).ctx u1).tenant = true ∧
    (at1 {}).slack = [] ∧ (((at1 {}).cluster (clusterOf 1)).rdv.get {} 3).arr.toNat < 255 := by
  refine ⟨issues (by decide +kernel), issues (by decide +kernel), ?_⟩
  decide +kernel

/-- Tile-walk operands: queue 0, counter 1, the descriptor at g2, the far address g3, the near address g4. -/
def twO : TwOps := ⟨0, 1, false, 0, 2, 3, 4, 0⟩
def twRegs : Ctx := gs [(2, 0x3000), (3, 0x10000), (4, 0x4000)]
/-- A descriptor of one row of 16 bytes in local memory at 0x3000 (R236). -/
def twMem : Sparse Byte := [(0x3002, 15)]
def aCmd : Cmd := walkCmd (at1 twRegs (withMem twMem)) twO 0xC0 0

theorem witness_TileWalkIssue :
    (∃ h o op fn, walkOf (.twget hC twO) = some (h, o, op, fn) ∧
      Issues h (rG o.d :: rG o.a :: (if fillsBatten op fn then [] else [rG o.b])) (at1 twRegs (withMem twMem))) ∧
    (let s := at1 twRegs (withMem twMem)
     (s.ctx u1).paired = false ∧ ((s.ctx u1).rg 2).toNat % 64 = 0 ∧ localRule s 0x3000 64 false = none ∧ s.localErr 1 0x3000 64 = .clean ∧
      aCmd.packed = false ∧ aCmd.alignFault = none ∧ s.watch isLoadKind aCmd.ma = none ∧ s.walkFault aCmd = none ∧ (s.ctx u1).rwc 1 ≠ 255 ∧
      ((s.core 1).cmdq 0).length < 8) ∧
    (let s := at1 { twRegs with wc := [(1, 255)] } fun k => { withMem twMem k with cmdqs := [(0, List.replicate 8 aCmd)] }
     (s.ctx u1).rwc 1 = 255 ∧ 8 ≤ ((s.core 1).cmdq 0).length ∧ s.walkFault aCmd = none) ∧
    State.localErr { at1 {} with localErrs := [(localErrBase 1 + 0x600, .uncorrectable)] } 1 0x3000 64 = .uncorrectable ∧
    (walkCmd (at1 (gs [(2, 0x3000), (3, 0x10008), (4, 0x4000)]) (withMem twMem)) twO 0xC0 0).ma.toNat % 16 ≠ 0 ∧
    (let s := at1 (gs [(2, 0x3000), (3, 0x10000), (4, 0x60000)]) (withMem twMem)
     s.walkFault (walkCmd s twO 0xC0 0) ≠ none ∧ (walkCmd s twO 0xC0 0).alignFault = none) ∧
    (((at1 (gs [(2, 0x3010)])).ctx u1).rg 2).toNat % 64 ≠ 0 ∧ localRule (at1 {}) 0x5FFC0 64 false ≠ none :=
  ⟨⟨_, _, _, _, rfl, issues (by decide +kernel)⟩, by decide +kernel, by decide +kernel, by decide +kernel, by decide +kernel, by decide +kernel, by decide +kernel, by decide +kernel⟩

/-- The command of that issue: entered, started, and running at port 0 of its cluster. -/
def started (fe : Bool) : Cmd := { aCmd with entered := true, elig := 50, started := true, fe := fe }
def aRun : Run := { cmd := started false, port := 0, limit := 1, next := 1, leave := 1, last := 0 }
def aFlit : Flit := { due := 100, msg := 0, cores := [1], near := 0x4000, n := 16, data := 0x1234, dst := [] }

theorem placed {x : Placed} (h : (match x with
    | .at _ => true
    | _ => false) = true) : ∃ pieces, x = .at pieces := by
  match x, h with
  | .at p, _ => exact ⟨p, rfl⟩

theorem witness_Engines :
    (let s := at1 twRegs fun k => { withMem twMem k with cmdqs := [(0, [aCmd])] }
     ((s.core 1).cmdq 0).find? (·.id == aCmd.id) = some aCmd ∧ aCmd.tid.core = 1 ∧ (s.ctx aCmd.tid).paired = false) ∧
    (let s := (at1 twRegs fun k => { k with cmdqs := [(0, [started false])] }).modCluster 0 fun c => { c with tlb2 := [flat] }
     let c := started false
     (s.core 1).cmdq 0 = c :: [] ∧ c.started = true ∧ PlainWalk c ∧ (s.cluster 0).engines = [] ∧ (s.cluster 0).tmem.getLsbD c.tenant.toNat = true ∧
      0 < c.messages ∧ (∃ pieces, s.placeMessage c c.pasid false 10 c.ma.toNat (c.message 0).2.2 = .at pieces) ∧ c.fe = false ∧
      (started true).fe = true ∧ (s.cmdRegion (started true)).dbg = false ∧ (started true).near = .localMem) ∧
    (let s := (at1 twRegs).modCluster 0 fun c => { c with engines := [{ aRun with flits := [aFlit] }] }
     (s.cluster 0).engines = [{ aRun with flits := [aFlit] }] ∧ PlainWalk aRun.cmd ∧ aRun.fills = [] ∧ aRun.cmd.near = .localMem ∧ aFlit.cores = [1] ∧
      clusterOf 1 = 0 ∧ (s.cmdRegion aRun.cmd).dbg = false ∧ aRun.cmd.stream = 0 ∧ 0 < aFlit.n ∧ aFlit.due ≤ s.now ∧ s.now < { aFlit with due := 101 }.due) ∧
    (let s := (at1 twRegs).modCluster 0 fun c => { c with engines := [{ aRun with fault := some aFlt }] }
     (s.cluster 0).engines = { aRun with fault := some aFlt } :: [] ∧ (s.slot aRun.cmd.tid).st ≠ .empty ∧ (s.slot aRun.cmd.tid).bind = aRun.cmd.bind ∧
      (s.slot aRun.cmd.tid).ctx.paired = false) :=
  ⟨by decide +kernel, ⟨by decide +kernel, by decide +kernel, ⟨by decide +kernel, by decide +kernel, by decide +kernel⟩, by decide +kernel, by decide +kernel,
      by decide +kernel, placed (by decide +kernel), by decide +kernel, by decide +kernel, by decide +kernel, by decide +kernel⟩,
    ⟨by decide +kernel, ⟨by decide +kernel, by decide +kernel, by decide +kernel⟩, by decide +kernel, by decide +kernel, by decide +kernel, by decide +kernel,
      by decide +kernel, by decide +kernel, by decide +kernel, by decide +kernel, by decide +kernel⟩, by decide +kernel⟩

/-- A command that fills batten 5 raw, of one row of 512 bytes, and its fill. -/
def rawRun : Run := { aRun with
  cmd := { started false with fn := 2, bat := 5, desc := 511 * 2 ^ 16 }, asking := true, fills := [{ cores := [1], asked := 512, total := 2 }] }

theorem witness_PermitsTaken :
    let s := (at1 twRegs (bs [(5, { feed := true })])).modCluster 0 fun c => { c with engines := [rawRun] }
    let f : Fill := { cores := [1], asked := 512, total := 2 }
    let x := s.batten 1 5
    let total := rawRun.cmd.streamBytes 1
    (s.cluster 0).engines = [rawRun] ∧ rawRun.port = 0 ∧ rawRun.closed = false ∧ rawRun.fills = [f] ∧ rawRun.cmd.packs = true ∧ rawRun.asking = true ∧
    rawRun.fault = none ∧ rawRun.stop = false ∧ x.popAt ≠ s.now + 1 ∧ x.depth.toNat ≤ 32 ∧ f.len = 0 ∧ 0 < rawRun.cmd.covered total (f.pushed + 1) ∧
    f.pushed < f.total ∧ x.res.toNat + min (rawRun.cmd.wanted total f.asked - f.pushed - f.res) (min (x.depth.toNat - x.count.toNat - x.res.toNat) 32) < 64 := by
  decide +kernel

/-! Packing, purlins and the rafter (R122 to R150). -/

/-- R122: 8-bit integers on both sides, pitch 24, segments of 4. -/
def pdDense : W64 := 0x8000000000013000
/-- The same with segments of 8 and 8 of 16 kept. -/
def pdSparse : W64 := 0x800000000011B000

def owned0 : Purlin := { claimed := true, owner := 0 }
def withP (p : Purlin) (s : State) : State := s.setPurlin 1 0 p

/-- R123, R136: PITCH admits the descriptor; VPACK writes and pushes the tail entry at c + 3. -/
theorem test_pitch_pack :
    (after (.pitch hA (.reg 2)) (at1 (gs [(2, 0x13000)]))).map (·.pd) = some pdDense ∧
    (match exec (.vpack hA .i8 false true 3 1 0) (at1 { vecs .i8 with pd := pdDense }) with
      | .next t => some ((t.batten 1 3).pushRes, t.agenda.map (·.due))
      | _ => none) = some (1, [103]) := by decide +kernel

/-- R138: PCLAIM of a free purlin gives 1, and of one that another slot owns 0. -/
theorem test_pclaim :
    (after (.pclaim hA 5 0) (at1 {})).map (·.rg 5) = some 1 ∧
    (after (.pclaim hA 5 0) (at1 {} id (withP { claimed := true, owner := 3 }))).map (·.rg 5) = some 0 := by decide +kernel

/-- R143: REXT delivers a digit at its base, here 3 · 2^1. -/
theorem test_rext :
    (after (.rext hA ⟨.i32, .rne, false, 0, 3, 5⟩ 0) (at1 {} id (withP { owned0 with digits := [(0, 3)], base := 1, n := 1, bound := 3 }))).map
      (elemOf .i32 3 0) = some 6 := by decide +kernel

theorem witness_PackAndExtract :
    Issues hA (rS (.reg 2)) (at1 (gs [(2, 0x13000)])) ∧ Pd.admits (((at1 (gs [(2, 0x13000)])).ctx u1).rs (.reg 2) &&& 0x7FFFFFFFFFFFFFFF#64) = true ∧
    Pd.admits (((at1 {}).ctx u1).rs (.reg 2) &&& 0x7FFFFFFFFFFFFFFF#64) = false ∧
    (let s := at1 { vecs .i8 with pd := pdDense }
     Issues ⟨.w64, 1, false, 0⟩ [rV 1] s false true ∧ (s.ctx u1).paired = false ∧ (s.regionOf u1).dbg = false ∧ Pd.valid (s.ctx u1).pd = true ∧
      Pd.fmt (s.ctx u1).pd false = .i8 ∧ TailFree s 3 ∧ Pd.fmt (s.ctx u1).pd true ≠ .i16) ∧
    Pd.valid ((at1 {}).ctx u1).pd = false ∧ ((at1 {} (bs [(3, { feed := true })])).batten 1 3).feed = true ∧
    (let s := at1 {} (bs [(3, { count := 32 })])
     (s.batten 1 3).feed = false ∧ ¬ TailFree s 3) ∧
    Issues hA [wG 5] (at1 {}) ∧ (at1 {} id (withP owned0)).cur = u1 ∧ ((at1 {} id (withP owned0)).purlin 1 0).owned 0 = true ∧
    ((at1 {}).purlin 1 0).owned 0 = false ∧
    (let s := at1 {} id (withP { owned0 with torn := true })
     Issues hA [rG 5, wV 3] s false true ∧ (s.purlin 1 0).owned 0 = true ∧ (s.purlin 1 0).torn = true) :=
  ⟨issues (by decide +kernel), by decide +kernel, by decide +kernel,
    ⟨issues (by decide +kernel), by decide +kernel, by decide +kernel, by decide +kernel, by decide +kernel, ⟨by decide +kernel, by decide +kernel⟩, by decide +kernel⟩,
    by decide +kernel, by decide +kernel, ⟨by decide +kernel, fun h => by have := h.2; revert this; decide +kernel⟩,
    issues (by decide +kernel), by decide +kernel, by decide +kernel, by decide +kernel,
    ⟨issues (by decide +kernel), by decide +kernel, by decide +kernel⟩⟩

def rafO : RafOps := ⟨2, 3, 0, 3, 0, 1⟩

/-- The instruction enters the bank from s, or a check refuses it (R144 to R150). -/
def entersBank (s : State) (i : Instr) (fails : Bool) : Bool :=
  match steppedOf s i with
  | some (h, uses, f, _) => mayIssue h uses s false false true && f.isSome == fails
  | none => false

theorem steps {s : State} {i : Instr} (h : entersBank s i false = true) :
    ∃ h uses op, steppedOf s i = some (h, uses, none, op) ∧ Issues h uses s (stepped := true) := by
  revert h
  simp only [entersBank]
  rcases steppedOf s i with _ | ⟨h, uses, _ | f, op⟩ <;> simp only [Bool.false_eq_true, Bool.and_eq_true, false_implies]
  · exact fun hb => ⟨_, _, _, rfl, issues hb.1⟩
  · exact fun hb => absurd hb.2 (by simp)

theorem refused {s : State} {i : Instr} (h : entersBank s i true = true) :
    ∃ h uses x op, steppedOf s i = some (h, uses, some x, op) ∧ Issues h uses s (stepped := true) := by
  revert h
  simp only [entersBank]
  rcases steppedOf s i with _ | ⟨h, uses, _ | f, op⟩ <;> simp only [Bool.false_eq_true, Bool.and_eq_true, false_implies]
  · exact fun hb => absurd hb.2 (by decide)
  · exact fun hb => ⟨_, _, _, _, rfl, issues hb.1⟩

theorem witness_RafterInstructions :
    Issues hA [wG 5] (at1 {}) ∧
    (let p := (at1 {} id (withP { claims := [0] })).purlin 1 0
     p.claimed = false ∧ ∀ x ∈ p.claims, x = 0) ∧
    (let p := (at1 {} id (withP { claims := [0, 4] })).purlin 1 0
     p.claimed = false ∧ ¬ ∀ x ∈ p.claims, x = 0) ∧
    Issues hA [] (at1 {}) ∧ ownFault (at1 {} id (withP owned0)) 0 false = none ∧ ¬ Held (at1 {} id (withP owned0)) 0 ∧
    (let s := at1 {} id (withP { owned0 with readers := [2] })
     ownFault s 0 false = none ∧ Held s 0) ∧
    ownFault (at1 {}) 0 false = some { code := 6, sub := 7 } ∧ Issues hA [rG 5, rG 6] (at1 { stat := 1 }) true ∧
    (let s := at1 { pd := pdDense } id (withP owned0)
     Issues hA [] s (stepped := true) ∧ ownFault s 0 true = none ∧ descriptorSuits .rmul rafO (s.ctx u1).pd ∧
      ¬ descriptorSuits .rtiles rafO (s.ctx u1).pd) ∧
    descriptorSuits .rtiles rafO pdSparse ∧
    ownFault (at1 {} id (withP { owned0 with torn := true })) 0 true = some { code := 11 } ∧
    (∃ h uses op, steppedOf (at1 (gs [(5, 0x57FC0)]) id (withP owned0)) (.rsave hC 0 5 0) = some (h, uses, none, op) ∧
      Issues h uses (at1 (gs [(5, 0x57FC0)]) id (withP owned0)) (stepped := true)) ∧
    (∃ h uses x op, steppedOf (at1 (gs [(5, 0x57FC8)]) id (withP owned0)) (.rload hC 0 5 0) = some (h, uses, some x, op) ∧
      Issues h uses (at1 (gs [(5, 0x57FC8)]) id (withP owned0)) (stepped := true)) := by
  refine ⟨issues (by decide +kernel), by decide +kernel, by decide +kernel, issues (by decide +kernel), by decide +kernel, ?_,
    ⟨by decide +kernel, ?_⟩, by decide +kernel, issues (by decide +kernel),
    ⟨issues (by decide +kernel), by decide +kernel, ⟨by decide +kernel, by decide +kernel, by decide +kernel⟩, fun h => ?_⟩,
    ⟨by decide +kernel, by decide +kernel, by decide +kernel⟩, by decide +kernel,
    steps (by decide +kernel), refused (by decide +kernel)⟩
  · show ¬ _ = true; decide +kernel
  · show _ = true; decide +kernel
  · have := h.2.1; revert this; decide +kernel

/-- A thread waits for the operation at the head of core 1's bank; p is its purlin 0. -/
def leading (op : BankOp) (p : Purlin) (f : Core → Core := id) : State :=
  (slot1 { pc := 0x100 } fun x => { x with st := .waiting (.event op.id) }).modCore 1 fun k => f { ({ k with bank := [op] } : Core) with purlins := [(0, p)] }
def anOp (kind : BankKind) : BankOp := { id := 7, kind := kind, tid := u1, len := 8, pn := 0, issue := 50, pd := pdDense, steps := 1, started := true }

theorem leads {s : State} {op : BankOp} (hb : (decide ((s.core 1).bank = [op]) && decide (op.tid = u1) && decide ((s.slot u1).st = .waiting (.event op.id))
    && !(s.ctx u1).paired && !(s.ctx u1).sstep && !s.locked 1 op.pn.toNat op.issue && decide (s.stepChecks = [])) = true) : Leads s 1 op [] := by
  simp only [Bool.and_eq_true, Bool.not_eq_true', decide_eq_true_eq] at hb
  obtain ⟨⟨⟨⟨⟨⟨h1, h2⟩, h3⟩, h4⟩, h5⟩, h6⟩, h7⟩ := hb
  exact ⟨h1, by rw [h2]; rfl, by rw [h2]; exact h3, by rw [h2]; exact ⟨h4, h5⟩, h6, h7⟩

/-- R145: RBASE brings an occupied purlin to a lower base: digits and bound gain two bits. -/
theorem test_rbase :
    (match exec (.sheafStep 1) (leading { anOp .rbase with base := 3 } { owned0 with n := 1, base := 5, bound := 6, digits := [(4, 3)] }) with
      | .next t => some ((t.purlin 1 0).base, (t.purlin 1 0).bound, (t.purlin 1 0).digits, (t.ctx u1).pc)
      | _ => none) = some (3, 24, [(4, 12)], 0x108) := by decide +kernel

/-- Battens 2 and 3 with one sheaf each: 5 in slot 0, and 7 in slot 15, where side B puts its first element (R136). -/
def twoSheaves (k : Core) : Core := { k with battens :=
  [(2, { count := 1, entries := [(0, ⟨5, 0⟩)] }), (3, { count := 1, entries := [(0, ⟨BitVec.ofNat _ (7 * 2 ^ 960), 0⟩)] })] }
/-- Pitch 64, segments of 16: three digits, from 4093 on. -/
def aMul : BankOp := { anOp .rmul with pd := 0x8000000000026000, ua := 2, ub := 3, scaled := true, d0 := 4093 }

/-- R130, R131: one product folds 5 · 7 into the first digit. -/
theorem test_rmul :
    (match exec (.sheafStep 1) (leading aMul { owned0 with n := 0 } twoSheaves) with
      | .next t => some (((t.purlin 1 0).digits.get 0 4093).toInt, (t.purlin 1 0).n, (t.batten 1 2).count)
      | _ => none) = some (35, 1, 0) := by decide +kernel

theorem witness_BankSteps :
    ((at1 {}).core 1).bank = [] ∧ Leads (leading (anOp .rclr) owned0) 1 (anOp .rclr) [] ∧
    (let op := { anOp .rbase with base := 3 }
     let p := { owned0 with n := 1, base := 5, bound := 6, digits := [(4, 3)] }
     Leads (leading op p) 1 op [] ∧ op.kind = .rbase ∧ op.started = true ∧ op.steps = 1 ∧ op.go ≤ (leading op p).now ∧
      p.n ≠ 0 ∧ (op.base.setWidth 12).toInt < p.base.toInt ∧ p.bound.toNat * 2 ^ (p.base.toInt - (op.base.setWidth 12).toInt).toNat < 2 ^ 95 ∧
      (∀ x ∈ p.digits, x.2.toInt.natAbs ≤ p.bound.toNat) ∧ (p.digits.map (·.1)).Pairwise (· < ·)) ∧
    (let s := leading aMul owned0 twoSheaves
     let a := s.batten 1 2
     let b := s.batten 1 3
     Leads s 1 aMul [] ∧ aMul.kind = .rmul ∧ aMul.scaled = true ∧ aMul.go ≤ s.now ∧ s.rafters 1 ≠ [] ∧ aMul.ua ≠ aMul.ub ∧ 0 < a.count.toNat ∧
      0 < b.count.toNat ∧ a.popRes = 0 ∧ b.popRes = 0 ∧ a.depth ≠ 0 ∧ b.depth ≠ 0 ∧ a.drain = none ∧ b.drain = none ∧
      ((aMul.product (a.entry (a.head.toNat % a.depth.toNat)) [b.entry (b.head.toNat % b.depth.toNat)] {}).termFold (s.purlin 1 0)).isSome = true) ∧
    (let op := { anOp .rfuse with src := (2, 1) }
     let s := (leading op owned0).setPurlin 2 1 { claimed := true, n := 1, base := 0 }
     Leads s 1 op [] ∧ op.src.1 ≠ 1 ∧ (s.core 2).bank = [] ∧ (s.core 2).loading = [] ∧ (s.core 2).bankDone.1 ≠ s.now + 1 ∧ (∀ e ∈ s.agenda, e.ev ≠ .act (.release 2 1)) ∧ s.placeFree op.tid = true ∧
      (s.purlin 2 1).claimed = true ∧ (s.purlin 2 1).torn = false ∧ (s.fused 1 op).isSome = true ∧ (s.regionOf op.tid).cpol = false ∧ (s.ctx op.tid).cdepth = 0) ∧
    (leading { anOp .rfuse with src := (2, 1) } owned0).purlin 2 1 = {} ∧
    (at1 {}).stepChecks = [] ∧ (at1 {}).rafterBad.contains (1, 31) = false ∧
    (at1 {} id fun s => { s with rafterBad := [(1, 31)] }).rafterBad.contains (1, 31) = true := by
  refine ⟨by decide +kernel, leads (by decide +kernel), ⟨leads (by decide +kernel), by decide +kernel⟩, ⟨leads (by decide +kernel), by decide +kernel⟩,
    ⟨leads (by decide +kernel), by decide +kernel⟩, by decide +kernel⟩

/-! Futures and spawns (R267 to R293). -/

/-- A future's handle: tag 10, entry 9 of cluster 2, GEN 9 (R268). -/
def futH : W64 := 0xA000204800000009

theorem witness_FutureInstructions :
    (let s := at1 (gs [(5, futH)])
     (s.ctx u1).paired = false ∧ Issues hA [rG 5, rG 0, wG 6] s ∧ Issues hA [rG 5, rG 0, wG 6, wK 2] s ∧ futureHandle s futH = none ∧
      Issues hA [rG 5] s ∧ Issues hA [rG 5, wG 6] s ∧ ((s.ctx u1).rg 5).extractLsb' 60 4 = 10 ∧ (s.ctx u1).rg 0 = 0) ∧
    (∀ s : State, s.carry u1 0 = .ok none) ∧
    (∃ desc, (at1 {}).carry u1 0x57FC0 = .ok (some desc)) ∧ (at1 {}).localErr 1 0x57FC0 64 = .clean ∧
    (∃ f, (at1 {}).carry u1 0x57FC8 = .error f) ∧
    futureHandle (at1 {}) 0xA002400000000000 = some { code := 16, addr := 0xA002400000000000 } ∧
    futureHandle (at1 {}) 0xA010000000000000 = some { code := 8, addr := 0xA010000000000000 } ∧
    (∃ i h d a uses op, looseOf i = some (h, d, a, uses, op, true) ∧ Issues h (rG a :: wG d :: uses) (at1 (gs [(5, futH)]))) ∧
    (at1 {}).releaseHeld u1 = false ∧ (at1 {} fun k => { k with outs := [{ id := 9, slot := 0, kind := .store }] }).releaseHeld u1 = true ∧
    ¬ ((0xA002400000000000 : W64).extractLsb' 60 4 = 10 ∧ ((0xA002400000000000 : W64).extractLsb' 44 6).toNat < 36) ∧
    isForked ((at1 {}).modSlot u1 fun x => { x with task := some forkedTask }) u1 = true ∧ isForked (at1 {}) u1 = false ∧
    ((at1 { wc := [(3, 1)] }).ctx u1).rwc 3 ≠ 0 ∧
    (let s := ((at1 {}).modSlot u1 fun x => { x with task := some { forkedTask with forked := false } }).modSlot ⟨1, 5⟩ fun x =>
      { x with st := .ready, task := some forkedTask }
     isForked s u1 = false ∧ s.hasForks u1 = true) ∧
    (at1 {}).hasForks u1 = false ∧ ((at1 {}).ctx u1).rwc 3 = 0 ∧ (at1 {}).battenHazard u1 = false ∧
    (inTeam { dbg := true } (at1 {} (bs [(3, { owned := true, count := 1 })]))).battenHazard u1 = true :=
  ⟨⟨by decide +kernel, issues (by decide +kernel), issues (by decide +kernel), by decide +kernel, issues (by decide +kernel), issues (by decide +kernel),
      by decide +kernel, by decide +kernel⟩, fun _ => rfl, ⟨_, rfl⟩, by decide +kernel, ⟨_, rfl⟩, by decide +kernel, by decide +kernel,
    ⟨.resolve hA 6 5 (.reg 7), _, _, _, _, _, rfl, issues (by decide +kernel)⟩, by decide +kernel⟩

def aFut (state : BitVec 3) : Future := { gen := 9, state := state }
def withFut (f : Future) (s : State) : State := s.setFuture 2 9 f
/-- A request of core 1's slot 0 to entry 9 of cluster 2. -/
def aReq (op : FOp) : FReq :=
  { id := 7, op := op, handle := futH, value := 0x55, carry := none, pc := 0x100, tid := u1, bind := 1, park := 3, d := 6, e := 2, tenant := 0, issue := 90 }

theorem resident {s : State} {cl : Nat} {r : FReq} {f : Future} (hb : (decide (s.futureEntry cl (hEnt r.handle) = f) && decide (1 ≤ f.state.toNat)
    && decide (f.state.toNat ≤ 5) && decide (f.gen = r.handle.extractLsb' 0 35) && s.routeAdmits (clusterOf r.tid.core) cl r.tenant
    && decide ((s.regionByRcb f.rcb.toNat).tenant = r.tenant) && decide (f.nwait = 0) && !f.drop && decide (r.tid.core < 4096)
    && decide (s.slack = [])) = true) : Resident s cl r f := by
  simp only [Bool.and_eq_true, Bool.not_eq_true', decide_eq_true_eq] at hb
  obtain ⟨⟨⟨⟨⟨⟨⟨⟨⟨h1, h2⟩, h3⟩, h4⟩, h5⟩, h6⟩, h7⟩, h8⟩, h9⟩, h10⟩ := hb
  exact ⟨h1, ⟨h2, h3⟩, h4, h5, h6, ⟨h7, h8⟩, h9, h10⟩

/-- R273, R286: TOUCH of a QUEUED future makes the thread its one waiter; RESOLVE resolves it. -/
theorem test_future :
    (match perform (.future 2 (aReq .touch)) (at1 {} id (withFut (aFut 1))) with
      | .next t => some ((t.futureEntry 2 9).nwait, (t.futureEntry 2 9).head, t.agenda.map (·.due))
      | _ => none) = some (1, 3, [160]) ∧
    (match perform (.future 2 (aReq .resolve)) (at1 {} id (withFut (aFut 2))) with
      | .next t => some ((t.futureEntry 2 9).state, (t.futureEntry 2 9).value)
      | _ => none) = some (3, 0x55) := by decide +kernel

theorem witness_FutureTables :
    (∀ st ∈ [(1 : BitVec 3), 3, 5], Resident (at1 {} id (withFut (aFut st))) 2 (aReq .touch) (aFut st)) ∧
    (let s := awaiting { pc := 0x100 }
     let r := aReq .touch
     let x := s.slot r.tid
     s.stepChecks = [] ∧ x.bind = r.bind ∧ x.st = .waiting (.event r.id) ∧ x.ctx.paired = false ∧ x.ctx.sstep = false ∧ r.d ≠ 0 ∧ x.outcome = none) ∧
    (let s := at1 {}
     let r : FReq := { aReq .resolve with d := 0 }
     r.d = 0 ∧ s.stepChecks = [] ∧ (s.slot r.tid).bind = r.bind ∧ (s.slot r.tid).st ≠ .empty) := by
  refine ⟨fun st h => resident ?_, by decide +kernel⟩
  revert h; revert st; decide +kernel

/-- A task record: pc 0x40, carry edge none, no tiles. -/
def recAt (a : Nat) : Sparse Byte := [(a + 16, 0x77)]
def aRec : BitVec 512 := BitVec.ofNat 512 (0x77 * 2 ^ 128)

theorem recordAt {s : State} {a : W64} {rec : BitVec 512} (hb : (decide (a.toNat % 64 = 0) && decide (localRule s a.toNat 64 false = none)
    && decide (s.localErr s.cur.core a.toNat 64 = .clean) && decide (rec = BitVec.ofNat 512 (s.localRead s.cur.core a.toNat 64))
    && decide (recNt rec ≤ 4)) = true) : RecordAt s a rec := by
  simp only [Bool.and_eq_true, decide_eq_true_eq] at hb
  exact ⟨hb.1.1.1.1, hb.1.1.1.2, hb.1.1.2, hb.1.2, hb.2⟩

def aQueued : Queued := { record := recordCopy aRec 0xA000004800000000 0x40 true, team := 1, region := 0, prio := 2, after := [] }
def aSpawnReq : SReq :=
  { id := 7, tid := u1, bind := 1, at_ := true, target := 2, record := aRec, pc := 0x40, priv := false, team := 1, d := 6, region := 0, tenant := 0
    issue := 90, after := [] }
/-- The region admits no future any more. -/
def noBudget (s : State) : State :=
  inTeam { limits := [(1, 0x50, 1)] } { s with budgets := [(0, { valid := true, rcb := 0x50, futures := 1 })] }

theorem witness_Spawning :
    (let s := at1 (gs [(5, 0x57FC0)]) (withMem (recAt 0x57FC0))
     Issues hC [rG 5, wG 6] s ∧ Issues hC [rG 5, rG 7, wG 6] s ∧ (s.ctx u1).paired = false ∧ RecordAt s 0x57FC0 aRec ∧
      (∀ f ∈ (s.cluster 0).futures, f.2.res ≠ some s.cur) ∧ s.admits (s.regionOf u1) 1 1 = true ∧ (s.cluster 0).freeFuture = some 0 ∧
      recNt aRec = 0 ∧ (s.core 1).dequeRoom = true ∧ s.coreOfTeam (s.teamNo u1) 0 = none) ∧
    (let s := inTeam {} (at1 (gs [(5, 0x57FC0)]) (withMem (recAt 0x57FC0)))
     RecordAt s 0x57FC0 aRec ∧ s.coreOfTeam (s.teamNo u1) 0 = some 1 ∧ s.coreOfTeam (s.teamNo u1) 1 = none) ∧
    (let s := noBudget (at1 (gs [(5, 0x57FC0)]) (withMem (recAt 0x57FC0)))
     RecordAt s 0x57FC0 aRec ∧ s.admits (s.regionOf u1) 1 1 = false) ∧
    (0x57FC8 : W64).toNat % 64 ≠ 0 ∧
    (let s := awaiting { pc := 0x100 }
     let r := aSpawnReq
     s.routeAdmits 0 (clusterOf r.target) r.tenant = true ∧ s.admits (s.regionByRcb 0) 1 1 = true ∧ (s.cluster 0).freeFuture = some 0 ∧
      (s.core r.target).dequeRoom = true ∧ s.slack = [] ∧ s.stepChecks = [] ∧ (s.slot u1).bind = r.bind ∧
      (s.slot u1).st = .waiting (.event r.id) ∧ (s.ctx u1).sstep = false) ∧
    (inTeam {} (at1 {})).noMoreTasks aQueued.team = false ∧ (at1 {}).noMoreTasks aQueued.team = true :=
  ⟨⟨issues (by decide +kernel), issues (by decide +kernel), by decide +kernel, recordAt (by decide +kernel), by decide +kernel⟩,
    ⟨recordAt (by decide +kernel), by decide +kernel⟩, ⟨recordAt (by decide +kernel), by decide +kernel⟩, by decide +kernel, by decide +kernel, by decide +kernel⟩

/-- R283, R285: SPAWN gives the handle with GEN 1 and creates the task three cycles on. -/
theorem test_spawn :
    (match exec (.spawn hC 6 5 0x40) (at1 (gs [(5, 0x57FC0)]) (withMem (recAt 0x57FC0))) with
      | .next t => some ((t.ctx u1).rg 6, (t.core 1).dequeRes, t.agenda.map (·.due))
      | _ => none) = some (0xA000000000000001, 1, [103]) := by decide +kernel

def aReady (team : BitVec 16) : Ready := { cl := 0, prio := 2, cycle := 90, idx := 0, park := 3, team := team, after := [] }
def aDispatch (answer : Option Bool) : Dispatch := { src := .deque aQueued, at_ := 90, due := 92, answer := answer }
/-- Core 1, of team 1, with a free slot; f and g change the core and its cluster. -/
def idle1 (f : Core → Core := id) (g : Cluster → Cluster := id) : State :=
  ((inTeam {} (at1 {})).modCore 1 fun c => f { c with kind := .program }).modCluster 0 g

theorem witness_TaskDispatch :
    (let s := idle1 id fun c => { c with ready := [aReady 5, aReady 1] }
     s.mayChoose 1 = some 1 ∧ s.admits (s.teamRegion 1) 0 (if (s.teamRegion 1).rmode = 1 then 2 else 1) = true ∧
      (s.cluster 0).ready = [aReady 5] ++ aReady 1 :: [] ∧ (aReady 5).team ≠ 1 ∧ aReady 5 ≠ aReady 1 ∧ (aReady 1).cycle ≤ s.now) ∧
    (let s := idle1 fun c => { c with deque := [{ aQueued with prio := 1 }, aQueued] }
     s.mayChoose 1 = some 1 ∧ (∀ x ∈ (s.cluster 0).ready, x.team ≠ 1) ∧ (s.core 1).deque = [{ aQueued with prio := 1 }] ++ [aQueued] ∧
      aQueued.team = 1 ∧ aQueued.after = [] ∧ (s.cluster 0).parkForTask ≠ none) ∧
    (∀ st ∈ [(1 : BitVec 3), 4, 5],
     let s := (idle1 fun c => { c with dispatch := some (aDispatch none) }).setFuture 0 9 { gen := 0, state := st }
     let h := recHandle aQueued.record
     (s.core 1).dispatch = some (aDispatch none) ∧ hPkg h = s.pkg.pkgid.toNat ∧ hCluster h = 0 ∧ (s.futureEntry 0 (hEnt h)).gen = hGen h ∧
      s.routeAdmits 0 0 (s.teamRegion 1).tenant = true ∧ (s.regionByRcb 0).tenant = (s.teamRegion 1).tenant ∧ (s.futureEntry 0 (hEnt h)).state = st) ∧
    (let s := idle1 fun c => { c with dispatch := some (aDispatch (some true)) }
     (s.core 1).dispatch = some (aDispatch (some true)) ∧ (s.teamRegion 1).rmode ≠ 1 ∧ (s.core 1).bindingSlot false s.now = some 1 ∧
      ((s.core 1).slot 1).bind.toNat + 1 ≠ 2048 ∧ ((s.core 1).slot 1).bind.toNat + 1 ≠ 4096) ∧
    ((idle1 fun c => { c with dispatch := some (aDispatch (some false)) }).core 1).dispatch = some (aDispatch (some false)) ∧
    (let p : Prefetch := { id := 7, task := aQueued, park := 3, idx := 2 }
     ((idle1 id fun c => { c with prefetch := [p] }).cluster 0).prefetch.find? (·.id == 7) = some p) := by
  decide +kernel

/-- A waiting task of core 1's slot 0 that may park. -/
def parking : State := (inTeam {} (at1 { pc := 0x100 })).modSlot u1 fun x =>
  { x with st := .waiting (.future 7), touch := some (aReq .touch), task := some { team := 1, vcore := 0, park := 3, handle := futH, forked := false } }

/-- A spill slot of one handle at va 0x4000, in a page table whose first GiB maps to itself; entry 9 of cluster 2 is the
one future that may be spilled, of 512. -/
def spilling : State :=
  let s := inTeam { top := 0x800 } (at1 {})
  { (s.modCluster 2 fun c => { c with futures := (List.range 512).map fun j => (j, { state := 1, nwait := if j = 9 then 0 else 1 }) }) with
    phys := [(2, 1), (8, 0x40), (0x10000, 1), (0x10001, 0x10), (0x10002, 1), (0x11000, 0xF), (0x20039, 0x40), (0x20040, 1)] }
def aSpillReq : SReq := { aSpawnReq with at_ := false, target := 16 }

theorem found {x : Except Flt Nat} (h : x.toOption.isSome = true) : ∃ pa, x = .ok pa := by
  rcases x with f | pa
  · cases h
  · exact ⟨pa, rfl⟩

theorem witness_ParksWakesSpills :
    (let s := parking
     (s.slot u1).task.isSome = true ∧ (s.slot u1).st = .waiting (.future 7) ∧ s.canPark u1 = true ∧ (s.ctx u1).paired = false) ∧
    (∀ st ∈ [(2 : BitVec 3), 1, 4, 5, 3], ((at1 {}).modPark 3 fun p => { p with pst := st }).park 3 = { pst := st }) ∧
    (let s := at1 {}
     s.slack = [] ∧ aSpillReq.tid.core < 4096 ∧ s.victim 2 (s.regionByRcb 0) = none ∧ aSpillReq.at_ = false ∧ (s.futureEntry 2 9).held = []) ∧
    clusterOf aSpillReq.target = 2 ∧ spilling.victim 2 (spilling.regionByRcb 0) = some 9 ∧
    (∃ pa, spilling.spillPlace 0 (spilling.mkHandle 10 2 9 0) true = .ok pa) := by
  refine ⟨by decide +kernel, by decide +kernel, by decide +kernel, by decide +kernel, by decide +kernel, found (by decide +kernel)⟩

/-! Counters, messages, waiting tasks and scoreboards (R295 to R304, R331 to R341). -/

/-- A waiting-task handle: tag 11, entry 9 of cluster 2, GEN 9 (R297). -/
def waitH : W64 := 0xB000204800000009

def msgRegs : Ctx := gs [(5, 0x57F80), (6, 0x3FFF80), (7, waitH)]
def aMesh : Mesh := { formed := true, clock := 5, slip := 6 }

theorem witness_CounterInstructions :
    (let s := at1 (gs [(5, waitH)])
     Issues hA [rG 5, wG 6] s ∧ (s.ctx u1).paired = false ∧ waitingFault s waitH = none ∧ s.releaseHeld u1 = false ∧ Issues hA [rG 5] s ∧
      (s.meshes.get {} (s.ctx u1).tenant.toNat).formed = false) ∧
    waitingFault (at1 {}) 0xB000280000000000 = some { code := 16, addr := 0xB000280000000000 } ∧
    waitingFault (at1 {}) 0xB0100007F8000000 = some { code := 8, addr := 0xB0100007F8000000 } ∧
    (at1 {} fun k => { k with outs := [{ id := 9, slot := 0, kind := .store }] }).releaseHeld u1 = true ∧
    (let s := at1 msgRegs
     let c := s.ctx u1
     Issues hA [rG 6, rG 5, rG 7] s ∧ (c.rg 5).toNat % 64 = 0 ∧ (c.rg 6).toNat % 64 = 0 ∧ s.watch isLoadKind (c.rg 5) = none ∧
      localRule s 0x57F80 128 false = none ∧ (c.rg 6).toNat + 128 ≤ 0x400000 ∧ waitingFault s (c.rg 7) = none ∧ s.localErr 1 0x57F80 128 ≠ .uncorrectable) ∧
    (0x57F88 : W64).toNat % 64 ≠ 0 ∧ Issues hA [] (at1 {}) ∧
    (let c := (at1 { wc := [(2, 7)] }).ctx u1
     c.rwc 2 ≤ 7 ∧ 6 < c.rwc 2) ∧
    Issues hA [wG 6] (at1 {}) ∧ ((at1 {} id fun s => { s with meshes := [(0, aMesh)] }).meshes.get {} 0).formed = true :=
  ⟨⟨issues (by decide +kernel), by decide +kernel, by decide +kernel, by decide +kernel, issues (by decide +kernel), by decide +kernel⟩,
    by decide +kernel, by decide +kernel, by decide +kernel, ⟨issues (by decide +kernel), by decide +kernel⟩, by decide +kernel,
    issues (by decide +kernel), by decide +kernel, issues (by decide +kernel), by decide +kernel⟩

/-- R341: CNTRD.PERF of ISSUES counts its own issue. -/
theorem test_cntrd : (after (.cntrdPerf hA 6 0) (at1 {} fun k => { k with perf := [(0, 41)] })).map (·.rg 6) = some 42 := by decide +kernel

def aWait (count : BitVec 20) : WaitTask := { gen := 9, state := 1, count := count }
def withWait (w : WaitTask) (s : State) : State := s.modCluster 2 fun c => { c with waits := [(9, w)] }
def aDec (k : Nat) (csig : Bool) : Dec := { id := 7, handle := waitH, k := k, tid := u1, bind := 1, tenant := 0, csig := csig, d := 6, pc := 0x100 }

/-- R331: a decrement to 0 releases the task; one that exceeds the count does nothing. -/
theorem test_decrement :
    (match exec (.waitingTaskDecrement (aDec 3 true)) (at1 {} id (withWait (aWait 3))) with
      | .next t => some ((t.waitEntry 2 9).state, (t.waitEntry 2 9).count)
      | _ => none) = some (2, 0) ∧
    (match exec (.waitingTaskDecrement (aDec 4 true)) (at1 {} id (withWait (aWait 3))) with
      | .next t => some ((t.waitEntry 2 9).state, (t.waitEntry 2 9).count)
      | _ => none) = some (1, 3) := by decide +kernel

theorem witness_CounterEvents :
    (0x3FFFC0 % 64 = 0 ∧ ((at1 {}).cluster 0).busy 100 0x3FFFC0 64 = false ∧ ((at1 {}).cluster 0).arrived = [] ∧
      (((at1 {}).modCluster 0 fun c => { c with lastGran := [(0x3FFFC, 101)] }).cluster 0).busy 100 0x3FFFC0 64 = true) ∧
    (let r := aDec 3 true
     let i := hEnt r.handle
     (at1 {}).routeAdmits 0 (hCluster r.handle) 0 = true ∧ 0 < r.k ∧ (at1 {}).slack = [] ∧
      ¬ (((at1 {}).waitEntry 2 i).gen = hGen r.handle ∧ ((at1 {}).waitEntry 2 i).state ≠ 0) ∧
      (∀ n ∈ [2, 3, 4], let s := at1 {} id (withWait (aWait (BitVec.ofNat 20 n)))
        (s.waitEntry 2 i).gen = hGen r.handle ∧ (s.waitEntry 2 i).state ≠ 0 ∧ (s.regionByRcb 0).tenant = r.tenant ∧ (s.waitEntry 2 i).sbl = false) ∧
      ((at1 {} id (withWait { aWait 3 with sbl := true })).waitEntry 2 i).sbl = true ∧
      (let s := at1 {} id fun s => { withWait { aWait 3 with rcb := 0x50 } s with teams := [(4, some { region := { rcb := 0x50, tenant := 5 } })] }
       (s.regionByRcb (s.waitEntry 2 i).rcb.toNat).tenant ≠ r.tenant)) ∧
    (let s := (at1 {}).modCluster 2 fun c => { c with relWait := [(90, 9)] }
     (s.cluster 2).relWait = [(90, 9)] ∧ (s.cluster 2).freePark = some 0 ∧ (s.cluster 2).parkForTask = none) ∧
    ((at1 {}).cluster 2).parkForTask = some 0 ∧ ((at1 {}).cluster 2).waitHeld.length < 64 ∧
    (let s := awaiting { pc := 0x100 }
     s.stepChecks = [] ∧ (s.slot u1).st = .waiting (.event 7) ∧ (s.ctx u1).paired = false ∧ (s.ctx u1).sstep = false ∧
      (aDec 3 false).bind = (s.slot u1).bind) := by decide +kernel

def aReqW (op : Nat) (n : W64) : WReq :=
  { id := 7, op := op, tid := u1, len := 8, d := 6, record := aRec, n := n, board := 1, team := 1, rcb := 0, prio := 0, tenant := 0 }
def withBoard (b : Board) (s : State) : State := s.modCluster 0 fun c => { c with boards := [(1, b)] }
/-- A board of 2 by 1 tiles, each waiting for its left neighbour (bit 11), tile (1, 0) for one. -/
def aBoard : Board := { owned := true, team := 1, mask := 0x800, wm1 := 1, hm1 := 0, tiles := [(1, 0x100)] }

/-- R304: SBRET of tile (0, 0) marks it and takes one from tile (1, 0). -/
theorem test_sbret :
    (match perform (.waiting (aReqW 4 0)) (at1 {} id (withBoard aBoard)) with
      | .next t => let b : Board := (t.cluster 0).boards.get {} 1
                   some (tileRet (tileAt b 0 0), tileCnt (tileAt b 1 0))
      | _ => none) = some (true, 0) := by decide +kernel

def armRegs (n : W64) : Ctx := gs [(5, 0x57FC0), (7, n)]

theorem witness_WaitingTasksAndBoards :
    (let s := at1 (armRegs 0xFFFFF) (withMem (recAt 0x57FC0))
     Issues hC [rG 5, rG 7, wG 6] s ∧ RecordAt s 0x57FC0 aRec ∧ recNt aRec = 0 ∧ ((s.ctx u1).rg 7).toNat ≤ 0xFFFFF ∧ s.releaseHeld u1 = false ∧
      (s.ctx u1).paired = false ∧ Issues hC [rG 5] s ∧ Issues hA [] s) ∧
    0xFFFFF < (((at1 (armRegs 0x100000)).ctx u1).rg 7).toNat ∧
    (let s := at1 (armRegs 1) (withMem [(0x57FC0 + 48, 4)])
     RecordAt s 0x57FC0 (BitVec.ofNat 512 (4 * 2 ^ 384)) ∧ recNt (BitVec.ofNat 512 (4 * 2 ^ 384)) ≠ 0) ∧
    (at1 {} fun k => { k with outs := [{ id := 9, slot := 0, kind := .store }] }).releaseHeld u1 = true ∧
    (let s := at1 {}
     s.routeAdmits 0 0 0 = true ∧ s.slack = [] ∧ (aReqW 0 3).tid.core < 4096 ∧ (s.waitEntry 0 0).state = 0 ∧ s.admits (s.regionByRcb 0) 2 1 = true ∧
      (aReqW 0 3).n.toNat ≠ 0 ∧ ((s.cluster 0).boards.get {} 1 : Board).tiles = [] ∧ ((s.cluster 0).boards.get {} 1 : Board).owned = false) ∧
    (let s := (at1 {}).modCluster 0 fun c => { c with waits := (List.range 256).map fun j => (j, { state := 1 }) }
     ∀ i, i < 256 → (s.waitEntry 0 i).state ≠ 0) ∧
    (aReqW 2 0x1000000).n.getLsbD 24 = true ∧
    (let s := at1 {} id (withBoard { aBoard with team := 2 })
     let b : Board := (s.cluster 0).boards.get {} 1
     b.owned = true ∧ b.team ≠ (aReqW 2 0).team) ∧
    (let s := at1 {} id (withBoard aBoard)
     let b : Board := (s.cluster 0).boards.get {} 1
     b.owned = true ∧ b.team = 1 ∧ tileRet (tileAt b 1 0) = false ∧ tileReg (tileAt b 1 0) = false ∧
      b.wm1.toNat < ((2 : W64).extractLsb' 0 6).toNat ∧ b.mask.getLsbD 12 = false) ∧
    (∀ k, k < 4096 → tileReg (aBoard.tiles.get 0 k) = false) ∧ tileReg (0x2000 : BitVec 15) = true ∧ tileRet (0x4000 : BitVec 15) = true := by
  refine ⟨⟨issues (by decide +kernel), recordAt (by decide +kernel), by decide +kernel, by decide +kernel, by decide +kernel, by decide +kernel,
      issues (by decide +kernel), issues (by decide +kernel)⟩, by decide +kernel, ⟨recordAt (by decide +kernel), by decide +kernel⟩, by decide +kernel, by decide +kernel,
    by decide +kernel, by decide +kernel, by decide +kernel, by decide +kernel, ?_, by decide +kernel, by decide +kernel⟩
  intro k _
  show tileReg (Sparse.get 0 [(1, (0x100 : BitVec 15))] k) = false
  by_cases h : k = 1
  · subst h; decide +kernel
  · have : Sparse.get 0 [(1, (0x100 : BitVec 15))] k = 0 := by simp [Sparse.get, Ne.symm h]
    rw [this]; decide

/-! System registers and instructions (R155 to R182, R356 to R360). -/

/-- R157: MTS may clear PRIV but not set it. -/
theorem test_mts_stat :
    (after (.mts hA .stat (.reg 5)) (at1 { gs [(5, 0x21)] with stat := 1 })).map (·.stat) = some 0x21 ∧
    (after (.mts hA .stat (.reg 5)) (at1 { gs [(5, 0)] with stat := 1 })).map (·.stat) = some 0 := by decide +kernel

theorem witness_SystemRegisters :
    Issues hA [wG 6] (at1 {}) ∧ Issues hA (rS (.reg 5)) (at1 { stat := 1 }) true ∧ Issues hA (rS (.reg 5)) (at1 {}) ∧
    ((0x58000 : W64) &&& 0x7FFE0).toNat ≤ 0x58000 ∧ 0x58000 < ((0x58020 : W64) &&& 0x7FFE0).toNat ∧
    (let v : W64 := 0x800000000005F800
     let a := (v &&& 0x7FFFFFFFFFF800#64).toNat
     a % imageSize ((at1 {}).core 1).part = 0 ∧ 0x58000 ≤ a ∧ a + imageSize ((at1 {}).core 1).part ≤ 0x60000 ∧ (at1 {}).imageFault u1 = none) ∧
    ((0x8000000000057800 : W64) &&& 0x7FFFFFFFFFF800#64).toNat < 0x58000 ∧
    ((0x8000000000058800 : W64) &&& 0x7FFFFFFFFFF800#64).toNat % imageSize 1 ≠ 0 ∧
    (at1 {}).heldBack 1 = false ∧ ((at1 {}).core 1).menv.toNat % 16 ≤ ((at1 {}).core 1).menv.toNat / 16 :=
  ⟨issues (by decide +kernel), issues (by decide +kernel), issues (by decide +kernel), by decide +kernel⟩

/-- Core 1's slot 0 with STAT.PRIV, and its image in local memory. -/
def privileged (l : List (Reg × W64)) : Ctx := { gs l with stat := 1, ctxb := 0x8000000000058000 }
def ended : State := (inTeam {} (at1 {} id (withP owned0))).modSlot u1 fun x =>
  { x with task := some { team := 1, vcore := 0, park := 3, handle := 0xA000004800000000, forked := false } }
/-- A task that may be pre-empted: another of its team waits. -/
def offering : State := ended.setPurlin 1 0 {} |>.modCluster 0 fun c => { c with ready := [aReady 1] }

theorem quiescent {s : State} (hb : ((List.range 16).all (fun n => n == 0 || (decide (((s.core 1).slot n).st = .empty) && !((s.core 1).slot n).reserved))
    && (s.core 1).purlins.isEmpty && (s.core 1).bank.isEmpty && (s.core 1).battens.isEmpty && (s.core 1).qregs.isEmpty && (s.core 1).cmdqs.isEmpty) = true) :
    Quiescent s 1 := by
  simp only [Bool.and_eq_true, List.isEmpty_iff] at hb
  obtain ⟨⟨⟨⟨⟨h1, h2⟩, h3⟩, h4⟩, h5⟩, h6⟩ := hb
  refine ⟨fun n hn hl => ?_, by rw [h2]; simp, h3, by rw [h4]; simp, by rw [h5]; simp, by rw [h6]; simp⟩
  have := List.all_eq_true.mp h1 n (by simp [hl])
  simp only [Bool.or_eq_true, beq_iff_eq, Bool.and_eq_true, decide_eq_true_eq, Bool.not_eq_true'] at this
  rcases this with h | h
  · omega
  · exact h

theorem witness_SystemInstructions :
    (let s := at1 (privileged [(5, 2)])
     Issues hA (rS (.reg 5)) s true ∧ ((s.ctx u1).rs (.reg 5)).extractLsb' 0 2 ≠ 3 ∧ s.cur.slot = 0 ∧ Quiescent s 1 ∧
      ((s.ctx u1).rs (.reg 5)).extractLsb' 0 2 ≠ (s.core 1).part ∧ Issues hA [rG 5] s true ∧ Issues hA [rG 5, rG 6] s true ∧
      s.quiescent 1 = true ∧ (∀ i, i < lineCount (s.core 1).part → 4 ≤ i → (s.core 1).resident 0 i = true) ∧
      (((s.ctx u1).rg 6).extractLsb' 0 4).toNat = s.cur.slot ∧ 0 < slotCount (s.core 1).part ∧ s.imageFault u1 = none) ∧
    (((at1 (privileged [])).ctx u1).rs (.reg 5)).extractLsb' 0 2 = ((at1 (privileged [])).core 1).part ∧
    (((at1 (privileged [(5, 3)])).ctx u1).rs (.reg 5)).extractLsb' 0 2 = 3 ∧
    Issues hA [] (at1 {}) ∧ ((at1 {}).ctx u1).rwc 3 = 0 ∧ ((at1 { wc := [(3, 1)] }).ctx u1).rwc 3 ≠ 0 ∧ ((at1 {}).ctx u1).mustWait 5 = false ∧
    (at1 {}).battenHazard u1 = false ∧ (inTeam { dbg := true } (at1 {} (bs [(3, { owned := true, count := 1 })]))).battenHazard u1 = true ∧
    (let s := slot1 {} fun x => { x with st := .waiting (.event 7) }
     (s.slot u1).st = .waiting (.event 7) ∧ (s.ctx u1).sstep = false ∧ s.team 0 = none ∧ s.retired = []) ∧
    (let s := ended
     (s.slot u1).st ≠ .empty ∧ (s.slot u1).task.isSome = true ∧ (s.ctx u1).paired = false ∧ (s.purlin 1 0).owned 0 = true ∧
      (s.purlin 1 3).owned 0 = false ∧ hTag 0xA000004800000000 = 10 ∧ hCluster 0xA000004800000000 = clusterOf 1) ∧
    (let s := offering
     (∀ n, n < 4 → (s.purlin 1 n).owned 0 = false) ∧ (∀ b, b < 16 → ¬ ((s.batten 1 b).owned = true ∧ (s.batten 1 b).owner.toNat = 0)) ∧
      s.hasForks u1 = false ∧ s.quietThread u1 = true ∧ s.waitingTask 1 1 (s.ctx u1).prio = true) ∧
    (ended.purlin 1 0).owned 0 = true ∧
    (let s := at1 (privileged [(5, 5), (6, 0)])
     5 < slotCount (s.core 1).part ∧ s.imageFault ⟨1, 5⟩ = none ∧ ((s.core 1).slot 5).st ≠ .frozen ∧ ((s.core 1).slot 5).st = .empty) ∧
    (let s := at1 (privileged [(5, 8)]) fun k => { k with part := 1 }
     slotCount (s.core 1).part ≤ (((s.ctx u1).rg 5).extractLsb' 0 4).toNat) ∧
    (∃ h uses func args, invalidates (.tlbinvRange hC 5 6 0x10000) = some (h, uses, func, args) ∧ Issues h uses (at1 (privileged [])) true) ∧
    (at1 {}).agenda = [] ∧ (Instr.mts hA .exb (.reg 5), rS (.reg 5)) ∈ privilegedForms (.reg 5) 1 2 0 0 .exb hA ∧ ((at1 {}).ctx u1).priv = false ∧
    (at1 {}).verdict.1 = false := by
  refine ⟨⟨issues (by decide +kernel), by decide +kernel, by decide +kernel, quiescent (by decide +kernel), by decide +kernel, issues (by decide +kernel),
      issues (by decide +kernel), by decide +kernel⟩, by decide +kernel, by decide +kernel, issues (by decide +kernel), by decide +kernel, by decide +kernel, by decide +kernel,
    by decide +kernel, by decide +kernel, by decide +kernel, by decide +kernel, ⟨by decide +kernel, ?_, by decide +kernel⟩, by decide +kernel, by decide +kernel, by decide +kernel,
    ⟨_, _, _, _, rfl, issues (by decide +kernel)⟩, by decide +kernel, ?_, by decide +kernel⟩
  · intro b _ h
    have : (offering.batten 1 b).owned = false := rfl
    rw [this] at h
    exact absurd h.1 (by decide)
  · simp [privilegedForms]

/-- R177: REPART keeps slot 0's registers. -/
theorem test_repart :
    (match perform (.repart 1 2) (at1 (privileged [(5, 9)])) with
      | .next t => some ((t.core 1).part, (t.ctx u1).rg 5, (t.ctx u1).ctxb)
      | _ => none) = some (2, 9, 0x8000000000058000) := by decide +kernel

/-! Supervisors, packets, margin and clocks (R170 to R173, R313, R346 to R369). -/

def aPacket (slot : Option Nat) (dest : W64) : Packet := { bits := 0x1234, slot := slot, due := 100, dest := dest }

theorem witness_SupervisorAndPackets :
    ((at1 {}).slot u1).st ≠ .frozen ∧ ((at1 {}).slot u1).st = .ready ∧ ((at1 {}).slot ⟨1, 5⟩).st = .empty ∧
    (∀ d ∈ [(0 : BitVec 3), 1], let s := slot1 { cdepth := d } fun x => { x with st := .frozen, code := 21, sub := 1 }
     (s.slot u1).st = .frozen ∧ (s.slot u1).code = 21 ∧ (s.slot u1).sub = 1 ∧ (s.slot u1).ctx.cdepth = d) ∧
    11 < ((at1 {} fun k => { k with lwin := 12 }).core 1).lwin.toNat ∧ ((at1 {} fun k => { k with lwin := 11 }).core 1).lwin.toNat ≤ 11 ∧
    (0x20F8 < 0x2100 ∧ 0x20F8 % 8 = 0) ∧
    (let s := (at1 {}).modCore 0 fun k => { k with fen := true, fbase := 0x1400, empty := (List.range 16).map fun j => (0x5000 + j, true) }
     let s := s.modCore 1 fun k => { k with pkts := [aPacket none 0] }
     let c := s.core 0
     let a := 64 * c.fbase.toNat + 64 * (c.ftail.toNat % 2 ^ c.flogn.toNat)
     (s.core 1).pkts = [aPacket none 0] ∧ (aPacket none 0).due ≤ s.now ∧ (0 : W64).toNat / 2048 % 256 = s.pkg.pkgid.toNat ∧ c.fen = true ∧
      ∀ j, j < 4 → c.empty.get false (a / 16 + j) = true) ∧
    (let s := (at1 {} id fun s => { s with pkg := { s.pkg with en := true, head := 0xFFFF, tail := 62 } }).modCore 0 fun k => { k with pkts := [aPacket (some 2) 0] }
     (s.core 0).pkts = [aPacket (some 2) 0] ∧ (s.core 0).kind = .firmware ∧ s.pkg.en = true ∧ (s.pkg.tail - s.pkg.head).toNat < 2 ^ s.pkg.logn.toNat) := by
  decide +kernel

def gateState (p : BitVec 3) (g : Gate) (since : Nat) : State :=
  ({ State.reset with now := 5000, power := { state := p } } : State).modCore 1 fun k => { k with gate := g, busyAt := since }

theorem witness_MarginAndClocks :
    (let c := (at1 {} fun k => { k with wrep := 65 }).core 1
     c.gate = .powered ∧ c.kind ≠ .withheld ∧ c.rpl.toNat < c.wrep.toNat) ∧
    (let s := at1 {} fun k => { k with wrep := 64, dnw := 1, menv := 0xF0, level := 1 }
     let c := s.core 1
     s.heldBack 1 = false ∧ c.wrep.toNat ≤ c.rpl.toNat ∧ c.dnw ≠ 0 ∧ c.dnw.toNat ≤ min 15 (c.clean.toNat + 1) ∧ c.menv.toNat % 16 < c.level.toNat) ∧
    (let c := (at1 {} fun k => { k with settle := true, settleAt := 100 }).core 1
     c.settle = true ∧ c.settleAt ≤ (at1 {}).now) ∧
    (∀ p ∈ [(1 : BitVec 3), 2], let s := gateState p .powered 904
     (s.core 1).gate = .powered ∧ s.power.state = p ∧ (s.core 1).quietNow = true ∧ (s.core 1).busyAt + 4096 ≤ s.now) ∧
    (let s := gateState 1 (.entering 4937 true) 0
     (s.core 1).gate = .entering 4937 true ∧ 4937 + 63 ≤ s.now) ∧
    ((gateState 1 .gated 0).core 1).gate = .gated ∧
    (let s := gateState 1 (.leaving 2600) 0
     (s.core 1).gate = .leaving 2600 ∧ 2600 + 2400 ≤ s.now) ∧
    (let s := at1 {} id fun s => { s with meshes := [(1, aMesh), (2, { aMesh with pause := 3 })] }
     (s.meshes.get {} 1).formed = true ∧ (s.meshes.get {} 1).ticked ≠ s.now + 1 ∧ (s.meshes.get {} 1).pause = 0 ∧ s.slotAbsent 1 (s.meshes.get {} 1) = false ∧
      0 < (s.meshes.get {} 2).pause ∧ s.power.state.toNat < 2 ∧ s.reduced = false ∧ (s.meshes.map (·.1)).Pairwise (· < ·)) ∧
    (let v : BitVec 256 := 0
     let s := (at1 {}).modDie 0 fun d => { d with fmts := [(9, { pend := some v })] }
     ((s.die 0).fmts.get {} 9).pend = some v ∧ s.regionPlaced 0 = false ∧ v.getLsbD 184 = false ∧ v.extractLsb' 186 24 = 0) ∧
    (inTeam {} (at1 {})).regionPlaced 0 = true ∧ (BitVec.twoPow 256 184).getLsbD 184 = true ∧
    (∀ j, j < 8 → (((at1 {}).die 0).fmts.get {} (8 + j)).valid = false) := by decide +kernel

/-! Pairs and errors (R195, R220, R354 to R358). -/

def aCmp : Cmp := { words := [5], addr := 0x3000, store := true, act := none, cycle := 0 }
/-- Teams 1 and 2, of one dual-die launch, both over; the first one's stores wait in its shadow. -/
def dual (sig : Bool) : State :=
  let a : Team := { st := .placed, cores := [1], partner := some 2, done := true, shadow := [(0x3000, some 0x55)], digests := if sig then [(0, [(7, [1])])] else [] }
  let b : Team := { st := .placed, cores := [290], partner := some 1, second := true, done := true }
  at1 {} id fun s => { s with teams := [(1, some a), (2, some b)] }

theorem witness_PairsAndErrors :
    (let s := ({ at1 { stat := 2 } with now := 65536 } : State).modSlot u1 fun x => { x with cmp := [aCmp] }
     (s.slot u1).cmp = aCmp :: [] ∧ aCmp.cycle + 65536 ≤ s.now) ∧
    (∀ sig ∈ [true, false], let s := dual sig
     s.retired = [] ∧ s.team 0 = none ∧ (s.teams.get none 1).any (fun a => a.partner == some 2 && !a.second && a.done && Sparse.wf none a.shadow) = true ∧
      (s.teams.get none 2).any (·.done) = true) ∧
    (let s := at1 {}
     1151 < 1152 ∧ 0x5FFFF < 0x60000 ∧ 143 < 144 ∧ 0x3FFFFF < 0x400000 ∧ (s.place 0x3000).coded = true ∧ s.pkg.spares = 0 ∧ Memory.wf s.phys = true) ∧
    (let l : SLine := { dirty := true, ownw := 1, opkg := 0, ocore := 1, oslot := 0, obind := 1 }
     let s := (at1 {}).modCluster ((at1 {}).home 0x3000) fun c => { c with slice := [(0xC0, some l), (0x8C0, some { l with oslot := 3 })] }
     (s.cluster (s.home 0x3000)).slice.get none 0xC0 = some l ∧ l.dirty = true ∧ l.opkg = s.pkg.pkgid ∧ (s.slot u1).bind.toNat + 1 ≠ 2048 ∧
      (0x8C0, some { l with oslot := 3 }) ∈ (s.cluster (s.home 0x3000)).slice ∧ ((s.home 0x3000), s.cluster (s.home 0x3000)) ∈ s.clusters ∧
      0x3000 / 65536 ∉ (s.cluster (s.home 0x3000)).heldPages ∧ linePage 0xC0 = 0 ∧ s.freshErr 0x3000 64 = false) ∧
    (∃ y ∈ ((at1 {} fun k => { k with l1 := [aLine 0xC0 0xFFFF] }).core 1).l1, y.tag = 0x3000 / 64) ∧
    (at1 {} id fun s => { s with errs := [(0x600, .uncorrectable)] }).freshErr 0x3000 64 = true ∧
    (at1 {} id fun s => { s with errs := [(0x600, .uncorrectable)], poison := [0x600] }).freshErr 0x3000 64 = false ∧
    (at1 {}).placeFree u1 = true ∧ (at1 {} fun k => { k with pkts := [aPacket (some 0) 0] }).placeFree u1 = false ∧
    (at1 {} id fun s => { s with pkg := { s.pkg with spares := 1, spareAt := 0x50000000 } }).pkg.spares ≠ 0 ∧
    (let s := at1 {}
     s.physRead 0 (s.bindingAddr u1 1) 32 / 2 ^ 129 % 2 = 0 ∧ (s.slot u1).st ≠ .empty ∧ (s.slot u1).bind = 1 ∧ (s.slot u1).killing = none ∧
      ¬ (s.slot u1).bind = 2 ∧ ((s.modPark 0 fun p => { p with pst := 2 }).park 0).pst = 2) ∧
    (let s := at1 {} id fun s => { s with phys := [(s.bindingAddr u1 1 + 16, 2)] }
     s.physRead 0 (s.bindingAddr u1 1) 32 / 2 ^ 129 % 2 = 1) := by decide +kernel

/-! The host's queues, teams, commands and peers (R256 to R265, R367 to R377). -/

theorem plain {s : State} {pa : Nat} (hb : (decide (pa % 8 = 0) && (match s.place pa with
    | .hbm _ => true
    | .tier _ => true
    | .cxl _ => true
    | _ => false) && decide (s.retired.get 0 (pa / 65536) = 0) && decide (s.slineAt 0 pa = none) && decide (s.team 0 = none)) = true) : PlainWord s pa := by
  simp only [Bool.and_eq_true, decide_eq_true_eq] at hb
  obtain ⟨⟨⟨⟨h1, h2⟩, h3⟩, h4⟩, h5⟩ := hb
  refine ⟨h1, ?_, h3, h4, h5⟩
  revert h2
  cases h : s.place pa <;> simp

def withPhys (l : Sparse Byte) (s : State) : State := { s with phys := l }
def aQueue : HQueue := { en := true, mapped := true, ring := 0x8000 }
def withQueue (x : HQueue) (s : State) : State := { s with hq := [(1, x)], usec := 5000 }
/-- Command 0 of queue 1, of a ring entry. -/
def aHostCmd (kind : BitVec 8) (entry : BitVec 512) : HCmd := { queue := 1, index := 0, entry := entry, kind := kind }
def running (c : HCmd) (s : State) : State := { s with hqRun := [c], usec := 5000 }
/-- Memory whose first GiB maps to itself under PASID 0, of tenant 1, and a region control block at 0x800: tenant 1, a
sub-mesh of one cluster, SDEPTH 1. -/
def regionMem (rmode : Byte) : Sparse Byte :=
  [(2, 1), (8, 0x41), (0x810, rmode), (0x811, 1), (0x840, 1), (0x10000, 1), (0x10001, 0x10), (0x10002, 1), (0x11000, 0xF)]
/-- A launch of one core and one context: RCB 0x800, image 0x4000. -/
def aLaunch : HCmd := aHostCmd 0 (0x4000 * 2 ^ 128 + 0x800 * 2 ^ 64 + 2 ^ 16)
def launching (rmode : Byte) (teams : Sparse (Option Team)) : State :=
  at1 {} id fun s => { running aLaunch (withPhys (regionMem rmode) s) with meshes := [(1, aMesh)], teams := teams }

theorem witness_Doorbells :
    (let s := at1 {} id (withQueue aQueue)
     (s.hq.get {} 2).en = false ∧ (s.hq.get {} 1).en = true ∧ (s.hq.get {} 1).rst = false ∧ (s.hq.get {} 1).mapped = true) ∧
    (let s := at1 {} id fun s => { s with hq := [(1, { aQueue with rst := true }), (2, { aQueue with slot := 0 }), (3, { en := true })] }
     let free (j : Nat) : Bool := s.hq.all fun z => !(z.2.mapped && z.2.slot.toNat == j)
     (s.hq.get {} 1).rst = true ∧ (s.hq.get {} 3).en = true ∧ (s.hq.get {} 3).rst = false ∧ (s.hq.get {} 3).mapped = false ∧ 3 ∉ s.hqWait ∧ 1 < 512 ∧
      free 1 = true ∧ ∀ j, j < 1 → free j = false) ∧
    2 ^ aQueue.logn.toNat < ((17 : W64).extractLsb' 0 17 - aQueue.head).toNat ∧ ¬ 2 ^ aQueue.logn.toNat < ((16 : W64).extractLsb' 0 17 - aQueue.head).toNat := by
  decide +kernel

theorem witness_Rings :
    (let s := at1 {} id (withQueue { aQueue with idle := 4999 })
     let x := s.hq.get {} 1
     x.mapped = true ∧ x.rst = false ∧ x.head = x.tail ∧ (∀ c ∈ s.hqRun, c.queue ≠ 1) ∧ x.lastsig.toNat + x.idle.toNat < s.usec) ∧
    (let s := at1 {} id (withQueue { aQueue with idle := 5000 })
     s.usec ≤ (s.hq.get {} 1).lastsig.toNat + (s.hq.get {} 1).idle.toNat) ∧
    (∀ kind ∈ [0, 3, 0x10, 0x19, 4, 0x1A], let s := at1 {} id fun s => withPhys [(0x83C0, BitVec.ofNat 8 kind)] (withQueue { aQueue with head := 15, tail := 16 } s)
     let x := s.hq.get {} 1
     let pa := x.ring.toNat + 64 * (x.head.toNat % 2 ^ x.logn.toNat)
     x.mapped = true ∧ x.head ≠ x.tail ∧ x.err = 0 ∧ x.rst = false ∧ s.physRead 0 (pa + 1) 1 % 2 = 0 ∧ s.place pa ≠ .none ∧ s.isRetired pa = false ∧
      s.errAt pa 64 ≠ .uncorrectable ∧ s.physRead 0 pa 64 % 256 = kind) ∧
    (let s := at1 {} id (withQueue { aQueue with head := 15, tail := 16, ring := 0x6000000000 })
     let x := s.hq.get {} 1
     x.head ≠ x.tail ∧ s.physRead 0 (x.ring.toNat + 64 * 15 + 1) 1 % 2 = 0 ∧ s.place (x.ring.toNat + 64 * (x.head.toNat % 2 ^ x.logn.toNat)) = .none) := by
  decide +kernel

theorem witness_PlainCommands :
    (let c := aHostCmd 3 (7 * 2 ^ 192 + 0x3000 * 2 ^ 128)
     ∀ v ∈ [6, 7], let s := at1 {} id fun s => running c (withPhys [(0x3000, BitVec.ofNat 8 v)] s)
     s.hostCmd 1 0 = some c ∧ c.caddr / 8 * 8 = 0x3000 ∧ s.firstCmd 1 0 = true ∧ s.errAt 0x3000 8 ≠ .uncorrectable ∧ c.kind = 3 ∧ c.at_ < s.usec ∧
      c.lands = none ∧ c.reads = none ∧ s.slineAt 0 0x3000 = none ∧ ((s.fillSline 0 0x3000).correct 0x3000 8).loadBytes 0 0x3000 8 = v ∧ c.cval.toNat = 7) ∧
    (∀ x ∈ [(none, some 100), (some 100, none), (some 101, none)], let c : HCmd := { aHostCmd 3 (0x3000 * 2 ^ 128) with lands := x.1, reads := x.2 }
     let s := at1 {} id (running c)
     s.hostCmd 1 0 = some c ∧ (c.pollDue s = false ↔ x.1 = some 101)) ∧
    PlainWord (at1 {} id (running (aHostCmd 3 0))) 0x3000 ∧ PlainWord (at1 {} id (running (aHostCmd 3 0))) 0x37FFFFFFFF8 ∧
    (let c := aHostCmd 1 0
     let s := at1 {} id fun s => { running c s with hqRun := [{ c with index := 9 }, c] }
     s.hostCmd 1 0 = some c ∧ s.firstCmd 1 0 = false) :=
  ⟨by decide +kernel, by decide +kernel, plain (by decide +kernel), plain (by decide +kernel), by decide +kernel⟩

theorem some_of {α : Type} {x : Option α} (p : α → Prop) [DecidablePred p] (h : x.any (fun a => decide (p a)) = true) : ∃ a, x = some a ∧ p a := by
  cases x with
  | none => cases h
  | some a => exact ⟨a, rfl, of_decide_eq_true h⟩

theorem witness_Launches :
    (launching 0 []).hostCmd 1 0 = some aLaunch ∧ (at1 {} id (running aLaunch)).launchTeam aLaunch = none ∧
    (∃ x, (launching 0 [(1, some {})]).launchTeam aLaunch = some x ∧ x.region.rmode ≠ 2) ∧
    (launching 0 [(1, some {})]).teams.get none 2 = none ∧ (∀ m, 1 ≤ m → m < 2 → (launching 0 [(1, some {})]).teams.get none m ≠ none) ∧
    (∃ x, (launching 0x20 [(2, some {})]).launchTeam aLaunch = some x ∧ x.region.rmode = 2) ∧
    (let s := launching 0x20 [(2, some {})]
     s.teams.get none 1 = none ∧ s.teams.get none 3 = none ∧ ∀ m, 1 ≤ m → m < 3 → m ≠ 1 → s.teams.get none m ≠ none) ∧
    (17 ≤ (aHostCmd 0 (17 * 2 ^ 16)).entry.toNat / 2 ^ 16 % 256 ∧ (aHostCmd 0 (3 * 2 ^ 10)).entry.toNat / 2 ^ 10 % 4 = 3) := by
  refine ⟨by decide +kernel, by decide +kernel, some_of _ (by decide +kernel), by decide +kernel, ?_, some_of _ (by decide +kernel), ⟨by decide +kernel, by decide +kernel, ?_⟩,
    by decide +kernel⟩
  · intro m h1 h2
    obtain rfl : m = 1 := by omega
    decide +kernel
  · intro m h1 h2 h3
    obtain rfl : m = 2 := by omega
    decide +kernel

theorem witness_HostQueues :
    (let s := at1 {} id (withQueue { aQueue with rst := true })
     (s.hq.get {} 1).rst = true ∧ (s.hq.get {} 2).rst = false ∧ ∀ y ∈ s.teams, ∀ u, y.2 = some u → u.queue ≠ 1) ∧
    PlainWord (at1 {}) (0x3007 / 8 * 8) ∧ 1151 < 1152 ∧ (3 < 4 ∧ 35 < 36 ∧ 4 < 5 ∧ 31 < 32) :=
  ⟨⟨by decide +kernel, by decide +kernel, fun y hy => by cases hy⟩, plain (by decide +kernel), by decide, by decide⟩

/-! Teams. -/

def aTeam : Team := { queue := 1, region := { rcb := 0x20, tenant := 1, mesh := 0, sdepth := 1 } }
def oneCluster : Mesh := { aMesh with rows := 1, cols := 1 }
/-- Team 2 of a region of tenant 1, whose sub-mesh is cluster 0. -/
def teamState (t : Team) (g : State → State := id) : State :=
  at1 {} id fun s => g { withPhys (regionMem 0) s with meshes := [(1, oneCluster)], teams := [(2, some t)], usec := 5000 }

theorem witness_Placement :
    (teamState aTeam).teams.get none 2 = some aTeam ∧ (teamState aTeam fun s => { s with suspended := true }).placeable (2, aTeam) = false ∧
    (∀ x ∈ [({ aTeam with n := 6 }, [2, 3, 4, 5, 6, 7]), (aTeam, [2])], let s := teamState x.1
     x.1.st = .pending ∧ x.1.reset = false ∧ x.1.second = false ∧ x.1.partner = none ∧ s.suspended = false ∧ s.power.state ≠ 3 ∧
      s.drained 2 (s.asPlaced x.1) = false ∧ s.fits (s.asPlaced x.1) = some (x.2, []) ∧ x.2.Nodup) := by decide +kernel

theorem witness_Seeds :
    (let t : Team := { aTeam with st := .loading, cores := [2, 1], quota := 16, code := (0, 0x40), exb := 0x40 }
     let s := teamState t
     s.teams.get none 2 = some t ∧ t.st = .loading ∧ 1 ∈ t.cores ∧ t.reset = false ∧ t.held = [] ∧ (s.core 1).gate = .powered ∧
      t.code.2 ≤ t.exb.toNat ∧ 15 < t.quota) := by decide +kernel

theorem witness_Completion :
    (∀ a ∈ [0, 0x3000], let t : Team := { aTeam with st := .placed, cores := [2], caddr := BitVec.ofNat 64 a }
     let s := teamState t fun s => s.modCluster 3 fun c => { c with waits := [(4, { state := 1, team := 2 })] }
     s.teams.get none 2 = some t ∧ s.teamDone 2 t = true ∧ 2 < 65536 ∧ t.partner = none ∧ ((s.cluster 3).waits.get {} 4).state = 1 ∧
      ((s.cluster 3).waits.get {} 4).team.toNat = 2) ∧
    PlainWord (teamState { aTeam with st := .placed, cores := [2], caddr := 0x3000 }) 0x3000 ∧
    (teamState { aTeam with st := .placed, cores := [1] }).teamDone 2 { aTeam with st := .placed, cores := [1] } = false :=
  ⟨by decide +kernel, plain (by decide +kernel), by decide +kernel⟩

theorem witness_Teams :
    (∀ age ∈ [4999, 5000], let t : Team := { aTeam with region := { aTeam.region with age := age } }
     let s := teamState t
     s.pendingTeams.find? (fun x => x.1 == 2) = some (2, t) ∧ (age = 5000 → s.usec - t.since ≤ t.region.age) ∧
      (age = 4999 → t.region.age < s.usec - t.since ∧ s.governs t.region.tenant = some 2 ∧ (s.meshOf t.region.tenant.toNat).drain ≠ some (BitVec.ofNat 16 2))) ∧
    (let t : Team := { aTeam with st := .placed, cores := [2] }
     let s := teamState t fun s => s.modCore 2 fun c => { c with quar := true }
     s.teams.get none 2 = some t ∧ s.swapDue t = true) ∧
    (∀ w ∈ [none, some 100], let t : Team := { aTeam with st := .placed, cores := [2], leaving := true, writes := w }
     let s := teamState t
     s.teams.get none 2 = some t ∧ s.swapReady t = true) ∧
    (let t : Team := { aTeam with st := .placed, cores := [2] }
     (teamState t).swapDue t = false ∧ (teamState t).swapReady t = false) := by decide +kernel

/-! Boundary commands. -/

def cmdState (entry : BitVec 512) (g : State → State := id) : State := at1 {} id fun s => g (running (aHostCmd 0x10 entry) (withPhys (regionMem 0) s))
def isCmd (s : State) (entry : BitVec 512) : Prop := s.hostCmd 1 0 = some (aHostCmd 0x10 entry)

theorem witness_Envelopes :
    (let c := aHostCmd 0x10 (0x3000 * 2 ^ 128)
     c.caddr ≠ 0 ∧ c.caddr = 0x3000 ∧ PlainWord (cmdState 0) c.caddr ∧ PlainWord (cmdState 0) (c.caddr + 8) ∧ (aHostCmd 0x10 0).caddr = 0) ∧
    (∀ x ∈ [(4, 3, 1), (0, 15, 0)], let c := aHostCmd 0x10 (BitVec.ofNat 512 ((x.1 + 16 * x.2.1 + 256 * x.2.2) * 2 ^ 36))
     (c.entry.extractLsb' 40 4).toNat < (c.entry.extractLsb' 36 4).toNat ∨ c.entry.extractLsb' 44 4 = 0) ∧
    (let c := aHostCmd 0x10 (BitVec.ofNat 512 ((3 + 16 * 3 + 256 * 8) * 2 ^ 36))
     let s := cmdState c.entry
     s.hostCmd 1 0 = some c ∧ (c.entry.extractLsb' 36 4).toNat ≤ (c.entry.extractLsb' 40 4).toNat ∧ c.entry.extractLsb' 44 4 ≠ 0 ∧
      (c.entry.extractLsb' 44 4).getLsbD (dieOf 1151) = true ∧ (c.entry.extractLsb' 44 4).getLsbD (dieOf 0) = false) :=
  ⟨⟨by decide +kernel, by decide +kernel, plain (by decide +kernel), plain (by decide +kernel), by decide +kernel⟩, by decide +kernel, by decide +kernel⟩

theorem witness_ClearsPowers :
    (∀ x ∈ [(1152, false, none), (1151, true, some (5 : BitVec 16)), (1151, true, none)],
     let c := aHostCmd 0x10 (BitVec.ofNat 512 (x.1 * 2 ^ 64))
     let s := cmdState c.entry fun s => s.modCore 1151 fun k => { k with quar := x.2.1, team := x.2.2 }
     let k := (c.entry.extractLsb' 64 64).toNat
     s.hostCmd 1 0 = some c ∧ k = x.1 ∧ (s.core k).quar = x.2.1 ∧ (s.core k).team = x.2.2) ∧
    (∀ x ∈ [(4, 100), (0, 99), (0, 2801), (3, 100), (0, 2800), (2, 2800)],
     let c := aHostCmd 0x10 (BitVec.ofNat 512 (x.2 * 2 ^ 64 + x.1 * 2 ^ 36))
     let s := cmdState c.entry
     s.hostCmd 1 0 = some c ∧ (c.entry.extractLsb' 36 3).toNat = x.1 ∧ (c.entry.extractLsb' 64 64).toNat = x.2 ∧ s.anyPlaced = false ∧ s.reduced = false ∧
      s.power.state.toNat < 2) ∧
    (teamState { aTeam with st := .placed }).anyPlaced = true := by decide +kernel

theorem witness_Steps :
    (∀ x ∈ [(11, 0, 0), (0, 0, 0), (0, 1, 1), (1, 3, 2), (2, 1, 0), (10, 0, 0), (3, 0, 0), (4, 0, 0)],
     let c := aHostCmd 0x10 (BitVec.ofNat 512 (x.1 * 2 ^ 36))
     let s := cmdState c.entry fun s => { s with boot := { s.boot with
       faulty := [(x.1, BitVec.ofNat 64 x.2.1)], done := if x.1 = 0 ∨ x.2.2 = 9 then [] else [(x.1 - 1, true)] } }
     let n := (c.entry.extractLsb' 36 8).toNat
     s.hostCmd 1 0 = some c ∧ n = x.1 ∧ s.boot.done.get false n = false ∧ (n ≠ 0 → s.boot.done.get false (n - 1) = true) ∧
      (s.boot.faulty.get 0 n).toNat = x.2.1) ∧
    (let s := cmdState (5 * 2 ^ 36)
     s.hostCmd 1 0 = some (aHostCmd 0x10 (5 * 2 ^ 36)) ∧ ((5 * 2 ^ 36 : BitVec 512).extractLsb' 36 8).toNat = 5 ∧ s.boot.done.get false 4 = false) ∧
    (let s := cmdState (2 ^ 36) fun s => { s with flash := { s.flash with seqFw := 3, firmware := { seq := 2 }, firmware2 := { seq := 3, code := [0x7C], entry := 0x13 } } }
     ¬ s.flash.seqFw.toNat ≤ s.flash.firmware.seq.toNat ∧ s.flash.seqFw.toNat ≤ s.flash.firmware2.seq.toNat ∧ s.flash.firmware2.code ≠ [] ∧
      ∀ y ∈ (s.core 0).slots, y.2.st = .empty) := by
  decide +kernel

theorem witness_TenantsSlots :
    (∀ x ∈ [(0x840, 0), (0x800, 1)], let c := aHostCmd 0x16 (BitVec.ofNat 512 (x.1 * 2 ^ 64))
     let s := cmdState c.entry fun s => { s with hqRun := [c], teams := [(2, some { aTeam with st := .pending })] }
     let rcb := (c.entry.extractLsb' 64 64).toNat
     s.hostCmd 1 0 = some c ∧ (x.2 = 0 → s.chainOk 1 rcb = false) ∧
      (x.2 = 1 → s.chainOk 1 rcb = true ∧ s.rcbField rcb 136 6 ≠ 0 ∧ meshInGrid (BitVec.ofNat 16 (s.rcbField rcb 416 16)) = true ∧
        ∀ x ∈ s.teams, x.2.any (·.st.placed') = false)) ∧
    (let t : Team := { aTeam with st := .placed }
     let s := teamState t
     (2, some t) ∈ s.teams ∧ t.st.placed' = true ∧ (meshRect (BitVec.ofNat 16 (s.rcbField 0x800 416 16))).meets (s.meshOf t.region.tenant.toNat) = true ∧
      (s.meshOf 1).formed = true ∧ t.region.tenant.toNat = 1) ∧
    (let c := aHostCmd 0x17 (BitVec.ofNat 512 (0x5000 * 2 ^ 64 + 2 ^ 38))
     let s := cmdState c.entry fun s => { s with
       hqRun := [c], meshes := [(1, { oneCluster with rcb := 0x800 })], phys := (0x828, 1) :: (0x5000, 9) :: (0x54FF, 7) :: s.phys }
     let t := (c.entry.extractLsb' 38 6).toNat
     let read := s.hostReadBytes 0x5000 (256 * (s.meshOf t).ports.length)
     s.hostCmd 1 0 = some c ∧ t = 1 ∧ (s.meshOf t).formed = true ∧ (read.1.filter (· ≠ 0)).length = 2 ∧ (s.meshOf t).ports[4]? = some (0, 4) ∧
      (s.meshOf 2).formed = false ∧ (s.meshOf t).rcb = 0x800) := by decide +kernel

/-- A machine whose one memory is the slate of die D3, and a list of one target at the start of port 0's CXL memory. -/
def streaming (kind : BitVec 8) (link : Byte) (len : Byte) : State :=
  let c := aHostCmd kind (0x40000000000 * 2 ^ 64)
  at1 {} id fun s => { running c s with
    cxl := [(0, 0x1000)], phys := if len = 0 then [] else [(0x40000000000, link), (0x40000000013, len)],
    boot := { s.boot with outDies := [0, 1, 2], outHbm := [6, 7], outTier := [12, 13, 14, 15] } }

theorem witness_BoundaryCommands :
    (∀ x ∈ [(3, 0x60), (0, 0), (2, 0x5F), (2, 0x60), (0, 0x60)], let s := streaming 0x14 (BitVec.ofNat 8 x.1) (BitVec.ofNat 8 x.2)
     let list := s.targets 0x40000000000
     let total := streamBytes list.2.streamRanges
     let blocks := dealAll list.1 total
     (aHostCmd 0x14 (0x40000000000 * 2 ^ 64)).arg = 0x40000000000 ∧ s.hostCmd 1 0 = some (aHostCmd 0x14 (0x40000000000 * 2 ^ 64)) ∧ total = 0x60000000 ∧
      blocks.length = 2 ∧ s.anyPlaced = false ∧ s.pendingTeams = [] ∧ (decide (list.1.all fun t => decide (t.link ≤ 2)) = decide (x.1 ≠ 3)) ∧
      (list.1.map Target'.link).Nodup ∧ (list.1 ≠ [] ↔ x.2 ≠ 0) ∧
      (list.1.all (fun t => decide (shareOf blocks total 0 ≤ t.len) && list.2.targetOk t) = decide (x.2 ≠ 0x5F))) ∧
    (teamState aTeam).pendingTeams ≠ [] ∧
    (let c := aHostCmd 0x15 (0x40000000000 * 2 ^ 64)
     let s := { streaming 0x15 0 0x60 with suspended := true }
     s.hostCmd 1 0 = some c ∧ c.kind = 0x15 ∧ s.suspended = true ∧ c.at_ ≤ s.usec) ∧
    (let c := aHostCmd 0x18 (0x5000 * 2 ^ 64 + 2 ^ 36)
     (cmdState c.entry).hostCmd 1 0 = some { c with kind := 0x10 } ∧ c.entry.getLsbD 36 = true ∧ (c.entry.extractLsb' 64 64).toNat = 0x5000) := by
  decide +kernel

/-! Peers, resets, and steps. -/

/-- Link 1 leads to package 5; PASID 0 is tenant 0's, with a leaf entry of these bytes. -/
def peering (leaf : Sparse Byte) : State := at1 {} id fun s => { s with
  links := [(1, { up := true, peer := 5 })], phys := [(2, 1), (8, 0x40), (0x10000, 1), (0x10001, 0x10), (0x10002, 1)] ++ leaf }
def asks (op : PeerOp) (tenant : BitVec 6) : PeerReq := { link := 1, tenant := tenant, pasid := 0, op := op }

theorem leaf_of {x : WalkEnd} (p : Nat → W64 → Bool) (h : (match x with
    | .leaf l e => p l e
    | .fault _ => false) = true) : ∃ l e, x = .leaf l e ∧ p l e = true := by
  cases x with
  | leaf l e => exact ⟨l, e, rfl, h⟩
  | fault _ => cases h

theorem witness_PeerReads :
    (asks (.read 0 7 0 0x4038 8) 0).op = .read 0 7 0 0x4038 8 ∧ rootOf (at1 {}) 0 = none ∧ rootOf (peering []) 0 = some (0x10000, 0) ∧
    (asks (.read 0 7 0 0x4038 8) 3).tenant ≠ 0 ∧ 0x4038 < 2 ^ 55 ∧ 0 < 8 ∧ 0x4038 % 64 + 8 ≤ 64 ∧
    (∃ l e, walkFrom (peering [(0x11000, 0xF)]) 0x4038 4 0x10000 = .leaf l e ∧
      (e.getLsbD 2 && e.getLsbD 3 && !e.getLsbD 4 && decide (leafAddr l e 0x4038 = 0x4038)) = true) ∧
    (∃ l e, walkFrom (peering [(0x11000, 0x1F)]) 0x4038 4 0x10000 = .leaf l e ∧ e.getLsbD 4 = true) ∧
    (∃ l e, walkFrom (peering [(0x11000, 0xF), (0x11005, 1)]) 0x4038 4 0x10000 = .leaf l e ∧
      (e.getLsbD 2 && !e.getLsbD 4 && decide ((peering []).place (leafAddr l e 0x4038) = .none)) = true) ∧
    (let s := peering [(0x11000, 0xF)]
     s.place 0x4038 = .hbm 0 ∧ s.isRetired 0x4038 = false ∧ s.errAt 0x4038 8 ≠ .uncorrectable ∧
      s.routeAdmits (clusterOf (peerCore 1)) (s.home 0x4038) 0 = true ∧ (peering []).routeAdmits (clusterOf (peerCore 1)) (s.home 0x4038) 3 = false) :=
  ⟨rfl, by decide +kernel, by decide +kernel, by decide +kernel, by decide, by decide, by decide, leaf_of _ (by decide +kernel),
    leaf_of (fun _ e => e.getLsbD 4) (by decide +kernel), leaf_of _ (by decide +kernel), by decide +kernel⟩

def aMsg (link : Option Nat) : LinkMsg := { pkg := 5, key := 0, link := link, ev := .act (.seed 1 1) }

theorem witness_PeersAndResets :
    (let s := peering [(0x11000, 0xF)]
     PlainWord s 0x4038 ∧ s.inFormat 0x4038 8 = false ∧ 0x4038 % 8 = 0 ∧ s.routeAdmits (clusterOf (peerCore 1)) (s.home 0x4038) 0 = true ∧ rootOf s (asks (.future (aReq .touch)) 0).pasid = some (0x10000, (asks (.future (aReq .touch)) 0).tenant)) ∧
    (let s : State := { peering [] with linkWait := [aMsg (some 1), aMsg none] }
     s.linkWait[0]? = some (aMsg (some 1)) ∧ s.linkWait[1]? = some (aMsg none) ∧ s.linkTo 5 0 = some 1 ∧ s.now < (aMsg (some 1)).sent + 560 ∧
      (Ev.act (.peer (asks (.future (aReq .touch)) 0))).asks ≠ none) ∧
    ((at1 {}).core 1).issueAt ≠ (at1 {}).now + 1 :=
  ⟨⟨plain (by decide +kernel), by decide +kernel, by decide +kernel, by decide +kernel, by decide +kernel⟩,
    ⟨by decide +kernel, by decide +kernel, by decide +kernel, by decide +kernel, by decide +kernel⟩, by decide +kernel⟩

/-- Slot 0 of core 1 is ready at pc 0, with the bytes of a word there. -/
def fetching (w : Nat) (f : Slot → Slot := id) (g : Core → Core := id) : State :=
  (at1 {} fun k => g (k.holdWord 0 w)).modSlot u1 f

theorem witness_StepRunsDecoded :
    (let p : Pend := { due := 99, phase := 0, seq := 0, ev := .act (.seed 1 1) }
     let s : State := { at1 {} with agenda := [p] }
     s.agenda = p :: [] ∧ p.due < s.now) ∧
    (∀ x ∈ [(0x200000000500583C, true), (0xFFFFFFFFFFFFFF3C, false)], let s := fetching x.1
     s.dueEntry Phase.post = none ∧ (dueHost s).isNone = true ∧ s.power.state ≠ 3 ∧ (dueEarly s).isNone = true ∧ s.nextIssue = some u1 ∧ (s.slot u1).deferred = [] ∧
      lengthOf (s.fetchByte 1 0).toNat = some 8 ∧ (s.ctx u1).pc.toNat + 8 ≤ (s.core 1).exb.toNat ∧ (s.ctx u1).pc.toNat % 32 + 8 ≤ 32 ∧
      errIn s.localErrs (localErrBase 1) 0 8 = .clean ∧ (s.slot u1).acq = none ∧ (decode (BitVec.ofNat 128 (s.fetchWord 1 0 8))).isSome = x.2 ∧ s.heldBack 1 = false ∧
      (s.core 1).prevAt ≠ s.now) ∧
    (let s := fetching 0 id fun k => { k with exb := 0 }
     s.nextIssue = some u1 ∧ (s.slot u1).deferred = [] ∧ (s.core u1.core).exb.toNat ≤ (s.ctx u1).pc.toNat) ∧
    (let s := fetching 0 fun x => { x with deferred := [aFlt] }
     s.nextIssue = some u1 ∧ (s.slot u1).deferred ≠ []) ∧
    (match exec (.add ⟨.w64, 15, false, 1⟩ 1 2 (.reg 3)) (at1 { wc := [(0, 1)] }) with
     | .next t => decide ((t.slot u1).st = .waiting (.counters 1))
     | _ => false) = true ∧ (fetching 0x7C).heldBack 1 = false ∧ 0x7C % 128 / 4 = 31 ∧
    (at1 {} fun k => { k with slots := [] }).nextIssue = none := by decide +kernel

/-- R61, R225: the word of `QPUT g5, q2` placed for the next step: its push of g5 commits three cycles later. -/
theorem test_step :
    (match step ((fetching 0).withFetchWord 64 0x200000000500583C) with
      | .next t => some ((t.qreg 1 2).pres, t.agenda.map fun p => (p.due, p.ev), (t.ctx u1).pc)
      | _ => none) = some (1, [(103, .act (.qPush 1 2 0 true))], 8) := by decide +kernel

theorem witness_DecodeEncode : ∀ i ∈ [Instr.add hA 1 2 (.reg 3), .add hC 127 0 (.imm 0xFFFFFFFF)], i.wf = true ∧ (encode i).isSome = true := by decide +kernel

theorem witness_Filler :
    (∀ x ∈ [((0x7C : BitVec 128), Len.w64), (0xFFFFFFFFFFFFFFFFFFFFFFFFFFFFFF7D, .w96), (0x7E, .w128)],
      lenOf (x.1.extractLsb' 0 2) = some x.2 ∧ x.1.extractLsb' 2 4 = 15 ∧ x.1.getLsbD 6 = true) ∧ (at1 {}).verdict.1 = false := by decide +kernel

theorem steps_on {s : State} (h : (match step s with
    | .next _ => true
    | _ => false) = true) : ∃ t, step s = .next t := by
  revert h
  cases step s with
  | next t => exact fun _ => ⟨t, rfl⟩
  | _ => intro h; cases h

theorem witness_PowerLegal :
    State.reset.power.legal = true ∧ (∃ t, step State.reset = .next t) ∧
    ({ state := 2, limit := 100, mhz := 600 } : Power).legal = true ∧ ({ state := 3, limit := 2800, mhz := 1200 } : Power).legal = true :=
  ⟨by decide +kernel, steps_on (by decide +kernel), by decide +kernel, by decide +kernel⟩

/-- R58, R86: after reset the word placed is the first instruction to run: `ADD g5, g0, 0x100000000` in 128 bits. -/
theorem test_first_step :
    (match step (State.reset.withFetchWord 128 0x100000000000100000014003E) with
      | .next t => some ((t.ctx u1).rg 5, (t.ctx u1).pc)
      | _ => none) = some (0x100000000, 16) := by decide +kernel

/-- R258: SIGNAL stores CVAL, and is over. -/
theorem test_signal :
    (match exec (.signal 1 0) (at1 {} id (running (aHostCmd 1 (7 * 2 ^ 192 + 0x3000 * 2 ^ 128)))) with
      | .next t => some (t.physRead 0 0x3000 8, t.hqRun.length)
      | _ => none) = some (7, 0) := by decide +kernel

end Sys2Proof.Tests
end

section
/-!
PROOFS. The state after reset (O60).
-/

namespace Sys2Proof.Machine

/-- R15: a core that reset lists differs from the others in its kind alone. -/
theorem core_reset (k : Nat) :
    State.reset.core k = { kind := if k = 0 ∨ k = 288 ∨ k = 576 ∨ k = 864 then .firmware else .program } := by
  by_cases h : k = 0 ∨ k = 288 ∨ k = 576 ∨ k = 864
  · rw [if_pos h]
    rcases h with rfl | rfl | rfl | rfl <;> rfl
  · rw [if_neg h]
    simp only [not_or] at h
    obtain ⟨h0, h1, h2, h3⟩ := h
    simp only [State.core, State.reset, Sparse.get_cons, Sparse.get_nil, Ne.symm h0, Ne.symm h1, Ne.symm h2, Ne.symm h3, if_false]

/-- R15: among the package's cores, reset makes the lowest of each die its firmware core. -/
theorem kind_core_reset {k : Nat} (hk : k < 1152) : (State.reset.core k).kind = .firmware ↔ k % 288 = 0 := by
  rw [core_reset]
  by_cases h : k = 0 ∨ k = 288 ∨ k = 576 ∨ k = 864
  · simp only [if_pos h, true_iff]; omega
  · simp only [if_neg h, reduceCtorEq, false_iff]; omega

theorem slot_reset (u : Tid) : State.reset.slot u = {} := by rw [State.slot, core_reset]; rfl

theorem localRead_reset (k a : Nat) : State.reset.localRead k a 1 = 0 := by rw [State.localRead, core_reset]; rfl

end Sys2Proof.Machine

open Sys2Proof.Machine

/-- Settles O60: each part is read off the listed cores and the empty tables. -/
theorem resetState : Obligations.ResetState := by
  unfold Obligations.ResetState
  refine ⟨rfl, State.memWf_reset, fun u => ?slots, fun k hk => kind_core_reset hk, fun k => ?arbiter, fun k g => ?granules,
    fun k => ?margin, fun q => ⟨rfl, rfl, rfl⟩, fun cl => rfl, localRead_reset, fun team pa => rfl⟩
  case slots => rw [slot_reset]
  case arbiter => rw [core_reset]
  case granules => rw [core_reset]; rfl
  case margin => simp [core_reset, Core.mctl, Core.mlim]
end

section
/-!
PROOFS. What a step issues (O55).
-/

namespace Sys2Proof.Machine

/-! What goes before a turn (R195, R211). -/

/-- Where no unit has an error, none is corrected. -/
theorem fixErrs_of_clean {e : Sparse Err} {base a n : Nat} (h : errIn e base a n = .clean) : fixErrs e base a n = (e, 0) := by
  have hunit : ∀ j ∈ List.range ((a + n - 1) / 8 + 1 - a / 8), e.get .clean (base + a / 8 + j) ≠ .correctable := by
    intro j hj hc
    unfold errIn at h
    dsimp only at h
    have hin : ((List.range ((a + n - 1) / 8 + 1 - a / 8)).map fun j => e.get .clean (base + a / 8 + j)).contains .correctable = true := by
      rw [List.contains_iff_mem, List.mem_map]
      exact ⟨j, hj, hc⟩
    rw [hin] at h
    split at h <;> simp at h
  exact List.foldlRecOn (motive := fun x => x = (e, 0)) _ _ rfl fun x hx j hj => by rw [hx]; exact if_neg (hunit j hj)

theorem slot_fixLocal (s : State) (core a n : Nat) (u : Tid) : (fixLocal s core a n).slot u = s.slot u := by
  unfold fixLocal State.count
  dsimp only
  split
  · rfl
  · rw [State.slot_modCore]
    split
    · next h => subst h; rfl
    · rfl

theorem fixLocal_of_clean {s : State} {core a n : Nat} (h : errIn s.localErrs (localErrBase core) a n = .clean) :
    fixLocal s core a n = s := by
  simp only [fixLocal, fixErrs_of_clean h, if_true]

@[simp] theorem fixLocal_cur (s : State) (core a n : Nat) : (fixLocal s core a n).cur = s.cur := by
  unfold fixLocal State.count
  dsimp only
  split <;> rfl

@[simp] theorem fixFetch_cur (s : State) (t : Tid) : (s.fixFetch t).cur = s.cur := by
  unfold State.fixFetch
  dsimp only
  split
  · rfl
  · split
    · split
      · rfl
      · exact fixLocal_cur ..
    · rfl

@[simp] theorem slot_fixFetch (s : State) (t u : Tid) : (s.fixFetch t).slot u = s.slot u := by
  unfold State.fixFetch
  dsimp only
  split
  · rfl
  · split
    · split
      · rfl
      · exact slot_fixLocal ..
    · rfl

theorem fixFetch_of_clean {s : State} {t : Tid}
    (h : ∀ n, lengthOf (s.fetchByte t.core (s.ctx t).pc.toNat).toNat = some n →
      errIn s.localErrs (localErrBase t.core) (s.ctx t).pc.toNat n = .clean) : s.fixFetch t = s := by
  unfold State.fixFetch
  dsimp only
  split
  · rfl
  · split
    · next n hn => rw [fixLocal_of_clean (h n hn), ite_self]
    · rfl

@[simp] theorem firstAcquire_cur (s : State) (t : Tid) : (s.firstAcquire t).cur = s.cur := by
  unfold State.firstAcquire
  split <;> rfl

theorem firstAcquire_of_none {s : State} {t : Tid} (h : (s.slot t).acq = none) : s.firstAcquire t = s := by
  simp only [State.firstAcquire, h]

/-- An acquire before the first issue changes nothing of a slot but that it is over. -/
theorem slot_firstAcquire (s : State) (t : Tid) : (s.firstAcquire t).slot t = { s.slot t with acq := none } := by
  unfold State.firstAcquire
  split
  · next h => rw [← h]
  · rw [State.slot_modSlot_self, State.acquireBefore, State.slot_modCore, if_pos rfl]
    rfl

/-- The state in which thread u takes its turn. -/
def State.turnOf (s : State) (u : Tid) : State := (({ s with cur := u } : State).firstAcquire u).fixFetch u

@[simp] theorem turnOf_cur (s : State) (u : Tid) : (s.turnOf u).cur = u := by simp [State.turnOf]

theorem slot_turnOf (s : State) (u : Tid) : (s.turnOf u).slot u = { s.slot u with acq := none } := by
  rw [State.turnOf, slot_fixFetch, slot_firstAcquire]
  rfl

theorem ctx_turnOf (s : State) (u : Tid) : (s.turnOf u).ctx u = s.ctx u := by
  rw [State.ctx, slot_turnOf]
  rfl

theorem deferred_turnOf (s : State) (u : Tid) : ((s.turnOf u).slot u).deferred = (s.slot u).deferred := by rw [slot_turnOf]

theorem turnOf_of_clean {s : State} {u : Tid} (hacq : (s.slot u).acq = none)
    (h : ∀ n, lengthOf (s.fetchByte u.core (s.ctx u).pc.toNat).toNat = some n →
      errIn s.localErrs (localErrBase u.core) (s.ctx u).pc.toNat n = .clean) : s.turnOf u = { s with cur := u } := by
  rw [State.turnOf, firstAcquire_of_none (s := { s with cur := u }) hacq]
  exact fixFetch_of_clean h

/-! The fetch (R53, R54). -/

theorem lengthOf_pos {b n : Nat} (h : lengthOf b = some n) : 0 < n := by
  unfold lengthOf at h
  split at h <;> cases h <;> decide

theorem fetchByte_of_unwritten {s : State} {core : Nat} (h : (s.core core).prevAt ≠ s.now) (a : Nat) :
    s.fetchByte core a = (s.core core).mem.get 0 a := if_neg h

theorem fetchWord_byte (s : State) (core a n : Nat) {j : Nat} (hj : j < n) :
    s.fetchWord core a n / 256 ^ j % 256 = (s.fetchByte core (a + j)).toNat := by
  induction n generalizing a j with
  | zero => omega
  | succ n ih =>
    rw [State.fetchWord]
    have hlt := (s.fetchByte core a).isLt
    cases j with
    | zero => simp only [Nat.pow_zero, Nat.div_one, Nat.add_zero]; omega
    | succ j =>
      rw [Nat.pow_succ', ← Nat.div_div_eq_div_mul, Nat.add_mul_div_left _ _ (by decide), Nat.div_eq_of_lt hlt, Nat.zero_add,
        ih (a + 1) (Nat.lt_of_succ_lt_succ hj), Nat.add_right_comm, Nat.add_assoc]

/-- R371: does the core offer the service that the word of an instruction asks for? -/
def State.offers (s : State) (core w : Nat) : Prop :=
  s.heldBack core = false ∨ w % 128 / 4 = 31 ∨ reducedOpcode (w / 128 % 256) = true

theorem offers_iff (s : State) (core w : Nat) :
    s.offers core w ↔ (s.heldBack core && w % 128 / 4 ≠ 31 && !reducedOpcode (w / 128 % 256)) = false := by
  unfold State.offers
  cases s.heldBack core <;> cases reducedOpcode (w / 128 % 256) <;> simp

theorem fetch_trap {s : State} {t : Tid} (h : (s.core t.core).exb.toNat ≤ (s.ctx t).pc.toNat) : s.fetch t = .trap := by
  unfold State.fetch
  exact if_pos (.inl h)

/-- A word inside the executable range, and inside its 32 bytes, without an uncorrectable error. -/
structure Fetches (s : State) (t : Tid) (n : Nat) : Prop where
  len     : lengthOf (s.fetchByte t.core (s.ctx t).pc.toNat).toNat = some n
  inRange : (s.ctx t).pc.toNat + n ≤ (s.core t.core).exb.toNat
  fits    : (s.ctx t).pc.toNat % 32 + n ≤ 32
  noError : errIn s.localErrs (localErrBase t.core) (s.ctx t).pc.toNat n ≠ .uncorrectable

section
variable {s : State} {t : Tid} {n : Nat}

/-- Such a word is decoded. -/
theorem fetch_eq (h : Fetches s t n) : s.fetch t =
    let w := s.fetchWord t.core (s.ctx t).pc.toNat n
    match decode (BitVec.ofNat 128 w) with
    | none => .bad { code := 1 }
    | some i => if s.heldBack t.core && w % 128 / 4 ≠ 31 && !reducedOpcode (w / 128 % 256) then .bad { code := 1 } else .word i := by
  obtain ⟨hlen, hrange, hfits, herr⟩ := h
  have hn := lengthOf_pos hlen
  unfold State.fetch
  simp only [if_pos (show (s.ctx t).pc.toNat < (s.core t.core).exb.toNat by omega), hlen, Option.getD_some, Option.isNone_some, herr]
  rw [if_neg (by omega), if_neg (by simp), if_neg (by omega), if_neg (by simp)] <;> rfl

theorem fetch_word {i : Instr} (h : Fetches s t n) (hd : decode (BitVec.ofNat 128 (s.fetchWord t.core (s.ctx t).pc.toNat n)) = some i)
    (ho : s.offers t.core (s.fetchWord t.core (s.ctx t).pc.toNat n)) : s.fetch t = .word i := by
  rw [fetch_eq h]
  simp only [hd, (offers_iff ..).1 ho, Bool.false_eq_true, if_false]

theorem fetch_bad (h : Fetches s t n) (hd : decode (BitVec.ofNat 128 (s.fetchWord t.core (s.ctx t).pc.toNat n)) = none ∨
    ¬ s.offers t.core (s.fetchWord t.core (s.ctx t).pc.toNat n)) : s.fetch t = .bad { code := 1 } := by
  rw [fetch_eq h]
  rcases hd with hd | ho
  · simp only [hd]
  · rw [offers_iff, Bool.not_eq_false] at ho
    dsimp only
    split
    · rfl
    · rw [if_pos ho]

end

/-! The turn (R62, R344). -/

theorem waitsFirst_iff (s : State) (r : Host.Outcome State Fault Refusal) :
    waitsFirst s r = true ↔ ∃ t k, r = .next t ∧ (t.slot s.cur).st = .waiting (.counters k) := by
  unfold waitsFirst
  constructor
  · intro h
    split at h
    · next t =>
      split at h
      · next k hk => exact ⟨t, k, rfl, hk⟩
      · cases h
    · cases h
  · rintro ⟨t, k, rfl, hk⟩
    simp only [hk]

theorem waitsFirst_turnOf (s : State) (u : Tid) (r : Host.Outcome State Fault Refusal) :
    waitsFirst (s.turnOf u) r = true ↔ ∃ t k, r = .next t ∧ (t.slot u).st = .waiting (.counters k) := by
  rw [waitsFirst_iff, turnOf_cur]

section
variable {s : State} {u : Tid}

theorem issueTurn_trap (hf : (s.turnOf u).fetch u = .trap) : issueTurn { s with cur := u } =
    if ((s.turnOf u).slot u).deferred = [] then exec .overlayTrap (s.turnOf u) else exec (.deferredFault u) (s.turnOf u) := by
  simp only [issueTurn, show (({ s with cur := u } : State).firstAcquire u).fixFetch u = s.turnOf u from rfl, turnOf_cur, hf]
  cases ((s.turnOf u).slot u).deferred <;> rfl

theorem issueTurn_bad {f : Flt} (hf : (s.turnOf u).fetch u = .bad f) : issueTurn { s with cur := u } =
    if ((s.turnOf u).slot u).deferred = [] then .next ((s.turnOf u).faultTurn f) else exec (.deferredFault u) (s.turnOf u) := by
  simp only [issueTurn, show (({ s with cur := u } : State).firstAcquire u).fixFetch u = s.turnOf u from rfl, turnOf_cur, hf]
  cases ((s.turnOf u).slot u).deferred <;> rfl

theorem issueTurn_word {i : Instr} (hf : (s.turnOf u).fetch u = .word i) : issueTurn { s with cur := u } =
    if ((s.turnOf u).slot u).deferred = [] ∨ waitsFirst (s.turnOf u) (exec i (s.turnOf u)) = true then exec i (s.turnOf u)
    else exec (.deferredFault u) (s.turnOf u) := by
  simp only [issueTurn, show (({ s with cur := u } : State).firstAcquire u).fixFetch u = s.turnOf u from rfl, turnOf_cur, hf]
  cases ((s.turnOf u).slot u).deferred with
  | nil => rfl
  | cons f l => cases waitsFirst (s.turnOf u) (exec i (s.turnOf u)) <;> rfl

end

/-! The step (R19). -/

theorem step_agenda {s : State} {p : Pend} {l : List Pend} (hl : s.agenda = p :: l) (hp : p.due < s.now) :
    step s = runEv p.ev { s with agenda := l } := by
  simp only [step, State.dueEntry, hl, hp, true_or, if_true]

/-- Nothing comes before the issues of this cycle. -/
structure AtIssues (s : State) : Prop where
  agenda : s.dueEntry Phase.post = none
  host   : dueHost s = none
  clock  : s.power.state ≠ 3
  early  : dueEarly s = none

theorem step_issue {s : State} {u : Tid} (h : AtIssues s) (hu : s.nextIssue = some u) : step s = issueTurn { s with cur := u } := by
  simp only [step, h.agenda, h.host, if_neg h.clock, h.early, hu]

theorem step_end {s : State} (h : AtIssues s) (hu : s.nextIssue = none) : step s = endOfCycle s := by
  simp only [step, h.agenda, h.host, if_neg h.clock, h.early, hu]

end Sys2Proof.Machine

open Sys2Proof.Machine

/-- Settles O55: a step that reaches the issues is the turn of the next thread, which goes by what its fetch finds. -/
theorem stepRunsDecoded : Obligations.StepRunsDecoded := by
  unfold Obligations.StepRunsDecoded
  refine fun s => ⟨fun p l hl hp => step_agenda hl hp, fun ha hh hc he => ?_⟩
  have hs : AtIssues s := ⟨ha, hh, hc, he⟩
  refine ⟨fun u hu => ?_, step_end hs⟩
  rw [step_issue hs hu]
  intro s' pc deferred
  have hpc : (s.ctx u).pc.toNat = pc := congrArg (·.pc.toNat) (ctx_turnOf s u).symm
  refine ⟨fun hacq hclean => turnOf_of_clean hacq (hpc ▸ hclean), ⟨ctx_turnOf s u, deferred_turnOf s u⟩,
    fun n => ?word, fun hexb => ?trap⟩
  case word =>
    intro c w word served waits hlen hrange hfits herr
    have hf : Fetches (s.turnOf u) u n := ⟨hlen, hrange, hfits, herr⟩
    refine ⟨fun i hd ho => ?_, fun hd => ?_, fun hprev j hj => ?_⟩
    · have hw : waitsFirst (s.turnOf u) (exec i (s.turnOf u)) = true ↔ waits i := waitsFirst_turnOf ..
      rw [issueTurn_word (fetch_word hf hd ho)]
      exact ⟨fun h => if_pos (h.imp Classical.not_not.1 hw.2), fun hd hn => if_neg (not_or.2 ⟨hd, mt hw.1 hn⟩)⟩
    · rw [issueTurn_bad (fetch_bad hf hd)]
      exact ⟨fun h => if_pos (Classical.not_not.1 h), fun h => if_neg h⟩
    · exact (fetchWord_byte s' u.core pc n hj).trans (congrArg BitVec.toNat (fetchByte_of_unwritten hprev _))
  case trap =>
    rw [issueTurn_trap (fetch_trap hexb)]
    exact ⟨fun h => if_pos (Classical.not_not.1 h), fun h => if_neg h⟩
end

section
/-!
PROOFS. What the work of a home slice leaves alone (R189, R190): all but directory entries, the agenda, messages to peers
and the errors of memory.
-/

namespace Sys2Proof.Machine

/-- The package but for its clusters, its dies, the errors of memory, the agenda and the messages to peers. -/
def State.besideSlices (s : State) : State :=
  { s with clusters := [], dies := [], errs := [], agenda := [], seq := 0, linkWait := [] }

theorem besideSlices_modCluster (s : State) (cl : Nat) (f : Cluster → Cluster) : (s.modCluster cl f).besideSlices = s.besideSlices := rfl

theorem besideSlices_revokeLine (s : State) (pa : Nat) (l : SLine) : (s.revokeLine pa l).1.besideSlices = s.besideSlices := by
  unfold State.revokeLine
  split
  · rfl
  · split <;> rfl

theorem besideSlices_evictSline (s : State) (cl key : Nat) (l : SLine) : (s.evictSline cl key l).besideSlices = s.besideSlices :=
  besideSlices_revokeLine ..

/-- A way is taken that is free, or whose line leaves. -/
theorem besideSlices_sliceWay {s t : State} {cl key w : Nat} (h : s.sliceWay cl key = some (w, t)) : t.besideSlices = s.besideSlices := by
  unfold State.sliceWay at h
  dsimp only at h
  split at h
  · cases h; rfl
  · split at h
    · cases h
      rw [besideSlices_evictSline]
      exact List.foldlRecOn (motive := fun u : State => u.besideSlices = s.besideSlices) _ _ rfl fun u hu x _ => hu
    · cases h

theorem besideSlices_setSline (s : State) (team : BitVec 16) (pa : Nat) (l : Option SLine) :
    (s.setSline team pa l).besideSlices = s.besideSlices := by
  unfold State.setSline
  dsimp only
  split
  · rfl
  · rfl
  · split
    · next h => exact (besideSlices_modCluster ..).trans (besideSlices_sliceWay h)
    · rfl

theorem besideSlices_fillSline (s : State) (team : BitVec 16) (pa : Nat) : (s.fillSline team pa).besideSlices = s.besideSlices :=
  besideSlices_setSline ..

theorem besideSlices_registerSline (s : State) (team : BitVec 16) (pa n : Nat) (pkg : BitVec 8) (t : Tid) (bind : BitVec 12) :
    (s.registerSline team pa n pkg t bind).1.besideSlices = s.besideSlices := by
  unfold State.registerSline
  dsimp only
  rw [besideSlices_setSline]
  split
  · split
    · exact besideSlices_revokeLine ..
    · rfl
  · rfl

theorem besideSlices_correctAt (s : State) (pa n : Nat) : (s.correctAt pa n).besideSlices = s.besideSlices := by
  unfold State.correctAt
  dsimp only
  split <;> rfl

theorem besideSlices_correct (s : State) (pa n : Nat) : (s.correct pa n).besideSlices = s.besideSlices := by
  unfold State.correct
  split
  · dsimp only
    rw [besideSlices_correctAt, besideSlices_correctAt]
  · exact besideSlices_correctAt ..

section
variable {s t : State} (h : t.besideSlices = s.besideSlices)
include h

theorem State.besideSlices_phys : t.phys = s.phys := congrArg (·.phys) h
theorem State.besideSlices_cores : t.cores = s.cores := congrArg (·.cores) h
theorem State.besideSlices_links : t.links = s.links := congrArg (·.links) h
theorem State.besideSlices_now : t.now = s.now := congrArg (·.now) h
theorem State.besideSlices_teams : t.teams = s.teams := congrArg (·.teams) h
theorem State.besideSlices_retired : t.retired = s.retired := congrArg (·.retired) h
theorem State.besideSlices_home (pa : Nat) : t.home pa = s.home pa := congrArg (·.home pa) h
theorem State.besideSlices_lineKey (team : BitVec 16) (pa : Nat) : t.lineKey team pa = s.lineKey team pa :=
  congrArg (·.lineKey team pa) h

end

/-- R189: after a line has been entered in its slice, it is listed as it was entered, or not at all where no way is left. -/
theorem slineAt_setSline {s : State} {team : BitVec 16} {pa : Nat} {l x : SLine}
    (h : (s.setSline team pa (some l)).slineAt team pa = some x) : ∃ w, x = { l with way := w, used := s.now } := by
  unfold State.slineAt at h
  rw [State.besideSlices_home (besideSlices_setSline ..), State.besideSlices_lineKey (besideSlices_setSline ..)] at h
  unfold State.setSline at h
  cases hold : (s.cluster (s.home pa)).slice.get none (s.lineKey team pa) with
  | some old =>
    simp only [hold, State.cluster_modCluster_self, Sparse.get_put_self, Option.some.injEq] at h
    exact ⟨old.way, h.symm⟩
  | none =>
    simp only [hold] at h
    split at h
    · next w t ht =>
      simp only [State.cluster_modCluster_self, Sparse.get_put_self, State.besideSlices_now (besideSlices_sliceWay ht),
        Option.some.injEq] at h
      exact ⟨w, h.symm⟩
    · rw [hold] at h; cases h

/-! Bytes in their own place (R357). -/

theorem mapped_of_inPlace {s : State} {pa : Nat} (h : s.retired.get 0 (pa / 65536) = 0) : s.mapped pa = pa := by
  simp only [State.mapped, h]
  exact if_neg (by decide)

/-- A write of bytes that no team shadows and no spare serves. -/
theorem physWrite_eq_poke {s : State} {team : BitVec 16} (hteam : s.team team = none) (pa n v : Nat)
    (hplace : ∀ j < n, s.mapped (pa + j) = pa + j) : s.physWrite team pa n v = { s with phys := poke s.phys pa n v } := by
  induction n generalizing s pa v with
  | zero => rfl
  | succ n ih =>
    have hput : s.physPut team pa (BitVec.ofNat 8 v) = { s with phys := s.phys.put 0 pa (BitVec.ofNat 8 v) } := by
      simp only [State.physPut, hteam]
      rw [show s.mapped pa = pa from hplace 0 (by omega)]
    rw [State.physWrite, hput]
    refine ih (s := { s with phys := s.phys.put 0 pa (BitVec.ofNat 8 v) }) hteam (pa + 1) (v / 256) fun j hj => ?_
    rw [Nat.add_assoc, Nat.add_comm 1 j]
    exact hplace (j + 1) (by omega)

end Sys2Proof.Machine
end

section
/-!
PROOFS. Requests of peers, links, power-on and the reset of a core (O54).
-/

namespace Sys2Proof.Machine

theorem physByte_plain {s : State} {pa : Nat} (hteam : s.team 0 = none) (h : s.retired.get 0 (pa / 65536) = 0) :
    s.physByte 0 pa = s.phys.get 0 pa := by
  simp only [State.physByte, hteam, mapped_of_inPlace h]

/-- R190: the slice lists a line that was not listed under the owner that registers. -/
theorem slineAt_registerSline {s : State} {team : BitVec 16} {pa n : Nat} {pkg : BitVec 8} {t : Tid} {bind : BitVec 12} {l : SLine}
    (h : (s.registerSline team pa n pkg t bind).1.slineAt team pa = some l) : l.opkg = pkg ∧ l.dirty = true := by
  obtain ⟨w, rfl⟩ := slineAt_setSline h
  exact ⟨rfl, rfl⟩

theorem slineAt_peerStore {s : State} {pkg : BitVec 8} {tag : Tid} {bind : BitVec 12} {pa n data : Nat} {l : SLine}
    (h : (s.peerStore pkg tag bind pa n data).slineAt 0 pa = some l) : l.opkg = pkg ∧ l.dirty = true :=
  slineAt_registerSline h

end Sys2Proof.Machine

namespace Sys2Proof.Claims

open Sys2Proof.Machine

/-! A store of a dword of plain memory. -/

section
variable {s : State} {pa : Nat} (p : PlainWord s pa)
include p

theorem PlainWord.inPlace_byte {j : Nat} (hj : j < 8) : s.retired.get 0 ((pa + j) / 65536) = 0 := by
  have := p.aligned
  rw [show (pa + j) / 65536 = pa / 65536 by omega]
  exact p.inPlace

theorem PlainWord.stored {t : State} {v : W64} (hphys : t.phys = poke s.phys pa 8 v.toNat) (hteams : t.teams = s.teams)
    (hretired : t.retired = s.retired) : Stored s t pa v := by
  refine ⟨fun b hb => ?_, fun x hx => by rw [hphys, get_poke, if_neg hx]⟩
  have hteam : t.team 0 = none := by rw [State.team, hteams]; exact p.noTeam
  have hplace : t.retired.get 0 ((pa + b) / 65536) = 0 := by rw [hretired]; exact p.inPlace_byte hb
  simp only [State.physRead, physByte_plain hteam hplace, hphys, get_poke]
  rw [if_pos (by omega), Nat.add_sub_cancel_left, BitVec.toNat_ofNat]
  rfl

theorem PlainWord.isRetired : s.isRetired pa = false := by
  rw [State.isRetired, p.inPlace]
  rfl

/-- R190: beside its home slice, a peer's store changes the dword that it writes. -/
theorem PlainWord.besideSlices_peerStore (pkg : BitVec 8) (tag : Tid) (bind : BitVec 12) (data : Nat) :
    (s.peerStore pkg tag bind pa 8 data).besideSlices = { s with phys := poke s.phys pa 8 data : State }.besideSlices := by
  have hmerge : s.mergeCorrect pa 8 = s := by
    have := p.aligned
    simp [State.mergeCorrect, partialUnits, this]
  unfold State.peerStore
  rw [besideSlices_registerSline, hmerge,
    physWrite_eq_poke (s := { s with errs := clearErrs s.errs 0 (s.mapped pa) 8 }) p.noTeam pa 8 data fun j hj =>
      mapped_of_inPlace (s := s) (p.inPlace_byte hj)]
  rfl

end

end Sys2Proof.Claims

namespace Sys2Proof.Machine

open Sys2Proof.Claims

/-! Answers to a peer (R377). -/

/-- An answer goes back to the package at the far end of a link. -/
def State.answerPeer (s : State) (link : Nat) (a : Act) : State := s.toPeer (s.links.get {} link).peer.toNat link (.act a)

theorem answered_answerPeer (s : State) (link : Nat) (a : Act) : Answered s (s.answerPeer link a) link a := rfl

theorem besideSlices_answerPeer (s : State) (link : Nat) (a : Act) : (s.answerPeer link a).besideSlices = s.besideSlices := rfl

theorem slineAt_answerPeer (s : State) (link : Nat) (a : Act) (team : BitVec 16) (pa : Nat) :
    (s.answerPeer link a).slineAt team pa = s.slineAt team pa := rfl

theorem answersWith_answerPeer {s u : State} (hlinks : u.links = s.links) (hnow : u.now = s.now) (link : Nat) (a : Act) :
    AnswersWith s (u.answerPeer link a) link a := by
  have hto : ∀ p, u.linkTo p link = s.linkTo p link := fun p => by rw [State.linkTo, hlinks]; rfl
  simp only [AnswersWith, State.answerPeer, State.toPeer, hlinks, hnow, hto]
  exact List.mem_append_right _ List.mem_cons_self

/-! The places that a peer's request reaches (R377, R241). -/

theorem vaPieces_line {va n : Nat} (hn : 0 < n) (hline : va % 64 + n ≤ 64) : vaPieces va n = [(va, n)] := by
  have hcount : (va % 64 + n + 63) / 64 = 1 := by omega
  have hlo : max va (va / 64 * 64 + 64 * 0) = va := by omega
  have hhi : min (va + n) (va / 64 * 64 + 64 * 0 + 64) - va = n := by omega
  simp only [vaPieces, lineCuts, List.flatMap_cons, List.flatMap_nil, List.append_nil, hcount, List.range_one, List.map_cons,
    List.map_nil, hlo, hhi]

/-- Where a piece of a peer's request leads, if the routers on its way admit the tenant. -/
def State.peerReach (s : State) (r : PeerReq) (write : Bool) (p : Nat × Nat) : Except Flt (Nat × Nat) :=
  match s.peerPlace r write p.1 p.2 with
  | .error f => .error f
  | .ok pa => if s.routeAdmits (clusterOf (peerCore r.link)) (s.home pa) r.tenant then .ok (pa, p.2)
    else .error { code := 8, addr := BitVec.ofNat 64 p.1 }

section
variable {s : State} {r : PeerReq} {va n : Nat} {write : Bool}

theorem peerReach_error {f : Flt} (h : s.peerPlace r write va n = .error f) : s.peerReach r write (va, n) = .error f := by
  simp only [State.peerReach, h]

theorem peerReach_barred {pa : Nat} (h : s.peerPlace r write va n = .ok pa)
    (hroute : s.routeAdmits (clusterOf (peerCore r.link)) (s.home pa) r.tenant = false) :
    s.peerReach r write (va, n) = .error { code := 8, addr := BitVec.ofNat 64 va } := by
  simp only [State.peerReach, h, hroute, Bool.false_eq_true, if_false]

theorem peerReach_ok {pa : Nat} (h : s.peerPlace r write va n = .ok pa)
    (hroute : s.routeAdmits (clusterOf (peerCore r.link)) (s.home pa) r.tenant = true) :
    s.peerReach r write (va, n) = .ok (pa, n) := by
  simp only [State.peerReach, h, hroute, if_true]

end

/-! What a peer's PASID maps (R315, R316, R377). -/

/-- A virtual address that the walk under the tenant's peer PASID maps. -/
structure PeerMaps (s : State) (r : PeerReq) (va level : Nat) (e : W64) (root : Nat) : Prop where
  pasid : rootOf s r.pasid = some (root, r.tenant)
  inRange : va < 2 ^ 55
  leaf : walkFrom s va 4 root = .leaf level e

theorem pasidFault_retired {s : State} {pasid : BitVec 20} {tenant : BitVec 6} (h : rootOf s pasid = none) (va : Nat) :
    s.pasidFault pasid tenant va = some { code := 7, sub := 4, addr := BitVec.ofNat 64 va } := by
  simp only [State.pasidFault, h]

theorem pasidFault_foreign {s : State} {pasid : BitVec 20} {tenant t : BitVec 6} {root : Nat} (h : rootOf s pasid = some (root, t))
    (ht : t ≠ tenant) (va : Nat) : s.pasidFault pasid tenant va = some { code := 8, addr := BitVec.ofNat 64 va } := by
  simp only [State.pasidFault, h, if_pos ht]

theorem pasidFault_own {s : State} {pasid : BitVec 20} {tenant : BitVec 6} {root : Nat} (h : rootOf s pasid = some (root, tenant))
    (va : Nat) : s.pasidFault pasid tenant va = none := by
  simp only [State.pasidFault, h, ne_eq, not_true_eq_false, if_false]

/-- The bits of a leaf that a peer's access needs are there. -/
theorem leaf_permits {write : Bool} {e : W64} (h : (if write then e.getLsbD 3 else e.getLsbD 2) = true) (hpriv : e.getLsbD 4 = false) :
    ¬ ((if write then !e.getLsbD 3 else !e.getLsbD 2) || e.getLsbD 4) = true := by
  rw [hpriv, Bool.or_false]
  cases write <;> simpa using h

section
variable {s : State} {r : PeerReq} {va level root : Nat} {e : W64} (m : PeerMaps s r va level e root) (n : Nat)
include m

theorem PeerMaps.not_beyond : ¬ va / 2 ^ 55 ≠ 0 := Classical.not_not.2 (Nat.div_eq_of_lt m.inRange)

theorem PeerMaps.peerPlace_unpermitted {write : Bool} (h : (if write then e.getLsbD 3 else e.getLsbD 2) = false ∨ e.getLsbD 4 = true) :
    s.peerPlace r write va n = .error (protFault 6 (BitVec.ofNat 64 va)) := by
  simp only [State.peerPlace, m.pasid, if_neg m.not_beyond, m.leaf]
  refine if_pos ?_
  cases write <;> simpa using h

theorem PeerMaps.peerPlace_nowhere {write : Bool} (h : (if write then e.getLsbD 3 else e.getLsbD 2) = true) (hpriv : e.getLsbD 4 = false)
    (hpl : s.place (leafAddr level e va) = .none) :
    s.peerPlace r write va n = .error { code := 7, sub := 3, addr := BitVec.ofNat 64 va } := by
  simp only [State.peerPlace, m.pasid, if_neg m.not_beyond, m.leaf, if_neg (leaf_permits h hpriv), hpl]

theorem PeerMaps.peerPlace_memory {write : Bool} (h : (if write then e.getLsbD 3 else e.getLsbD 2) = true) (hpriv : e.getLsbD 4 = false)
    (hpl : (∃ k, s.place (leafAddr level e va) = .hbm k) ∨ (∃ k, s.place (leafAddr level e va) = .tier k) ∨
      ∃ k, s.place (leafAddr level e va) = .cxl k) (hret : s.isRetired (leafAddr level e va) = false)
    (hfmt : write = true → s.inFormat (leafAddr level e va) n = false)
    (herr : write = false → s.errAt (leafAddr level e va) n ≠ .uncorrectable) :
    s.peerPlace r write va n = .ok (leafAddr level e va) := by
  have hformat : (write && s.inFormat (leafAddr level e va) n) = false := by
    cases write with
    | true => exact hfmt rfl
    | false => rfl
  have hsound : (!write && decide (s.errAt (leafAddr level e va) n = .uncorrectable)) = false := by
    cases write with
    | true => rfl
    | false => exact decide_eq_false (herr rfl)
  simp only [State.peerPlace, m.pasid, if_neg m.not_beyond, m.leaf, if_neg (leaf_permits h hpriv)]
  obtain ⟨k, hk⟩ | ⟨k, hk⟩ | ⟨k, hk⟩ := hpl <;> simp only [hk, hret, hformat, hsound, Bool.false_eq_true, if_false]

end

/-! A peer's pull (R377). -/

section
variable {s : State} {r : PeerReq} {cl id msg va n : Nat} (hop : r.op = .read cl id msg va n)
include hop

theorem exec_peerRead : exec (.peerRequest r) s = .next (match s.pasidFault r.pasid r.tenant 0 with
    | some f => s.answerPeer r.link (.engine cl id (.reply msg 0 (some { f with addr := BitVec.ofNat 64 va })))
    | none => match allPlaces ((vaPieces va n).map (s.peerReach r false)) with
      | .error f => s.answerPeer r.link (.engine cl id (.reply msg 0 (some f)))
      | .ok l =>
        let u := l.foldl (fun (s : State) p => (s.fillSline 0 p.1).correct p.1 p.2) s
        u.answerPeer r.link (.engine cl id (.reply msg (l.foldr (fun p v => u.loadBytes 0 p.1 p.2 + 256 ^ p.2 * v) 0) none))) := by
  simp only [exec_peerRequest, execPeerRequest, hop]
  rfl

theorem exec_peerRead_denied {f : Flt} (hbad : s.pasidFault r.pasid r.tenant 0 = some f) : exec (.peerRequest r) s =
    .next (s.answerPeer r.link (.engine cl id (.reply msg 0 (some { f with addr := BitVec.ofNat 64 va })))) := by
  simp only [exec_peerRead hop, hbad]

theorem exec_peerRead_fails {f : Flt} (hown : s.pasidFault r.pasid r.tenant 0 = none) (hn : 0 < n) (hline : va % 64 + n ≤ 64)
    (hreach : s.peerReach r false (va, n) = .error f) :
    exec (.peerRequest r) s = .next (s.answerPeer r.link (.engine cl id (.reply msg 0 (some f)))) := by
  simp only [exec_peerRead hop, hown, vaPieces_line hn hline, List.map_cons, List.map_nil, hreach, allPlaces, List.foldr_cons]

theorem exec_peerRead_answers {pa : Nat} (hown : s.pasidFault r.pasid r.tenant 0 = none) (hn : 0 < n) (hline : va % 64 + n ≤ 64)
    (hreach : s.peerReach r false (va, n) = .ok (pa, n)) :
    exec (.peerRequest r) s = .next (((s.fillSline 0 pa).correct pa n).answerPeer r.link
      (.engine cl id (.reply msg (((s.fillSline 0 pa).correct pa n).loadBytes 0 pa n) none))) := by
  simp only [exec_peerRead hop, hown, vaPieces_line hn hline, List.map_cons, List.map_nil, hreach, allPlaces, List.foldr_cons,
    List.foldr_nil, List.foldl_cons, List.foldl_nil, Nat.mul_zero, Nat.add_zero]

end

/-! A peer's push (R190, R377). -/

section
variable {s : State} {r : PeerReq} {cl id msg va data : Nat} {tag : Tid} {bind : BitVec 12}
  (hop : r.op = .write cl id msg va 8 data tag bind)
include hop

theorem exec_peerWrite : exec (.peerRequest r) s = .next (match s.pasidFault r.pasid r.tenant 0 with
    | some f => s.answerPeer r.link (.engine cl id (.ack msg (some { f with addr := BitVec.ofNat 64 va })))
    | none => match allPlaces ((vaPieces va 8).map (s.peerReach r true)) with
      | .error f => s.answerPeer r.link (.engine cl id (.ack msg (some f)))
      | .ok l =>
        let pkg := (s.links.get {} r.link).peer
        let dirty := l.filter fun p => (s.badWriteBack 0 p.1 fun l => !l.ownedBy pkg tag bind) || s.badMerge 0 p.1 p.2
        if !dirty.isEmpty then (dirty.foldl (fun (s : State) p => s.dirtyUe 0 p.1) s).actAt s.now (.peer r)
        else (l.foldl (fun (x : State × Nat) p =>
          (x.1.peerStore pkg tag bind p.1 p.2 (x.2 % 256 ^ p.2), x.2 / 256 ^ p.2)) (s, data)).1.answerPeer r.link
            (.engine cl id (.ack msg none))) := by
  simp only [exec_peerRequest, execPeerRequest, hop]
  rfl

theorem exec_peerWrite_denied {f : Flt} (hbad : s.pasidFault r.pasid r.tenant 0 = some f) : exec (.peerRequest r) s =
    .next (s.answerPeer r.link (.engine cl id (.ack msg (some { f with addr := BitVec.ofNat 64 va })))) := by
  simp only [exec_peerWrite hop, hbad]

/-- A line that the slice does not list has no error to deal with first. -/
theorem exec_peerWrite_stores {pa : Nat} (hown : s.pasidFault r.pasid r.tenant 0 = none) (hline : va % 64 + 8 ≤ 64)
    (hreach : s.peerReach r true (va, 8) = .ok (pa, 8)) (hclean : s.slineAt 0 pa = none) : exec (.peerRequest r) s =
    .next ((s.peerStore (s.links.get {} r.link).peer tag bind pa 8 (data % 256 ^ 8)).answerPeer r.link
      (.engine cl id (.ack msg none))) := by
  have hwrite : ∀ p, s.badWriteBack 0 pa p = false := fun p => by simp only [State.badWriteBack, hclean]
  have hmerge : s.badMerge 0 pa 8 = false := by simp only [State.badMerge, hclean]
  simp only [exec_peerWrite hop, hown, vaPieces_line (by decide : 0 < 8) hline, List.map_cons, List.map_nil, hreach, allPlaces,
    List.foldr_cons, List.foldr_nil, List.filter_cons, List.filter_nil, hwrite, hmerge, Bool.or_false, Bool.false_eq_true, if_false,
    List.isEmpty_nil, Bool.not_true, List.foldl_cons, List.foldl_nil]

end

/-! Links (R376, R377). -/

theorem onItsWay_iff (s : State) (m : LinkMsg) : s.onItsWay m = true ↔ m.ev.asks ≠ none ∨ s.now < m.sent + 560 := by
  simp only [State.onItsWay, Bool.or_eq_true, Option.isSome_iff_ne_none, decide_eq_true_eq]

/-- A message goes out on a link that is up and that reaches its package. -/
theorem linkTo_some {s : State} {pkg key k : Nat} (h : s.linkTo pkg key = some k) :
    ∃ x ∈ s.links, x.1 = k ∧ x.2.up = true ∧ x.2.peer.toNat = pkg := by
  unfold State.linkTo at h
  obtain ⟨x, hx, rfl⟩ := Option.map_eq_some_iff.1 h
  have hmem := List.mem_of_getElem? hx
  simp only [List.mem_filter, Bool.and_eq_true, beq_iff_eq] at hmem
  exact ⟨x, hmem.1, rfl, hmem.2⟩

end Sys2Proof.Machine

namespace Sys2Proof

/-- An entry whose key a filter rejects reads as the default. -/
theorem Sparse.get_filter_of_false {α : Type} (d : α) (m : Sparse α) (p : Nat × α → Bool) {k : Nat} (h : ∀ v, p (k, v) = false) :
    Sparse.get d (m.filter p) k = d := by
  induction m with
  | nil => rfl
  | cons x m ih =>
    rw [List.filter_cons]
    split
    · next hx =>
      have hk : x.1 ≠ k := by
        rintro rfl
        rw [h] at hx
        cases hx
      rw [Sparse.get_cons, if_neg hk, ih]
    · exact ih

/-- What every listed entry and the default have, every entry read has. -/
theorem Sparse.get_of_forall {α : Type} {P : α → Prop} {d : α} {m : Sparse α} (h : ∀ x ∈ m, P x.2) (hd : P d) (k : Nat) :
    P (Sparse.get d m k) := by
  induction m with
  | nil => exact hd
  | cons x m ih =>
    rw [Sparse.get_cons]
    split
    · exact h x List.mem_cons_self
    · exact ih fun y hy => h y (List.mem_cons_of_mem x hy)

end Sys2Proof

namespace Sys2Proof.Claims

open Sys2Proof.Machine

/-! The parts of O54. -/

theorem peerReads : PeerReads := by
  intro s r cl id msg va n hop fails a admits
  refine ⟨fun hroot => ⟨_, exec_peerRead_denied hop (pasidFault_retired hroot 0), answered_answerPeer .., rfl⟩,
    fun root tn hroot htn => ⟨_, exec_peerRead_denied hop (pasidFault_foreign hroot htn 0), answered_answerPeer .., rfl⟩,
    fun root level e hroot hva hn hline hleaf => ?_⟩
  have m : PeerMaps s r va level e root := ⟨hroot, hva, hleaf⟩
  have hown := pasidFault_own hroot 0
  have failing {f : Flt} (hreach : s.peerReach r false (va, n) = .error f) : fails f :=
    ⟨_, exec_peerRead_fails hop hown hn hline hreach, answered_answerPeer .., rfl⟩
  refine ⟨fun h => failing (peerReach_error (m.peerPlace_unpermitted n h)),
    fun h2 h4 hpl => failing (peerReach_error (m.peerPlace_nowhere n h2 h4 hpl)), fun h2 h4 hpl hret herr => ?_⟩
  have hplace := m.peerPlace_memory (write := false) n h2 h4 hpl hret (fun h => by cases h) fun _ => herr
  refine ⟨fun hroute => failing (peerReach_barred hplace hroute), fun hroute =>
    ⟨_, exec_peerRead_answers hop hown hn hline (peerReach_ok hplace hroute), ?_⟩⟩
  have hb : ((s.fillSline 0 (leafAddr level e va)).correct (leafAddr level e va) n).besideSlices = s.besideSlices :=
    (besideSlices_correct ..).trans (besideSlices_fillSline ..)
  exact ⟨answersWith_answerPeer (State.besideSlices_links hb) (State.besideSlices_now hb) .., State.besideSlices_phys hb,
    State.besideSlices_cores hb⟩

theorem peerWrites : PeerWrites := by
  intro s r cl id msg va data tag bind hop a
  refine ⟨fun root tn hroot htn => ⟨_, exec_peerWrite_denied hop (pasidFault_foreign hroot htn 0), rfl, answered_answerPeer ..⟩, ?_⟩
  intro root level e hroot hva halign hleaf h3 h4 pa p hfmt hroute
  have m : PeerMaps s r va level e root := ⟨hroot, hva, hleaf⟩
  have hplace := m.peerPlace_memory (write := true) 8 h3 h4 p.memory p.isRetired (fun _ => hfmt) fun h => by cases h
  have hdata : (BitVec.ofNat 64 data).toNat = data % 256 ^ 8 := by simp
  have hb := p.besideSlices_peerStore (s.links.get {} r.link).peer tag bind (data % 256 ^ 8)
  have ha := (besideSlices_answerPeer _ r.link (.engine cl id (.ack msg none))).trans hb
  have hphys := State.besideSlices_phys ha
  have hteams := State.besideSlices_teams ha
  have hretired := State.besideSlices_retired ha
  have hlinks := State.besideSlices_links hb
  have hnow := State.besideSlices_now hb
  refine ⟨_, exec_peerWrite_stores hop (pasidFault_own hroot 0) (by omega) (peerReach_ok hplace hroute) p.noLine,
    p.stored ?_ hteams hretired, answersWith_answerPeer hlinks hnow .., fun l hl => ?_⟩
  · rw [hdata]
    exact hphys
  · rw [slineAt_answerPeer] at hl
    exact slineAt_peerStore hl

theorem peerFutures : PeerFutures := by
  intro s r q root hop hroot
  refine ⟨_, ?_, rfl⟩
  simp only [exec_peerRequest, execPeerRequest, hop, pasidFault_own hroot 0]

theorem links : Links := by
  intro s l
  refine ⟨⟨_, rfl, ?downUp, ?downPeer, fun j hj => ?downLinks, rfl, rfl, fun m hm => ⟨fun hl => ?other, fun hl hway => ?again⟩,
      fun m hm => ?only⟩,
    ⟨_, rfl, ?upUp, ?upPeer, fun j hj => ?upLinks, rfl, rfl, List.length_map _, fun i m hm => ⟨fun hl => ?out, fun hl => ?waits⟩⟩,
    fun _ _ _ => linkTo_some⟩
  case downUp | downPeer | upUp | upPeer => simp only [Sparse.get_put_self]
  case downLinks | upLinks => simp only [Sparse.get_put, if_neg hj]
  case other => exact List.mem_map.2 ⟨m, List.mem_filter.2 ⟨hm, Bool.or_eq_true_iff.2 (.inl (decide_eq_true hl))⟩, if_neg hl⟩
  case again =>
    have hon := (onItsWay_iff s m).2 hway
    exact List.mem_map.2 ⟨m, List.mem_filter.2 ⟨hm, Bool.or_eq_true_iff.2 (.inr hon)⟩, if_pos hl⟩
  case only =>
    obtain ⟨x, hx, rfl⟩ := List.mem_map.1 hm
    obtain ⟨hx, hkept⟩ := List.mem_filter.1 hx
    by_cases hl : x.link = some l
    · have hway := (Bool.or_eq_true_iff.1 hkept).resolve_left fun h => of_decide_eq_true h hl
      exact .inr ⟨x, hx, hl, (onItsWay_iff _ x).1 hway, if_pos hl⟩
    · rw [if_neg hl]
      exact .inl ⟨hx, hl⟩
  case out => simp only [List.getElem?_map, hm, Option.map_some, Option.isNone_iff_eq_none, if_neg hl]
  case waits => simp only [List.getElem?_map, hm, Option.map_some, hl, Option.isNone_none, if_true]; rfl

theorem useNext_fst (a b : Image) (swap : Bool) : (a.useNext b swap).1 = if swap then b else a := by
  cases swap <;> rfl

theorem powersOn : PowersOn := fun s =>
  ⟨_, rfl, rfl, rfl, rfl, rfl, rfl, rfl, rfl, rfl, rfl, rfl, rfl, rfl, useNext_fst .., useNext_fst ..,
    fun _ hpa => Sparse.get_filter_of_false _ _ _ fun _ => by simpa using hpa⟩

theorem coreResets : CoreResets := by
  intro s k
  refine ⟨_, rfl, ?tick, ?counters, ?perf, fun q => ?queues, ?arbiter, ?wrep, ?wstep, ?window, fun u => ?slots, ?mem,
    fun j hj => ?others, rfl⟩
  case tick => rw [State.tick, State.core_modCore_self]; exact BitVec.sub_self _
  case counters => intro n; rw [State.core_modCore_self]; rfl
  case perf =>
    intro hidle n
    simp only [State.perf, State.core_modCore_self, State.modCore_now, if_neg hidle, Sparse.get_nil, List.filter_nil, List.length_nil,
      Nat.sub_self]
    split
    · rfl
    · split <;> rfl
  case queues =>
    rw [State.core_modCore_self]
    refine Sparse.get_of_forall (P := fun x : QReg => x.entries = [] ∧ x.tag = none) (fun x hx => ?_) ⟨rfl, rfl⟩ q
    obtain ⟨⟨n, y⟩, _, hy⟩ := List.mem_filterMap.1 hx
    dsimp only at hy
    split at hy
    · cases hy
    · cases hy; exact ⟨rfl, rfl⟩
  case arbiter | wrep | wstep | window | mem => rw [State.core_modCore_self]
  case slots =>
    rw [State.slot_modCore]
    split
    · next h => subst h; rfl
    · rfl
  case others => rw [State.core_modCore, if_neg hj]

end Sys2Proof.Claims

open Sys2Proof.Claims

/-- Settles O54: the requests of peers, the links, power-on and the reset of a core, each by its own lemma. -/
theorem peersAndResets : Obligations.PeersAndResets := ⟨peerReads, peerWrites, peerFutures, links, powersOn, coreResets⟩
end

section
/-!
PROOFS. Vector reductions (O9): the levels of the tree are its nodes (R49), and each reduction names its operation and its
identity (R116).
-/

namespace Sys2Proof.Claims

open Sys2Proof.Machine

/-! The integer readings of an element, as the model and as the rules word them (R51, R111). -/

theorem bits_ne_zero (ty : Fmt) : Num.bits ty ≠ 0 := by cases ty <;> decide

theorem intElem_eq_intOf (ty : Fmt) (x : Nat) : intElem ty x = intOf ty x := by
  simp only [intElem, intOf, Num.signed, ne_eq, bits_ne_zero, not_false_eq_true, true_and]

theorem sat_eq_max_min {lo hi : Int} (h : lo ≤ hi) (v : Int) : Num.sat v lo hi = max lo (min v hi) := by
  unfold Num.sat
  split
  · omega
  · split <;> omega

theorem sat_eq_limited (ty : Fmt) (v : Int) : Num.sat v (Num.intLo ty) (Num.intHi ty) = limited ty v := by
  have hle : Num.intLo ty ≤ Num.intHi ty := by cases ty <;> decide
  rw [sat_eq_max_min hle]
  unfold limited Num.intLo Num.intHi
  split <;> rfl

theorem minMax_false (ty : Fmt) (x y : Nat) : minMax false ty x y =
    if Num.isInt ty then (if intOf ty y < intOf ty x then y else x) else Num.fminmax false ty x y := by
  simp only [minMax, intElem_eq_intOf, Bool.bne_false, decide_eq_true_eq]

theorem minMax_true (ty : Fmt) (x y : Nat) : minMax true ty x y =
    if Num.isInt ty then (if intOf ty y < intOf ty x then x else y) else Num.fminmax true ty x y := by
  simp only [minMax, intElem_eq_intOf, Bool.bne_true, Bool.not_eq_true', decide_eq_false_iff_not, ite_not]

/-- R106: the model's lane mask enables the elements whose lowest byte lane it sets. -/
theorem enabled_eq_laneOn (c : Ctx) (h : Hdr) (ty : Fmt) (j : Nat) :
    Num.enabled (c.lm h).toNat (Num.bits ty) j = laneOn c h ty j := by
  simp only [Num.enabled, laneOn, Ctx.lm, Flags.laneMask, BitVec.getLsbD, Nat.testBit_eq_decide_div_mod_eq, Bool.beq_eq_decide_eq]

/-! The tree (R49). -/

theorem node_congr (op : Nat → Nat → Nat) {x y : Nat → Option Nat} {k j : Nat} (h : ∀ i < (j + 1) * 2 ^ k, x i = y i) :
    node op x k j = node op y k j := by
  induction k generalizing j with
  | zero => exact h j (by omega)
  | succ k ih =>
    have hsize : (2 * j + 1 + 1) * 2 ^ k = (j + 1) * 2 ^ (k + 1) := by
      rw [Nat.pow_succ', ← Nat.mul_assoc, Nat.succ_mul j 2, Nat.mul_comm j 2]
    have hr : ∀ i < (2 * j + 1 + 1) * 2 ^ k, x i = y i := fun i hi => h i (hsize ▸ hi)
    have hl : ∀ i < (2 * j + 1) * 2 ^ k, x i = y i := fun i hi =>
      hr i (Nat.lt_of_lt_of_le hi (Nat.mul_le_mul_right _ (Nat.le_succ _)))
    rw [node, ih hl, ih hr, node]

/-- The nodes of k + 1 levels are those of k levels over the nodes of one. -/
theorem node_node_one (op : Nat → Nat → Nat) (x : Nat → Option Nat) (k j : Nat) :
    node op (node op x 1) k j = node op x (k + 1) j := by
  induction k generalizing j with
  | zero => rfl
  | succ k ih => rw [node, ih, ih]; rfl

/-- One level of the tree over a row holds the nodes of one level over its places; a place beyond the row is absent. -/
theorem getD_treeLevel (op : Nat → Nat → Nat) :
    ∀ (l : List (Option Nat)) (j : Nat), (Num.treeLevel op l).getD j none = node op (l.getD · none) 1 j
  | [], _ => rfl
  | [none], 0 | [some _], 0 => rfl
  | [_], _ + 1 => rfl
  | _ :: _ :: _, 0 => rfl
  | _ :: _ :: l, j + 1 => getD_treeLevel op l j

theorem tree_eq_node (op : Nat → Nat → Nat) (k : Nat) (l : List (Option Nat)) :
    Num.tree op k l = node op (l.getD · none) k 0 := by
  induction k generalizing l with
  | zero => cases l <;> rfl
  | succ k ih =>
    have hlevel : ((Num.treeLevel op l).getD · none) = node op (l.getD · none) 1 := funext (getD_treeLevel op l)
    rw [Num.tree, ih, hlevel, node_node_one]

/-- The tree over a row of 2^k places that x gives. -/
theorem tree_map_range (op : Nat → Nat → Nat) (k : Nat) (x : Nat → Option Nat) :
    Num.tree op k ((List.range (2 ^ k)).map x) = node op x k 0 := by
  rw [tree_eq_node]
  refine node_congr op fun i hi => ?_
  have hi : i < 2 ^ k := by omega
  simp only [List.getD_eq_getElem?_getD, List.getElem?_map, List.getElem?_range hi, Option.map_some, Option.getD_some]

/-! The reductions (R116). -/

theorem count_eq_two_pow (ty : Fmt) : Num.count ty = 2 ^ Nat.log2 (Num.count ty) := by cases ty <;> decide

theorem log2_count (ty : Fmt) : Nat.log2 (Num.count ty) =
    if Num.bits ty = 8 ∨ Num.bits ty = 6 then 6 else if Num.bits ty = 16 then 5 else if Num.bits ty = 32 then 4 else 7 := by
  cases ty <;> decide

/-- The tree that a reduction computes is the node of all its levels over the enabled elements. -/
theorem tree_enabled (op : Nat → Nat → Nat) (c : Ctx) (h : Hdr) (ty : Fmt) (a : Reg) :
    Num.tree op (Nat.log2 (Num.count ty)) ((List.range (Num.count ty)).map fun j =>
      if Num.enabled (c.lm h).toNat (Num.bits ty) j then some (Num.elem (c.rv a).toNat (Num.bits ty) j) else none) =
    node op (fun j => if laneOn c h ty j then some (elemA c ty a j) else none) (Nat.log2 (Num.count ty)) 0 := by
  simp only [enabled_eq_laneOn]
  rw [← tree_map_range, ← count_eq_two_pow]
  rfl

theorem topOf_eq (ty : Fmt) : topOf ty =
    if Num.isInt ty then (if Num.isSigned ty then 2 ^ (Num.bits ty - 1) - 1 else 2 ^ Num.bits ty - 1) else Num.infEnc ty := by
  cases ty <;> decide

theorem bottomOf_eq (ty : Fmt) : bottomOf ty =
    if Num.isInt ty then (if Num.isSigned ty then 2 ^ (Num.bits ty - 1) else 0) else Num.infEnc ty + 2 ^ (Num.bits ty - 1) := by
  cases ty <;> decide

/-- Each reduction is performed with the operation and the identity of its row. -/
theorem exec_reduction {i : Instr} {h : Hdr} {ty : Fmt} {d a : Reg} {op : Nat → Nat → Nat} {ident : Nat}
    (hi : reduction i = some (h, ty, d, a, op, ident)) (s : State) : exec i s = reduce h ty d a op ident s := by
  unfold reduction at hi
  split at hi <;> cases hi
  case h_1 => simp only [exec_vrsum, execVrsum, intElem_eq_intOf, sat_eq_limited, Num.wrap]
  case h_2 => simp only [exec_vrmin, execVrmin, funext fun x => funext (minMax_false ty x), topOf_eq]
  case h_3 => simp only [exec_vrmax, execVrmax, funext fun x => funext (minMax_true ty x), bottomOf_eq]
  case h_4 => rfl

end Sys2Proof.Claims

open Sys2Proof Sys2Proof.Machine Sys2Proof.Claims

/-- Settles O9: a reduction computes the tree of its operation over the enabled elements, level by level. -/
theorem vectorReduceResult : Obligations.VectorReduceResult := by
  unfold Obligations.VectorReduceResult
  intro i h ty d a op ident hi s his c x levels
  have hlevels : levels = Nat.log2 (Num.count ty) := (log2_count ty).symm
  have htree := tree_enabled op c h ty a
  rw [exec_reduction hi, hlevels, ← htree]
  exact compute_completes his _
end

section
/-!
PROOFS. The lane-wise vector instructions (O6) and those that move elements (O10): each is a masked write of one row of
results (R106), and its results agree with its rule's, element by element.
-/

namespace Sys2Proof.Claims

open Sys2Proof.Machine

/-! Elements and the mask. -/

theorem bits_mul_count_le (ty : Fmt) : Num.bits ty * Num.count ty ≤ 512 := by cases ty <;> decide

theorem elem_lt (v w j : Nat) : Num.elem v w j < 2 ^ w := Nat.mod_lt _ (Nat.two_pow_pos w)

theorem elemA_lt (c : Ctx) (ty : Fmt) (a : Reg) (j : Nat) : elemA c ty a j < 2 ^ Num.bits ty := elem_lt ..

theorem bElem_eq_elemB (c : Ctx) (ty : Fmt) (b : Src) (j : Nat) : c.bElem b (Num.bits ty) j = elemB c ty b j := by
  cases b <;> rfl

theorem enabled_eq_testBit (lm w j : Nat) : Num.enabled lm w j = lm.testBit (w * j / 8) := by
  simp only [Num.enabled, Nat.testBit_eq_decide_div_mod_eq, Bool.beq_eq_decide_eq]

/-! Masked writes (R106). -/

/-- An instruction that writes a row of results under the lane mask is as its rule says, where the two rows of results
agree in the bits of an element. -/
theorem masksInto_of_exec {i : Instr} {h : Hdr} {uses : List Use} {ty : Fmt} {d : Reg} {f : Ctx → Nat → Nat} (g : Ctx → Nat → Nat)
    (hexec : ∀ s, exec i s = compute h uses (fun c =>
      c.wv d (Num.lanes (c.rv d) (Num.bits ty) (Num.count ty) (c.lm h).toNat (g c))) s true)
    (hg : ∀ c, ∀ j < Num.count ty, g c j % 2 ^ Num.bits ty = f c j % 2 ^ Num.bits ty) : MasksInto i (h, uses, ty, d, f) := by
  intro s his
  obtain ⟨t, hrun, hdone⟩ := compute_completes his _
  refine ⟨t, _, (hexec s).trans hrun, hdone, fun j hj => ?_, fun b hb => Num.getLsbD_lanes _ _ _ _ _ hb⟩
  rw [Num.elem_lanes _ _ _ (bits_mul_count_le ty) hj, enabled_eq_laneOn, hg _ j hj]

theorem masksInto_elements2 {i : Instr} {h : Hdr} {o : VOps} {f : Nat → Nat → Nat} {r : VRow} (hr : elements2 h o f = some r)
    {g : Nat → Nat → Nat → Nat} (hexec : ∀ s, exec i s = vector3 h o false g s)
    (hg : ∀ a b c, a < 2 ^ Num.bits o.ty → g a b c % 2 ^ Num.bits o.ty = f a b % 2 ^ Num.bits o.ty) : MasksInto i r := by
  cases hr
  exact masksInto_of_exec _ hexec fun c j _ => by
    rw [bElem_eq_elemB]
    exact hg _ _ _ (elemA_lt c o.ty o.a j)

theorem masksInto_elements3 {i : Instr} {h : Hdr} {o : VOps} {f : Nat → Nat → Nat → Nat} {r : VRow}
    (hr : elements3 h o f = some r) {g : Nat → Nat → Nat → Nat} (hexec : ∀ s, exec i s = vector3 h o true g s)
    (hg : ∀ a b c, g a b c = f a b c) : MasksInto i r := by
  cases hr
  exact masksInto_of_exec _ hexec fun c j _ => by
    rw [bElem_eq_elemB, hg]
    rfl

theorem masksInto_elements1 {i : Instr} {h : Hdr} {o : VOps} {f g : Nat → Nat} {r : VRow} (hr : elements1 h o f = some r)
    (hexec : ∀ s, exec i s = vector1 h o g s) (hg : ∀ a < 2 ^ Num.bits o.ty, g a = f a) : MasksInto i r := by
  cases hr
  exact masksInto_of_exec _ hexec fun c j _ => congrArg (· % _) (hg _ (elemA_lt c o.ty o.a j))

theorem masksInto_vectorMap {i : Instr} {h : Hdr} {ty : Fmt} {d : Reg} {uses : List Use} {f g : Ctx → Nat → Nat}
    (hexec : ∀ s, exec i s = vectorMap h ty d uses g s)
    (hg : ∀ c, ∀ j < Num.count ty, g c j % 2 ^ Num.bits ty = f c j % 2 ^ Num.bits ty) : MasksInto i (h, wV d :: uses, ty, d, f) :=
  masksInto_of_exec g hexec hg

/-! The results of one element (R110, R111). -/

theorem arith_eq_number (o : VOps) (ints : Int → Int → Int → Int) (vals : Num.Val → Num.Val → Num.Val → Num.Val) (a b c : Nat) :
    arith o.ty o.rnd o.sat ints vals a b c =
      number o (ints a b c) (vals (Num.value o.ty a) (Num.value o.ty b) (Num.value o.ty c)) := rfl

theorem signed_of_lt {ty : Fmt} {a : Nat} (ha : a < 2 ^ Num.bits ty) : Num.signed a (Num.bits ty) =
    if 2 ^ (Num.bits ty - 1) ≤ a then (a : Int) - (2 ^ Num.bits ty : Nat) else a := by
  simp only [Num.signed, ne_eq, bits_ne_zero, not_false_eq_true, true_and, Nat.mod_eq_of_lt ha]

theorem absNeg_of_lt (neg : Bool) {ty : Fmt} (sat : Bool) {a : Nat} (ha : a < 2 ^ Num.bits ty) : absNeg neg ty sat a =
    if Num.isInt ty then
      let r : Int := if neg then -intOf ty a else (intOf ty a).natAbs
      ((if sat then limited ty r else r) % (2 ^ Num.bits ty : Nat)).toNat
    else signOp neg ty a := by
  simp only [absNeg, signOp, intElem_eq_intOf, sat_eq_limited, Num.wrap, Nat.mod_eq_of_lt ha]

/-- R118: element j of an even row of n, taken from halves, is the one that its place in both rows together names. -/
theorem unzip_place {n j o : Nat} (hn : 2 * (n / 2) = n) (hj : j < n) (ho : o < 2) :
    (j < n / 2 ↔ 2 * j + o < n) ∧ 2 * (j % (n / 2)) + o = if 2 * j + o < n then 2 * j + o else 2 * j + o - n := by
  by_cases hlow : j < n / 2
  · rw [Nat.mod_eq_of_lt hlow]
    split <;> omega
  · have hmod : j % (n / 2) = j - n / 2 := by
      rw [Nat.mod_eq_sub_mod (by omega), Nat.mod_eq_of_lt (by omega)]
    rw [hmod]
    split <;> omega

theorem count_even (ty : Fmt) : 2 * (Num.count ty / 2) = Num.count ty := by cases ty <;> decide

/-! The rows. -/

theorem vectorArithmeticResult : VectorArithmeticResult := by
  intro i r hr
  unfold vectorArithmetic at hr
  split at hr
  case h_1 => exact masksInto_elements2 hr exec_vadd fun _ _ _ _ => by rw [arith_eq_number]
  case h_2 => exact masksInto_elements2 hr exec_vsub fun _ _ _ _ => by rw [arith_eq_number]
  case h_3 => exact masksInto_elements2 hr exec_vmul fun _ _ _ _ => by rw [arith_eq_number]
  case h_4 => exact masksInto_elements3 hr exec_vfma fun _ _ _ => by rw [arith_eq_number]
  case h_5 => exact masksInto_elements3 hr exec_vfms fun _ _ _ => by rw [arith_eq_number]
  case h_6 => exact masksInto_elements3 hr exec_vfnma fun _ _ _ => by rw [arith_eq_number]
  case h_7 => exact masksInto_elements2 hr exec_vdiv fun _ _ _ _ => rfl
  case h_8 => exact masksInto_elements1 hr exec_vsqrt fun _ _ => rfl
  case h_9 => exact masksInto_elements2 hr exec_vmin fun _ _ _ _ => by rw [minMax_false]
  case h_10 => exact masksInto_elements2 hr exec_vmax fun _ _ _ _ => by rw [minMax_true]
  case h_11 => exact masksInto_elements2 hr exec_vand fun _ _ _ _ => rfl
  case h_12 => exact masksInto_elements2 hr exec_vor fun _ _ _ _ => rfl
  case h_13 => exact masksInto_elements2 hr exec_vxor fun _ _ _ _ => rfl
  case h_14 => exact masksInto_elements2 hr exec_vshl fun _ _ _ _ => Nat.mod_mod ..
  case h_15 => exact masksInto_elements2 hr exec_vshr fun _ _ _ _ => rfl
  case h_16 => cases hr

theorem vectorIntegerResult : VectorIntegerResult := by
  intro i r hr
  unfold vectorInteger at hr
  split at hr
  case h_1 => exact masksInto_elements2 hr exec_vshra fun _ _ _ ha => by rw [signed_of_lt ha, Num.wrap]
  case h_2 =>
    exact masksInto_elements2 hr exec_vadds fun _ _ _ _ => by
      rw [intElem_eq_intOf, intElem_eq_intOf, sat_eq_limited, Num.wrap]
  case h_3 =>
    exact masksInto_elements2 hr exec_vsubs fun _ _ _ _ => by
      rw [intElem_eq_intOf, intElem_eq_intOf, sat_eq_limited, Num.wrap]
  case h_4 => exact masksInto_elements2 hr exec_vmulh fun _ _ _ _ => by rw [intElem_eq_intOf, intElem_eq_intOf, Num.wrap]
  case h_5 => exact masksInto_elements1 hr exec_vabs fun _ ha => absNeg_of_lt false _ ha
  case h_6 => exact masksInto_elements1 hr exec_vneg fun _ ha => absNeg_of_lt true _ ha
  case h_7 => cases hr

theorem vectorShapeResult : VectorShapeResult := by
  intro i r hr
  unfold vectorShape at hr
  split at hr <;> cases hr
  case h_1 =>
    refine masksInto_vectorMap exec_vsel fun c j _ => ?_
    rw [enabled_eq_testBit, bElem_eq_elemB]
    rfl
  case h_2 => exact masksInto_vectorMap exec_vperm fun _ _ _ => rfl
  case h_3 => exact masksInto_vectorMap exec_vrot fun _ _ _ => by rw [indexOf, elemA, Nat.add_mod_mod]
  -- VBCAST of a scalar and of an element
  case h_4 => exact masksInto_vectorMap exec_vbcast fun _ _ _ => Nat.mod_mod ..
  case h_5 => exact masksInto_vectorMap exec_vbcast fun _ _ _ => rfl
  case h_6 =>
    refine masksInto_vectorMap exec_vins fun c j _ => ?_
    unfold indexOf
    split
    · exact Nat.mod_mod ..
    · rfl
  case h_7 => exact masksInto_vectorMap exec_vmov fun _ _ _ => by rw [bElem_eq_elemB]
  case h_8 => exact masksInto_vectorMap exec_vzip fun c _ _ => by rw [elemA, apply_ite c.rv]
  case h_9 _ ty odd d a b =>
    refine masksInto_vectorMap exec_vunzip fun c j hj => ?_
    have ho : odd.toNat = if odd then 1 else 0 := by cases odd <;> rfl
    obtain ⟨hhalf, hplace⟩ := unzip_place (count_even ty) hj odd.toNat_lt
    rw [← ho]
    simp only [hhalf, hplace]
    by_cases hlow : 2 * j + odd.toNat < Num.count ty
    · simp only [if_pos hlow]; rfl
    · simp only [if_neg hlow]; rfl
  case h_10 => exact masksInto_vectorMap exec_vrcp fun _ _ _ => rfl
  case h_11 => exact masksInto_vectorMap exec_vrsq fun _ _ _ => rfl
  case h_12 => exact masksInto_vectorMap exec_vexp fun _ _ _ => rfl
  case h_13 =>
    refine masksInto_vectorMap (fun s => ?_) fun _ _ _ => rfl
    rw [exec_vlut, execVlut, ← apply_ite (rV _ :: ·)]
    rfl

theorem vectorExtractResult : VectorExtractResult := by
  intro h ty d a b s his c x
  obtain ⟨t, hrun, hdone⟩ := compute_completes his _
  refine ⟨t, hrun, ?_⟩
  rw [← intElem_eq_intOf]
  exact hdone

end Sys2Proof.Claims

open Sys2Proof.Claims

/-- Settles O6: every lane-wise instruction is a masked write of the results that its row gives. -/
theorem vectorArithmetic : Obligations.VectorArithmetic := ⟨vectorArithmeticResult, vectorIntegerResult⟩

/-- Settles O10: every movement and function is a masked write of the elements that its row names; VEXT writes gD. -/
theorem vectorShape : Obligations.VectorShape := ⟨vectorShapeResult, vectorExtractResult⟩
end

section
/-!
PROOFS. Vector comparison (O7) and conversion (O8).
-/

namespace Sys2Proof.Claims

open Sys2Proof.Machine

/-! Predicates by byte lane (R113). -/

theorem vcmp_eq_vrelation (rel : FRel) (ty : Fmt) (a b : Nat) : Flags.vcmp rel ty a b = vrelation rel ty a b := by
  have hint (x : Nat) : (if Num.isSigned ty then Num.signed x (Num.bits ty) else (x : Int)) = intOf ty x := intElem_eq_intOf ty x
  unfold Flags.vcmp vrelation
  cases rel <;> simp only [hint, Bool.beq_eq_decide_eq, bne, decide_not]

theorem testBit_pack_one {n i : Nat} (p : Nat → Bool) (hi : i < n) : (Num.pack 1 n fun i => (p i).toNat).testBit i = p i := by
  have helem := Num.elem_pack 1 n (fun i => (p i).toNat) hi
  simp only [Num.elem, Nat.one_mul, Nat.pow_one] at helem
  rw [Nat.testBit_eq_decide_div_mod_eq, helem]
  cases p i <;> rfl

/-- R113: a bit of a predicate that VCMP writes is the result of the element in whose byte lane it lies, where that is
enabled. -/
theorem getLsbD_flagsLanes (c : Ctx) (h : Hdr) (ty : Fmt) (old : W64) (t : Nat → Bool) {i : Nat} (hi : i < 64) :
    (Flags.lanes old (Num.bits ty) (Num.count ty) (c.lm h) t).getLsbD i =
      if 8 * i / Num.bits ty < Num.count ty ∧ laneOn c h ty (8 * i / Num.bits ty) then t (8 * i / Num.bits ty) else old.getLsbD i := by
  rw [Flags.lanes, BitVec.getLsbD_ofNat, testBit_pack_one _ hi]
  simp only [hi, decide_true, Bool.true_and, enabled_eq_laneOn, Nat.mul_comm i 8, Bool.and_eq_true, decide_eq_true_eq]

/-- VCMP compares as its rule says. -/
theorem exec_vcmp_vrelation (h : Hdr) (rel : FRel) (ty : Fmt) (d : KReg) (e : Option KReg) (a : Reg) (b : Src) (s : State) :
    exec (.vcmp h rel ty d e a b) s = compute h (rV a :: wK d :: useE e ++ rSV b) (fun c =>
      let t j := vrelation rel ty (elemA c ty a j) (elemB c ty b j)
      let c' := c.wk d (Flags.lanes (c.rk d) (Num.bits ty) (Num.count ty) (c.lm h) t)
      match e with
      | some e => c'.wk e (Flags.lanes (c.rk e) (Num.bits ty) (Num.count ty) (c.lm h) fun j => !t j)
      | none => c') s true := by
  simp only [exec_vcmp, execVcmp, bElem_eq_elemB, vcmp_eq_vrelation] <;> rfl

/-! Conversions (R115). -/

/-- An element that lies below bit m is kept where the row is cut off there. -/
theorem elem_mod_two_pow (v : Nat) {w j m : Nat} (hm : w * (j + 1) ≤ m) : Num.elem (v % 2 ^ m) w j = Num.elem v w j := by
  rw [Nat.mul_succ] at hm
  refine Nat.eq_of_testBit_eq fun b => ?_
  simp only [Num.elem, Nat.testBit_mod_two_pow, Nat.testBit_div_two_pow]
  by_cases hb : b < w
  · have hin : b + w * j < m := by omega
    simp only [hin, decide_true, Bool.true_and]
  · simp only [hb, decide_false, Bool.false_and]

theorem elem_clear6 {ty : Fmt} (v : Vec) {j : Nat} (hj : j < Num.count ty) :
    Num.elem (clear6 ty v).toNat (Num.bits ty) j = Num.elem v.toNat (Num.bits ty) j := by
  unfold clear6
  split
  · next hw =>
    have hj : j < 64 := by rwa [Num.count, if_pos hw] at hj
    rw [hw, BitVec.toNat_ofNat, Nat.mod_eq_of_lt (Nat.lt_of_le_of_lt (Nat.mod_le ..) v.isLt)]
    exact elem_mod_two_pow v.toNat (by omega)
  · rfl

theorem getLsbD_clear6 {ty : Fmt} (hw : Num.bits ty = 6) (v : Vec) {b : Nat} (hb : 384 ≤ b) : (clear6 ty v).getLsbD b = false := by
  rw [clear6, if_pos hw, BitVec.getLsbD_ofNat, Nat.testBit_mod_two_pow, decide_eq_false (Nat.not_lt.2 hb), Bool.false_and,
    Bool.and_false]

theorem ite_ite_eq_ite_and {α : Type} (p q : Prop) [Decidable p] [Decidable q] (x y : α) :
    (if p then if q then x else y else y) = if p ∧ q then x else y := by
  by_cases hp : p
  · simp only [hp, true_and, if_true]
  · simp only [hp, false_and, if_false]

end Sys2Proof.Claims

open Sys2Proof Sys2Proof.Machine Sys2Proof.Claims

/-- Settles O7: both predicates are read bit by bit, each from the element in whose byte lane the bit lies. -/
theorem vectorCompareResult : Obligations.VectorCompareResult := by
  unfold Obligations.VectorCompareResult
  intro h rel ty d e a b s his c lane holds
  obtain ⟨t, hrun, hdone⟩ := compute_completes his _
  have hexec := (exec_vcmp_vrelation h rel ty d e a b s).trans hrun
  cases e with
  | none => exact ⟨t, _, 0, hexec, hdone, fun i hi => getLsbD_flagsLanes _ _ _ _ _ hi, fun _ he => by cases he⟩
  | some e =>
    refine ⟨t, _, _, hexec, hdone, fun i hi => getLsbD_flagsLanes _ _ _ _ _ hi, ?_⟩
    rintro _ ⟨⟩ i hi
    exact getLsbD_flagsLanes _ _ _ _ _ hi

/-- Settles O8: the elements of the part are converted and the others read back, under one masked write. -/
theorem vectorConvertResult : Obligations.VectorConvertResult := by
  unfold Obligations.VectorConvertResult
  intro h src dst rnd sat d a idx s his c n from_ base
  obtain ⟨t, hrun, hdone⟩ := compute_completes his _
  refine ⟨t, _, hrun, hdone, fun j hj => ?_, fun hw b hb => getLsbD_clear6 hw _ hb⟩
  rw [elem_clear6 _ hj, Num.elem_lanes _ _ _ (bits_mul_count_le dst) hj, enabled_eq_laneOn, apply_ite (· % 2 ^ Num.bits dst),
    Nat.mod_eq_of_lt (elem_lt ..)]
  exact ite_ite_eq_ite_and ..
end

section
/-!
PROOFS. What an instruction finds of the purlins and of the bank at its issue, and what its turn leaves of them (R125 to
R129).
-/

namespace Sys2Proof.Machine

theorem Core.rest_purlins {c d : Core} (h : c.rest = d.rest) : c.purlins = d.purlins := by
  have := congrArg Core.purlins h; exact this
theorem Core.rest_reads {c d : Core} (h : c.rest = d.rest) : c.reads = d.reads := by
  have := congrArg Core.reads h; exact this
theorem Core.rest_bankAt {c d : Core} (h : c.rest = d.rest) : c.bankAt = d.bankAt := by
  have := congrArg Core.bankAt h; exact this
theorem Core.rest_team {c d : Core} (h : c.rest = d.rest) : c.team = d.team := by
  have := congrArg Core.team h; exact this

section
variable {s t : State} {c : Ctx}

theorem Worked.purlin (w : Worked s t c) (k n : Nat) : t.purlin k n = s.purlin k n := by
  rw [State.purlin, Core.rest_purlins (w.cores k)]
  rfl

theorem Worked.purlinFault (w : Worked s t c) (u : Tid) (pn : BitVec 2) (torn : Bool) :
    t.purlinFault u pn torn = s.purlinFault u pn torn := by
  simp only [State.purlinFault, w.purlin]

theorem Worked.locked (w : Worked s t c) (k n at_ : Nat) : t.locked k n at_ = s.locked k n at_ := by
  simp only [State.locked, w.purlin, Core.rest_reads (w.cores k)]

theorem Worked.regionOf (w : Worked s t c) (u : Tid) : t.regionOf u = s.regionOf u := by
  have htask : (t.slot u).task = (s.slot u).task := by have := congrArg Slot.task (w.slot_rest u); exact this
  simp only [State.regionOf, State.team, State.teamNo, htask, Core.rest_team (w.cores u.core), State.rest_teams w.rest]

/-- The same change of a core's own fields, which reads no slot and nothing that an issue moves. -/
theorem Worked.modCoreRest (w : Worked s t c) (k : Nat) (f : Core → Core) (hs : ∀ c, (f c).slots = c.slots)
    (hr : ∀ c, (f c).rest = f c.rest) : Worked (s.modCore k f) (t.modCore k f) c :=
  w.modCore k f hs fun c d h => by rw [hr c, hr d, h]

/-- The same act, as many cycles on. -/
theorem Worked.actAt (w : Worked s t c) (n : Nat) (a : Act) : Worked (s.actAt (s.now + n) a) (t.actAt (t.now + n) a) c := by
  rw [w.now]
  exact w.sched ..

theorem Worked.setPurlin (w : Worked s t c) (k n : Nat) (p : Purlin) : Worked (s.setPurlin k n p) (t.setPurlin k n p) c :=
  w.modCoreRest k _ (fun _ => rfl) fun _ => rfl

theorem Worked.bankNext (w : Worked s t c) (k : Nat) : Worked (s.bankNext k) (t.bankNext k) c := by
  unfold State.bankNext State.landAt
  rw [w.now, Core.rest_bankAt (w.cores k)]
  split
  · exact w
  · exact (w.modCoreRest k (fun c => { c with bankAt := s.now + 1 }) (fun _ => rfl) fun _ => rfl).sched ..

theorem Worked.enqueueBank (w : Worked s t c) (k : Nat) (op : BankOp) : Worked (s.enqueueBank k op) (t.enqueueBank k op) c :=
  (w.modCoreRest k (fun c => { c with bank := c.bank ++ [op] }) (fun _ => rfl) fun _ => rfl).bankNext k

theorem bankOp_eq (s : State) (kind : BankKind) (h : Hdr) (pn : BitVec 2) : s.bankOp kind h pn =
    ({ id := s.newId.1, kind := kind, tid := s.cur, len := bytesOf h, pn := pn, issue := s.now, pd := (s.ctx s.cur).pd },
      s.newId.2) := rfl

theorem Worked.bankOp (w : Worked s t (s.ctx s.cur)) (kind : BankKind) (h : Hdr) (pn : BitVec 2) :
    t.bankOp kind h pn = ((s.bankOp kind h pn).1, t.newId.2) := by
  rw [bankOp_eq, bankOp_eq, w.newId.1, w.cur, w.ctx, w.now]

end

theorem State.ctx_modCore_of_slots (s : State) (k : Nat) (f : Core → Core) (hf : ∀ c, (f c).slots = c.slots) (u : Tid) :
    (s.modCore k f).ctx u = s.ctx u := by
  rw [State.ctx, State.slot_modCore]
  split
  · next h => subst h; simp only [Core.slot, hf]; rfl
  · rfl

@[simp] theorem bankNext_cur (s : State) (k : Nat) : (s.bankNext k).cur = s.cur := by
  unfold State.bankNext
  split <;> rfl

@[simp] theorem bankNext_ctx (s : State) (k : Nat) (u : Tid) : (s.bankNext k).ctx u = s.ctx u := by
  have hmod := s.ctx_modCore_of_slots k (fun c => { c with bankAt := s.now + 1 }) (fun _ => rfl) u
  unfold State.bankNext
  split
  · rfl
  · exact hmod

@[simp] theorem enqueueBank_cur (s : State) (k : Nat) (op : BankOp) : (s.enqueueBank k op).cur = s.cur := bankNext_cur ..

@[simp] theorem enqueueBank_ctx (s : State) (k : Nat) (op : BankOp) (u : Tid) : (s.enqueueBank k op).ctx u = s.ctx u :=
  (bankNext_ctx ..).trans (s.ctx_modCore_of_slots k (fun c => { c with bank := c.bank ++ [op] }) (fun _ => rfl) u)

/-! Issues with an effect beyond the registers. -/

section
variable {h : Hdr} {uses : List Use} {s : State} {kpriv vec stepped : Bool} {body : Bool → State → Step1}

/-- An issue that completes with the effects of state r on the package. -/
theorem issue_completes {r t : State} {c : Ctx} (resv own : Bool) (hi : Issues h uses s kpriv vec stepped)
    (hb : body true (s.begun h uses stepped) = .next t) (w : Worked r t c) (hcur : r.cur = s.cur) :
    ∃ t, issue h uses body s kpriv vec resv stepped own = .next t ∧ Completes r t c (s.nextPc h) :=
  ⟨_, by rw [issue_passes resv hi body own, hb]; rfl, hcur ▸ w.completes _⟩

/-- An issue whose thread waits for a message that it has sent, with the effects of state r on the package. -/
theorem issue_sent {r t : State} {id : Nat} (resv own : Bool) (hi : Issues h uses s kpriv vec stepped)
    (hb : body true (s.begun h uses stepped) = .sent t id) (w : Worked r t (s.ctx s.cur)) (hcur : r.cur = s.cur)
    (hctx : r.ctx s.cur = s.ctx s.cur) :
    ∃ t, issue h uses body s kpriv vec resv stepped own = .next t ∧ Leaves (r.setSt s.cur (.waiting (.event id))) t := by
  refine ⟨_, by rw [issue_passes resv hi body own, hb, State.settle], Worked.leaves ?_⟩
  have hctx' : (r.setSt s.cur (.waiting (.event id))).ctx (r.setSt s.cur (.waiting (.event id))).cur = s.ctx s.cur := by
    rw [State.setSt_cur, State.ctx_setSt, hcur, hctx]
  rw [hctx']
  exact (w.calm s.cur).setSt ..

/-- An issue that waits, with nothing done. -/
theorem issue_waits {x : Wait} (resv own : Bool) (hi : Issues h uses s kpriv vec stepped)
    (hb : body true (s.begun h uses stepped) = .wait x) :
    ∃ t, issue h uses body s kpriv vec resv stepped own = .next t ∧ Leaves (s.setSt s.cur (.waiting x)) t := by
  refine ⟨_, by rw [issue_passes resv hi body own, hb, State.settle], Worked.leaves ?_⟩
  rw [State.setSt_cur, State.ctx_setSt]
  exact ((worked_begun s h uses stepped).calm s.cur).setSt ..

/-- R129: an operation enters the bank, and its thread waits for it. -/
theorem issue_toBank {op : BankOp} (resv own : Bool) (hi : Issues h uses s kpriv vec stepped) (ht : op.tid = s.cur)
    (hb : body true (s.begun h uses stepped) = (s.begun h uses stepped).newId.2.toBank op) :
    ∃ t, issue h uses body s kpriv vec resv stepped own = .next t ∧
      Leaves ((s.newId.2.enqueueBank s.cur.core op).setSt s.cur (.waiting (.event op.id))) t := by
  rw [State.toBank, ht] at hb
  refine issue_sent resv own hi hb ((worked_begun s h uses stepped).newId.2.enqueueBank ..) (enqueueBank_cur ..) ?_
  rw [enqueueBank_ctx]
  rfl

end

end Sys2Proof.Machine
end

section
/-!
PROOFS. The issue of the purlin and rafter instructions (O36).
-/

namespace Sys2Proof.Claims

open Sys2Proof.Machine

/-! What an issue finds (R127, R128, R148). -/

theorem owned_iff (p : Purlin) (n : Nat) : p.owned n = true ↔ p.claimed = true ∧ p.owner.toNat = n := by
  rw [Purlin.owned, Bool.and_eq_true, beq_iff_eq]

theorem purlinFault_eq_ownFault (s : State) (pn : BitVec 2) (torn : Bool) : s.purlinFault s.cur pn torn = ownFault s pn torn := by
  simp only [State.purlinFault, ownFault, ← owned_iff, Bool.not_eq_true', Bool.not_eq_true, Bool.and_eq_true]
  rfl

section
variable {h : Hdr} {uses : List Use} {s : State} {st : Bool}

theorem purlinFault_begun (pn : BitVec 2) (torn : Bool) :
    (s.begun h uses st).purlinFault s.cur pn torn = ownFault s pn torn :=
  ((worked_begun s h uses st).purlinFault ..).trans (purlinFault_eq_ownFault ..)

theorem purlin_begun (k n : Nat) : (s.begun h uses st).purlin k n = s.purlin k n := (worked_begun s h uses st).purlin k n

theorem bankOp_begun (kind : BankKind) (h' : Hdr) (pn : BitVec 2) :
    (s.begun h uses st).bankOp kind h' pn = (opOf s h' kind pn, (s.begun h uses st).newId.2) :=
  (worked_begun s h uses st).bankOp kind h' pn

/-! RCLR, PREL and RGLD (R148). -/

theorem atOnce_fault {h' : Hdr} {pn : BitVec 2} {kind : BankKind} {f : Flt} (k : State → Step1)
    (hf : ownFault s pn false = some f) :
    atOnce h' pn kind k (s.begun h uses st) = .fault f := by
  simp only [atOnce, begun_cur, purlinFault_begun, hf]

theorem atOnce_held {h' : Hdr} {pn : BitVec 2} {kind : BankKind} (k : State → Step1) (hf : ownFault s pn false = none)
    (hh : Held s pn) : atOnce h' pn kind k (s.begun h uses st) = (s.begun h uses st).newId.2.toBank (opOf s h' kind pn) := by
  have hlock : (s.begun h uses st).locked s.cur.core pn.toNat s.now = true := ((worked_begun s h uses st).locked ..).trans hh
  simp only [atOnce, begun_cur, begun_now, purlinFault_begun, hf, hlock, if_true, bankOp_begun]

theorem atOnce_free {h' : Hdr} {pn : BitVec 2} {kind : BankKind} (k : State → Step1) (hf : ownFault s pn false = none)
    (hh : ¬ Held s pn) : atOnce h' pn kind k (s.begun h uses st) = k (s.begun h uses st) := by
  have hlock : ¬ (s.begun h uses st).locked s.cur.core pn.toNat s.now = true := by rwa [(worked_begun s h uses st).locked]
  simp only [atOnce, begun_cur, begun_now, purlinFault_begun, hf, if_neg hlock]

end

/-- R126: a guard state is its high word above its low one. -/
theorem setGuard_eq_guardedOf (p : Purlin) (a b : W64) : p.setGuard (a.toNat + b.toNat * 2 ^ 64) = guardedOf p a b := by
  have ha := a.isLt
  have hn : BitVec.ofNat 14 ((a.toNat + b.toNat * 2 ^ 64) / 2 ^ 114) = b.extractLsb' 50 14 := by
    refine BitVec.eq_of_toNat_eq ?_
    rw [BitVec.toNat_ofNat, BitVec.extractLsb'_toNat, Nat.shiftRight_eq_div_pow]
    omega
  have hbase : BitVec.ofNat 12 ((a.toNat + b.toNat * 2 ^ 64) / 2 ^ 102) = b.extractLsb' 38 12 := by
    refine BitVec.eq_of_toNat_eq ?_
    rw [BitVec.toNat_ofNat, BitVec.extractLsb'_toNat, Nat.shiftRight_eq_div_pow]
    omega
  have htorn : (a.toNat + b.toNat * 2 ^ 64).testBit 101 = b.getLsbD 37 := by
    rw [BitVec.getLsbD, Nat.testBit_eq_decide_div_mod_eq, Nat.testBit_eq_decide_div_mod_eq, decide_eq_decide]
    omega
  have hbound : BitVec.ofNat 95 (a.toNat + b.toNat * 2 ^ 64) = b.extractLsb' 0 31 ++ a := by
    refine BitVec.eq_of_toNat_eq ?_
    rw [BitVec.toNat_ofNat, BitVec.toNat_append, ← Nat.shiftLeft_add_eq_or_of_lt a.isLt, BitVec.extractLsb'_toNat,
      Nat.shiftLeft_eq, Nat.shiftRight_zero]
    omega
  rw [Purlin.setGuard, hn, hbase, htorn, hbound, guardedOf]

theorem claim_won_iff (p : Purlin) (n : Nat) :
    (if p.claimed then p.owner.toNat == n else p.claims.all (· == n)) = true ↔
      if p.claimed = true then p.owner.toNat = n else ∀ x ∈ p.claims, x = n := by
  split <;> simp only [beq_iff_eq, List.all_eq_true]

theorem claimResult : ClaimResult := by
  intro h d pn s his p k n free
  have hwon := claim_won_iff (s.purlin s.cur.core pn.toNat) s.cur.slot
  have w := worked_begun s h [wG d] false
  simp only [exec_pclaim, execPclaim]
  refine ⟨fun hfree => ?_, fun hfree => ?_⟩
  · have w' := ((w.setPurlin k pn.toNat { p with claims := p.claims ++ [n] }).actAt 3
      (.claim k pn.toNat n true true)).modCtx (·.wg d 1)
    refine issue_completes true true his ?_ w' rfl
    simp only [begun_cur, purlin_begun, hwon.2 hfree, if_true, Bool.not_true, Bool.false_eq_true, if_false]
    rfl
  · refine issue_completes true true his ?_ (w.modCtx (·.wg d 0)) rfl
    simp only [begun_cur, purlin_begun, mt hwon.1 hfree, Bool.not_true, Bool.false_eq_true, if_false]

theorem clearResult : ClearResult := by
  intro h pn s p k sets
  simp only [exec_rclr, execRclr, exec_prel, execPrel, exec_rgld, execRgld]
  refine ⟨fun his => ⟨fun hf hh => ⟨?rclr, ?prel⟩, fun hf hh => ⟨?_, ?_⟩, fun f hf => ⟨?_, ?_⟩⟩, fun a b his hf hh => ?rgld⟩
  case rclr =>
    have w := (worked_begun s h [] false).setPurlin k pn.toNat (clearedOf p)
    refine issue_completes false false his ((atOnce_free _ hf hh).trans ?_) w rfl
    rw [begun_cur, purlin_begun]
    rfl
  case prel =>
    have w := (worked_begun s h [] false).actAt 3 (.release k pn.toNat)
    refine issue_completes false false his ((atOnce_free _ hf hh).trans ?_) w rfl
    rw [begun_cur]
  case rgld =>
    have w := (worked_begun s h [rG a, rG b] false).setPurlin k pn.toNat (guardedOf p ((s.ctx s.cur).rg a) ((s.ctx s.cur).rg b))
    refine issue_completes false false his ((atOnce_free _ hf hh).trans ?_) w rfl
    rw [begun_cur, begun_ctx, purlin_begun, setGuard_eq_guardedOf]
    rfl
  · exact issue_toBank false false his rfl (atOnce_held _ hf hh)
  · exact issue_toBank false false his rfl (atOnce_held _ hf hh)
  · exact issue_fault false his f (atOnce_fault _ hf)
  · exact issue_fault false his f (atOnce_fault _ hf)

/-! RMUL, RTILE and RTILES (R124, R141, R142). -/

theorem length_eraseDups_le (l : List Nat) : l.eraseDups.length ≤ l.length := by
  match l with
  | [] => simp
  | a :: as =>
    have hfilter := List.length_filter_le (fun b => !b == a) as
    have ih := length_eraseDups_le (as.filter fun b => !b == a)
    rw [List.eraseDups_cons, List.length_cons, List.length_cons]
    omega
termination_by l.length
decreasing_by simp only [List.length_cons]; omega

/-- Removing repetitions shortens a list exactly where it has some. -/
theorem length_eraseDups_eq_iff (l : List Nat) : l.eraseDups.length = l.length ↔ l.Nodup := by
  induction l with
  | nil => simp
  | cons a as ih =>
    rw [List.eraseDups_cons, List.length_cons, List.length_cons, List.nodup_cons, Nat.succ_inj, ← ih]
    have hle := length_eraseDups_le (as.filter fun b => !b == a)
    have hfilter := List.length_filter_le (fun b => !b == a) as
    constructor
    · intro heq
      have hall : (as.filter fun b => !b == a) = as := List.filter_eq_self.2 (List.length_filter_eq_length_iff.1 (by omega))
      rw [hall] at heq
      refine ⟨fun ha => ?_, heq⟩
      simpa using List.filter_eq_self.1 hall a ha
    · rintro ⟨ha, heq⟩
      rw [List.filter_eq_self.2 fun b hb => ?_]
      · exact heq
      · simpa using fun h : b = a => ha (h ▸ hb)

theorem pdFault_eq_false_iff (o : RafOps) (kind : BankKind) (pd : W64) : pdFault o kind pd = false ↔ descriptorSuits kind o pd := by
  simp only [pdFault, descriptorSuits, Bool.or_eq_false_iff, Bool.not_eq_false', bne_eq_false_iff_eq, length_eraseDups_eq_iff,
    and_assoc]
  refine and_congr_right fun _ => and_congr_left fun _ => ?_
  split <;> simp

theorem multiply_issue : MultiplyIssue := by
  intro i h o kind hi s his pd n rows per pass passes
  have hexec : exec i s = multiplyIssue h o kind s := by
    rcases hi with ⟨rfl, rfl⟩ | ⟨rfl, rfl⟩ | ⟨rfl, rfl⟩ <;> rfl
  rw [hexec, multiplyIssue]
  refine ⟨fun f hf => issue_fault false his f ?_, fun hf hd => issue_fault false his _ ?_,
    fun hf hd => issue_toBank false false his rfl ?_⟩
  · simp only [begun_cur, purlinFault_begun, hf]
  · rw [← pdFault_eq_false_iff, Bool.not_eq_false] at hd
    simp only [begun_cur, begun_ctx, purlinFault_begun, hf, hd, if_true, pd]
    rfl
  · rw [← pdFault_eq_false_iff] at hd
    simp only [begun_cur, begun_ctx, purlinFault_begun, hf, hd, Bool.false_eq_true, if_false, bankOp_begun, pd]
    rfl

/-! The operations of R408. -/

/-- What the issue of a stepped instruction comes to, where f is what its checks find. -/
def enterOr (t : State) (f : Option Flt) (op : BankOp) : Step1 :=
  match f with
  | some x => .fault x
  | none => t.newId.2.toBank op

section
variable {h : Hdr} {uses : List Use} {s : State}

theorem stepAddress_begun (pn : BitVec 2) (torn : Bool) (kinds : Nat → Bool) (addr : W64) {bad : Bool} {aligned : Prop}
    [Decidable aligned] (hbad : bad = true ↔ ¬ aligned) :
    stepAddress (s.begun h uses true) pn torn kinds addr bad = addressFault s pn torn kinds addr aligned := by
  simp only [stepAddress, begun_cur, begun_watch, purlinFault_begun, hbad, addressFault]
  rfl

end

theorem misaligned_iff (x y : Nat) : (decide (x ≠ 0) || decide (y ≠ 0)) = true ↔ ¬ (x = 0 ∧ y = 0) := by
  rw [Bool.or_eq_true, decide_eq_true_iff, decide_eq_true_iff, Classical.not_and_iff_not_or_not]

@[simp] theorem newId_cur (s : State) : s.newId.2.cur = s.cur := rfl
@[simp] theorem newId_ctx (s : State) (u : Tid) : s.newId.2.ctx u = s.ctx u := rfl

/-- The outcome of a stepped instruction at its issue: the fault that its checks find, or its operation in the bank. -/
def EntersBank (i : Instr) (s : State) (f : Option Flt) (op : BankOp) : Prop :=
  (∀ x, f = some x → ∃ t, exec i s = .next t ∧ Leaves (s.raiseLater s.cur x) t) ∧
  (f = none → ∃ t, exec i s = .next t ∧ Leaves (inBank s op) t)

section
variable {i : Instr} {h : Hdr} {uses : List Use} {s : State} {f : Option Flt} {op : BankOp}

theorem entersBank_of_body {body : Bool → State → Step1} (his : Issues h uses s (stepped := true))
    (hexec : exec i s = issue h uses body s (stepped := true)) (ht : op.tid = s.cur)
    (hbody : body true (s.begun h uses true) = enterOr (s.begun h uses true) f op) : EntersBank i s f op := by
  unfold EntersBank
  rw [hexec]
  constructor
  · rintro x rfl
    exact issue_fault false his x hbody
  · rintro rfl
    exact issue_toBank false false his ht hbody

theorem rextm_entersBank {o : RextOps} {a : Reg} {row0 rows : BitVec 6} {off : W64}
    (hr : steppedOf s (.rextm h o a row0 rows off) = some (h, uses, f, op)) (his : Issues h uses s (stepped := true)) :
    EntersBank (.rextm h o a row0 rows off) s f op := by
  cases hr
  refine entersBank_of_body his (exec_rextm s) rfl ?_
  simp only [begun_cur, begun_ctx, bankOp_begun]
  rw [stepAddress_begun _ _ _ _ (misaligned_iff ..)]
  rfl

theorem rbase_entersBank {pn : BitVec 2} {a : Reg} (hr : steppedOf s (.rbase h pn a) = some (h, uses, f, op))
    (his : Issues h uses s (stepped := true)) : EntersBank (.rbase h pn a) s f op := by
  cases hr
  refine entersBank_of_body his (exec_rbase s) rfl ?_
  simp only [begun_cur, begun_ctx, newId_cur, newId_ctx, purlinFault_begun, bankOp_begun]
  rfl

theorem enterOr_ite (t : State) (p : Prop) [Decidable p] (x : Flt) (f : Option Flt) (op : BankOp) :
    enterOr t (if p then some x else f) op = if p then .fault x else enterOr t f op := by
  split <;> rfl

theorem rfuse_entersBank {pn : BitVec 2} {a : Reg} (hr : steppedOf s (.rfuse h pn a) = some (h, uses, f, op))
    (his : Issues h uses s (stepped := true)) : EntersBank (.rfuse h pn a) s f op := by
  cases hr
  refine entersBank_of_body his (exec_rfuse s) rfl ?_
  have hcore (v : W64) : bits v 0 3 = v.toNat % 8 := by rw [bits, Nat.pow_zero, Nat.div_one]; rfl
  have hpurlin (v : W64) : bits v 3 2 = v.toNat / 8 % 4 := rfl
  simp only [begun_cur, begun_ctx, purlinFault_begun, bankOp_begun, purlin_begun, (worked_begun _ _ _ _).regionOf, hcore,
    hpurlin, clusterOf]
  cases ownFault s pn false with
  | some x => rfl
  | none =>
    simp only [enterOr_ite, Bool.or_eq_true, Bool.not_eq_true', decide_eq_true_eq, ne_eq]
    rfl

theorem rtest_entersBank {d : Reg} (hr : steppedOf s (.rtest h d) = some (h, uses, f, op))
    (his : Issues h uses s (stepped := true)) : EntersBank (.rtest h d) s f op := by
  cases hr
  refine entersBank_of_body his (exec_rtest s) rfl ?_
  simp only [bankOp_begun]
  rfl

/-- R149: RSAVE and RLOAD. -/
theorem record_entersBank {pn : BitVec 2} {a : Reg} {off : W64} {kind : BankKind} {kinds : Nat → Bool}
    (hexec : exec i s = recordIssue h kind kinds pn a off s) (his : Issues h [rG a] s (stepped := true)) :
    let base := (s.ctx s.cur).rg a + off
    EntersBank i s (addressFault s pn false kinds base (base.toNat % 64 = 0))
      { opOf s h kind pn with base := base, steps := 98 } := by
  rw [recordIssue] at hexec
  refine entersBank_of_body his hexec rfl ?_
  simp only [begun_cur, begun_ctx, bankOp_begun]
  rw [stepAddress_begun _ _ _ _ decide_eq_true_iff]
  rfl

end

theorem steppedIssue : SteppedIssue := by
  intro i s h uses f op hop his
  unfold steppedOf at hop
  split at hop
  case h_1 => cases hop; exact rextm_entersBank rfl his
  case h_2 => cases hop; exact rbase_entersBank rfl his
  case h_3 => cases hop; exact rfuse_entersBank rfl his
  case h_4 => cases hop; exact rtest_entersBank rfl his
  case h_5 => cases hop; exact record_entersBank (exec_rsave s) his
  case h_6 => cases hop; exact record_entersBank (exec_rload s) his
  case h_7 => cases hop

end Sys2Proof.Claims

open Sys2Proof.Claims

/-- Settles O36: each instruction finds at its issue what its rule checks, and takes effect or enters the bank. -/
theorem rafterInstructions : Obligations.RafterInstructions := ⟨claimResult, clearResult, multiply_issue, steppedIssue⟩
end

section
/-!
PROOFS. The held writes of a batten's tail entry (R136, R137, R231): what an update of a batten leaves, and that the turn
of the issuing thread does not change whom it wakes.
-/

namespace Sys2Proof

/-- A value that a test accepts, and the default does not, is listed. -/
theorem Sparse.any_of_get {α : Type} {d : α} {p : α → Bool} (hd : p d = false) {m : Sparse α} {k : Nat} (h : p (m.get d k) = true) :
    m.any (fun x => p x.2) = true := by
  induction m with
  | nil => rw [Sparse.get_nil, hd] at h; cases h
  | cons x m ih =>
    obtain ⟨j, w⟩ := x
    rw [Sparse.get_cons] at h
    rw [List.any_cons, Bool.or_eq_true]
    split at h
    · exact .inl h
    · exact .inr (ih h)

/-- Where the new value of a key passes a test as its old one did, the list passes it as before. -/
theorem Sparse.any_insert {α : Type} {d : α} {p : α → Bool} (hd : p d = false) {m : Sparse α} {k : Nat} {v : α}
    (h : p v = p (m.get d k)) : (m.insert k v).any (fun x => p x.2) = m.any fun x => p x.2 := by
  induction m with
  | nil => simp only [Sparse.insert, List.any_cons, h, Sparse.get_nil, hd, Bool.false_or]
  | cons x m ih =>
    obtain ⟨j, w⟩ := x
    unfold Sparse.insert
    split
    · rw [List.any_cons, Bool.or_eq_right_iff_imp]
      exact fun hv => Sparse.any_of_get hd (h.symm.trans hv)
    · split
      · next hj => rw [List.any_cons, List.any_cons, h, Sparse.get_cons, if_pos hj]
      · next hj =>
        rw [Sparse.get_cons, if_neg hj] at h
        rw [List.any_cons, List.any_cons, ih h]

end Sys2Proof

namespace Sys2Proof.Machine

/-! Wakes (R20). -/

/-- Does the thread of a slot wait for a change of one of the resources? -/
def Slot.waitsOn (keys : List Nat) (x : Slot) : Bool :=
  match x.st with
  | .waiting (.change ks) => ks.any keys.contains
  | _ => false

theorem wakeNext_eq (s : State) (core : Nat) (keys : List Nat) : s.wakeNext core keys =
    if (s.core core).slots.any (fun x => x.2.waitsOn keys) then s.sched (s.now + 1) Phase.land (.act (.wakeKeys core keys))
    else s :=
  rfl

theorem slots_begun (s : State) (h : Hdr) (uses : List Use) (st : Bool) (k : Nat) : ((s.begun h uses st).core k).slots =
    if k = s.cur.core then (s.core k).slots.put {} s.cur.slot { s.slot s.cur with elig := s.now + 16 } else (s.core k).slots := by
  have hbegin : (s.beginIssue.core k).slots =
      if k = s.cur.core then (s.core k).slots.put {} s.cur.slot { s.slot s.cur with elig := s.now + 16 } else (s.core k).slots := by
    simp only [State.beginIssue, State.count, State.core_modCore, Core.modSlot]
    split
    · next hk => subst hk; rfl
    · rfl
  have hverdict : ((if st then s.beginIssue else s.beginIssue.verdict.2).core k).slots = (s.beginIssue.core k).slots := by
    rw [State.verdict_snd]
    cases st <;> rfl
  rw [← hbegin, State.begun, State.core_modCore]
  split
  · next hk => subst hk; exact hverdict
  · exact hverdict

/-- The turn of a thread changes no slot's wait. -/
theorem any_waitsOn_begun (s : State) (h : Hdr) (uses : List Use) (st : Bool) (k : Nat) (keys : List Nat) :
    ((s.begun h uses st).core k).slots.any (fun x => x.2.waitsOn keys) = (s.core k).slots.any fun x => x.2.waitsOn keys := by
  rw [slots_begun]
  split
  · next hk =>
    subst hk
    rw [Sparse.put, if_neg fun he => by have := congrArg Slot.elig he; exact absurd this (Nat.succ_ne_zero _)]
    exact Sparse.any_insert rfl rfl
  · rfl

theorem Worked.wakeNext {s t : State} {c : Ctx} (w : Worked s t c) (k : Nat) (keys : List Nat)
    (hw : (t.core k).slots.any (fun x => x.2.waitsOn keys) = (s.core k).slots.any fun x => x.2.waitsOn keys) :
    Worked (s.wakeNext k keys) (t.wakeNext k keys) c := by
  rw [wakeNext_eq, wakeNext_eq, hw, w.now]
  split
  · exact w.sched ..
  · exact w

@[simp] theorem wakeNext_cur (s : State) (k : Nat) (keys : List Nat) : (s.wakeNext k keys).cur = s.cur := by
  rw [wakeNext_eq]; split <;> rfl
@[simp] theorem wakeNext_now (s : State) (k : Nat) (keys : List Nat) : (s.wakeNext k keys).now = s.now := by
  rw [wakeNext_eq]; split <;> rfl
@[simp] theorem wakeNext_cores (s : State) (k : Nat) (keys : List Nat) : (s.wakeNext k keys).cores = s.cores := by
  rw [wakeNext_eq]; split <;> rfl
@[simp] theorem wakeNext_phys (s : State) (k : Nat) (keys : List Nat) : (s.wakeNext k keys).phys = s.phys := by
  rw [wakeNext_eq]; split <;> rfl
@[simp] theorem wakeNext_teams (s : State) (k : Nat) (keys : List Nat) : (s.wakeNext k keys).teams = s.teams := by
  rw [wakeNext_eq]; split <;> rfl

/-! Updates of a batten. -/

@[simp] theorem setBatten_cur (s : State) (k b : Nat) (v : Batten) : (s.setBatten k b v).cur = s.cur := wakeNext_cur ..
@[simp] theorem setBatten_now (s : State) (k b : Nat) (v : Batten) : (s.setBatten k b v).now = s.now := wakeNext_now ..
@[simp] theorem setBatten_phys (s : State) (k b : Nat) (v : Batten) : (s.setBatten k b v).phys = s.phys := wakeNext_phys ..
@[simp] theorem setBatten_teams (s : State) (k b : Nat) (v : Batten) : (s.setBatten k b v).teams = s.teams := wakeNext_teams ..

theorem core_setBatten (s : State) (k b : Nat) (v : Batten) (j : Nat) : (s.setBatten k b v).core j =
    if j = k then { s.core k with battens := (s.core k).battens.put {} b v } else s.core j := by
  rw [State.core, State.setBatten, wakeNext_cores]
  exact State.core_modCore ..

theorem slot_setBatten (s : State) (k b : Nat) (v : Batten) (u : Tid) : (s.setBatten k b v).slot u = s.slot u := by
  rw [State.slot, core_setBatten]
  split
  · next h => rw [State.slot, h]; rfl
  · rfl

@[simp] theorem ctx_setBatten (s : State) (k b : Nat) (v : Batten) (u : Tid) : (s.setBatten k b v).ctx u = s.ctx u := by
  rw [State.ctx, slot_setBatten]
  rfl

theorem batten_setBatten (s : State) (k b : Nat) (v : Batten) (p : Nat) :
    (s.setBatten k b v).batten k p = if p = b then v else s.batten k p := by
  rw [State.batten, core_setBatten, if_pos rfl]
  exact Sparse.get_put ..

@[simp] theorem regionOf_setBatten (s : State) (k b : Nat) (v : Batten) (u : Tid) :
    (s.setBatten k b v).regionOf u = s.regionOf u := by
  have hteam : ((s.setBatten k b v).core u.core).team = (s.core u.core).team := by
    rw [core_setBatten]
    split
    · next h => rw [h]
    · rfl
  simp only [State.regionOf, State.team, State.teamNo, slot_setBatten, hteam, setBatten_teams]

section
variable {s : State} {h : Hdr} {uses : List Use} {st : Bool}

theorem batten_begun (k b : Nat) : (s.begun h uses st).batten k b = s.batten k b := by
  have hb := congrArg Core.battens ((worked_begun s h uses st).cores k)
  rw [State.batten, show ((s.begun h uses st).core k).battens = (s.core k).battens from hb]
  rfl

theorem worked_setBatten_begun (k b : Nat) (v : Batten) :
    Worked (s.setBatten k b v) ((s.begun h uses st).setBatten k b v) (s.ctx s.cur) := by
  unfold State.setBatten
  rw [batten_begun]
  refine ((worked_begun s h uses st).modCoreRest k (fun c => { c with battens := c.battens.put {} b v }) (fun _ => rfl)
    fun _ => rfl).wakeNext k _ ?_
  rw [State.core_modCore_self, State.core_modCore_self]
  exact any_waitsOn_begun ..

end

end Sys2Proof.Machine
end

section
/-!
PROOFS. PITCH, the packs and their held writes, RGST and REXT (O35).
-/

namespace Sys2Proof.Machine

/-! Fields of a row (R136). -/

theorem scatter_cons (x : Nat × Nat × Nat) (l : List (Nat × Nat × Nat)) :
    scatter (x :: l) = x.2.2 % 2 ^ x.2.1 * 2 ^ x.1 ||| scatter l := by
  have hacc : ∀ (l : List (Nat × Nat × Nat)) (m : Nat),
      l.foldl (fun m (lo, n, v) => m ||| v % 2 ^ n * 2 ^ lo) m = m ||| scatter l := by
    intro l
    induction l with
    | nil => exact fun m => (Nat.or_zero m).symm
    | cons y l ih =>
      intro m
      simp only [scatter, List.foldl_cons, Nat.zero_or]
      rw [ih, ih, Nat.or_assoc]
  rw [scatter, List.foldl_cons, hacc]
  simp only [Nat.zero_or]

section
variable {js : List Nat} {at_ v : Nat → Nat} {p : Nat}

/-- A bit of the field at place i is that of the value there. -/
theorem testBit_scatter_fields (i : Nat) {b : Nat} (hb : b < p) :
    (scatter (js.map fun j => (p * at_ j, p, v j))).testBit (p * i + b) =
      js.any fun j => decide (at_ j = i) && (v j).testBit b := by
  induction js with
  | nil => rw [List.map_nil, List.any_nil]; exact Nat.zero_testBit _
  | cons j js ih =>
    rw [List.map_cons, scatter_cons, Nat.testBit_or, ih, List.any_cons]
    congr 1
    rw [Nat.testBit_mul_two_pow, Nat.testBit_mod_two_pow]
    rcases Nat.lt_trichotomy (at_ j) i with hlt | rfl | hgt
    · have hmul : p * (at_ j + 1) ≤ p * i := Nat.mul_le_mul_left p hlt
      rw [Nat.mul_succ] at hmul
      simp only [show ¬ p * i + b - p * at_ j < p by omega, hlt.ne, decide_false, Bool.false_and, Bool.and_false]
    · simp only [Nat.le_add_right, Nat.add_sub_cancel_left, hb, decide_true, Bool.true_and]
    · have hmul : p * (i + 1) ≤ p * at_ j := Nat.mul_le_mul_left p hgt
      rw [Nat.mul_succ] at hmul
      simp only [show ¬ p * i + b ≥ p * at_ j by omega, hgt.ne', decide_false, Bool.false_and]

/-- The field at a place that one element takes. -/
theorem elem_scatter_of_mem (hinj : ∀ j j', at_ j = at_ j' → j = j') {j : Nat} (hj : j ∈ js) :
    Num.elem (scatter (js.map fun j => (p * at_ j, p, v j))) p (at_ j) = v j % 2 ^ p := by
  refine Nat.eq_of_testBit_eq fun b => ?_
  rw [Num.elem, Nat.testBit_mod_two_pow, Nat.testBit_mod_two_pow, Nat.testBit_div_two_pow]
  by_cases hb : b < p
  · rw [Nat.add_comm, testBit_scatter_fields _ hb]
    congr 1
    rw [Bool.eq_iff_iff, List.any_eq_true]
    constructor
    · rintro ⟨j', hj', hbit⟩
      rw [Bool.and_eq_true, decide_eq_true_iff] at hbit
      exact hinj _ _ hbit.1 ▸ hbit.2
    · exact fun hbit => ⟨j, hj, by rw [hbit, decide_eq_true rfl]; rfl⟩
  · rw [decide_eq_false hb, Bool.false_and, Bool.false_and]

/-- The field at a place that no element takes. -/
theorem elem_scatter_of_forall_ne {i : Nat} (hi : ∀ j ∈ js, at_ j ≠ i) :
    Num.elem (scatter (js.map fun j => (p * at_ j, p, v j))) p i = 0 := by
  refine Nat.eq_of_testBit_eq fun b => ?_
  rw [Num.elem, Nat.testBit_mod_two_pow, Nat.testBit_div_two_pow, Nat.zero_testBit]
  by_cases hb : b < p
  · rw [Nat.add_comm, testBit_scatter_fields _ hb, List.any_eq_false.2 fun j hj => ?_, Bool.and_false]
    rw [decide_eq_false (hi j hj), Bool.false_and]
    exact Bool.false_ne_true
  · rw [decide_eq_false hb, Bool.false_and]

/-- The mark of a slot that one element takes. -/
theorem testBit_scatter_marks_of_mem {m : Nat → Bool} (hinj : ∀ j j', at_ j = at_ j' → j = j') {j : Nat} (hj : j ∈ js) :
    (scatter (js.map fun j => (at_ j, 1, (m j).toNat))).testBit (at_ j) = m j := by
  have helem := elem_scatter_of_mem (p := 1) (v := fun j => (m j).toNat) hinj hj
  simp only [Num.elem, Nat.one_mul, Nat.pow_one] at helem
  rw [Nat.testBit_eq_decide_div_mod_eq, helem]
  cases m j <;> rfl

/-- The mark of a slot that no element takes. -/
theorem testBit_scatter_marks_of_forall_ne {m : Nat → Nat} {i : Nat} (hi : ∀ j ∈ js, at_ j ≠ i) :
    (scatter (js.map fun j => (at_ j, 1, m j))).testBit i = false := by
  have helem := elem_scatter_of_forall_ne (p := 1) (v := m) hi
  simp only [Num.elem, Nat.one_mul, Nat.pow_one] at helem
  rw [Nat.testBit_eq_decide_div_mod_eq, helem]
  rfl

end

end Sys2Proof.Machine

namespace Sys2Proof.Claims

open Sys2Proof.Machine

/-! PITCH (R123). -/

theorem pitchResult : PitchResult := by
  intro h b s his v
  simp only [exec_pitch, execPitch]
  have hset : pitched v = v ||| 0x8000000000000000#64 := rfl
  refine ⟨fun hv => ?_, fun hv => issue_fault false his _ ?_⟩
  · rw [← hset]
    refine issue_next false his (fun c => { c with pd := pitched v }) ?_
    simp only [begun_cur, begun_ctx]
    exact if_pos hv
  · simp only [begun_cur, begun_ctx]
    exact if_neg (Bool.not_eq_true _ ▸ hv)

/-! The tail entry (R136, R231). -/

section
variable {s : State} {h : Hdr} {uses : List Use}

theorem packTail_of_feed {u : BitVec 4} (push ok : Bool) (e : BEntry × BEntry) (hfeed : (s.batten s.cur.core u.toNat).feed = true) :
    packTail u push e ok (s.begun h uses) = .fault (protFault 9) := by
  simp only [packTail, begun_cur, batten_begun, hfeed, if_true]

theorem tailEntry_of_tailFree {b : Nat} (hfree : TailFree s b) : (s.batten s.cur.core b).tailEntry s.now =
    some (((s.batten s.cur.core b).tail.toNat + (s.batten s.cur.core b).pushRes) % (s.batten s.cur.core b).depth.toNat) :=
  if_pos hfree.2

theorem tailEntry_of_not_tailFree {b : Nat} (hfeed : (s.batten s.cur.core b).feed = false) (hfull : ¬ TailFree s b) :
    (s.batten s.cur.core b).tailEntry s.now = none :=
  if_neg fun hroom => hfull ⟨hfeed, hroom⟩

theorem isTrail_begun (hp : (s.ctx s.cur).paired = false) : ((s.begun h uses).ctx s.cur).isTrail = false := by
  rw [begun_ctx, Ctx.isTrail, hp, Bool.false_and]

theorem packTail_of_not_tailFree {u : BitVec 4} (push ok : Bool) (e : BEntry × BEntry) (hp : (s.ctx s.cur).paired = false)
    (hfeed : (s.batten s.cur.core u.toNat).feed = false) (hfull : ¬ TailFree s u.toNat) :
    packTail u push e ok (s.begun h uses) = .wait (.change [Res.batten u.toNat]) := by
  simp only [packTail, begun_cur, begun_now, batten_begun, hfeed, isTrail_begun hp, tailEntry_of_not_tailFree hfeed hfull,
    Bool.false_eq_true, if_false]

/-- The state in which the tail entry's write is held: with .p the batten has one more push reserved. -/
def reserving (s : State) (k b : Nat) (push : Bool) : State := if push then s.reservePush k b else s

theorem worked_reserving (k b : Nat) (push : Bool) :
    Worked (reserving s k b push) (reserving (s.begun h uses) k b push) (s.ctx s.cur) := by
  unfold reserving State.reservePush
  rw [batten_begun]
  split
  · exact worked_setBatten_begun ..
  · exact worked_begun ..

@[simp] theorem reserving_now (k b : Nat) (push : Bool) : (reserving s k b push).now = s.now := by
  cases push
  · rfl
  · exact setBatten_now ..

@[simp] theorem reserving_cur (k b : Nat) (push : Bool) : (reserving s k b push).cur = s.cur := by
  cases push
  · rfl
  · exact setBatten_cur ..

@[simp] theorem reserving_regionOf (k b : Nat) (push : Bool) (u : Tid) : (reserving s k b push).regionOf u = s.regionOf u := by
  cases push
  · rfl
  · exact regionOf_setBatten ..

theorem packTail_of_tailFree {u : BitVec 4} (push : Bool) (val mask : BEntry) (hp : (s.ctx s.cur).paired = false)
    (hdbg : (s.regionOf s.cur).dbg = false) (hfree : TailFree s u.toNat) :
    ∃ t, packTail u push (val, mask) true (s.begun h uses) = .next t ∧
      Worked (writesTail s u.toNat val mask push) t (s.ctx s.cur) := by
  have w := worked_reserving (s := s) (h := h) (uses := uses) s.cur.core u.toNat push
  have hdelay : (reserving (s.begun h uses) s.cur.core u.toNat push).pushDelay s.cur = 0 := by
    rw [State.pushDelay, w.regionOf, reserving_regionOf, hdbg]
    rfl
  refine ⟨_, ?_, w.sched (s.now + 3) Phase.commit (.act (.bWrite s.cur.core u.toNat _ val mask push true))⟩
  simp only [packTail, begun_cur, begun_now, batten_begun, hfree.1, isTrail_begun hp, tailEntry_of_tailFree hfree,
    (worked_begun _ _ _ _).regionOf, hdbg, Bool.false_eq_true, if_false, Bool.false_and, Bool.not_true]
  rw [← reserving, hdelay, w.now, reserving_now, ite_self]
  rfl

end

@[simp] theorem writesTail_cur (s : State) (b : Nat) (val mask : BEntry) (push : Bool) :
    (writesTail s b val mask push).cur = s.cur := reserving_cur ..

/-- The issue of a pack whose batten has room. -/
theorem issue_packTail {s : State} {h : Hdr} {uses : List Use} {body : Bool → State → Step1} {u : BitVec 4} {push : Bool}
    {val mask : BEntry} (his : Issues h uses s false true) (hp : (s.ctx s.cur).paired = false)
    (hdbg : (s.regionOf s.cur).dbg = false) (hfree : TailFree s u.toNat)
    (hb : body true (s.begun h uses) = packTail u push (val, mask) true (s.begun h uses)) :
    ∃ t, issue h uses body s (vec := true) (resv := push) = .next t ∧
      Completes (writesTail s u.toNat val mask push) t (s.ctx s.cur) (s.nextPc h) := by
  obtain ⟨t, hrun, w⟩ := packTail_of_tailFree (h := h) (uses := uses) push val mask hp hdbg hfree
  exact issue_completes push false his (hb.trans hrun) w (writesTail_cur ..)

/-! The slots of a pack (R122, R136). -/

theorem eight_le_pitch (pd : W64) : 8 ≤ Pd.pitch pd := by
  have hcode : bits pd 12 3 < 8 := Nat.mod_lt _ (by decide)
  unfold Pd.pitch
  generalize bits pd 12 3 = code at hcode
  interval_cases code <;> decide

/-- The fields of a sheaf's slots lie in its 3072 bits. -/
theorem pitch_mul_succ_le {pd : W64} {i : Nat} (hi : i < Pd.slots pd) : Pd.pitch pd * (i + 1) ≤ 3072 :=
  (Nat.mul_le_mul_left _ hi).trans (Nat.mul_div_le ..)

theorem lt_384_of_lt_slots {pd : W64} {i : Nat} (hi : i < Pd.slots pd) : i < 384 :=
  hi.trans_le (Nat.div_le_div_left (eight_le_pitch pd) (by decide))

theorem slot_eq_packSlot (pd : W64) (side : Bool) (k : Nat) :
    (if (side && Pd.mode pd == 0 && Pd.sparse pd == 0) = true then k / Pd.l pd * Pd.l pd + (Pd.l pd - 1 - k % Pd.l pd) else k) =
      packSlot pd side k := by
  simp only [packSlot, Bool.and_eq_true, beq_iff_eq, and_assoc]

/-- Two elements of a pack do not share a slot. -/
theorem packSlot_injective (pd : W64) (side : Bool) : Function.Injective (packSlot pd side) := by
  intro k k' heq
  unfold packSlot at heq
  dsimp only at heq
  split at heq
  · have hl : 0 < Pd.l pd := Nat.two_pow_pos _
    have hr := Nat.mod_lt k hl
    have hr' := Nat.mod_lt k' hl
    have hlt : Pd.l pd - 1 - k % Pd.l pd < Pd.l pd := by omega
    have hlt' : Pd.l pd - 1 - k' % Pd.l pd < Pd.l pd := by omega
    have hdiv := congrArg (· / Pd.l pd) heq
    have hmod := congrArg (· % Pd.l pd) heq
    simp only [Nat.mul_comm _ (Pd.l pd), Nat.mul_add_div hl, Nat.mul_add_mod, Nat.div_eq_of_lt hlt, Nat.div_eq_of_lt hlt',
      Nat.mod_eq_of_lt hlt, Nat.mod_eq_of_lt hlt', Nat.add_zero] at hdiv hmod
    rw [← Nat.div_add_mod k (Pd.l pd), ← Nat.div_add_mod k' (Pd.l pd), hdiv]
    omega
  · exact heq

/-! VPACK (R136). -/

section
variable (c : Ctx) (h : Hdr) (fmt : Fmt) (side : Bool) (a : Reg) (first : Nat)

/-- The elements that VPACK packs. -/
def packed : List Nat := (List.range (Num.count fmt)).filter fun j => laneOn c h fmt j && decide (first + j < Pd.slots c.pd)

/-- The image of element j, where it has one. -/
def imageOf (j : Nat) : Option Int := (Num.image fmt (elemA c fmt a j)).map (Num.limb fmt (Pd.limb c.pd side))

/-- What VPACK writes of the tail entry, and where. -/
def packVal : BEntry :=
  ⟨BitVec.ofNat 3072 (scatter ((packed c h fmt first).map fun j =>
      (Pd.pitch c.pd * packSlot c.pd side (first + j), Pd.pitch c.pd, Num.wrap ((imageOf c fmt side a j).getD 0) (Pd.pitch c.pd)))),
    BitVec.ofNat 384 (scatter ((packed c h fmt first).map fun j =>
      (packSlot c.pd side (first + j), 1, (imageOf c fmt side a j).isNone.toNat)))⟩

def packMask : BEntry :=
  ⟨BitVec.ofNat 3072 (scatter ((packed c h fmt first).map fun j =>
      (Pd.pitch c.pd * packSlot c.pd side (first + j), Pd.pitch c.pd, 2 ^ Pd.pitch c.pd - 1))),
    BitVec.ofNat 384 (scatter ((packed c h fmt first).map fun j => (packSlot c.pd side (first + j), 1, true.toNat)))⟩

end

section
variable {c : Ctx} {h : Hdr} {fmt : Fmt} {side : Bool} {a : Reg} {first : Nat}

theorem mem_packed {j : Nat} :
    j ∈ packed c h fmt first ↔ j < Num.count fmt ∧ laneOn c h fmt j = true ∧ first + j < Pd.slots c.pd := by
  rw [packed, List.mem_filter, List.mem_range, Bool.and_eq_true, decide_eq_true_iff]

theorem elem_toNat_ofNat {m v w i : Nat} (hi : w * (i + 1) ≤ m) : Num.elem (BitVec.ofNat m v).toNat w i = Num.elem v w i := by
  rw [BitVec.toNat_ofNat, elem_mod_two_pow v hi]

theorem getLsbD_ofNat_of_lt {m v i : Nat} (hi : i < m) : (BitVec.ofNat m v).getLsbD i = v.testBit i := by
  rw [BitVec.getLsbD_ofNat, decide_eq_true hi, Bool.true_and]

theorem slotOf_injective (pd : W64) (side : Bool) (first : Nat) (j j' : Nat)
    (heq : packSlot pd side (first + j) = packSlot pd side (first + j')) : j = j' :=
  Nat.add_left_cancel (packSlot_injective pd side heq)

theorem packed_fields {j : Nat} (hj : j ∈ packed c h fmt first) (hs : packSlot c.pd side (first + j) < Pd.slots c.pd) :
    Num.elem (packVal c h fmt side a first).bytes.toNat (Pd.pitch c.pd) (packSlot c.pd side (first + j)) =
      Num.wrap ((imageOf c fmt side a j).getD 0) (Pd.pitch c.pd) ∧
    Num.elem (packMask c h fmt side first).bytes.toNat (Pd.pitch c.pd) (packSlot c.pd side (first + j)) = 2 ^ Pd.pitch c.pd - 1 ∧
    (packVal c h fmt side a first).marks.getLsbD (packSlot c.pd side (first + j)) = (imageOf c fmt side a j).isNone ∧
    (packMask c h fmt side first).marks.getLsbD (packSlot c.pd side (first + j)) = true := by
  have hinj := slotOf_injective c.pd side first
  have hwrap (v : Int) (p : Nat) : Num.wrap v p < 2 ^ p := by
    have hpos : (0 : Int) < ((2 ^ p : Nat) : Int) := Int.natCast_pos.2 (Nat.two_pow_pos p)
    have hlt := Int.emod_lt_of_pos v hpos
    have hnonneg := Int.emod_nonneg v hpos.ne'
    rw [Num.wrap]
    omega
  have hmask (p : Nat) : 2 ^ p - 1 < 2 ^ p := Nat.sub_lt (Nat.two_pow_pos p) (by decide)
  refine ⟨?_, ?_, ?_, ?_⟩
  · exact (elem_toNat_ofNat (pitch_mul_succ_le hs)).trans ((elem_scatter_of_mem hinj hj).trans (Nat.mod_eq_of_lt (hwrap ..)))
  · exact (elem_toNat_ofNat (pitch_mul_succ_le hs)).trans
      ((elem_scatter_of_mem (v := fun _ => 2 ^ Pd.pitch c.pd - 1) hinj hj).trans (Nat.mod_eq_of_lt (hmask _)))
  · exact (getLsbD_ofNat_of_lt (lt_384_of_lt_slots hs)).trans (testBit_scatter_marks_of_mem hinj hj)
  · exact (getLsbD_ofNat_of_lt (lt_384_of_lt_slots hs)).trans (testBit_scatter_marks_of_mem (m := fun _ => true) hinj hj)

theorem unpacked_fields {i : Nat} (hi : i < Pd.slots c.pd) (hne : ∀ j ∈ packed c h fmt first, packSlot c.pd side (first + j) ≠ i) :
    Num.elem (packMask c h fmt side first).bytes.toNat (Pd.pitch c.pd) i = 0 ∧
    (packMask c h fmt side first).marks.getLsbD i = false :=
  ⟨(elem_toNat_ofNat (pitch_mul_succ_le hi)).trans (elem_scatter_of_forall_ne hne),
    (getLsbD_ofNat_of_lt (lt_384_of_lt_slots hi)).trans (testBit_scatter_marks_of_forall_ne hne)⟩

end

theorem misfits_iff (pd : W64) (side : Bool) (fmt : Fmt) :
    (!Pd.valid pd || decide (Pd.fmt pd side ≠ fmt)) = true ↔ Pd.valid pd = false ∨ Pd.fmt pd side ≠ fmt := by
  rw [Bool.or_eq_true, Bool.not_eq_true', decide_eq_true_iff]

theorem exec_vpack_completes {h : Hdr} {fmt : Fmt} {side push : Bool} {u : BitVec 4} {a : Reg} {pos : BitVec 9} {s : State}
    (his : Issues h [rV a] s false true) (hp : (s.ctx s.cur).paired = false) (hdbg : (s.regionOf s.cur).dbg = false)
    (hv : Pd.valid (s.ctx s.cur).pd = true) (hfmt : Pd.fmt (s.ctx s.cur).pd side = fmt) (hfree : TailFree s u.toNat) :
    let first := if h.len = .w96 then BitVec.toNat (w := 9) pos else pos.toNat * Num.count fmt
    ∃ t, exec (.vpack h fmt side push u a pos) s = .next t ∧
      Completes (writesTail s u.toNat (packVal (s.ctx s.cur) h fmt side a first) (packMask (s.ctx s.cur) h fmt side first) push) t
        (s.ctx s.cur) (s.nextPc h) := by
  have hfits := mt (misfits_iff (s.ctx s.cur).pd side fmt).1 (not_or.2 ⟨Bool.ne_false_iff.2 hv, not_not.2 hfmt⟩)
  simp only [exec_vpack, execVpack]
  refine issue_packTail his hp hdbg hfree ?_
  simp only [begun_cur, begun_ctx, enabled_eq_laneOn, slot_eq_packSlot]
  exact if_neg hfits

theorem packResult : PackResult := by
  intro h fmt side push u a pos s his hp hdbg c b pd n p first slot image packs
  constructor
  · intro hv hfmt hfree
    obtain ⟨t, hexec, hdone⟩ := exec_vpack_completes (push := push) (pos := pos) his hp hdbg hv hfmt hfree
    refine ⟨t, _, _, hexec, hdone, fun j hj => ?_, fun i hi hne => unpacked_fields hi fun j hj he => ?_⟩
    · obtain ⟨hn, hlane, hfirst, hslot⟩ := hj
      exact packed_fields (mem_packed.2 ⟨hn, hlane, hfirst⟩) hslot
    · obtain ⟨hn, hlane, hfirst⟩ := mem_packed.1 hj
      exact hne j ⟨hn, hlane, hfirst, he.trans_lt hi⟩ he
  · intro hbad
    simp only [exec_vpack, execVpack]
    refine issue_fault push his _ ?_
    simp only [begun_cur, begun_ctx]
    exact if_pos ((misfits_iff ..).2 hbad)

/-! VPACKS (R137). -/

/-- The bytes that VPACKS copies. -/
def copied (c : Ctx) (h : Hdr) (first : Nat) : List Nat :=
  (List.range 64).filter fun j => (c.lm h).getLsbD j && decide (first + j < 384)

theorem mem_copied {c : Ctx} {h : Hdr} {first j : Nat} :
    j ∈ copied c h first ↔ j < 64 ∧ laneOn c h .i8 j = true ∧ first + j < 384 := by
  have hlane : laneOn c h .i8 j = (c.lm h).getLsbD j := by
    rw [laneOn, show Num.bits .i8 * j / 8 = j from Nat.mul_div_cancel_left j (by decide)]
    rfl
  rw [copied, List.mem_filter, List.mem_range, Bool.and_eq_true, decide_eq_true_iff, hlane]

/-- A row that has the value v of each copied byte in its place. -/
def copiedRow (c : Ctx) (h : Hdr) (first : Nat) (v : Nat → Nat) : Sheaf :=
  BitVec.ofNat 3072 (scatter ((copied c h first).map fun j => (8 * (first + j), 8, v j)))

theorem elem_copiedRow_of_mem {c : Ctx} {h : Hdr} {first j : Nat} (v : Nat → Nat) (hj : j ∈ copied c h first) :
    Num.elem (copiedRow c h first v).toNat 8 (first + j) = v j % 2 ^ 8 := by
  obtain ⟨_, _, hlt⟩ := mem_copied.1 hj
  exact (elem_toNat_ofNat (by omega)).trans (elem_scatter_of_mem (fun _ _ => Nat.add_left_cancel) hj)

theorem elem_copiedRow_of_forall_ne {c : Ctx} {h : Hdr} {first i : Nat} (v : Nat → Nat) (hi : i < 384)
    (hne : ∀ j ∈ copied c h first, first + j ≠ i) : Num.elem (copiedRow c h first v).toNat 8 i = 0 :=
  (elem_toNat_ofNat (by omega)).trans (elem_scatter_of_forall_ne hne)

theorem exec_vpacks_completes {h : Hdr} {push : Bool} {u : BitVec 4} {a : Reg} {pos : BitVec 9} {s : State}
    (his : Issues h [rV a] s false true) (hp : (s.ctx s.cur).paired = false) (hdbg : (s.regionOf s.cur).dbg = false)
    (hfree : TailFree s u.toNat) :
    let first := if h.len = .w96 then BitVec.toNat (w := 9) pos else pos.toNat * 64
    ∃ t, exec (.vpacks h push u a pos) s = .next t ∧
      Completes (writesTail s u.toNat ⟨copiedRow (s.ctx s.cur) h first (Num.elem ((s.ctx s.cur).rv a).toNat 8), 0⟩
        ⟨copiedRow (s.ctx s.cur) h first fun _ => 255, 0⟩ push) t (s.ctx s.cur) (s.nextPc h) := by
  simp only [exec_vpacks, execVpacks]
  refine issue_packTail his hp hdbg hfree ?_
  simp only [begun_cur, begun_ctx]
  rfl

theorem packBytes : PackBytes := by
  intro h push u a pos s his hp hdbg c b first
  refine ⟨fun hfree => ?free, fun hfeed => ?feed, fun hfeed hfull => ?full⟩
  case free =>
    obtain ⟨t, hexec, hdone⟩ := exec_vpacks_completes (push := push) (pos := pos) his hp hdbg hfree
    refine ⟨t, _, _, hexec, hdone, fun i hi => ?_⟩
    split
    · next hin =>
      obtain ⟨hfirst, hlt, hlane⟩ := hin
      have hmem : i - first ∈ copied c h first := mem_copied.2 ⟨hlt, hlane, by omega⟩
      have hplace : first + (i - first) = i := Nat.add_sub_cancel' hfirst
      have hval := elem_copiedRow_of_mem (Num.elem (c.rv a).toNat 8) hmem
      have hmask := elem_copiedRow_of_mem (fun _ => 255) hmem
      rw [hplace] at hval hmask
      exact ⟨hval.trans (Nat.mod_eq_of_lt (elem_lt ..)), hmask⟩
    · next hout =>
      refine elem_copiedRow_of_forall_ne _ hi fun j hj he => hout ?_
      obtain ⟨hlt, hlane, _⟩ := mem_copied.1 hj
      obtain rfl : j = i - first := by omega
      exact ⟨by omega, hlt, hlane⟩
  case feed =>
    simp only [exec_vpacks, execVpacks]
    refine issue_fault push his (protFault 9) ?_
    exact packTail_of_feed _ _ _ hfeed
  case full =>
    simp only [exec_vpacks, execVpacks]
    exact issue_waits push false his (packTail_of_not_tailFree _ _ _ hp hfeed hfull)

/-! What commits (R136, R231). -/

/-- The entry after a held write. -/
def writtenEntry (e val mask : BEntry) : BEntry :=
  ⟨(e.bytes &&& ~~~mask.bytes) ||| (val.bytes &&& mask.bytes), (e.marks &&& ~~~mask.marks) ||| (val.marks &&& mask.marks)⟩

/-- The batten after a held write of entry i. -/
def writtenBatten (x : Batten) (i : Nat) (val mask : BEntry) : Batten :=
  { x with
    entries := x.entries.put {} i (writtenEntry (x.entry i) val mask)
    written := if i = x.tail.toNat then x.written ||| mask.bytes else x.written }

/-- The batten after a reserved push (R231). -/
def pushedBatten (x : Batten) : Batten :=
  { x with
    pushRes := x.pushRes - 1, count := x.count + 1, tail := BitVec.ofNat 5 ((x.tail.toNat + 1) % x.depth.toNat), written := 0
    entries := if x.feed || decide (x.depth.toNat ≤ x.count.toNat + 1) then x.entries
      else x.entries.put {} ((x.tail.toNat + 1) % x.depth.toNat) {} }

theorem entry_writtenBatten (x : Batten) (i : Nat) (val mask : BEntry) (j : Nat) :
    (writtenBatten x i val mask).entry j = if j = i then writtenEntry (x.entry i) val mask else x.entry j := Sparse.get_put ..

theorem entry_pushedBatten (x : Batten) (j : Nat) : (pushedBatten x).entry j =
    if x.feed = false ∧ x.count.toNat + 1 < x.depth.toNat ∧ j = (x.tail.toNat + 1) % x.depth.toNat then {} else x.entry j := by
  unfold Batten.entry pushedBatten
  dsimp only
  by_cases hfull : (x.feed || decide (x.depth.toNat ≤ x.count.toNat + 1)) = true
  · rw [if_pos hfull, if_neg]
    rw [Bool.or_eq_true, decide_eq_true_iff] at hfull
    rintro ⟨hfeed, hroom, -⟩
    rw [hfeed] at hfull
    exact hfull.elim Bool.false_ne_true (Nat.not_le.2 hroom)
  · rw [if_neg hfull, Sparse.get_put]
    rw [Bool.or_eq_true, decide_eq_true_iff, not_or, Bool.not_eq_true, Nat.not_le] at hfull
    simp only [hfull.1, hfull.2, true_and]

theorem bPushCommit_batten (s : State) (k b p : Nat) :
    (s.bPushCommit k b true).batten k p = if p = b then pushedBatten (s.batten k b) else s.batten k p := by
  simp only [State.bPushCommit, State.pushBatten, if_true, batten_setBatten]
  split <;> rfl

theorem bPushCommit_frame (s : State) (k b : Nat) :
    (∀ u, (s.bPushCommit k b true).ctx u = s.ctx u) ∧ (s.bPushCommit k b true).phys = s.phys := by
  simp only [State.bPushCommit, State.pushBatten, if_true, ctx_setBatten, setBatten_phys, implies_true, and_self]

/-- The batten after the held writes of an instruction commit, with its push where it has one. -/
def committedBatten (x : Batten) (i : Nat) (val mask : BEntry) (push : Bool) : Batten :=
  if push then pushedBatten (writtenBatten x i val mask) else writtenBatten x i val mask

theorem battenWrite_eq (s : State) (k b i : Nat) (val mask : BEntry) (push : Bool) :
    s.battenWrite k b i val mask push true =
      if push then (s.setBatten k b (writtenBatten (s.batten k b) i val mask)).bPushCommit k b true
      else s.setBatten k b (writtenBatten (s.batten k b) i val mask) := rfl

theorem battenWrite_batten (s : State) (k b i : Nat) (val mask : BEntry) (push : Bool) (p : Nat) :
    (s.battenWrite k b i val mask push true).batten k p =
      if p = b then committedBatten (s.batten k b) i val mask push else s.batten k p := by
  rw [battenWrite_eq]
  cases push
  · exact batten_setBatten ..
  · rw [if_pos rfl, bPushCommit_batten, batten_setBatten, batten_setBatten, if_pos rfl]
    split <;> rfl

theorem battenWrite_frame (s : State) (k b i : Nat) (val mask : BEntry) (push : Bool) :
    (∀ u, (s.battenWrite k b i val mask push true).ctx u = s.ctx u) ∧ (s.battenWrite k b i val mask push true).phys = s.phys := by
  rw [battenWrite_eq]
  cases push
  · rw [if_neg Bool.false_ne_true]
    exact ⟨ctx_setBatten s k b _, setBatten_phys ..⟩
  · rw [if_pos rfl]
    obtain ⟨hctx, hphys⟩ := bPushCommit_frame (s.setBatten k b (writtenBatten (s.batten k b) i val mask)) k b
    exact ⟨fun u => (hctx u).trans (ctx_setBatten ..), hphys.trans (setBatten_phys ..)⟩

theorem packCommits : PackCommits := by
  intro s k b i val mask push x zeroed
  have hbatten (p : Nat) := battenWrite_batten s k b i val mask push p
  obtain ⟨hctx, hphys⟩ := battenWrite_frame s k b i val mask push
  have hentry (j : Nat) : ((s.battenWrite k b i val mask push true).batten k b).entry j =
      if push = true ∧ x.feed = false ∧ x.count.toNat + 1 < x.depth.toNat ∧ j = (x.tail.toNat + 1) % x.depth.toNat then {}
      else if j = i then writtenEntry (x.entry i) val mask else x.entry j := by
    rw [hbatten, if_pos rfl]
    cases push
    · simp only [Bool.false_eq_true, false_and, if_false]
      exact entry_writtenBatten ..
    · simp only [true_and]
      exact (entry_pushedBatten ..).trans (by rw [entry_writtenBatten]; rfl)
  refine ⟨_, rfl, fun hz => ?written, fun j hz => ?zeroed, fun j hj hz => ?kept, fun p hp => ?others, ?count, hctx, hphys⟩
  case written => rw [hentry, if_neg hz, if_pos rfl]; rfl
  case zeroed => rw [hentry, if_pos hz]
  case kept => rw [hentry, if_neg hz, if_neg hj]
  case others => rw [hbatten, if_neg hp]
  case count =>
    rw [hbatten, if_pos rfl]
    cases push <;> rfl

/-! RGST (R126, R140). -/

section
variable {s : State} {pn : BitVec 2}

theorem ownFault_of_not_owned (torn : Bool) (hown : (purlinOf s pn).owned s.cur.slot = false) :
    ownFault s pn torn = some { code := 6, sub := 7 } :=
  if_pos fun hc => Bool.eq_false_iff.1 hown ((owned_iff ..).2 hc)

theorem ownFault_of_torn (hown : (purlinOf s pn).owned s.cur.slot = true) (htorn : (purlinOf s pn).torn = true) :
    ownFault s pn true = some { code := 11 } :=
  (if_neg (not_not.2 ((owned_iff ..).1 hown))).trans (if_pos ⟨rfl, htorn⟩)

theorem ownFault_of_owned {torn : Bool} (hown : (purlinOf s pn).owned s.cur.slot = true)
    (hwhole : ¬ (torn = true ∧ (purlinOf s pn).torn = true)) : ownFault s pn torn = none :=
  (if_neg (not_not.2 ((owned_iff ..).1 hown))).trans (if_neg hwhole)

end

/-- R126: the fields above the bound, as they stand in the high word of a guard state. -/
def guardHigh (p : Purlin) : Nat := p.n.toNat * 2 ^ 50 + p.base.toNat * 2 ^ 38 + p.torn.toNat * 2 ^ 37
  + (p.nanMap != 0).toNat * 2 ^ 36 + p.claimed.toNat * 2 ^ 35 + p.owner.toNat * 2 ^ 31

theorem guard_eq (p : Purlin) : p.guard = 2 ^ 64 * guardHigh p + p.bound.toNat := by
  unfold Purlin.guard guardHigh
  ring

theorem guard_div (p : Purlin) : p.guard / 2 ^ 64 = guardHigh p + p.bound.toNat / 2 ^ 64 := by
  rw [guard_eq, Nat.mul_add_div (Nat.two_pow_pos 64)]

theorem testBit_of_div_mod {x k : Nat} {b : Bool} (h : x / 2 ^ k % 2 = b.toNat) : x.testBit k = b := by
  rw [Nat.testBit_eq_decide_div_mod_eq, h]
  cases b <;> rfl

/-- R126: the fields of a word that is the high word of a guard state. -/
theorem guard_high_fields {p : Purlin} {w : W64} (hword : w.toNat = guardHigh p + p.bound.toNat / 2 ^ 64) :
    w.extractLsb' 50 14 = p.n ∧ w.extractLsb' 38 12 = p.base ∧ w.getLsbD 37 = p.torn ∧ w.getLsbD 36 = (p.nanMap != 0) ∧
      w.getLsbD 35 = p.claimed ∧ w.extractLsb' 31 4 = p.owner ∧ w.extractLsb' 0 31 = p.bound.extractLsb' 64 31 := by
  rw [guardHigh] at hword
  generalize (p.nanMap != 0) = nan at hword ⊢
  have hn := p.n.isLt
  have hbase := p.base.isLt
  have htorn := p.torn.toNat_lt
  have hnan := nan.toNat_lt
  have hclaimed := p.claimed.toNat_lt
  have howner := p.owner.isLt
  have hbound := p.bound.isLt
  refine ⟨BitVec.eq_of_toNat_eq ?_, BitVec.eq_of_toNat_eq ?_, testBit_of_div_mod ?_, testBit_of_div_mod ?_, testBit_of_div_mod ?_,
    BitVec.eq_of_toNat_eq ?_, BitVec.eq_of_toNat_eq ?_⟩
  all_goals
    simp only [BitVec.extractLsb'_toNat, Nat.shiftRight_eq_div_pow, hword]
    omega

theorem toNat_guard_div (p : Purlin) : (BitVec.ofNat 64 (p.guard / 2 ^ 64)).toNat = guardHigh p + p.bound.toNat / 2 ^ 64 := by
  have hn := p.n.isLt
  have hbase := p.base.isLt
  have htorn := p.torn.toNat_lt
  have hnan := (p.nanMap != 0).toNat_lt
  have hclaimed := p.claimed.toNat_lt
  have howner := p.owner.isLt
  have hbound := p.bound.isLt
  rw [BitVec.toNat_ofNat, guard_div, guardHigh]
  generalize (p.nanMap != 0) = nan at hnan ⊢
  exact Nat.mod_eq_of_lt (by omega)

theorem guard_low (p : Purlin) : BitVec.ofNat 64 p.guard = p.bound.extractLsb' 0 64 := by
  refine BitVec.eq_of_toNat_eq ?_
  rw [BitVec.toNat_ofNat, BitVec.extractLsb'_toNat, Nat.shiftRight_zero, guard_eq, Nat.mul_add_mod]

theorem exec_rgst_completes {h : Hdr} {d : Reg} {pn : BitVec 2} (hi : Bool) {s : State} (his : Issues h [wG d] s)
    (hf : ownFault s pn false = none) : ∃ t, exec (.rgst h d pn hi) s = .next t ∧
      Completes s t ((s.ctx s.cur).wg d (BitVec.ofNat 64 (if hi then (purlinOf s pn).guard / 2 ^ 64 else (purlinOf s pn).guard)))
        (s.nextPc h) := by
  simp only [exec_rgst, execRgst]
  refine issue_completes false false his ?_ ((worked_begun s h [wG d] false).modCtx (·.wg d _)) rfl
  simp only [begun_cur, purlinFault_begun, hf, purlin_begun]
  rfl

theorem guardStored : GuardStored := by
  intro h d pn hi s his p
  constructor
  · intro hown
    obtain ⟨t, hrun, hdone⟩ := exec_rgst_completes hi his (ownFault_of_owned hown fun hc => Bool.false_ne_true hc.1)
    refine ⟨t, _, hrun, hdone, ?_⟩
    split
    · exact guard_high_fields (toNat_guard_div p)
    · exact guard_low p
  · intro hown
    simp only [exec_rgst, execRgst]
    refine issue_fault false his _ ?_
    simp only [begun_cur, purlinFault_begun, ownFault_of_not_owned false hown]

/-! REXT (R143). -/

theorem signed_eq_toInt (x : Nat) : Num.signed x 12 = (BitVec.ofNat 12 x).toInt := by
  rw [BitVec.toInt_eq_toNat_cond, BitVec.toNat_ofNat, Num.signed]
  split <;> split <;> omega

/-- The bits above the elements are dropped from the row before. -/
theorem and_low_eq_clear6 (fmt : Fmt) (v : Vec) :
    (if Num.bits fmt = 6 then v &&& (BitVec.allOnes 512 >>> 128) else v) = clear6 fmt v := by
  unfold clear6
  split
  · refine BitVec.eq_of_getLsbD_eq fun i hi => ?_
    have hlow : 128 + i < 512 ↔ i < 384 := by omega
    rw [BitVec.getLsbD_and, BitVec.getLsbD_ushiftRight, BitVec.getLsbD_allOnes, BitVec.getLsbD_ofNat, Nat.testBit_mod_two_pow,
      BitVec.testBit_toNat, decide_eq_true hi, Bool.true_and, Bool.and_comm]
    simp only [hlow]
  · rfl

theorem bits_mul_count_of_ne (fmt : Fmt) (h : Num.bits fmt ≠ 6) : Num.bits fmt * Num.count fmt = 512 := by
  revert h
  cases fmt <;> decide

/-- The row that REXT writes, of the digits from first on. -/
def extractedRow (c : Ctx) (h : Hdr) (o : RextOps) (p : Purlin) (first : Nat) : Vec :=
  Num.lanes (clear6 o.fmt (c.rv o.d)) (Num.bits o.fmt) (Num.count o.fmt) (c.lm h).toNat fun j =>
    Num.extract p.nanMap.getLsbD p.digit o.fmt o.rnd o.sat (p.exp - Num.signed (c.rg o.b).toNat 12) (first + j)

theorem elem_extractedRow (c : Ctx) (h : Hdr) (o : RextOps) (p : Purlin) (first : Nat) {j : Nat} (hj : j < Num.count o.fmt) :
    Num.elem (extractedRow c h o p first).toNat (Num.bits o.fmt) j =
      if laneOn c h o.fmt j then Num.extract p.nanMap.getLsbD p.digit o.fmt o.rnd o.sat
        (p.base.toInt - ((c.rg o.b).setWidth 12).toInt) (first + j) % 2 ^ Num.bits o.fmt
      else Num.elem (c.rv o.d).toNat (Num.bits o.fmt) j := by
  have hexp : p.exp = p.base.toInt := by rw [Purlin.exp, signed_eq_toInt, BitVec.ofNat_toNat, BitVec.setWidth_eq]
  have hshift : Num.signed (c.rg o.b).toNat 12 = ((c.rg o.b).setWidth 12).toInt := by rw [signed_eq_toInt, BitVec.ofNat_toNat]
  rw [extractedRow, Num.elem_lanes _ _ _ (bits_mul_count_le _) hj, enabled_eq_laneOn, elem_clear6 _ hj, hexp, hshift]

theorem getLsbD_extractedRow (c : Ctx) (h : Hdr) (o : RextOps) (p : Purlin) (first : Nat) {b : Nat}
    (hb : Num.bits o.fmt * Num.count o.fmt ≤ b) : (extractedRow c h o p first).getLsbD b = false := by
  by_cases hw : Num.bits o.fmt = 6
  · rw [extractedRow, Num.getLsbD_lanes _ _ _ _ _ hb]
    refine getLsbD_clear6 hw _ ?_
    rwa [Num.count, if_pos hw, hw] at hb
  · exact BitVec.getLsbD_of_ge _ _ (bits_mul_count_of_ne _ hw ▸ hb)

theorem exec_rext_completes {h : Hdr} {o : RextOps} {idx : BitVec 12} {s : State} (his : Issues h [rG o.b, wV o.d] s false true)
    (hf : ownFault s o.pn true = none) : ∃ t, exec (.rext h o idx) s = .next t ∧
      Completes s t ((s.ctx s.cur).wv o.d (extractedRow (s.ctx s.cur) h o (purlinOf s o.pn)
        (if h.len = .w96 then idx.toNat else idx.toNat * Num.count o.fmt))) (s.nextPc h) := by
  simp only [exec_rext, execRext]
  refine issue_completes false false his ?_ ((worked_begun s h [rG o.b, wV o.d] false).modCtx (·.wv o.d _)) rfl
  simp only [begun_cur, begun_ctx, purlinFault_begun, hf, purlin_begun, and_low_eq_clear6]
  rfl

theorem extracts : Extracts := by
  intro h o idx s his c p first shift digit value
  refine ⟨fun hown hwhole => ?_, fun hown => ?_, fun hown htorn => ?_⟩
  · obtain ⟨t, hrun, hdone⟩ := exec_rext_completes (idx := idx) his
      (ownFault_of_owned hown fun hc => Bool.eq_false_iff.1 hwhole hc.2)
    refine ⟨t, _, hrun, hdone, fun j hj => ?_, fun b hb => getLsbD_extractedRow _ _ _ _ _ hb⟩
    rw [elem_extractedRow _ _ _ _ _ hj]
    rfl
  · simp only [exec_rext, execRext]
    refine issue_fault false his _ ?_
    simp only [begun_cur, purlinFault_begun, ownFault_of_not_owned true hown]
  · simp only [exec_rext, execRext]
    refine issue_fault false his _ ?_
    simp only [begun_cur, purlinFault_begun, ownFault_of_torn hown htorn]

end Sys2Proof.Claims

open Sys2Proof.Claims

/-- Settles O35: the packs write fields that do not overlap, and RGST and REXT read the purlin that the slot owns. -/
theorem packAndExtract : Obligations.PackAndExtract :=
  ⟨pitchResult, packResult, packBytes, packCommits, guardStored, extracts⟩
end
section
/-!
PROOFS. The overlay trap and ORET (O12).
-/

namespace Sys2Proof.Machine

theorem worked_beginIssue (s : State) : Worked s s.beginIssue (s.ctx s.cur) where
  cur := (beginIssue_begun s).cur
  now := (beginIssue_begun s).now
  seq := (beginIssue_begun s).seq
  slotEq u := by rw [(beginIssue_begun s).slotEq]; split <;> rfl
  cores := (beginIssue_begun s).cores
  rest := (beginIssue_begun s).rest
  agenda := (beginIssue_begun s).agenda

/-- The current thread goes on at pc, whatever SSTEP says (R157). -/
theorem Worked.retires {s t : State} {c : Ctx} (w : Worked s t c) (pc : W64) : Completes s (t.retire s.cur pc) c pc where
  ctx := by rw [State.ctx, slot_retire, if_pos rfl, ← w.ctx]; rfl
  turn := by rw [slot_retire, if_pos rfl]; exact w.turn
  replays := by rw [slot_retire, if_pos rfl]; rfl
  agenda _ _ := (retire_agenda ..).trans w.agenda
  keeps := .mk' ((rest_retire ..).trans w.rest) (fun k => (core_retire_rest ..).trans (w.cores k))
    (fun u => by
      rw [slot_retire]
      split
      · next h => subst h; exact w.slot_rest _
      · exact w.slot_rest u)
    fun u hu => by rw [State.ctx, slot_retire, if_neg hu]; exact w.ctx_other hu

/-- R53: a word of n bytes that reaches EXB is not fetched. -/
theorem fetch_trap_of_reach {s : State} {t : Tid} {n : Nat}
    (hn : n = if (s.ctx t).pc.toNat < (s.core t.core).exb.toNat then
      (lengthOf (s.fetchByte t.core (s.ctx t).pc.toNat).toNat).getD 8 else 8)
    (h : (s.core t.core).exb.toNat ≤ (s.ctx t).pc.toNat ∨ (s.core t.core).exb.toNat ≤ (s.ctx t).pc.toNat + n - 1) :
    s.fetch t = .trap := by
  by_cases hpc : (s.ctx t).pc.toNat < (s.core t.core).exb.toNat
  · rw [hn, if_pos hpc] at h
    unfold State.fetch
    simp only [if_pos hpc]
    exact if_pos h
  · exact fetch_trap (Nat.not_lt.1 hpc)

/-- R181: OTPC holds the trap pc without its two low bits. -/
theorem and_not_three (x : W64) : x &&& ~~~3#64 = 4 * (x / 4) := by
  have hdiv : 4 * (x / 4) = (x >>> (2 : Nat)) <<< (2 : Nat) := by
    apply BitVec.eq_of_toNat_eq
    simp [BitVec.toNat_mul, BitVec.toNat_udiv, Nat.shiftRight_eq_div_pow, Nat.shiftLeft_eq, Nat.mul_comm]
  rw [hdiv]
  refine BitVec.eq_of_getLsbD_eq fun i hi => ?_
  have hthree : (3#64).getLsbD i = decide (i < 2) := by
    rw [BitVec.getLsbD_ofNat, show (3 : Nat) = 2 ^ 2 - 1 from rfl, Nat.testBit_two_pow_sub_one]
    simp [hi]
  rw [BitVec.getLsbD_and, BitVec.getLsbD_not, hthree]
  rcases Nat.lt_or_ge i 2 with h | h
  · simp [h]
  · simp [hi, Nat.not_lt.2 h, Nat.add_sub_cancel' h]

section
variable {s : State}

theorem overlayTrap_completes (ho : (s.ctx s.cur).ovl = false) : ∃ t, exec .overlayTrap s = .next t ∧
    Completes s t { (s.ctx s.cur).setStat 4 true with otpc := 4 * ((s.ctx s.cur).pc / 4) } (s.core s.cur.core).ovh := by
  have hw := worked_beginIssue s
  have hovh : (s.beginIssue.core s.cur.core).ovh = (s.core s.cur.core).ovh := by
    have := congrArg Core.ovh (hw.cores s.cur.core)
    exact this
  refine ⟨_, ?_, (hw.modCtx fun c => { c.setStat 4 true with otpc := 4 * (c.pc / 4) }).retires _⟩
  simp only [exec_overlayTrap, execOverlayTrap, hw.cur, hw.ctx, ho, Bool.false_eq_true, if_false, and_not_three, hovh]

theorem overlayTrap_faults (ho : (s.ctx s.cur).ovl = true) : ∃ t, exec .overlayTrap s = .next t ∧
    Leaves (s.raiseLater s.cur { code := 6, sub := 16, addr := (s.ctx s.cur).pc }) t := by
  have hw := worked_beginIssue s
  refine ⟨_, ?_, hw.raises _⟩
  simp only [exec_overlayTrap, execOverlayTrap, hw.cur, hw.ctx, ho, if_true, protFault]

theorem oret_completes {h : Hdr} (hi : Issues h [] s) (ho : (s.ctx s.cur).ovl = true) :
    ∃ t, exec (.oret h) s = .next t ∧ Completes s t ((s.ctx s.cur).setStat 4 false) (s.ctx s.cur).otpc := by
  simp only [exec_oret, execOret]
  refine issue_jump_modCtx false hi _ (·.setStat 4 false) ?_
  simp only [begun_cur, begun_ctx, ho, Bool.not_true, Bool.false_eq_true, if_false]

theorem oret_faults {h : Hdr} (hi : Issues h [] s) (ho : (s.ctx s.cur).ovl = false) :
    ∃ t, exec (.oret h) s = .next t ∧ Leaves (s.raiseLater s.cur { code := 6, sub := 16 }) t := by
  simp only [exec_oret, execOret]
  refine issue_fault false hi _ ?_
  simp only [begun_cur, begun_ctx, ho, Bool.not_false, if_true, protFault]

end

end Sys2Proof.Machine

open Sys2Proof.Machine

/-- Settles O12: the trap spends its turn, as the issue of ORET does, and then goes by OVL. -/
theorem overlayTrap : Obligations.OverlayTrap := by
  unfold Obligations.OverlayTrap
  exact fun h s => ⟨fetch_trap_of_reach rfl, overlayTrap_completes, overlayTrap_faults, oret_completes, oret_faults⟩
end
section
/-!
PROOFS. What a report of a fault, the restart of queues and a fill of a register-cache line leave alone (R161, R243, R346).
-/

namespace Sys2Proof.Machine

theorem slot_modCore_of_slots (s : State) (k : Nat) {f : Core → Core} (hf : ∀ c, (f c).slots = c.slots) (u : Tid) :
    (s.modCore k f).slot u = s.slot u := by
  rw [State.slot_modCore]
  split
  · next h => subst h; simp only [Core.slot, hf]; rfl
  · rfl

theorem rlines_modSlot (s : State) (t : Tid) (f : Slot → Slot) (k : Nat) : ((s.modSlot t f).core k).rlines = (s.core k).rlines := by
  rw [State.core_modSlot]
  split <;> rfl

theorem rlines_modCore_of_rlines (s : State) (k : Nat) {f : Core → Core} (hf : ∀ c, (f c).rlines = c.rlines) (j : Nat) :
    ((s.modCore k f).core j).rlines = (s.core j).rlines := by
  rw [State.core_modCore]
  split
  · next h => subst h; exact hf _
  · rfl

/-- A slot but for its record of the last packet (R346). -/
def Slot.unreported (x : Slot) : Slot := { x with spkt := 0, code := 0, sub := 0 }

/-- What a packet or the restart of queues does not touch: slots but for the record of the packet, the register cache and
the memory of the package. -/
structure Reports (s t : State) : Prop where
  slots  : ∀ u, (t.slot u).unreported = (s.slot u).unreported
  rlines : ∀ k, (t.core k).rlines = (s.core k).rlines
  phys   : t.phys = s.phys

theorem Reports.refl (s : State) : Reports s s := ⟨fun _ => rfl, fun _ => rfl, rfl⟩

theorem Reports.trans {s t u : State} (h : Reports s t) (g : Reports t u) : Reports s u :=
  ⟨fun v => (g.slots v).trans (h.slots v), fun k => (g.rlines k).trans (h.rlines k), g.phys.trans h.phys⟩

theorem Reports.ctx {s t : State} (h : Reports s t) (u : Tid) : t.ctx u = s.ctx u := by
  have := congrArg Slot.ctx (h.slots u); exact this
theorem Reports.st {s t : State} (h : Reports s t) (u : Tid) : (t.slot u).st = (s.slot u).st := by
  have := congrArg Slot.st (h.slots u); exact this
theorem Reports.unwinding {s t : State} (h : Reports s t) (u : Tid) : (t.slot u).unwinding = (s.slot u).unwinding := by
  have := congrArg Slot.unwinding (h.slots u); exact this

theorem reports_modCore (s : State) (k : Nat) {f : Core → Core} (hs : ∀ c, (f c).slots = c.slots) (hr : ∀ c, (f c).rlines = c.rlines) :
    Reports s (s.modCore k f) :=
  ⟨fun u => by rw [slot_modCore_of_slots s k hs], rlines_modCore_of_rlines s k hr, rfl⟩

theorem reports_sched {s t : State} (due phase : Nat) (ev : Ev) (h : Reports s t) : Reports s (t.sched due phase ev) :=
  ⟨h.slots, h.rlines, h.phys⟩

theorem reports_sendPacket (s : State) (core : Nat) (slot : Option Nat) (bits : BitVec 512) (dest : W64) :
    Reports s (s.sendPacket core slot bits dest) := by
  unfold State.sendPacket
  dsimp only
  split
  · exact reports_modCore s core (fun _ => rfl) fun _ => rfl
  · exact reports_modCore s core (fun _ => rfl) fun _ => rfl

theorem reports_sendThread (s : State) (t : Tid) (kind : Nat) (f : Flt) : Reports s (s.sendThread t kind f) := by
  unfold State.sendThread
  refine .trans ⟨fun u => ?_, rlines_modSlot s t _, rfl⟩ (reports_sendPacket ..)
  rw [State.slot_modSlot]
  split
  · next h => subst h; rfl
  · rfl

theorem reports_report (s : State) (t : Tid) (kind : Nat) (f : Flt) : Reports s (s.report t kind f) := by
  unfold State.report
  split
  · exact .refl s
  · exact reports_sendThread ..

theorem reports_unstall (s : State) (t : Tid) : Reports s (s.unstall t) := by
  unfold State.unstall
  dsimp only
  split
  · exact reports_sched _ _ _ (reports_modCore s t.core (fun _ => rfl) fun _ => rfl)
  · exact .refl s

/-! The line of g0 to g7 (R161). -/

/-- The registers of d are those of c, but for g1 to g7. -/
structure LowOnly (c d : Ctx) : Prop where
  rest : d = { c with g := d.g }
  high : ∀ r : Reg, 8 ≤ r.toNat → d.rg r = c.rg r

theorem LowOnly.refl (c : Ctx) : LowOnly c c := ⟨rfl, fun _ _ => rfl⟩

theorem LowOnly.wg {c d : Ctx} (h : LowOnly c d) {r : Reg} (hr : r.toNat < 8) (v : W64) : LowOnly c (d.wg r v) where
  rest := by
    unfold Ctx.wg
    split
    · exact h.rest
    · exact congrArg (fun x : Ctx => { x with g := d.g.put 0 r.toNat v }) h.rest
  high q hq := by
    have hne : q ≠ r := fun e => by subst e; omega
    rw [Ctx.rg_wg, if_neg fun e : q = 0 => by subst e; exact absurd hq (by decide), if_neg hne, h.high q hq]

/-- The dwords of line 6 of an image are g0 to g7 (R160). -/
theorem loadWord_low (c : Ctx) (part : BitVec 2) {j : Nat} (hj : j < 8) (x : W64) :
    c.loadWord part (8 * 6 + j) x = c.wg (BitVec.ofNat 6 j) x := by
  have hcount : 32 ≤ gCount part := by unfold gCount; split <;> decide
  unfold Ctx.loadWord
  rw [if_neg (by omega), if_neg (by omega), if_pos (by omega)]
  congr 2
  omega

theorem lowOnly_loads (c : Ctx) (part : BitVec 2) (x : Nat → W64) (l : List Nat) (hl : ∀ j ∈ l, j < 8) :
    LowOnly c (l.foldl (fun c j => c.loadWord part (8 * 6 + j) (x j)) c) := by
  refine List.foldlRecOn (motive := LowOnly c) l _ (.refl c) fun d hd j hj => ?_
  rw [loadWord_low d part (hl j hj)]
  exact hd.wg (by rw [BitVec.toNat_ofNat]; have := hl j hj; omega) _

end Sys2Proof.Machine
end

section
/-!
PROOFS. Containment regions and PCMP (O15).
-/

namespace Sys2Proof.Machine

section
variable {s : State} {t : Tid}

/-- What the fill of g1 to g7's line leaves: it is resident, and no other register has changed. -/
structure LowFilled (s u : State) (t : Tid) : Prop where
  ctx      : LowOnly (s.ctx t) (u.ctx t)
  others   : ∀ v, v ≠ t → u.ctx v = s.ctx v
  resident : (u.core t.core).resident t.slot lowLine = true
  phys     : u.phys = s.phys

theorem makeRoom_of_lt {core : Nat} (h : (s.core core).rlines.length < 384) (keep : RLine → Bool) : s.makeRoom core keep = s :=
  if_pos h

theorem fillLow_of_resident (h : (s.core t.core).resident t.slot lowLine = true) : s.fillLines t [lowLine] = s := if_pos h

theorem fillLow_of_absent (h : (s.core t.core).resident t.slot lowLine = false) (hroom : (s.core t.core).rlines.length < 384) :
    s.fillLines t [lowLine] = (s.readLine t lowLine).modCore t.core fun c =>
      { c with rlines := c.rlines ++ [{ slot := t.slot, idx := lowLine, dirty := false, evict := false }] } := by
  simp only [State.fillLines, List.foldl_cons, List.foldl_nil, h, Bool.false_eq_true, if_false, makeRoom_of_lt hroom]

theorem lowFilled_fillLines (h : (s.core t.core).resident t.slot 6 = true ∨ (s.core t.core).rlines.length < 384) :
    LowFilled s (s.fillLines t [lowLine]) t := by
  cases hres : (s.core t.core).resident t.slot lowLine with
  | true =>
    rw [fillLow_of_resident hres]
    exact ⟨.refl _, fun _ _ => rfl, hres, rfl⟩
  | false =>
    rw [fillLow_of_absent hres (h.resolve_left (by rw [show (6 : Nat) = lowLine from rfl, hres]; decide))]
    refine ⟨?_, fun v hv => ?_, ?_, rfl⟩
    · rw [State.ctx_modCore_of_slots _ _ _ (by exact fun _ => rfl), State.readLine, State.ctx_modCtx_self]
      exact lowOnly_loads _ _ _ _ fun j hj => List.mem_range.1 hj
    · rw [State.ctx_modCore_of_slots _ _ _ (by exact fun _ => rfl)]
      exact (State.ctx_modCtx ..).trans (if_neg hv)
    · simp [State.core_modCore_self, Core.resident, RLine.is]

theorem slot_dirtyLine (idx : Nat) (u : Tid) : (s.dirtyLine t idx).slot u = s.slot u := by
  unfold State.dirtyLine
  exact slot_modCore_of_slots s _ (by exact fun _ => rfl) u

theorem any_dirtyLine {idx : Nat} (h : (s.core t.core).resident t.slot idx = true) :
    ((s.dirtyLine t idx).core t.core).rlines.any (fun l => l.is t.slot && l.idx == idx && l.dirty) = true := by
  obtain ⟨l, hl, his⟩ := List.any_eq_true.1 h
  rw [State.dirtyLine, State.core_modCore_self]
  refine List.any_eq_true.2 ⟨{ l with dirty := true }, List.mem_map.2 ⟨l, hl, if_pos his⟩, ?_⟩
  exact Bool.and_eq_true_iff.2 ⟨his, rfl⟩

end

/-- R325: the registers of an unwind to entry i, from those with g1 to g7's line filled. -/
def unwound (c : Ctx) (f : Flt) (e : CEntry) (i : Nat) : Ctx :=
  { ((c.wg 1 (f.code.zeroExtend 64)).wg 2 f.addr).wg 3 (e.nst.zeroExtend 64) with
    pc := e.hpc, cdepth := BitVec.ofNat 3 i, stack := (List.range (4 - i)).foldl (fun m j => m.put {} (i + j) {}) c.stack }

/-- R325: a slot after the unwind, but for the record of its packet. -/
def Slot.unwound (x : Slot) (c : Ctx) : Slot := { x with st := .ready, unwinding := none, ctx := c }

/-- R325: an unwind is the fill of the line, the change of the slot, and a report. -/
theorem reports_unwind (s : State) (t : Tid) (f : Flt) (i : Nat) : Reports
    (((s.fillLines t [lowLine]).dirtyLine t lowLine).modSlot t fun x => x.unwound (Machine.unwound x.ctx f ((s.ctx t).stack.get {} i) i))
    (s.unwind t f i) := by
  have hw : s.unwind t f i =
      ((((s.fillLines t [lowLine]).dirtyLine t lowLine).modSlot t fun x =>
        x.unwound (Machine.unwound x.ctx f ((s.ctx t).stack.get {} i) i)).unstall t).report t 2 f := by
    simp only [State.unwind, Machine.unwound, Ctx.wg_stack]
    rfl
  rw [hw]
  exact (reports_unstall ..).trans (reports_report ..)

theorem Ctx.catcher_lt {c : Ctx} {f : Flt} {i : Nat} (h : c.catcher f = some i) : i < 4 := by
  unfold Ctx.catcher at h
  split at h
  · cases h
  · have := List.mem_of_find?_eq_some h
    simpa using this

theorem get_foldl_clear {α : Type} [DecidableEq α] (d : α) (m : Sparse α) (i n k : Nat) :
    ((List.range n).foldl (fun m j => m.put d (i + j) d) m).get d k = if i ≤ k ∧ k < i + n then d else m.get d k := by
  induction n with
  | zero => exact (if_neg (by omega)).symm
  | succ n ih =>
    rw [List.range_succ, List.foldl_append, List.foldl_cons, List.foldl_nil, Sparse.get_put, ih]
    by_cases hk : k = i + n
    · rw [if_pos hk, if_pos (by omega)]
    · rw [if_neg hk]
      by_cases h : i ≤ k ∧ k < i + n
      · rw [if_pos h, if_pos (by omega)]
      · rw [if_neg h, if_neg (by omega)]

section
variable (c : Ctx) (f : Flt) (e : CEntry) (i : Nat)

theorem rg_unwound (r : Reg) : (unwound c f e i).rg r =
    if r = 3 then e.nst.zeroExtend 64 else if r = 2 then f.addr else if r = 1 then f.code.zeroExtend 64 else c.rg r := by
  change ((((c.wg 1 (f.code.zeroExtend 64)).wg 2 f.addr).wg 3 (e.nst.zeroExtend 64)).rg r) = _
  simp only [Ctx.rg_wg]
  by_cases hr : r = 0
  · subst hr; rfl
  · simp only [if_neg hr]

theorem rg_unwound_of_ne {r : Reg} (h1 : r ≠ 1) (h2 : r ≠ 2) (h3 : r ≠ 3) : (unwound c f e i).rg r = c.rg r := by
  rw [rg_unwound, if_neg h3, if_neg h2, if_neg h1]

theorem stack_unwound (hi : i < 4) {j : Nat} :
    (unwound c f e i).stack.get {} j = if i ≤ j ∧ j < 4 then {} else c.stack.get {} j := by
  have := get_foldl_clear ({} : CEntry) c.stack i (4 - i) j
  rw [Nat.add_sub_cancel' (Nat.le_of_lt hi)] at this
  exact this

theorem k_unwound : (unwound c f e i).k = c.k := by simp [unwound]
theorem v_unwound : (unwound c f e i).v = c.v := by simp [unwound]

end

end Sys2Proof.Machine

namespace Sys2Proof.Claims

open Sys2Proof.Machine

/-! CRO and CRC (R324). -/

theorem misaligned_iff_mod (a : W64) : misaligned a = true ↔ a.toNat % 4 ≠ 0 := by
  have h : (a.extractLsb' 0 2).toNat = a.toNat % 4 := by simp
  rw [misaligned, decide_eq_true_iff, ne_eq, ← BitVec.toNat_inj, h]
  rfl

section
variable {h : Hdr} {s : State}

theorem cro_completes {mask : BitVec 8} {tgt : Target} {a : W64} (hi : Issues h (targetUses tgt) s)
    (ha : Machine.targetOf (s.ctx s.cur) tgt = a) (hal : a.toNat % 4 = 0) (hd : (s.ctx s.cur).cdepth.toNat < 4) :
    ∃ t, exec (.cro h mask tgt) s = .next t ∧ Completes s t { s.ctx s.cur with
      cdepth := (s.ctx s.cur).cdepth + 1
      stack := (s.ctx s.cur).stack.put {} (s.ctx s.cur).cdepth.toNat { nst := 0, mask := mask, hpc := a, valid := true } }
      (s.nextPc h) := by
  have hm : misaligned a = false := Bool.eq_false_iff.2 fun m => (misaligned_iff_mod a).1 m hal
  simp only [exec_cro, execCro]
  refine issue_next false hi (fun c => { c with
    cdepth := c.cdepth + 1
    stack := c.stack.put {} (s.ctx s.cur).cdepth.toNat { nst := 0, mask := mask, hpc := a, valid := true } }) ?_
  simp only [begun_cur, begun_ctx, ha, hm, Bool.false_eq_true, if_false, if_neg (Nat.not_le.2 hd)]

theorem cro_misaligned {mask : BitVec 8} {tgt : Target} {a : W64} (hi : Issues h (targetUses tgt) s)
    (ha : Machine.targetOf (s.ctx s.cur) tgt = a) (hal : a.toNat % 4 ≠ 0) :
    ∃ t, exec (.cro h mask tgt) s = .next t ∧ Leaves (s.raiseLater s.cur { code := 5, addr := a }) t := by
  simp only [exec_cro, execCro]
  refine issue_fault false hi _ ?_
  simp only [begun_cur, begun_ctx, ha, (misaligned_iff_mod a).2 hal, if_true, alignFault]

theorem cro_full {mask : BitVec 8} {tgt : Target} {a : W64} (hi : Issues h (targetUses tgt) s)
    (ha : Machine.targetOf (s.ctx s.cur) tgt = a) (hal : a.toNat % 4 = 0) (hd : 4 ≤ (s.ctx s.cur).cdepth.toNat) :
    ∃ t, exec (.cro h mask tgt) s = .next t ∧ Leaves (s.raiseLater s.cur { code := 6, sub := 14 }) t := by
  have hm : misaligned a = false := Bool.eq_false_iff.2 fun m => (misaligned_iff_mod a).1 m hal
  simp only [exec_cro, execCro]
  refine issue_fault false hi _ ?_
  simp only [begun_cur, begun_ctx, ha, hm, Bool.false_eq_true, if_false, if_pos hd, protFault]

theorem crc_completes (hi : Issues h [] s) (hd : (s.ctx s.cur).cdepth ≠ 0) :
    ∃ t, exec (.crc h) s = .next t ∧ Completes s t { s.ctx s.cur with
      cdepth := (s.ctx s.cur).cdepth - 1
      stack := (s.ctx s.cur).stack.put {} ((s.ctx s.cur).cdepth.toNat - 1)
        { (s.ctx s.cur).stack.get {} ((s.ctx s.cur).cdepth.toNat - 1) with valid := false } } (s.nextPc h) := by
  simp only [exec_crc, execCrc]
  refine issue_next false hi (fun c => { c with
    cdepth := c.cdepth - 1
    stack := c.stack.put {} ((s.ctx s.cur).cdepth.toNat - 1)
      { c.stack.get {} ((s.ctx s.cur).cdepth.toNat - 1) with valid := false } }) ?_
  simp only [begun_cur, begun_ctx, if_neg hd]

theorem crc_empty (hi : Issues h [] s) (hd : (s.ctx s.cur).cdepth = 0) :
    ∃ t, exec (.crc h) s = .next t ∧ Leaves (s.raiseLater s.cur { code := 6, sub := 14 }) t := by
  simp only [exec_crc, execCrc]
  refine issue_fault false hi _ ?_
  simp only [begun_cur, begun_ctx, if_pos hd, protFault]

end

/-! The unwind (R325). -/

theorem exec_containmentUnwind_ready {s : State} {t : Tid} {f : Flt} {due i : Nat} (hu : (s.slot t).unwinding = some (f, due))
    (hdue : due ≤ s.now) (hq : s.quietThread t = true) (hp : s.placeFree t = true) (hforce : (s.slot t).force = false)
    (hc : (s.ctx t).catcher f = some i) : exec (.containmentUnwind t) s = .next (s.unwind t f i) := by
  have hr : s.unwindReady t = true := by simp [State.unwindReady, hu, hdue, hq, hp]
  simp only [exec_containmentUnwind, execContainmentUnwind, hu, hr, hforce, hc, Bool.not_true, Bool.false_eq_true, if_false]

theorem containment : Containment := by
  refine ⟨fun h mask tgt s hi => ⟨cro_completes hi rfl, cro_misaligned hi rfl, cro_full hi rfl⟩,
    fun h s hi => ⟨crc_completes hi, crc_empty hi⟩, fun s t f due i hu hdue hq hp hforce hc hroom => ?_⟩
  intro e
  have hfill := lowFilled_fillLines hroom
  have hrep := reports_unwind s t f i
  have hi := Ctx.catcher_lt hc
  generalize hw : s.fillLines t [lowLine] = w at hfill hrep
  have hctx : (s.unwind t f i).ctx t = unwound (w.ctx t) f e i := by
    rw [hrep.ctx, State.ctx_modSlot_self, slot_dirtyLine]
    rfl
  refine ⟨_, exec_containmentUnwind_ready hu hdue hq hp hforce hc, ?_⟩
  rw [hctx]
  refine ⟨?st, ?unw, by rw [rg_unwound]; rfl, by rw [rg_unwound]; rfl, by rw [rg_unwound]; rfl, rfl, rfl,
    fun j h1 h2 => by rw [stack_unwound _ _ _ _ hi, if_pos ⟨h1, h2⟩],
    fun j h1 => ?stack, fun r hr => ?high, fun hres r h1 h2 h3 => ?kept, ?dirty, ?k, ?v, ?phys, fun v hv => ?others⟩
  case st => rw [hrep.st, State.slot_modSlot_self]; rfl
  case unw => rw [hrep.unwinding, State.slot_modSlot_self]; rfl
  case stack => rw [stack_unwound _ _ _ _ hi, if_neg (by omega), hfill.ctx.rest]
  case high =>
    have hne : ∀ n : Reg, n.toNat < 8 → r ≠ n := fun n hn e => by subst e; omega
    rw [rg_unwound_of_ne _ _ _ _ (hne 1 (by decide)) (hne 2 (by decide)) (hne 3 (by decide)), hfill.ctx.high r hr]
  case kept => rw [rg_unwound_of_ne _ _ _ _ h1 h2 h3, ← hw, fillLow_of_resident hres]
  case dirty => rw [hrep.rlines, rlines_modSlot]; exact any_dirtyLine hfill.resident
  case k => rw [k_unwound, hfill.ctx.rest]
  case v => rw [v_unwound, hfill.ctx.rest]
  case phys => exact hrep.phys.trans hfill.phys
  case others => rw [hrep.ctx, State.ctx_modSlot, if_neg hv, State.ctx, slot_dirtyLine]; exact hfill.others v hv

/-! PCMP (R326). -/

theorem cmpFull_begun (s : State) (h : Hdr) (uses : List Use) (u : Tid) : (s.begun h uses).cmpFull u = s.cmpFull u := by
  have hc : ((s.begun h uses).slot u).cmp = (s.slot u).cmp := by
    have := congrArg Slot.cmp ((worked_begun s h uses false).slot_rest u); exact this
  rw [State.cmpFull, hc]
  rfl

/-- R326: an instruction that presents words to the comparator, in paired mode alone. -/
theorem pcmp_issue {h : Hdr} {uses : List Use} {words : Ctx → List Nat} {s : State} (hi : Issues h uses s) :
    let body : Bool → State → Step1 := fun _ s =>
      if !(s.ctx s.cur).paired then .next s
      else if s.cmpFull s.cur then .wait (.change [pairKey s.cur])
      else .next (s.emit s.cur 2 (words (s.ctx s.cur)) 0 false (.wakeKeys s.cur.core []))
    ((s.ctx s.cur).paired = false → ∃ t, issue h uses body s = .next t ∧ Completes s t (s.ctx s.cur) (s.nextPc h)) ∧
    ((s.ctx s.cur).paired = true → s.cmpFull s.cur = false → ∃ t, issue h uses body s = .next t ∧
      Completes (s.sched (s.now + 2) Phase.commit (.present s.cur (words (s.ctx s.cur)) 0 false
        (if (s.ctx s.cur).trail then none else some (.wakeKeys s.cur.core [])))) t (s.ctx s.cur) (s.nextPc h)) := by
  intro body
  refine ⟨fun hp => issue_nothing false hi ?_, fun hp hf => ?_⟩
  · simp only [body, begun_cur, begun_ctx, hp, Bool.not_false, if_true]
  · refine issue_completes false false hi ?_ ((worked_begun s h uses false).sched ..) rfl
    simp only [body, begun_cur, begun_ctx, begun_now, cmpFull_begun, hp, hf, Bool.not_true, Bool.false_eq_true, if_false, State.emit,
      if_true]

theorem pairCompareResult : PairCompareResult := by
  intro h op s
  cases op with
  | g a => exact fun hi => pcmp_issue (words := fun c => [31, 0, (c.rg a).toNat]) hi
  | v a => exact fun hi => pcmp_issue (words := fun c => [31, 1, (c.rv a).toNat]) hi
  | k a => exact fun hi => pcmp_issue (words := fun c => [31, 2, (c.rk a).toNat]) hi

end Sys2Proof.Claims
open Sys2Proof.Claims

/-- Settles O15: an unwind is a fill of one line, a change of its slot and a report; the other instructions pass their issue. -/
theorem containmentAndPairs : Obligations.ContainmentAndPairs := ⟨containment, pairCompareResult⟩
end
section
/-!
PROOFS. LDL and STL (O17).
-/

namespace Sys2Proof.Machine

/-! Granules (R186). -/

theorem mem_granules {a n g : Nat} (hn : 0 < n) : g ∈ granules a n ↔ ∃ b, b < n ∧ (a + b) / 16 = g := by
  simp only [granules, List.mem_map, List.mem_range]
  constructor
  · rintro ⟨j, hj, rfl⟩
    by_cases h0 : j = 0
    · exact ⟨0, hn, by omega⟩
    · exact ⟨(j + a / 16) * 16 - a, by omega, by omega⟩
  · rintro ⟨b, hb, rfl⟩
    exact ⟨(a + b) / 16 - a / 16, by omega, by omega⟩

theorem allFull_iff {e : Sparse Bool} {a n : Nat} (hn : 0 < n) :
    allFull e a n = true ↔ ∀ b, b < n → e.get false ((a + b) / 16) = false := by
  simp only [allFull, List.all_eq_true, Bool.not_eq_true', mem_granules hn]
  exact ⟨fun h b hb => h _ ⟨b, hb, rfl⟩, fun h g ⟨b, hb, hg⟩ => hg ▸ h b hb⟩

theorem allEmpty_iff {e : Sparse Bool} {a n : Nat} (hn : 0 < n) :
    allEmpty e a n = true ↔ ∀ b, b < n → e.get false ((a + b) / 16) = true := by
  simp only [allEmpty, List.all_eq_true, mem_granules hn]
  exact ⟨fun h b hb => h _ ⟨b, hb, rfl⟩, fun h g ⟨b, hb, hg⟩ => hg ▸ h b hb⟩

theorem accessBytes_pos (m : MemOps) : 0 < accessBytes m := by
  unfold accessBytes
  split
  · decide
  · exact Nat.pow_pos (by decide)

/-! Bytes of a read (R2). -/

theorem peek_lt (m : Sparse Byte) (a n : Nat) : peek m a n < 256 ^ n := by
  induction n generalizing a with
  | zero => exact Nat.one_pos
  | succ n ih =>
    have hb := (Sparse.get 0 m a).isLt
    have := ih (a + 1)
    rw [peek, Nat.pow_succ]
    omega

theorem peek_byte (m : Sparse Byte) (a n : Nat) {b : Nat} (hb : b < n) : peek m (a + b) 1 = peek m a n / 256 ^ b % 256 := by
  induction n generalizing a b with
  | zero => omega
  | succ n ih =>
    have hlt := (Sparse.get 0 m a).isLt
    cases b with
    | zero => simp only [peek, Nat.pow_zero, Nat.div_one, Nat.add_zero]; omega
    | succ b =>
      rw [peek.eq_2 m a n, Nat.pow_succ', ← Nat.div_div_eq_div_mul, Nat.add_mul_div_left _ _ (by decide), Nat.div_eq_of_lt hlt,
        Nat.zero_add, ← ih (a + 1) (Nat.lt_of_succ_lt_succ hb), Nat.add_right_comm, Nat.add_assoc]

/-! What a turn leaves of local memory and of the accesses in flight. -/

section
variable {s t : State} {c : Ctx}

/-- A change of a core that `Core.rest` leaves out. -/
theorem Worked.modCoreIdle (w : Worked s t c) (k : Nat) (f : Core → Core) (hs : ∀ c, (f c).slots = c.slots)
    (hr : ∀ c, (f c).rest = c.rest) : Worked s (t.modCore k f) c where
  cur := w.cur
  now := w.now
  seq := w.seq
  slotEq u := by rw [slot_modCore_of_slots t k hs]; exact w.slotEq u
  cores j := by
    rw [State.core_modCore]
    split
    · next h => subst h; rw [hr]; exact w.cores j
    · exact w.cores j
  rest := by rw [State.rest_modCore]; exact w.rest
  agenda := w.agenda

theorem Worked.count (w : Worked s t c) (k n j : Nat) : Worked s (t.count k n j) c :=
  w.modCoreIdle k _ (by exact fun _ => rfl) (by exact fun _ => rfl)

theorem Worked.coreEmpty (w : Worked s t c) (k : Nat) : (t.core k).empty = (s.core k).empty := by
  have := congrArg Core.empty (w.cores k); exact this
theorem Worked.coreExb (w : Worked s t c) (k : Nat) : (t.core k).exb = (s.core k).exb := by
  have := congrArg Core.exb (w.cores k); exact this
theorem Worked.coreOuts (w : Worked s t c) (k : Nat) : (t.core k).outs = (s.core k).outs := by
  have := congrArg Core.outs (w.cores k); exact this

theorem Worked.localErr (w : Worked s t c) (k a n : Nat) : t.localErr k a n = s.localErr k a n := by
  have : t.localErrs = s.localErrs := by have := congrArg State.localErrs w.rest; exact this
  rw [State.localErr, this]
  rfl

theorem Worked.localRead (w : Worked s t c) (k a n : Nat) : t.localRead k a n = s.localRead k a n := by
  rw [State.localRead, Core.rest_mem (w.cores k)]
  rfl

theorem Worked.releaseHeld (w : Worked s t (s.ctx s.cur)) : t.releaseHeld s.cur = s.releaseHeld s.cur := by
  rw [State.releaseHeld, State.heldOuts, w.coreOuts, w.ctx]
  rfl

end

section
variable (s : State) (h : Hdr) (uses : List Use)

theorem worked_setLocalFull_begun (k a n : Nat) (full : Bool) :
    Worked (s.setLocalFull k a n full) ((s.begun h uses).setLocalFull k a n full) (s.ctx s.cur) := by
  unfold State.setLocalFull
  refine ((worked_begun s h uses false).modCoreRest k (fun c => { c with empty := setFull c.empty a n full }) (fun _ => rfl)
    fun _ => rfl).wakeNext k _ ?_
  rw [State.core_modCore_self, State.core_modCore_self]
  exact any_waitsOn_begun ..

end

@[simp] theorem setLocalFull_cur (s : State) (k a n : Nat) (full : Bool) : (s.setLocalFull k a n full).cur = s.cur := wakeNext_cur ..
@[simp] theorem setLocalFull_now (s : State) (k a n : Nat) (full : Bool) : (s.setLocalFull k a n full).now = s.now := wakeNext_now ..

theorem wakeNext_localErrs (s : State) (k : Nat) (keys : List Nat) : (s.wakeNext k keys).localErrs = s.localErrs := by
  rw [wakeNext_eq]; split <;> rfl

theorem localErr_setLocalFull (s : State) (k a n : Nat) (full : Bool) (j b m : Nat) :
    (s.setLocalFull k a n full).localErr j b m = s.localErr j b m := by
  rw [State.localErr, State.setLocalFull, wakeNext_localErrs]
  rfl

theorem localRead_setLocalFull (s : State) (k a n : Nat) (full : Bool) (j b m : Nat) :
    (s.setLocalFull k a n full).localRead j b m = s.localRead j b m := by
  rw [State.localRead, State.core, State.setLocalFull, wakeNext_cores]
  change peek ((s.modCore k _).core j).mem b m = _
  rw [State.core_modCore]
  split
  · next h => subst h; rfl
  · rfl

theorem slot_setLocalFull (s : State) (k a n : Nat) (full : Bool) (u : Tid) : (s.setLocalFull k a n full).slot u = s.slot u := by
  rw [State.slot, State.core, State.setLocalFull, wakeNext_cores]
  exact slot_modCore_of_slots s k (by exact fun _ => rfl) u

/-- R197: an access that is aligned and unwatched goes on as k says. -/
theorem withAddress_begun {s : State} {h : Hdr} {uses : List Use} {m : MemOps} {kinds : Nat → Bool} (k : W64 → Nat → Step1) :
    withAddress m kinds (s.begun h uses) k =
      if ((s.ctx s.cur).ea m).toNat % accessBytes m ≠ 0 then .fault (alignFault ((s.ctx s.cur).ea m))
      else match s.watch kinds ((s.ctx s.cur).ea m) with
        | some f => .fault f
        | none => k ((s.ctx s.cur).ea m) (accessBytes m) := by
  simp only [withAddress, begun_cur, begun_ctx, begun_watch] <;> rfl

end Sys2Proof.Machine

namespace Sys2Proof.Claims

open Sys2Proof.Machine

section
variable {s : State} {m : MemOps}

theorem qualMatches_iff (s : State) (core a : Nat) {n : Nat} (q : Qual) (hn : 0 < n) :
    qualMatches (s.core core).empty q a n = true ↔ granuleRule s core a n q := by
  cases q with
  | f => exact allFull_iff hn
  | fc => exact allFull_iff hn
  | e => exact allEmpty_iff hn
  | none => exact ⟨fun _ => trivial, fun _ => rfl⟩
  | k => exact ⟨fun _ => trivial, fun _ => rfl⟩

theorem localFault_eq_localRule (s : State) (a n : Nat) (store : Bool) :
    localFault (s.ctx s.cur) (s.core s.cur.core).exb a n store = localRule s a n store := by
  have h2 : ((decide (a < (s.core s.cur.core).exb.toNat) && !(store && ((s.ctx s.cur).ovl || (s.ctx s.cur).priv))) = true) ↔
      (a < (s.core s.cur.core).exb.toNat ∧ ¬ (store = true ∧ ((s.ctx s.cur).ovl = true ∨ (s.ctx s.cur).priv = true))) := by
    simp only [Bool.and_eq_true, decide_eq_true_eq, Bool.not_eq_true', Bool.and_eq_false_iff, Bool.or_eq_false_iff, not_and, not_or,
      Bool.not_eq_true]
    cases store <;> simp
  have h3 : ((decide (0x58000 < a + n) && !(s.ctx s.cur).priv) = true) ↔ (0x58000 < a + n ∧ ¬ (s.ctx s.cur).priv = true) := by simp
  simp only [localFault, localRule, h2, h3, protFault]

theorem Aligned.withAddress {h : Hdr} {uses : List Use} {kinds : Nat → Bool} (ha : Aligned s m kinds) (k : W64 → Nat → Step1) :
    withAddress m kinds (s.begun h uses) k = k (eaOf s m) (accessBytes m) := by
  obtain ⟨hal, hw⟩ := ha
  unfold atOf eaOf at *
  rw [withAddress_begun, if_neg (Classical.not_not.2 hal), hw]

theorem Plain.isTrail (hp : Plain s) : (s.ctx s.cur).isTrail = false := by simp [Ctx.isTrail, hp.1]
theorem Plain.isLead (hp : Plain s) : (s.ctx s.cur).isLead = false := by simp [Ctx.isLead, hp.1]

theorem regionOf_begun (h : Hdr) (uses : List Use) : (s.begun h uses).regionOf s.cur = s.regionOf s.cur :=
  (worked_begun s h uses false).regionOf s.cur

theorem Ctx.wdst_stat (c : Ctx) (d : Dst) (v : Nat) : (c.wdst d v).stat = c.stat := by cases d <;> simp [Ctx.wdst]

theorem pass_of_unpaired {s : State} {t : Tid} (hp : (s.ctx t).paired = false) (v : Nat) : s.pass t v = s := by
  simp [State.pass, Ctx.isLead, hp]

end

/-! LDL (R183, R187, R199). -/

section
variable {s : State} {h : Hdr} {m : MemOps} (hi : Issues h (memUses m true) s) (ha : Aligned s m isLoadKind) (hp : Plain s)
  (hrule : localRule s (atOf s m) (accessBytes m) false = none)
include hi ha hp hrule

theorem ldl_waits (hg : ¬ granuleRule s s.cur.core (atOf s m) (accessBytes m) m.qual) : ∃ t, exec (.ldl h m) s = .next t ∧
    Leaves (s.setSt s.cur (.waiting (.change (granules (atOf s m) (accessBytes m))))) t := by
  have w := worked_begun s h (memUses m true) false
  have hq : qualMatches (s.core s.cur.core).empty m.qual (atOf s m) (accessBytes m) = false :=
    Bool.eq_false_iff.2 fun e => hg ((qualMatches_iff s s.cur.core (atOf s m) m.qual (accessBytes_pos m)).1 e)
  rw [← localFault_eq_localRule] at hrule
  unfold atOf at *
  simp only [exec_ldl, execLdl]
  refine issue_waits _ false hi ?_
  simp only [ha.withAddress, begun_cur, begun_ctx, w.coreExb, w.coreEmpty, hrule, hp.isTrail, hp.isLead, hq, Bool.false_and,
    Bool.false_eq_true, if_false, Bool.not_false, if_true]

theorem ldl_errs (hg : granuleRule s s.cur.core (atOf s m) (accessBytes m) m.qual)
    (he : s.localErr s.cur.core (atOf s m) (accessBytes m) = .uncorrectable) : ∃ t, exec (.ldl h m) s = .next t ∧
    Leaves (s.raiseLater s.cur { code := 9, addr := BitVec.ofNat 64 (atOf s m) }) t := by
  have w := worked_begun s h (memUses m true) false
  have hq := (qualMatches_iff s s.cur.core (atOf s m) m.qual (accessBytes_pos m)).2 hg
  rw [← localFault_eq_localRule] at hrule
  unfold atOf at *
  simp only [exec_ldl, execLdl]
  refine issue_fault _ hi _ ?_
  simp only [ha.withAddress, begun_cur, begun_ctx, w.coreExb, w.coreEmpty, w.localErr, hrule, hp.isTrail, hp.isLead, hq, he,
    Bool.false_and, Bool.false_eq_true, if_false, Bool.not_true, if_true, ueFault]

/-- The granules that LDL.fc empties at its issue. -/
def emptied (s t : State) (m : MemOps) : State :=
  if m.qual = .fc then t.setLocalFull s.cur.core (atOf s m) (accessBytes m) false else t

/-- The acquire of LDL.f and LDL.fc at c + 2. -/
def acquiring (s t : State) (m : MemOps) : State :=
  if m.qual = .none then t else t.actAt (t.now + 2) (.acquireL1 s.cur none)

omit hi ha hp hrule in
theorem worked_acquiring {r t : State} {c : Ctx} (w : Worked r t c) : Worked (acquiring s r m) (acquiring s t m) c := by
  unfold acquiring
  split
  · exact w
  · exact w.actAt ..

omit hi ha hp hrule in
theorem acquiring_cur (t : State) : (acquiring s t m).cur = t.cur := by unfold acquiring; split <;> rfl

omit hi ha hp hrule in
theorem ctx_acquiring (t : State) (u : Tid) : (acquiring s t m).ctx u = t.ctx u := by unfold acquiring; split <;> rfl

omit hi ha hp hrule in
theorem worked_emptied (h : Hdr) (m : MemOps) : Worked (emptied s s m) (emptied s (s.begun h (memUses m true)) m) (s.ctx s.cur) := by
  unfold emptied
  split
  · exact worked_setLocalFull_begun ..
  · exact worked_begun ..

omit hi ha hp hrule in
theorem localRead_emptied (t : State) (k a n : Nat) : (emptied s t m).localRead k a n = t.localRead k a n := by
  unfold emptied
  split
  · exact localRead_setLocalFull ..
  · rfl

omit hi ha hp hrule in
theorem localErr_emptied (t : State) (k a n : Nat) : (emptied s t m).localErr k a n = t.localErr k a n := by
  unfold emptied
  split
  · exact localErr_setLocalFull ..
  · rfl

omit hi ha hp hrule in
theorem emptied_cur (t : State) : (emptied s t m).cur = t.cur := by
  unfold emptied
  split
  · exact setLocalFull_cur ..
  · rfl

theorem ldl_reads (hg : granuleRule s s.cur.core (atOf s m) (accessBytes m) m.qual)
    (he : s.localErr s.cur.core (atOf s m) (accessBytes m) = .clean) : ∃ t, exec (.ldl h m) s = .next t ∧
    Completes (acquiring s (emptied s s m) m) t
      ((s.ctx s.cur).wdst (dstOf m) (s.localRead s.cur.core (atOf s m) (accessBytes m))) (s.nextPc h) := by
  have w := worked_begun s h (memUses m true) false
  have hq := (qualMatches_iff s s.cur.core (atOf s m) m.qual (accessBytes_pos m)).2 hg
  have hcur : (emptied s s m).cur = s.cur := emptied_cur s
  rw [← localFault_eq_localRule] at hrule
  simp only [exec_ldl, execLdl]
  generalize hv : s.localRead s.cur.core (atOf s m) (accessBytes m) = v
  generalize hb : emptied s (s.begun h (memUses m true)) m = b
  have wb : Worked (emptied s s m) b (s.ctx s.cur) := hb ▸ worked_emptied h m
  have wm : Worked (emptied s s m) (b.modCtx s.cur (·.wdst (dstOf m) v)) ((s.ctx s.cur).wdst (dstOf m) v) :=
    hcur ▸ wb.modCtx (·.wdst (dstOf m) v)
  have hfix : fixLocal b s.cur.core (atOf s m) (accessBytes m) = b :=
    fixLocal_of_clean (by rw [← hb]; exact (localErr_emptied ..).trans ((w.localErr ..).trans he))
  have hread : b.localRead s.cur.core (atOf s m) (accessBytes m) = v := by
    rw [← hb, localRead_emptied, w.localRead, hv]
  refine issue_completes (t := acquiring s (b.modCtx s.cur (·.wdst (dstOf m) v)) m) _ false hi ?_ (worked_acquiring wm)
    ((acquiring_cur _).trans hcur)
  have hea : (eaOf s m).toNat = atOf s m := rfl
  have hempty : (if m.qual = .fc then (s.begun h (memUses m true)).setLocalFull s.cur.core (atOf s m) (accessBytes m) false
    else s.begun h (memUses m true)) = b := hb
  simp only [ha.withAddress, begun_cur, begun_ctx, w.coreExb, w.coreEmpty, w.localErr, hea, hrule, hp.isTrail, hp.isLead, hq, he,
    Bool.false_and, Bool.false_eq_true, if_false, Bool.not_true, regionOf_begun, hp.2, hempty, hfix, hread, reduceCtorEq, if_true]
  refine congrArg Step1.next (pass_of_unpaired (s := acquiring s (b.modCtx s.cur (·.wdst (dstOf m) v)) m) ?_ v)
  have hctx := wm.ctx
  rw [hcur] at hctx
  rw [ctx_acquiring, hctx, Ctx.paired, Ctx.wdst_stat]
  exact hp.1

end

theorem holdsBytes_localRead (s : State) (k a n : Nat) : HoldsBytes (fun x => s.localRead k x 1) a n (s.localRead k a n) :=
  fun _ hb => peek_byte _ a n hb

theorem localLoadResult : LocalLoadResult := by
  intro h m s hi ha hp k a n hrule hk
  refine ⟨fun he hg => ?_, ldl_waits hi ha hp hrule, ldl_errs hi ha hp hrule⟩
  obtain ⟨t, ht, hc⟩ := ldl_reads hi ha hp hrule hg he
  refine ⟨t, _, ht, holdsBytes_localRead s k a n, peek_lt _ _ _, ?_⟩
  unfold acquiring emptied at hc
  cases hq : m.qual with
  | fc => simpa only [hq, if_true, reduceCtorEq, if_false, setLocalFull_now] using hc
  | f => simpa only [hq, reduceCtorEq, if_false] using hc
  | e => simpa only [hq, reduceCtorEq, if_false] using hc
  | none => simpa only [hq, if_true, reduceCtorEq, if_false] using hc
  | k => exact absurd hq hk

/-! STL (R183, R187, R198). -/

/-- R195: no store of these bytes consumes an uncorrectable error. -/
theorem sound_of {e : Err} {n : Nat} (he : 8 ≤ n ∨ e ≠ .uncorrectable) : (decide (n < 8) && decide (e = .uncorrectable)) = false := by
  rcases he with h8 | h8
  · simp [Nat.not_lt.2 h8]
  · simp [h8]

section
variable {s : State} {h : Hdr} {m : MemOps} (hi : Issues h (memUses m false) s) (ha : Aligned s m isStoreKind) (hp : Plain s)
  (hrule : localRule s (atOf s m) (accessBytes m) true = none)
  (he : 8 ≤ accessBytes m ∨ s.localErr s.cur.core (atOf s m) (accessBytes m) ≠ .uncorrectable)
include hi ha hp hrule he

theorem stl_plain (hq : m.qual = .none) : ∃ t, exec (.stl h m) s = .next t ∧
    Completes (s.actAt (s.now + 2) (.localWrite s.cur (atOf s m) (accessBytes m) ((s.ctx s.cur).storeData m))) t (s.ctx s.cur)
      (s.nextPc h) := by
  have w := worked_begun s h (memUses m false) false
  have hea : (eaOf s m).toNat = atOf s m := rfl
  have hsound := sound_of he
  rw [← localFault_eq_localRule] at hrule
  simp only [exec_stl, execStl]
  refine issue_completes _ false hi ?_ (w.actAt 2 (.localWrite s.cur (atOf s m) (accessBytes m) ((s.ctx s.cur).storeData m))) rfl
  simp only [ha.withAddress, begun_cur, begun_ctx, w.coreExb, w.localErr, hea, hrule, hp.1, hq, hsound, State.localHazard,
    regionOf_begun, hp.2, Bool.false_and, Bool.and_false, Bool.false_eq_true, if_false, reduceCtorEq, decide_false, State.emit]

section
variable (hq : m.qual = .e)
include hq

theorem stl_waits (hg : ¬ granuleRule s s.cur.core (atOf s m) (accessBytes m) .e) : ∃ t, exec (.stl h m) s = .next t ∧
    Leaves (s.setSt s.cur (.waiting (.change (granules (atOf s m) (accessBytes m))))) t := by
  have w := worked_begun s h (memUses m false) false
  have hea : (eaOf s m).toNat = atOf s m := rfl
  have hsound := sound_of he
  have hempty : allEmpty (s.core s.cur.core).empty (atOf s m) (accessBytes m) = false :=
    Bool.eq_false_iff.2 fun e => hg ((allEmpty_iff (accessBytes_pos m)).1 e)
  rw [← localFault_eq_localRule] at hrule
  simp only [exec_stl, execStl]
  refine issue_waits _ false hi ?_
  simp only [ha.withAddress, begun_cur, begun_ctx, w.coreExb, w.coreEmpty, w.localErr, hea, hrule, hp.1, hp.isTrail, hq, hsound, hempty,
    Bool.false_and, Bool.false_eq_true, if_false, decide_true, Bool.not_false, Bool.and_self, if_true]

/-- R209: STL.e holds behind a release point: its turn is spent. -/
theorem stl_holds (hg : granuleRule s s.cur.core (atOf s m) (accessBytes m) .e) (hr : s.releaseHeld s.cur = true) :
    ∃ t, exec (.stl h m) s = .next t ∧ Leaves s t := by
  have w := worked_begun s h (memUses m false) false
  have hea : (eaOf s m).toNat = atOf s m := rfl
  have hsound := sound_of he
  have hempty := (allEmpty_iff (accessBytes_pos m)).2 hg
  rw [← localFault_eq_localRule] at hrule
  simp only [exec_stl, execStl]
  rw [issue_passes _ hi]
  simp only [ha.withAddress, begun_cur, begun_ctx, w.coreExb, w.coreEmpty, w.localErr, hea, hrule, hp.1, hp.isTrail, hq, hsound, hempty,
    w.releaseHeld, hr, Bool.false_and, Bool.false_eq_true, if_false, decide_true, Bool.not_false, Bool.not_true, Bool.and_self, if_true,
    State.settle]
  exact ⟨_, rfl, ((w.calm s.cur).count s.cur.core 6 1).leaves⟩

theorem stl_fills (hg : granuleRule s s.cur.core (atOf s m) (accessBytes m) .e) (hr : s.releaseHeld s.cur = false) :
    ∃ t, exec (.stl h m) s = .next t ∧
      Completes ((s.setLocalFull s.cur.core (atOf s m) (accessBytes m) true).actAt (s.now + 3)
        (.localWrite s.cur (atOf s m) (accessBytes m) ((s.ctx s.cur).storeData m))) t (s.ctx s.cur) (s.nextPc h) := by
  have w := worked_begun s h (memUses m false) false
  have hea : (eaOf s m).toNat = atOf s m := rfl
  have hsound := sound_of he
  have hempty := (allEmpty_iff (accessBytes_pos m)).2 hg
  have wf := (worked_setLocalFull_begun s h (memUses m false) s.cur.core (atOf s m) (accessBytes m) true).actAt 3
    (.localWrite s.cur (atOf s m) (accessBytes m) ((s.ctx s.cur).storeData m))
  rw [setLocalFull_now, setLocalFull_now, begun_now] at wf
  rw [← localFault_eq_localRule] at hrule
  simp only [exec_stl, execStl]
  refine issue_completes _ false hi ?_ wf (setLocalFull_cur ..)
  have hctx : ((s.begun h (memUses m false)).setLocalFull s.cur.core (atOf s m) (accessBytes m) true).ctx s.cur = s.ctx s.cur :=
    (congrArg Slot.ctx (slot_setLocalFull ..)).trans (begun_ctx ..)
  simp only [ha.withAddress, begun_cur, begun_ctx, w.coreExb, w.coreEmpty, w.localErr, hea, hrule, hp.1, hp.isTrail, hq, hsound, hempty,
    w.releaseHeld, hr, regionOf_begun, hp.2, Bool.false_and, Bool.false_eq_true, if_false, decide_true, Bool.not_false, Bool.not_true,
    Bool.and_self, if_true, State.emit, hctx, setLocalFull_now, begun_now]

end

end

theorem localStoreResult : LocalStoreResult := by
  intro h m s hi ha hp k a n data hrule he
  exact ⟨stl_plain hi ha hp hrule he, fun hq => stl_fills hi ha hp hrule he hq, fun hq => stl_holds hi ha hp hrule he hq,
    fun hq => stl_waits hi ha hp hrule he hq⟩

/-! What stops an access (R162, R183, R197). -/

/-- The faults that an access of local memory finds before anything else. -/
theorem localAccess_faults {h : Hdr} {m : MemOps} {s : State} {store resv : Bool} {uses : List Use} {kinds : Nat → Bool}
    {body : Bool → State → W64 → Nat → Step1} (hi : Issues h uses s)
    (hbody : ∀ ok f, localRule s (atOf s m) (accessBytes m) store = some f →
      body ok (s.begun h uses) (eaOf s m) (accessBytes m) = .fault f) :
    let run := issue h uses (fun ok s => withAddress m kinds s (body ok s)) s (resv := resv)
    (atOf s m % accessBytes m ≠ 0 → ∃ t, run = .next t ∧ Leaves (s.raiseLater s.cur { code := 5, addr := eaOf s m }) t) ∧
    (∀ f, atOf s m % accessBytes m = 0 → s.watch kinds (eaOf s m) = some f → ∃ t, run = .next t ∧ Leaves (s.raiseLater s.cur f) t) ∧
    (∀ f, Aligned s m kinds → localRule s (atOf s m) (accessBytes m) store = some f →
      ∃ t, run = .next t ∧ Leaves (s.raiseLater s.cur f) t) := by
  intro run
  unfold atOf eaOf at *
  refine ⟨fun hal => issue_fault resv hi _ ?_, fun f hal hw => issue_fault resv hi _ ?_, fun f ha hr => issue_fault resv hi _ ?_⟩
  · rw [withAddress_begun, if_pos hal]; rfl
  · rw [withAddress_begun, if_neg (Classical.not_not.2 hal), hw]
  · rw [ha.withAddress]; exact hbody true f hr

theorem localAccessFaults : LocalAccessFaults := by
  intro h m s store
  cases store with
  | true =>
    intro i kinds hi
    simp only [i, if_true, exec_stl, execStl]
    refine localAccess_faults hi fun ok f hr => ?_
    have w := worked_begun s h (memUses m false) false
    have hea : (eaOf s m).toNat = atOf s m := rfl
    rw [← localFault_eq_localRule] at hr
    simp only [begun_cur, begun_ctx, w.coreExb, hea, hr]
  | false =>
    intro i kinds hi
    simp only [i, Bool.false_eq_true, if_false, exec_ldl, execLdl]
    refine localAccess_faults hi fun ok f hr => ?_
    have w := worked_begun s h (memUses m true) false
    have hea : (eaOf s m).toNat = atOf s m := rfl
    rw [← localFault_eq_localRule] at hr
    simp only [begun_cur, begun_ctx, w.coreExb, hea, hr]

end Sys2Proof.Claims

open Sys2Proof.Claims

/-- Settles O17: LDL and STL pass the checks of their address and go by their granules. -/
theorem localAccess : Obligations.LocalAccess := ⟨localLoadResult, localStoreResult, localAccessFaults⟩
end
section
/-!
PROOFS. What the landing of a reply at a thread leaves alone (R169, R199).
-/

namespace Sys2Proof.Machine

/-- Beside thread t's slot, and the parts of a core that are no slot, nothing has changed. -/
structure Beside (t : Tid) (s u : State) : Prop where
  others   : ∀ v, v ≠ t → u.slot v = s.slot v
  now      : u.now = s.now
  phys     : u.phys = s.phys
  clusters : u.clusters = s.clusters
  agenda   : u.agenda = s.agenda

section
variable {t : Tid} {s u v : State}

theorem Beside.refl (t : Tid) (s : State) : Beside t s s := ⟨fun _ _ => rfl, rfl, rfl, rfl, rfl⟩

theorem Beside.trans (h : Beside t s u) (g : Beside t u v) : Beside t s v :=
  ⟨fun w hw => (g.others w hw).trans (h.others w hw), g.now.trans h.now, g.phys.trans h.phys, g.clusters.trans h.clusters,
    g.agenda.trans h.agenda⟩

theorem Beside.ctx (h : Beside t s u) {w : Tid} (hw : w ≠ t) : u.ctx w = s.ctx w := congrArg Slot.ctx (h.others w hw)

theorem beside_modCore (t : Tid) (s : State) (k : Nat) {f : Core → Core} (hf : ∀ c, (f c).slots = c.slots) :
    Beside t s (s.modCore k f) :=
  ⟨fun w _ => slot_modCore_of_slots s k hf w, rfl, rfl, rfl, rfl⟩

theorem beside_modSlot (t : Tid) (s : State) (f : Slot → Slot) : Beside t s (s.modSlot t f) :=
  ⟨fun w hw => by rw [State.slot_modSlot, if_neg hw], rfl, rfl, rfl, rfl⟩

end

/-! The register of a landing (R161). -/

theorem slot_landReg (s : State) (t : Tid) (d : Dst) (v : Nat) (u : Tid) :
    (s.landReg t d v).slot u = if u = t then { s.slot t with ctx := (s.ctx t).wdst d v } else s.slot u := by
  unfold State.landReg
  dsimp only
  split
  · rw [slot_dirtyLine, State.slot_modCtx]
  · rw [State.slot_modCtx]

theorem beside_landReg (s : State) (t : Tid) (d : Dst) (v : Nat) : Beside t s (s.landReg t d v) := by
  unfold State.landReg
  dsimp only
  split
  · exact (beside_modSlot ..).trans (beside_modCore _ _ _ (by exact fun _ => rfl))
  · exact beside_modSlot ..

/-! A thread goes on past its instruction (R169). -/

section
variable {s : State} {t : Tid} {w : Wait} (hst : (s.slot t).st = .waiting w)
include hst

theorem land_of_waiting (hs : (s.ctx t).sstep = false) (pc : W64) (len : Nat) :
    s.land t pc len = (s.setSt t .ready).retire t (pc + BitVec.ofNat 64 len) := by
  have hstep : (((s.setSt t .ready).retire t (pc + BitVec.ofNat 64 len)).ctx t).sstep = false := by
    rw [State.ctx, slot_retire, if_pos rfl, Slot.done, State.slot_setSt, if_pos rfl]
    exact hs
  unfold State.land
  rw [hst, if_neg (by exact fun h => by cases h), State.stepped, hstep, if_neg (by decide)]

/-- The slot of the thread after the landing. -/
theorem slot_land (hs : (s.ctx t).sstep = false) (pc : W64) (len : Nat) :
    (s.land t pc len).slot t = ({ s.slot t with st := .ready }).done (pc + BitVec.ofNat 64 len) := by
  rw [land_of_waiting hst hs, slot_retire, if_pos rfl, State.slot_setSt, if_pos rfl]

theorem beside_land (hs : (s.ctx t).sstep = false) (pc : W64) (len : Nat) : Beside t s (s.land t pc len) := by
  rw [land_of_waiting hst hs]
  exact ((beside_modSlot ..).trans (beside_modSlot ..)).trans (beside_modCore _ _ _ (by exact fun _ => rfl))

end

end Sys2Proof.Machine
end
section
/-!
PROOFS. Blocking loads and LDNs land (O25): the counterexample.

The fill of an LDN waits while every line of its set is named by an access other than its own (R188, State.noRoom), but its line
enters the L1 while its own access still stands among those in flight. Where that access names a line of the set, the fill
finds room and its line does not.
-/

namespace Sys2Proof.Machine

/-- The LDN that lands: line 0, of slot 0 of core 1. -/
def crowdedLdn : Acc :=
  { id := 0, tid := ⟨1, 0⟩, bind := 1, pc := 0, len := 8, kind := .ldn, qual := .none, va := 0, pa := 0, n := 8, data := 7, data2 := 0,
    dst := .g 1, wc := 0, issue := 0, priv := false, pasid := 0, tenant := 0 }

/-- Core 1, whose L1 holds the sixteen lines 64, 128, … of the set of line 0. Each of them is named by an access in flight:
line 64 by the LDN itself. -/
def crowdedCore : Core :=
  { slots := [(0, { st := .ready, bind := 1 })]
    l1 := (List.range 16).map fun j => { tag := 64 * (j + 1), own := 0, val := 0, data := 0 }
    outs := (List.range 16).map fun j => { id := j, slot := 0, kind := .ldn, line := 64 * (j + 1) }
    fills := [{ id := 0, line := 0, bytes := [] }] }

def crowded : State := State.reset.setCore 1 crowdedCore

/-- The fill finds room, and no line 0 enters the L1. -/
theorem crowded_noRoom : crowded.noRoom crowdedLdn = false := by decide +kernel

theorem crowded_lands : (match exec (.ldnLanding crowdedLdn) crowded with
    | .next t => (t.core 1).l1.all fun l => l.tag != 0
    | _ => false) = true := by decide +kernel

end Sys2Proof.Machine

open Sys2Proof.Machine

/-- Refutes O25: an LDN that lands where its own access names a line of a full set does not enter its line in the L1. -/
theorem not_landings : ¬ Obligations.Landings := by
  rintro ⟨-, hloose⟩
  obtain ⟨hvalue, -⟩ := hloose crowded crowdedLdn rfl (by decide +kernel) rfl crowded_noRoom (by decide +kernel) (by decide +kernel)
  obtain ⟨t, v, ht, -, -, hfill, -⟩ := hvalue (by decide +kernel)
  obtain ⟨-, hline⟩ := hfill (by decide +kernel) (by decide +kernel)
  obtain ⟨l, hl, htag, -⟩ := hline (by decide +kernel)
  have hnone := crowded_lands
  rw [ht] at hnone
  have hne := List.all_eq_true.1 hnone l hl
  rw [htag] at hne
  exact absurd hne (by decide)
end
section
/-!
PROOFS. Replies that a thread waits for (R169).
-/

namespace Sys2Proof.Machine

@[simp] theorem Ctx.wdst_paired (c : Ctx) (d : Dst) (v : Nat) : (c.wdst d v).paired = c.paired := by
  simp [Ctx.paired, Claims.Ctx.wdst_stat]
@[simp] theorem Ctx.wdst_sstep (c : Ctx) (d : Dst) (v : Nat) : (c.wdst d v).sstep = c.sstep := by
  simp [Ctx.sstep, Claims.Ctx.wdst_stat]
@[simp] theorem Ctx.wdst_g (c : Ctx) (d : Reg) (v : W64) : c.wdst (.g d) v.toNat = c.wg d v := by simp [Ctx.wdst]
@[simp] theorem Ctx.wk_paired (c : Ctx) (d : KReg) (v : W64) : (c.wk d v).paired = c.paired := by simp [Ctx.paired]
@[simp] theorem Ctx.wk_sstep (c : Ctx) (d : KReg) (v : W64) : (c.wk d v).sstep = c.sstep := by simp [Ctx.sstep]
@[simp] theorem Ctx.wg_paired (c : Ctx) (d : Reg) (v : W64) : (c.wg d v).paired = c.paired := by simp [Ctx.paired]
@[simp] theorem Ctx.wg_sstep (c : Ctx) (d : Reg) (v : W64) : (c.wg d v).sstep = c.sstep := by simp [Ctx.sstep]

/-- A thread has gone on at pc with the registers c, and no other thread's registers have changed. -/
structure GoesOn (t : Tid) (s u : State) (c : Ctx) (pc : W64) : Prop where
  ctx    : u.ctx t = { c with pc := pc }
  ready  : (u.slot t).st = .ready
  others : ∀ v, v ≠ t → u.ctx v = s.ctx v
  phys   : u.phys = s.phys

/-- Thread t waits, with the registers c; the rest is as in s. -/
structure Waits (t : Tid) (s u : State) (c : Ctx) : Prop where
  beside  : Beside t s u
  waiting : ∃ w, (u.slot t).st = .waiting w
  ctx     : u.ctx t = c

section
variable {t : Tid} {s u : State} {c : Ctx}

theorem waits_self {w : Wait} (h : (s.slot t).st = .waiting w) : Waits t s s (s.ctx t) := ⟨.refl t s, ⟨w, h⟩, rfl⟩

theorem Waits.landReg (w : Waits t s u c) (d : Dst) (v : Nat) : Waits t s (u.landReg t d v) (c.wdst d v) where
  beside := w.beside.trans (beside_landReg ..)
  waiting := by rw [slot_landReg, if_pos rfl]; exact w.waiting
  ctx := by rw [State.ctx, slot_landReg, if_pos rfl, w.ctx]

theorem Waits.modCore (w : Waits t s u c) (k : Nat) {f : Core → Core} (hf : ∀ c, (f c).slots = c.slots) :
    Waits t s (u.modCore k f) c where
  beside := w.beside.trans (beside_modCore _ _ _ hf)
  waiting := by rw [slot_modCore_of_slots u k hf]; exact w.waiting
  ctx := by rw [State.ctx, slot_modCore_of_slots u k hf]; exact w.ctx

theorem Waits.modSlot (w : Waits t s u c) {f : Slot → Slot} (hf : ∀ x, (f x).st = x.st ∧ (f x).ctx = x.ctx) :
    Waits t s (u.modSlot t f) c where
  beside := w.beside.trans (beside_modSlot ..)
  waiting := by rw [State.slot_modSlot_self, (hf _).1]; exact w.waiting
  ctx := by rw [State.ctx_modSlot_self, (hf _).2]; exact w.ctx

theorem Waits.modCtx (w : Waits t s u c) (f : Ctx → Ctx) : Waits t s (u.modCtx t f) (f c) where
  beside := w.beside.trans (beside_modSlot ..)
  waiting := by rw [State.slot_modCtx, if_pos rfl]; exact w.waiting
  ctx := by rw [State.ctx_modCtx_self, w.ctx]

theorem Waits.acquire (w : Waits t s u c) (d : Option (BitVec 512)) : Waits t s (u.acquire t d) c :=
  w.modCore _ (by exact fun _ => rfl)

theorem Waits.dirtyLine (w : Waits t s u c) (n : Nat) : Waits t s (u.dirtyLine t n) c :=
  w.modCore _ (by exact fun _ => rfl)

theorem Waits.pass (w : Waits t s u c) (hp : c.paired = false) (v : Nat) : Waits t s (u.pass t v) c := by
  rw [Claims.pass_of_unpaired (by rw [w.ctx]; exact hp)]
  exact w

/-- A thread that waits, unpaired and not stepped, goes on past its instruction. -/
theorem Waits.land (w : Waits t s u c) (hs : c.sstep = false) (pc : W64) (len : Nat) :
    GoesOn t s (u.land t pc len) c (pc + BitVec.ofNat 64 len) := by
  obtain ⟨hb, ⟨x, hx⟩, hc⟩ := w
  have hs' : (u.ctx t).sstep = false := by rw [hc]; exact hs
  have hb' := hb.trans (beside_land hx hs' pc len)
  refine ⟨?_, ?_, fun v hv => hb'.ctx hv, hb'.phys⟩
  · rw [State.ctx, slot_land hx hs', ← hc]; rfl
  · rw [slot_land hx hs']; rfl

end

/-- R377: a reply that lands takes its request off the links. -/
theorem answered_cases (s : State) (a : Act) : ∃ l, s.answered a = { s with linkWait := l } := by
  unfold State.answered
  split
  · exact ⟨_, rfl⟩
  · split
    · exact ⟨_, rfl⟩
    · exact ⟨_, rfl⟩

theorem checked_of_nil {s : State} (h : s.stepChecks = []) (core : Nat) (a : Act) (k : State → State) : s.checked core a k = k s := by
  simp only [State.checked, State.stepCheck, h, Bool.false_eq_true, if_false]

theorem deferFault_of_bound {s : State} {t : Tid} {bind : BitVec 12} (he : (s.slot t).st ≠ .empty) (hb : (s.slot t).bind = bind) (f : Flt) :
    s.deferFault t bind f = s.modSlot t fun x => { x with deferred := x.deferred ++ [f] } :=
  if_neg (not_or.2 ⟨he, Classical.not_not.2 hb⟩)

end Sys2Proof.Machine
end

section
/-!
PROOFS. What a future table does with a request, and what its reply leaves (O39).
-/

namespace Sys2Proof.Machine

/-! The reply lands (R284 to R292). -/

theorem slot_modPark (s : State) (ref : BitVec 26) (f : Park → Park) (u : Tid) : (s.modPark ref f).slot u = s.slot u :=
  rfl

theorem perform_futureReply {s : State} (h : s.stepChecks = []) (r : FReq) (a : FAns) :
    ∃ l, perform (.futureReply r a) s = .next (({ s with linkWait := l } : State).futureLands r a) := by
  obtain ⟨l, hl⟩ := answered_cases s (.futureReply r a)
  refine ⟨l, ?_⟩
  rw [perform, landing, hl, checked_of_nil (s := { s with linkWait := l }) h]

section
variable {s : State} {r : FReq} {a : FAns}

/-- R344, R407: the fault of an operation that did not wait is deferred. -/
theorem futureLands_defers {f : Flt} (hloose : looseReq r = true) (hop : r.op ≠ .dispatch) (he : (s.slot r.tid).st ≠ .empty)
    (hb : (s.slot r.tid).bind = r.bind) (hf : a.fault = some f) :
    (s.futureLands r a).slot r.tid = { s.slot r.tid with deferred := (s.slot r.tid).deferred ++ [f] } := by
  have hdrop : (s.dropOut r.tid.core r.id).slot r.tid = s.slot r.tid := by
    unfold State.dropOut; exact slot_modCore_of_slots s _ (by exact fun _ => rfl) _
  have hbound : ¬ ((s.slot r.tid).st = .empty ∨ (s.slot r.tid).bind ≠ r.bind) := not_or.2 ⟨he, Classical.not_not.2 hb⟩
  simp only [State.futureLands, hloose, if_true, if_neg hop, hdrop, if_neg hbound, hf]
  rw [deferFault_of_bound (by rw [hdrop]; exact he) (by rw [hdrop]; exact hb), State.slot_modSlot_self, hdrop]

section
variable (hloose : looseReq r = false) (hst : (s.slot r.tid).st = .waiting (.event r.id)) (hb : (s.slot r.tid).bind = r.bind)
  (hf : a.fault = none)
include hloose hst hb hf

/-- The reply of an operation that its thread waits for goes by the operation. -/
theorem futureLands_waits (hop : r.op ≠ .dispatch) : s.futureLands r a = match r.op with
    | .touch =>
      if !a.wait then s.touchDone r.tid r a.val
      else match (s.slot r.tid).outcome with
        | some (code, v) => s.touchOutcome r.tid r code v
        | none =>
          let s := match (s.slot r.tid).task with
            | some k => s.modPark k.park fun p => if p.told then p else { p with pst := 4 }
            | none => s
          s.setSt r.tid (.waiting (.future r.id))
    | .touchp =>
      let s := (s.landReg r.tid (.g r.d) a.val.toNat).modCtx r.tid (·.wk r.e (Flags.ofBool a.hit))
      let s := if r.e = 15 then s else s.dirtyLine r.tid (4 + r.e.toNat / 8)
      let s := s.pass r.tid (a.val.toNat + (if a.hit then 2 ^ 64 else 0))
      (if a.hit then s.acquire r.tid r.carry else s).land r.tid r.pc 8
    | .fdrop => (s.pass r.tid 0).land r.tid r.pc 8
    | _ => ((s.landReg r.tid (.g r.d) a.val.toNat).pass r.tid a.val.toNat).land r.tid r.pc 8 := by
  have hbound : ¬ ((s.slot r.tid).st = .empty ∨ (s.slot r.tid).bind ≠ r.bind) := by
    rw [hst, hb]
    exact not_or.2 ⟨SlotState.noConfusion, fun h => h rfl⟩
  simp only [State.futureLands, hloose, Bool.false_eq_true, if_false, if_neg hop, if_neg hbound, hf] <;> rfl

variable (hp : (s.ctx r.tid).paired = false) (hs : (s.ctx r.tid).sstep = false)
include hp hs

theorem futureLands_value (hop : r.op = .resolve ∨ r.op = .fcancel ∨ r.op = .fstat ∨ ∃ code, r.op = .fpoison code) :
    GoesOn r.tid s (s.futureLands r a) ((s.ctx r.tid).wg r.d a.val) (r.pc + 8) := by
  have hgo := (((waits_self hst).landReg (.g r.d) a.val.toNat).pass (by rw [Ctx.wdst_paired]; exact hp) a.val.toNat).land
    (by rw [Ctx.wdst_sstep]; exact hs) r.pc 8
  rw [Ctx.wdst_g] at hgo
  rcases hop with h | h | h | ⟨code, h⟩
  all_goals
    rw [futureLands_waits hloose hst hb hf (by rw [h]; exact fun e => by cases e), h]
    exact hgo

theorem futureLands_fdrop (hop : r.op = .fdrop) : GoesOn r.tid s (s.futureLands r a) (s.ctx r.tid) (r.pc + 8) := by
  rw [futureLands_waits hloose hst hb hf (by rw [hop]; exact fun e => by cases e), hop]
  exact ((waits_self hst).pass hp 0).land hs r.pc 8

theorem futureLands_touchp (hop : r.op = .touchp) : GoesOn r.tid s (s.futureLands r a)
    (((s.ctx r.tid).wg r.d a.val).wk r.e (if a.hit then 0xFFFFFFFFFFFFFFFF#64 else 0)) (r.pc + 8) := by
  have w1 := ((waits_self hst).landReg (.g r.d) a.val.toNat).modCtx (·.wk r.e (Flags.ofBool a.hit))
  rw [Ctx.wdst_g] at w1
  have w2 : Waits r.tid s (if r.e = 15 then (s.landReg r.tid (.g r.d) a.val.toNat).modCtx r.tid (·.wk r.e (Flags.ofBool a.hit))
      else ((s.landReg r.tid (.g r.d) a.val.toNat).modCtx r.tid (·.wk r.e (Flags.ofBool a.hit))).dirtyLine r.tid (4 + r.e.toNat / 8))
      (((s.ctx r.tid).wg r.d a.val).wk r.e (Flags.ofBool a.hit)) := by
    split
    · exact w1
    · exact w1.dirtyLine _
  have hpp : (((s.ctx r.tid).wg r.d a.val).wk r.e (Flags.ofBool a.hit)).paired = false := by simpa using hp
  have hss : (((s.ctx r.tid).wg r.d a.val).wk r.e (Flags.ofBool a.hit)).sstep = false := by simpa using hs
  rw [futureLands_waits hloose hst hb hf (by rw [hop]; exact fun e => by cases e), hop]
  dsimp only
  change GoesOn r.tid s _ (((s.ctx r.tid).wg r.d a.val).wk r.e (Flags.ofBool a.hit)) _
  split
  · exact ((w2.pass hpp _).acquire r.carry).land hss r.pc 8
  · exact (w2.pass hpp _).land hss r.pc 8

/-- A TOUCH that delivers its value. -/
theorem futureLands_touch (hop : r.op = .touch) (hw : a.wait = false) :
    GoesOn r.tid s (s.futureLands r a) ((s.ctx r.tid).wg r.d a.val) (r.pc + 8) ∧ ((s.futureLands r a).slot r.tid).touch = none := by
  have w := ((((waits_self hst).landReg (.g r.d) a.val.toNat).pass (by rw [Ctx.wdst_paired]; exact hp) a.val.toNat).acquire
    r.carry).modSlot (f := fun x => { x with touch := none, outcome := none }) fun _ => ⟨rfl, rfl⟩
  have hss : ((s.ctx r.tid).wdst (.g r.d) a.val.toNat).sstep = false := by rw [Ctx.wdst_sstep]; exact hs
  rw [futureLands_waits hloose hst hb hf (by rw [hop]; exact fun e => by cases e), hop]
  simp only [hw, Bool.not_false, if_true]
  refine ⟨by rw [← Ctx.wdst_g]; exact w.land hss r.pc 8, ?_⟩
  obtain ⟨x, hx⟩ := w.waiting
  rw [State.touchDone, slot_land hx (by rw [w.ctx]; exact hss), State.slot_modSlot_self]
  rfl

end

/-- A TOUCH of a future that is not finished waits on. -/
theorem futureLands_touch_wait (hloose : looseReq r = false) (hst : (s.slot r.tid).st = .waiting (.event r.id))
    (hb : (s.slot r.tid).bind = r.bind) (hf : a.fault = none) (hop : r.op = .touch) (hw : a.wait = true)
    (ho : (s.slot r.tid).outcome = none) :
    ((s.futureLands r a).slot r.tid).st = .waiting (.future r.id) ∧ (s.futureLands r a).ctx r.tid = s.ctx r.tid := by
  rw [futureLands_waits hloose hst hb hf (by rw [hop]; exact fun e => by cases e), hop]
  simp only [hw, Bool.not_true, Bool.false_eq_true, if_false, ho]
  rw [State.ctx_setSt, State.slot_setSt, if_pos rfl]
  exact ⟨rfl, by split <;> rfl⟩

end

end Sys2Proof.Machine

namespace Sys2Proof.Claims

open Sys2Proof.Machine

theorem looseReq_iff (r : FReq) : looseReq r = true ↔
    r.d = 0 ∧ (r.op = .resolve ∨ r.op = .fcancel ∨ ∃ code, r.op = .fpoison code) := by
  unfold looseReq
  split <;> simp_all

theorem futureReplies : FutureReplies := by
  intro s r a x hck hb
  obtain ⟨l, hrun⟩ := perform_futureReply hck r a
  have notLoose : ∀ o : FOp, r.op = o → (∀ code, o ≠ .fpoison code) → o ≠ .resolve → o ≠ .fcancel → looseReq r = false :=
    fun o ho h1 h2 h3 => Bool.eq_false_iff.2 fun h => by
      rcases ((looseReq_iff r).1 h).2 with e | e | ⟨code, e⟩
      · exact h2 (ho ▸ e)
      · exact h3 (ho ▸ e)
      · exact h1 code (ho ▸ e)
  refine ⟨fun f hf hd hop he => ?_, fun hst hp hs => ⟨fun hf hd hop => ?_, fun hf hop => ?_, fun hf hop => ?_, fun hf hop hw => ?_,
    fun hf hop hw ho => ?_⟩⟩
  · have hl := futureLands_defers (s := { s with linkWait := l }) ((looseReq_iff r).2 ⟨hd, hop⟩)
      (by rcases hop with h | h | ⟨c, h⟩ <;> rw [h] <;> exact FOp.noConfusion) he hb hf
    exact ⟨_, hrun, by rw [State.ctx, hl]; rfl, by rw [hl]; rfl⟩
  · have hl := futureLands_value (s := { s with linkWait := l }) (Bool.eq_false_iff.2 fun h => hd ((looseReq_iff r).1 h).1) hst hb hf
      hp hs hop
    exact ⟨_, hrun, hl.ctx, hl.ready, hl.others, hl.phys⟩
  · have hl := futureLands_fdrop (s := { s with linkWait := l }) (notLoose _ hop (by simp) (by simp) (by simp)) hst hb hf hp hs hop
    exact ⟨_, hrun, hl.ctx, hl.ready, hl.others⟩
  · have hl := futureLands_touchp (s := { s with linkWait := l }) (notLoose _ hop (by simp) (by simp) (by simp)) hst hb hf hp hs hop
    exact ⟨_, hrun, hl.ctx, hl.ready, hl.others⟩
  · have hl := futureLands_touch (s := { s with linkWait := l }) (notLoose _ hop (by simp) (by simp) (by simp)) hst hb hf hp hs hop hw
    exact ⟨_, hrun, hl.1.ctx, hl.1.ready, hl.2, hl.1.others⟩
  · have hl := futureLands_touch_wait (s := { s with linkWait := l }) (notLoose _ hop (by simp) (by simp) (by simp)) hst hb hf hop hw ho
    exact ⟨_, hrun, hl.2, hl.1⟩

end Sys2Proof.Claims
end

section
/-!
PROOFS. O39: an operation on a resident future.
-/

namespace Sys2Proof.Machine

/-- The two states differ neither in their cores, clusters and memory nor in the time and the latencies to come. -/
structure SameTables (s u : State) : Prop where
  cores    : u.cores = s.cores
  clusters : u.clusters = s.clusters
  phys     : u.phys = s.phys
  now      : u.now = s.now
  slack    : u.slack = s.slack

theorem sameTables_sendCancel (s : State) (cl : Nat) (r : Region) (ref : BitVec 26) : SameTables s (s.sendCancel cl r ref) := by
  unfold State.sendCancel
  split
  · constructor <;> rfl
  · split
    · constructor <;> rfl
    · constructor <;> rfl

theorem sameTables_uncharge (s : State) (r : Region) (kind n : Nat) : SameTables s (s.uncharge r kind n) := by
  constructor <;> rfl

/-- What follows a change of a future without waiters leaves the tables. -/
theorem sameTables_afterAct (s : State) (cl : Nat) (r : FReq) (old new : Future) (hold : old.nwait = 0)
    (hnew : new.finished = true → new.nwait = 0) : SameTables s (s.afterAct cl r old new) := by
  unfold State.afterAct
  simp only [hold, ne_eq, not_true, and_false, if_false]
  split
  · next h =>
    rw [hnew (Bool.and_eq_true_iff.1 h).1]
    change SameTables s (ite _ _ _)
    split
    · exact sameTables_sendCancel ..
    · constructor <;> rfl
  · split
    · exact sameTables_sendCancel ..
    · constructor <;> rfl

theorem settled_of_idle {f : Future} (hn : f.finished = true → f.nwait = 0) (hd : f.drop = false) : f.settled = f := by
  unfold Future.settled
  cases hf : f.finished with
  | false => rfl
  | true =>
    have h0 := hn hf
    cases f
    subst hd h0
    rfl

/-- An operation answered by a resident future without waiters: the entry that it leaves, and the answer on its way. -/
theorem futureAct_resident {s : State} {cl : Nat} {r : FReq} {f : Future} (h : Claims.Resident s cl r f)
    (hwait : (f.act r false).1.finished = true → (f.act r false).1.nwait = 0) :
    ∃ u, s.futureAct cl r = u.answerFuture cl r (f.act r false).2 ∧
      SameTables (s.setFuture cl (hEnt r.handle) (f.act r false).1.settled) u := by
  obtain ⟨hentry, hlive, hgen, hroute, howner, ⟨hn, -⟩, -, -⟩ := h
  have hg : f.gen = hGen r.handle := hgen.trans (by simp [hGen, BitVec.extractLsb'])
  have hst : f.state ≠ 0 ∧ f.state ≠ 6 := by constructor <;> (intro e; rw [e] at hlive; simp at hlive)
  unfold State.futureAct
  dsimp only
  rw [hentry, hroute, howner]
  have h6 : ¬ (f.state = 6 ∧ f.gen = hGen r.handle) := fun e => hst.2 e.1
  rw [if_neg (by simp), if_neg h6, if_pos ⟨hst.1, hst.2, hg⟩, if_neg (by simp)]
  refine ⟨_, rfl, ?_⟩
  have ha := sameTables_afterAct (s.setFuture cl (hEnt r.handle) (f.act r false).1.settled) cl r f (f.act r false).1 hn hwait
  split
  · exact ⟨ha.cores, ha.clusters, ha.phys, ha.now, ha.slack⟩
  · exact ha

theorem SameTables.ctx {s u : State} (h : SameTables s u) (t : Tid) : u.ctx t = s.ctx t := by
  rw [State.ctx, State.ctx, State.slot, State.slot, State.core, State.core, h.cores]

theorem SameTables.futureEntry {s u : State} (h : SameTables s u) (cl e : Nat) : u.futureEntry cl e = s.futureEntry cl e := by
  rw [State.futureEntry, State.futureEntry, State.cluster, State.cluster, h.clusters]

theorem futureEntry_setFuture (s : State) (cl ent : Nat) (f : Future) (e : Nat) :
    (s.setFuture cl ent f).futureEntry cl e = if e = ent then f else s.futureEntry cl e := by
  simp only [State.futureEntry, State.setFuture, State.cluster_modCluster_self, Sparse.get_put]

/-- The answer to an operation with a reply, other than a dispatch, is scheduled. -/
theorem answerFuture_reply {s : State} {cl : Nat} {r : FReq} (a : FAns) (hr : hasReply r = true) (hd : r.op ≠ .dispatch)
    (hc : r.tid.core < 4096) (hs : s.slack = []) :
    s.answerFuture cl r a = s.sched (s.now + replyTime r.tid.core cl) Phase.land (.act (.futureReply r a)) := by
  unfold State.answerFuture State.fromTable State.delay
  rw [hr, hs]
  simp [hd, Nat.not_le.2 hc]

theorem answerFuture_silent {s : State} {cl : Nat} {r : FReq} (a : FAns) (hr : hasReply r = false) : s.answerFuture cl r a = s := by
  unfold State.answerFuture
  simp [hr]

end Sys2Proof.Machine

namespace Sys2Proof.Claims

open Sys2Proof.Machine

/-- What an operation on a resident future leaves: its entry, and all else of the tables, threads and memory as it was. -/
structure LeavesEntry (s t : State) (cl : Nat) (r : FReq) (f : Future) : Prop where
  entry  : t.futureEntry cl (hEnt r.handle) = f
  others : (∀ e, e ≠ hEnt r.handle → t.futureEntry cl e = s.futureEntry cl e) ∧ (∀ u, t.ctx u = s.ctx u) ∧ t.phys = s.phys

theorem leavesEntry_of_sameTables {s u : State} {cl : Nat} {r : FReq} {f : Future}
    (h : SameTables (s.setFuture cl (hEnt r.handle) f) u) : LeavesEntry s u cl r f := by
  constructor
  · rw [h.futureEntry, futureEntry_setFuture, if_pos rfl]
  · exact ⟨fun e he => by rw [h.futureEntry, futureEntry_setFuture, if_neg he], fun v => h.ctx v, h.phys⟩

section
variable {s : State} {cl : Nat} {r : FReq} {f : Future} (h : Resident s cl r f)
include h

/-- An operation on a future that it leaves without waiters, and not dropped when it has finished. -/
theorem Resident.acts {f' : Future} {a : FAns} (hact : f.act r false = (f', a)) (hwait : f'.finished = true → f'.nwait = 0)
    (hdrop : f'.finished = true → f'.drop = false) :
    ∃ u, perform (.future cl r) s = .next (u.answerFuture cl r a) ∧ LeavesEntry s u cl r f' ∧ u.now = s.now ∧ u.slack = [] := by
  obtain ⟨u, hu, same⟩ := futureAct_resident h (by rw [hact]; exact hwait)
  rw [hact] at hu same
  have hset : f'.settled = f' := by
    cases hf : f'.finished with
    | false => simp [Future.settled, hf]
    | true => exact settled_of_idle hwait (hdrop hf)
  rw [hset] at same
  exact ⟨u, congrArg _ hu, leavesEntry_of_sameTables same, same.now, same.slack.trans h.quick⟩

/-- An operation with a reply. -/
theorem Resident.replies (hr : hasReply r = true) (hd : r.op ≠ .dispatch) {f' : Future} {a : FAns} (hact : f.act r false = (f', a))
    (hwait : f'.finished = true → f'.nwait = 0) (hdrop : f'.finished = true → f'.drop = false) :
    ∃ t, perform (.future cl r) s = .next t ∧ LeavesEntry s t cl r f' ∧
      ∃ p ∈ t.agenda, p.due = s.now + (if r.tid.core / 8 = cl then 24 else if r.tid.core / 288 = cl / 36 then 60 else 80) ∧
        p.ev = .act (.futureReply r a) := by
  obtain ⟨u, hu, hl, hnow, hslack⟩ := h.acts hact hwait hdrop
  rw [answerFuture_reply a hr hd h.home hslack, hnow] at hu
  exact ⟨_, hu, ⟨hl.entry, hl.others⟩, _, (State.mem_sched ..).2 (.inl rfl), rfl, rfl⟩

/-- An operation without a reply. -/
theorem Resident.silent (hr : hasReply r = false) {f' : Future} {a : FAns} (hact : f.act r false = (f', a))
    (hwait : f'.finished = true → f'.nwait = 0) (hdrop : f'.finished = true → f'.drop = false) :
    ∃ t, perform (.future cl r) s = .next t ∧ LeavesEntry s t cl r f' := by
  obtain ⟨u, hu, hl, -, -⟩ := h.acts hact hwait hdrop
  rw [answerFuture_silent a hr] at hu
  exact ⟨u, hu, hl⟩

end

theorem pending_iff (f : Future) : f.pending = true ↔ f.state = 1 ∨ f.state = 2 := by
  simp [Future.pending]

theorem finished_iff (f : Future) : f.finished = true ↔ f.state = 3 ∨ f.state = 4 ∨ f.state = 5 := by
  simp [Future.finished, or_assoc]

/-- No operation of the rule changes who waits. -/
theorem futureRule_nwait (f : Future) (r : FReq) : (futureRule f r).1.nwait = f.nwait := by
  unfold futureRule
  dsimp only
  repeat' split
  all_goals rfl

/-- R292: only FDROP of a pending future, which it leaves pending, sets DROP. -/
theorem futureRule_drop {f : Future} (r : FReq) (hf : (futureRule f r).1.finished = true) : (futureRule f r).1.drop = f.drop := by
  revert hf
  unfold futureRule
  dsimp only
  repeat' split
  case h_4.isTrue hp =>
    intro hf
    rcases (finished_iff _).1 hf with e | e | e <;> rcases hp with p | p <;> exact absurd (p.symm.trans e) (by decide)
  all_goals exact fun _ => rfl

/-- R273: an operation that neither touches nor reads does what the rule says, and its reply carries the rule's value. -/
theorem act_eq_futureRule {f : Future} {r : FReq} (hlive : 1 ≤ f.state.toNat ∧ f.state.toNat ≤ 5)
    (hop : r.op ≠ .touch ∧ r.op ≠ .touchp ∧ r.op ≠ .fstat ∧ r.op ≠ .dispatch ∧ r.op ≠ .cancel) :
    f.act r false = ((futureRule f r).1, { val := (futureRule f r).2 }) := by
  obtain ⟨h1, h2, h3, h4, h5⟩ := hop
  have hfin : ¬ (f.state = 1 ∨ f.state = 2) ↔ f.finished = true := by
    rw [finished_iff]
    generalize f.state = x at hlive
    revert x
    decide
  unfold Future.act futureRule
  cases hop : r.op with
  | resolve | fpoison => simp only [pending_iff]; split <;> rfl
  | fcancel => simp only [Future.finish]
  | tend creq =>
    simp only [Bool.or_eq_true, Future.finish]
    split
    · rfl
    · split <;> rfl
  | halt | kill => simp only [Future.finish]
  | fdrop =>
    simp only [← hfin, Future.finish]
    by_cases hp : f.state = 1 ∨ f.state = 2
    · rw [if_neg (not_not.2 hp), if_pos hp]
    · rw [if_pos hp, if_neg hp]
  | _ => contradiction


/-- R291: the word of a future without waiters. -/
theorem word_idle {f : Future} (hn : f.nwait = 0) (hd : f.drop = false) :
    f.word false = BitVec.ofNat 64 ((if f.creq then 2 ^ 60 else 0) + f.fcode.toNat * 2 ^ 54 + f.state.toNat) := by
  unfold Future.word
  rw [hn, hd]
  congr 1
  cases f.creq <;> simp

section
variable {s : State} {cl : Nat} {r : FReq} {f : Future} (h : Resident s cl r f)
include h

/-- The operations that change a future and reply. -/
theorem Resident.changes (hop : r.op = .resolve ∨ r.op = .fcancel ∨ r.op = .fdrop ∨ ∃ code, r.op = .fpoison code) :
    ∃ t, perform (.future cl r) s = .next t ∧ LeavesEntry s t cl r (futureRule f r).1 ∧
      ∃ p ∈ t.agenda, p.due = s.now + (if r.tid.core / 8 = cl then 24 else if r.tid.core / 288 = cl / 36 then 60 else 80) ∧
        p.ev = .act (.futureReply r { val := (futureRule f r).2 }) := by
  have hne : r.op ≠ .touch ∧ r.op ≠ .touchp ∧ r.op ≠ .fstat ∧ r.op ≠ .dispatch ∧ r.op ≠ .cancel := by
    rcases hop with e | e | e | ⟨_, e⟩ <;> rw [e] <;> simp
  have hr : hasReply r = true := by rcases hop with e | e | e | ⟨_, e⟩ <;> simp [hasReply, e]
  exact h.replies hr hne.2.2.2.1 (act_eq_futureRule h.live hne) (fun _ => (futureRule_nwait f r).trans h.alone.1)
    fun hf => (futureRule_drop r hf).trans h.alone.2

/-- The operations of the task itself, which have no reply. -/
theorem Resident.ends (hop : r.op = .halt ∨ (∃ creq, r.op = .tend creq) ∨ ∃ code, r.op = .kill code) :
    ∃ t, perform (.future cl r) s = .next t ∧ LeavesEntry s t cl r (futureRule f r).1 := by
  have hne : r.op ≠ .touch ∧ r.op ≠ .touchp ∧ r.op ≠ .fstat ∧ r.op ≠ .dispatch ∧ r.op ≠ .cancel := by
    rcases hop with e | ⟨_, e⟩ | ⟨_, e⟩ <;> rw [e] <;> simp
  have hr : hasReply r = false := by rcases hop with e | ⟨_, e⟩ | ⟨_, e⟩ <;> simp [hasReply, e]
  exact h.silent hr (act_eq_futureRule h.live hne) (fun _ => (futureRule_nwait f r).trans h.alone.1)
    fun hf => (futureRule_drop r hf).trans h.alone.2

/-- An operation that leaves the future as it is. -/
theorem Resident.reads (hr : hasReply r = true) (hd : r.op ≠ .dispatch) {a : FAns} (hact : f.act r false = (f, a)) :
    ∃ t, perform (.future cl r) s = .next t ∧ LeavesEntry s t cl r f ∧
      ∃ p ∈ t.agenda, p.due = s.now + (if r.tid.core / 8 = cl then 24 else if r.tid.core / 288 = cl / 36 then 60 else 80) ∧
        p.ev = .act (.futureReply r a) :=
  h.replies hr hd hact (fun _ => h.alone.1) fun _ => h.alone.2

end

theorem act_touch_resolved {f : Future} {r : FReq} (hop : r.op = .touch) (hs : f.state = 3) :
    f.act r false = (f, { val := f.value }) := by
  simp only [Future.act, hop, hs, if_true]

theorem act_touch_failed {f : Future} {r : FReq} (hop : r.op = .touch) (hs : f.state = 4 ∨ f.state = 5) :
    f.act r false = (f, { fault := some (if f.state = 4 then { code := 14, addr := r.handle }
      else { code := 13, addr := r.handle, info := f.fcode.zeroExtend 64 }) }) := by
  rcases hs with e | e <;> simp [Future.act, hop, e]

theorem act_touch_waits {f : Future} {r : FReq} (hop : r.op = .touch) (hs : f.state = 1 ∨ f.state = 2) (hn : f.nwait = 0) :
    f.act r false = ({ f with head := r.park, tail := r.park, nwait := 1 }, { wait := true }) := by
  rcases hs with e | e <;> simp [Future.act, hop, e, hn]

theorem act_reads {f : Future} {r : FReq} (hop : r.op = .touchp ∨ r.op = .fstat) :
    f.act r false = (f, if r.op = .touchp ∧ f.state = 3 then { val := f.value, hit := true } else { val := f.word false }) := by
  rcases hop with e | e <;> simp [Future.act, e]

theorem futureTable : FutureTable := by
  intro s cl r f h
  refine ⟨fun hop => ?_, fun hop => ?_, fun hop hs => ?_, fun hop hs => ?_, fun hop hs => ?_, fun hop => ?_⟩
  · obtain ⟨t, hrun, hl, hp⟩ := h.changes hop
    exact ⟨t, _, hrun, hl.others, hl.entry, rfl, rfl, hp⟩
  · obtain ⟨t, hrun, hl⟩ := h.ends hop
    exact ⟨t, hrun, hl.others, hl.entry⟩
  · obtain ⟨t, hrun, hl, hp⟩ := h.reads (by simp [hasReply, hop]) (by simp [hop]) (act_touch_resolved hop hs)
    exact ⟨t, hrun, hl.others, hl.entry, hp⟩
  · obtain ⟨t, hrun, hl, hp⟩ := h.reads (by simp [hasReply, hop]) (by simp [hop]) (act_touch_failed hop hs)
    exact ⟨t, hrun, hl.others, hl.entry, hp⟩
  · have hnot : ¬ (f.state = 3 ∨ f.state = 4 ∨ f.state = 5) := by rcases hs with e | e <;> rw [e] <;> decide
    obtain ⟨t, hrun, hl, hp⟩ := h.replies (by simp [hasReply, hop]) (by simp [hop]) (act_touch_waits hop hs h.alone.1)
      (fun hf => absurd ((finished_iff _).1 hf) hnot) fun _ => h.alone.2
    exact ⟨t, hrun, hl.others, hl.entry, hp⟩
  · obtain ⟨t, hrun, hl, hp⟩ := h.reads (by rcases hop with e | e <;> simp [hasReply, e])
      (by rcases hop with e | e <;> simp [e]) (act_reads hop)
    refine ⟨t, _, hrun, hl.others, hl.entry, ?_, ?_, ?_, hp⟩
    · split <;> rfl
    · split <;> simp_all
    · rw [← word_idle h.alone.1 h.alone.2]
      split <;> rfl

end Sys2Proof.Claims

open Sys2Proof.Claims

/-- Settles O39: a resident future does what the table of R273 gives, because nothing waits for it; a reply lands as the
rules of a waiting thread say. -/
theorem futureTables : Obligations.FutureTables := ⟨futureTable, futureReplies⟩
end
section
/-!
PROOFS. Messages, decrements, releases and the replies of tables (O44).
-/

namespace Sys2Proof.Machine

/-! The reply lands (R169, R331, R340). -/

section
variable {s : State} {u : Tid} {id : Nat} (hst : (s.slot u).st = .waiting (.event id))
include hst

/-- The thread of a reply, once its request is no longer outstanding, still waits for it. -/
theorem waits_dropOut : Waits u s (s.dropOut u.core id) (s.ctx u) ∧ ((s.dropOut u.core id).slot u).st = .waiting (.event id) :=
  ⟨(waits_self hst).modCore _ (by exact fun _ => rfl), by
    unfold State.dropOut; rw [slot_modCore_of_slots s _ (by exact fun _ => rfl)]; exact hst⟩

variable (hp : (s.ctx u).paired = false) (hs : (s.ctx u).sstep = false)
include hp hs

theorem tableLands_value (len : Nat) (d : Reg) (v : W64) :
    GoesOn u s (s.tableLands u id len (some (d, v)) none) ((s.ctx u).wg d v) ((s.ctx u).pc + BitVec.ofNat 64 len) := by
  obtain ⟨w, hw⟩ := waits_dropOut hst
  have w' := (w.landReg (.g d) v.toNat).pass (by rw [Ctx.wdst_paired]; exact hp) v.toNat
  have hgo := w'.land (by rw [Ctx.wdst_sstep]; exact hs) ((s.ctx u).pc) len
  have hpc : ((s.ctx u).wg d v).pc = (s.ctx u).pc := by simp
  unfold State.tableLands
  rw [if_neg (Classical.not_not.2 hw)]
  dsimp only
  rw [w'.ctx, Ctx.wdst_g, hpc, ← Ctx.wdst_g]
  exact hgo

theorem tableLands_none (len : Nat) :
    GoesOn u s (s.tableLands u id len none none) (s.ctx u) ((s.ctx u).pc + BitVec.ofNat 64 len) := by
  obtain ⟨w, hw⟩ := waits_dropOut hst
  have w' := w.pass hp 0
  unfold State.tableLands
  rw [if_neg (Classical.not_not.2 hw)]
  dsimp only
  rw [w'.ctx]
  exact w'.land hs _ len

/-- R340: the WAIT of a released entry. -/
theorem waitLands_released (h : W64) : GoesOn u s (s.waitLands u id 0 h) (s.ctx u) ((s.ctx u).pc + 8) := by
  obtain ⟨w, hw⟩ := waits_dropOut hst
  have w' := (w.acquire none).pass hp 0
  simp only [State.waitLands, hw, ne_eq, not_true, if_false, w.ctx]
  exact w'.land hs _ 8

end

/-! WAIT and CNTRD at their tables (R340, R341). -/

section
variable {s : State} {cl : Nat} {t : Tid} {tenant : BitVec 6} (hroute : s.routeAdmits (clusterOf t.core) cl tenant = true)
include hroute

/-- A WAIT that the routers let through. -/
theorem waitAct_admitted (id : Nat) (h : W64) : s.waitAct cl t id h tenant =
    if (s.waitEntry cl (hEnt h)).gen ≠ hGen h then s.fromTable t.core cl 0 (.waitReply t id 1 h)
    else if s.waitEntry cl (hEnt h) ≠ {} ∧ (s.regionByRcb (s.waitEntry cl (hEnt h)).rcb.toNat).tenant ≠ tenant then
      s.fromTable t.core cl 0 (.waitReply t id 3 h)
    else if (s.waitEntry cl (hEnt h)).state ≠ 1 then s.fromTable t.core cl 0 (.waitReply t id 0 h)
    else if 64 ≤ (s.cluster cl).waitHeld.length then s.fromTable t.core cl 0 (.waitReply t id 2 h)
    else s.modCluster cl fun c => { c with waitHeld := c.waitHeld ++ [(t, id, h)] } := by
  unfold State.waitAct
  rw [if_neg (by rw [hroute]; exact Bool.noConfusion)]

/-- A read of an entry of the tenant's own. -/
theorem wtAct_own {h : W64}
    (hown : (s.waitEntry cl (hEnt h)).state ≠ 0 → (s.regionByRcb (s.waitEntry cl (hEnt h)).rcb.toNat).tenant = tenant) (id : Nat) (d : Reg) :
    s.wtAct cl t id h d tenant = s.fromTable t.core cl 0 (.tableReply t id 8 (some (d,
      if (s.waitEntry cl (hEnt h)).gen = hGen h ∧ (s.waitEntry cl (hEnt h)).state ≠ 0 then
        BitVec.ofNat 64 ((s.waitEntry cl (hEnt h)).state.toNat * 2 ^ 20 + (s.waitEntry cl (hEnt h)).count.toNat)
      else 0xFFFFFFFFFFFFFFFF#64)) none) := by
  unfold State.wtAct State.findWait
  rw [if_neg (by rw [hroute]; exact Bool.noConfusion)]
  by_cases hf : (s.waitEntry cl (hEnt h)).gen = hGen h ∧ (s.waitEntry cl (hEnt h)).state ≠ 0
  · simp only [if_pos hf, hown hf.2, ne_eq, not_true, if_false]
  · simp only [if_neg hf]; rfl

end

theorem perform_landing {s : State} (h : s.stepChecks = []) (core : Nat) (a b : Act) (k : State → State) :
    ∃ l, landing core a k (s.answered b) = .next (k { s with linkWait := l }) := by
  obtain ⟨l, hl⟩ := answered_cases s b
  exact ⟨l, by rw [landing, hl, checked_of_nil (s := { s with linkWait := l }) h]⟩

end Sys2Proof.Machine

namespace Sys2Proof.Claims

open Sys2Proof.Machine

theorem tableReplies : TableReplies := by
  intro s u id x hck hst hp hs passed
  refine ⟨fun len d v => ?_, fun len => ?_, fun h => ?_, fun r v hc ht hid => ?_, fun r f v hc ht hb => ?_⟩
  · obtain ⟨l, hrun⟩ := perform_landing hck u.core (.tableReply u id len (some (d, v)) none) _ (·.tableLands u id len (some (d, v)) none)
    have hgo := tableLands_value (s := { s with linkWait := l }) hst hp hs len d v
    exact ⟨_, hrun, hgo.ctx, hgo.ready, hgo.others⟩
  · obtain ⟨l, hrun⟩ := perform_landing hck u.core (.tableReply u id len none none) _ (·.tableLands u id len none none)
    have hgo := tableLands_none (s := { s with linkWait := l }) hst hp hs len
    exact ⟨_, hrun, hgo.ctx, hgo.ready, hgo.others⟩
  · obtain ⟨l, hrun⟩ := perform_landing hck u.core (.waitReply u id 0 h) _ (·.waitLands u id 0 h)
    have hgo := waitLands_released (s := { s with linkWait := l }) hst hp hs h
    exact ⟨_, hrun, hgo.ctx, hgo.ready, hgo.others⟩
  · obtain ⟨l, hrun⟩ := perform_landing hck r.tid.core (.decReply r none v) _ (·.decLands r none v)
    subst ht hid
    have hgo := tableLands_value (s := { s with linkWait := l }) hst hp hs r.len r.d v
    rw [State.decLands, if_pos hc] at hrun
    exact ⟨_, hrun, hgo.ctx, hgo.ready, hgo.others⟩
  · obtain ⟨l, hrun⟩ := perform_landing hck r.tid.core (.decReply r (some f) v) _ (·.decLands r (some f) v)
    subst ht
    have hdrop : ∀ v, (({ s with linkWait := l } : State).dropOut r.tid.core r.id).slot v = s.slot v := fun v => by
      unfold State.dropOut; exact slot_modCore_of_slots _ _ (by exact fun _ => rfl) v
    have hwait : ((s.slot r.tid).st ≠ .empty) := by
      have : (s.slot r.tid).st = _ := hst
      rw [this]; exact SlotState.noConfusion
    rw [State.decLands, hc] at hrun
    simp only [Bool.false_eq_true, if_false] at hrun
    rw [deferFault_of_bound (by rw [hdrop]; exact hwait) (by rw [hdrop]; exact hb.symm)] at hrun
    refine ⟨_, hrun, by rw [State.slot_modSlot_self, hdrop], fun v => ?_⟩
    rw [State.ctx, State.slot_modSlot]
    split
    · next e => rw [hdrop, e]; rfl
    · rw [hdrop]; rfl

theorem tableReads : TableReads := by
  intro s cl u id h tenant w hroute htenant hslack hcore due
  have hreply (a : Act) : s.fromTable u.core cl 0 a = s.sched due Phase.land (.act a) := by
    simp only [State.fromTable, State.delay, hslack, if_neg (Nat.not_le.2 hcore)]
    rfl
  have hown : ¬ (w ≠ {} ∧ (s.regionByRcb w.rcb.toNat).tenant ≠ tenant) := fun e => e.2 htenant
  refine ⟨fun hg h1 hl => ?_, fun hg h1 => ?_, fun hg => ?_, fun d => ?_⟩
  · refine ⟨_, rfl, ?_⟩
    rw [waitAct_admitted hroute, if_neg (Classical.not_not.2 hg), if_neg hown, if_neg (Classical.not_not.2 h1), if_neg (Nat.not_le.2 hl)]
    exact ⟨congrArg Cluster.waitHeld (State.cluster_modCluster_self ..), rfl⟩
  · refine ⟨_, rfl, ?_⟩
    rw [waitAct_admitted hroute, if_neg (Classical.not_not.2 hg), if_neg hown, if_pos h1, hreply]
    exact ⟨_, (State.mem_sched ..).2 (.inl rfl), rfl, rfl⟩
  · refine ⟨_, rfl, ?_⟩
    rw [waitAct_admitted hroute, if_pos hg, hreply]
    exact ⟨_, (State.mem_sched ..).2 (.inl rfl), rfl, rfl⟩
  · refine ⟨_, rfl, ?_⟩
    rw [wtAct_own hroute (fun _ => htenant), hreply]
    exact ⟨_, (State.mem_sched ..).2 (.inl rfl), rfl, rfl⟩

end Sys2Proof.Claims
end
section
namespace Sys2Proof.Machine

/-! Wakes and messages leave the tables, the slots and the memory as they are. -/

/-- A state in which no slot, table or byte of memory differs, at the same time. -/
structure Undisturbed (s u : State) : Prop where
  slots    : ∀ v, u.slot v = s.slot v
  clusters : u.clusters = s.clusters
  phys     : u.phys = s.phys
  now      : u.now = s.now
  slack    : u.slack = s.slack

section
variable {s u v : State}

theorem Undisturbed.refl (s : State) : Undisturbed s s := ⟨fun _ => rfl, rfl, rfl, rfl, rfl⟩

theorem Undisturbed.trans (h : Undisturbed s u) (g : Undisturbed u v) : Undisturbed s v :=
  ⟨fun w => (g.slots w).trans (h.slots w), g.clusters.trans h.clusters, g.phys.trans h.phys, g.now.trans h.now, g.slack.trans h.slack⟩

theorem Undisturbed.cluster (h : Undisturbed s u) (cl : Nat) : u.cluster cl = s.cluster cl := by
  rw [State.cluster, State.cluster, h.clusters]

theorem Undisturbed.waitEntry (h : Undisturbed s u) (cl i : Nat) : u.waitEntry cl i = s.waitEntry cl i := by
  rw [State.waitEntry, State.waitEntry, h.cluster]

/-- What every step of a fold leaves undisturbed, the fold does. -/
theorem undisturbed_foldl {α : Type} {n : List Nat} (f : State → α → State) (hf : ∀ s, s.slack = n → ∀ a, Undisturbed s (f s a))
    (l : List α) : ∀ {s : State}, s.slack = n → Undisturbed s (l.foldl f s) := by
  induction l with
  | nil => exact fun _ => .refl _
  | cons a l ih =>
    intro s hs
    have h := hf s hs a
    exact h.trans (ih (h.slack.trans hs))

end

theorem undisturbed_sched (s : State) (due phase : Nat) (ev : Ev) : Undisturbed s (s.sched due phase ev) :=
  ⟨fun _ => rfl, rfl, rfl, rfl, rfl⟩

theorem undisturbed_modCore (s : State) (k : Nat) {f : Core → Core} (hf : ∀ c, (f c).slots = c.slots) : Undisturbed s (s.modCore k f) :=
  ⟨slot_modCore_of_slots s k hf, rfl, rfl, rfl, rfl⟩

theorem undisturbed_wake (s : State) (k : Nat) : Undisturbed s (s.wake k) := by
  unfold State.wake
  split
  · exact undisturbed_modCore s k (by exact fun _ => rfl)
  · exact undisturbed_sched ..
  · exact .refl s

/-- R361: no slot, and no table, changes with the wake of a team's cores. -/
theorem undisturbed_wakeTeam (s : State) (cl : Nat) (team : BitVec 16) : Undisturbed s (s.wakeTeam cl team) := by
  refine undisturbed_foldl _ (fun s _ j => ?_) _ rfl
  split
  · exact undisturbed_wake ..
  · exact .refl s

theorem fromTable_quick {s : State} (hs : s.slack = []) {core : Nat} (hc : core < 4096) (cl : Nat) (a : Act) :
    s.fromTable core cl 0 a = s.sched (s.now + replyTime core cl) Phase.land (.act a) := by
  simp only [State.fromTable, State.delay, hs, if_neg (Nat.not_le.2 hc)]
  rfl

theorem undisturbed_fromTable {s : State} (hs : s.slack = []) (core cl : Nat) (a : Act) : Undisturbed s (s.fromTable core cl 0 a) := by
  by_cases hc : 4096 ≤ core
  · rw [State.fromTable, if_pos hc]
    exact ⟨fun _ => rfl, rfl, rfl, rfl, rfl⟩
  · rw [fromTable_quick hs (Nat.not_le.1 hc)]
    exact undisturbed_sched ..

/-! The release of an entry (R300). -/

theorem waitEntry_modWait (s : State) (cl i : Nat) (f : WaitTask → WaitTask) (j : Nat) :
    (s.modWait cl i f).waitEntry cl j = if j = i then f (s.waitEntry cl i) else s.waitEntry cl j := by
  simp only [State.waitEntry, State.modWait, State.cluster_modCluster_self, Sparse.get_put]

theorem undisturbed_answerWaits {s : State} (hs : s.slack = []) (cl i code : Nat) :
    Undisturbed (s.modCluster cl fun c => { c with waitHeld := c.waitHeld.filter fun x => !(hEnt x.2.2 == i) })
      (s.answerWaits cl i code) :=
  undisturbed_foldl _ (fun _ h _ => undisturbed_fromTable h ..) _ hs

theorem mem_insertReady (r x : Ready) (l : List Ready) : x ∈ insertReady r l ↔ x = r ∨ x ∈ l := by
  induction l with
  | nil => simp [insertReady]
  | cons y l ih =>
    unfold insertReady
    split
    · rw [List.mem_cons, ih, List.mem_cons]; tauto
    · simp

/-- What takes a park entry for a release: the entry of a waiting task, its park entry, and its place in the ready queue. -/
structure TookPark (s u : State) (cl i cycle p : Nat) : Prop where
  entry  : ∀ j, u.waitEntry cl j = if j = i then { s.waitEntry cl i with park := s.mkPark cl p } else s.waitEntry cl j
  park   : (u.parkAt cl p).pst = 3
  ready  : ∃ e ∈ (u.cluster cl).ready, e.cycle = cycle ∧ e.idx = readyIndex 1 i 0 ∧ e.park = p ∧
    e.team = (s.waitEntry cl i).team ∧ e.prio = (s.waitEntry cl i).prio
  relWait : (u.cluster cl).relWait = (s.cluster cl).relWait
  slots  : ∀ v, u.slot v = s.slot v
  now    : u.now = s.now
  slack  : u.slack = s.slack

/-- The park entry of a released task. -/
def State.releasedPark (s : State) (cl i : Nat) : Park :=
  { team := (s.waitEntry cl i).team, prio := (s.waitEntry cl i).prio, pst := 3, handle := s.mkHandle 11 cl i (s.waitEntry cl i).gen
    region := (s.waitEntry cl i).region }

/-- The ready entry of a released task. -/
def State.releasedReady (s : State) (cl i cycle p : Nat) : Ready :=
  { cl := cl, prio := (s.waitEntry cl i).prio, cycle := cycle, idx := readyIndex 1 i 0, park := p, team := (s.waitEntry cl i).team
    after := [] }

theorem takeRelease_eq (s : State) (cl i cycle p : Nat) : s.takeRelease cl i cycle p =
    (((s.modWait cl i fun w => { w with park := s.mkPark cl p }).modParkAt cl p fun _ => s.releasedPark cl i).modCluster cl
      fun c => { c with ready := insertReady (s.releasedReady cl i cycle p) c.ready }).wakeTeam cl (s.waitEntry cl i).team := by
  have hh : (s.modWait cl i fun w => { w with park := s.mkPark cl p }).mkHandle 11 cl i (s.waitEntry cl i).gen =
    s.mkHandle 11 cl i (s.waitEntry cl i).gen := rfl
  unfold State.takeRelease State.addReady
  dsimp only
  rw [hh]
  rfl

theorem tookPark_takeRelease (s : State) (cl i cycle p : Nat) : TookPark s (s.takeRelease cl i cycle p) cl i cycle p := by
  rw [takeRelease_eq]
  have hu := undisturbed_wakeTeam (((s.modWait cl i fun w => { w with park := s.mkPark cl p }).modParkAt cl p fun _ =>
    s.releasedPark cl i).modCluster cl fun c => { c with ready := insertReady (s.releasedReady cl i cycle p) c.ready }) cl
    (s.waitEntry cl i).team
  generalize State.wakeTeam _ _ _ = u at hu ⊢
  have hcl := hu.cluster cl
  simp only [State.cluster_modCluster_self, State.modParkAt, State.modWait] at hcl
  refine ⟨fun j => ?_, ?_, ?_, ?_, hu.slots, hu.now, hu.slack⟩
  · rw [State.waitEntry, hcl, Sparse.get_put]
    rfl
  · rw [State.parkAt, hcl, Sparse.get_put_self]
    rfl
  · rw [hcl]
    exact ⟨_, (mem_insertReady ..).2 (.inl rfl), rfl, rfl, rfl, rfl, rfl⟩
  · rw [hcl]

/-- R300: what the release of an entry leaves. -/
structure Released (s u : State) (cl i : Nat) : Prop where
  state  : (u.waitEntry cl i).state = 2
  count  : (u.waitEntry cl i).count = 0
  others : ∀ j, j ≠ i → u.waitEntry cl j = s.waitEntry cl j
  ready  : ∀ p, (s.cluster cl).parkForTask = some p → ∃ e ∈ (u.cluster cl).ready, e.cycle = s.now ∧ e.idx = readyIndex 1 i 0 ∧
    e.park = p ∧ e.team = (s.waitEntry cl i).team ∧ e.prio = (s.waitEntry cl i).prio
  relWait : (s.cluster cl).parkForTask = none → (u.cluster cl).relWait = (s.cluster cl).relWait ++ [(s.now, i)]
  slots  : ∀ v, u.slot v = s.slot v
  now    : u.now = s.now
  slack  : u.slack = s.slack

theorem released_releaseEntry {s : State} (hs : s.slack = []) (cl i : Nat) : Released s (s.releaseEntry cl i) cl i := by
  have hw := undisturbed_answerWaits (s := s.modWait cl i fun w => { w with state := 2, count := 0 }) hs cl i 0
  unfold State.releaseEntry
  dsimp only
  revert hw
  generalize (s.modWait cl i fun w => { w with state := 2, count := 0 }).answerWaits cl i 0 = u
  intro hw
  have hcl := hw.cluster cl
  rw [State.cluster_modCluster_self, State.modWait, State.cluster_modCluster_self] at hcl
  have hentry (j : Nat) : u.waitEntry cl j = if j = i then { s.waitEntry cl i with state := 2, count := 0 } else s.waitEntry cl j := by
    rw [State.waitEntry, hcl, Sparse.get_put]
    rfl
  have hpark : (u.cluster cl).parkForTask = (s.cluster cl).parkForTask := by rw [hcl]; rfl
  rw [hpark]
  split
  · next p hp =>
    have h := tookPark_takeRelease u cl i u.now p
    have hi := h.entry i
    rw [if_pos rfl, hentry, if_pos rfl] at hi
    refine ⟨by rw [hi], by rw [hi], fun j hj => ?_, fun q hq => ?_, fun hq => ?_, fun v => (h.slots v).trans (hw.slots v),
      h.now.trans hw.now, h.slack.trans hw.slack⟩
    · rw [h.entry, if_neg hj, hentry, if_neg hj]
    · obtain rfl : p = q := Option.some.inj (hp.symm.trans hq)
      obtain ⟨e, he, hcyc, hidx, hpk, hteam, hprio⟩ := h.ready
      rw [hentry, if_pos rfl] at hteam hprio
      exact ⟨e, he, hcyc.trans hw.now, hidx, hpk, hteam, hprio⟩
    · exact absurd (hp.symm.trans hq) (by simp)
  · next hp =>
    have hi : ∀ j, State.waitEntry (u.modCluster cl fun c => { c with relWait := c.relWait ++ [(u.now, i)] }) cl j = u.waitEntry cl j :=
      fun j => by rw [State.waitEntry, State.cluster_modCluster_self]; rfl
    refine ⟨by rw [hi, hentry, if_pos rfl], by rw [hi, hentry, if_pos rfl], fun j hj => by rw [hi, hentry, if_neg hj],
      fun q hq => absurd (hp.symm.trans hq) (by simp), fun _ => ?_, hw.slots, hw.now, hw.slack⟩
    rw [State.cluster_modCluster_self, hcl, hw.now]
    rfl

theorem takeWaiting_zero (cl : Nat) (s : State) : takeWaiting cl 0 s = s := rfl

theorem modCluster_congr {s : State} {cl : Nat} {f g : Cluster → Cluster} (h : f (s.cluster cl) = g (s.cluster cl)) :
    s.modCluster cl f = s.modCluster cl g :=
  congrArg (fun c => { s with clusters := s.clusters.put {} cl c }) h

/-- R300: a lone waiting release takes the free park entry. -/
theorem takeWaiting_one {s : State} {cl c i p : Nat} (hl : (s.cluster cl).relWait = [(c, i)]) (hp : (s.cluster cl).freePark = some p) :
    takeWaiting cl (s.cluster cl).relWait.length s =
      (s.modCluster cl fun x => { x with relWait := [] }).takeRelease cl i c p := by
  have hc : (s.modCluster cl fun x => { x with relWait := x.relWait.filter (· ≠ (c, i)) }) =
      s.modCluster cl fun x => { x with relWait := [] } := modCluster_congr (by simp [hl])
  rw [hl, List.length_singleton, ← hc]
  unfold takeWaiting
  simp only [hl, List.foldl_cons, List.foldl_nil, hp]
  exact takeWaiting_zero ..

end Sys2Proof.Machine

namespace Sys2Proof.Claims

open Sys2Proof.Machine

theorem releaseTakesPark : ReleaseTakesPark := by
  intro s cl c i p hl hp
  have h := tookPark_takeRelease (s.modCluster cl fun x => { x with relWait := [] }) cl i c p
  obtain ⟨e, he, hcyc, hidx, hpark, -, -⟩ := h.ready
  refine ⟨_, (exec_releaseParkWait s).trans (congrArg Host.Outcome.next (takeWaiting_one hl hp)), ?_, h.park, ?_,
    ⟨e, he, hcyc, hidx, hpark⟩, fun v => congrArg Slot.ctx (h.slots v)⟩
  · rw [h.relWait, State.cluster_modCluster_self]
  · rw [h.entry, if_pos rfl]
    rfl

/-- R331: a decrement of an own entry that is not a scoreboard's, and not too low, by k. -/
theorem decrement_found {s : State} {cl : Nat} {h : W64} {k : Nat} {tenant : BitVec 6}
    (hf : (s.waitEntry cl (hEnt h)).gen = hGen h ∧ (s.waitEntry cl (hEnt h)).state ≠ 0)
    (ht : (s.regionByRcb (s.waitEntry cl (hEnt h)).rcb.toNat).tenant = tenant) (hb : (s.waitEntry cl (hEnt h)).sbl = false)
    (hk : k ≤ (s.waitEntry cl (hEnt h)).count.toNat) :
    let c := (s.waitEntry cl (hEnt h)).count.toNat - k
    let u := s.modWait cl (hEnt h) fun w => { w with count := BitVec.ofNat 20 c }
    s.decrement cl h k tenant = (if c = 0 then u.releaseEntry cl (hEnt h) else u, none, c) := by
  simp only [State.decrement, State.findWait, if_pos hf, ht, hb, ne_eq, not_true, if_false, Bool.false_eq_true, if_neg (Nat.not_lt.2 hk)]

/-- R297, R331: the fault of a decrement. -/
theorem decrement_fails {s : State} {cl : Nat} {h : W64} {k : Nat} {tenant : BitVec 6} :
    let w := s.waitEntry cl (hEnt h)
    let finds := w.gen = hGen h ∧ w.state ≠ 0
    let own := (s.regionByRcb w.rcb.toNat).tenant = tenant
    (¬ finds → s.decrement cl h k tenant = (s, some { code := 15, addr := h }, 0)) ∧
    (finds → ¬ own → s.decrement cl h k tenant = (s, some { code := 8, addr := h }, 0)) ∧
    (finds → own → w.sbl = true → s.decrement cl h k tenant = (s, some { code := 6, sub := 13, addr := h }, 0)) ∧
    (finds → own → w.sbl = false → w.count.toNat < k → s.decrement cl h k tenant = (s, some { code := 12, addr := h }, 0)) := by
  refine ⟨fun hf => ?_, fun hf ht => ?_, fun hf ht hb => ?_, fun hf ht hb hk => ?_⟩
  · simp only [State.decrement, State.findWait, if_neg hf]; rfl
  · simp only [State.decrement, State.findWait, if_pos hf, ne_eq, ht, not_false_iff, if_true]; rfl
  · simp only [State.decrement, State.findWait, if_pos hf, ht, hb, ne_eq, not_true, if_false, if_true]; rfl
  · simp only [State.decrement, State.findWait, if_pos hf, ht, hb, ne_eq, not_true, if_false, Bool.false_eq_true, if_pos hk]

theorem decrements : Decrements := by
  intro s r cl i w finds hroute hk hslack hcore replies fails
  have hrun (x : State × Option Flt × Nat) (hx : s.decrement cl r.handle r.k r.tenant = x) :
      exec (.waitingTaskDecrement r) s = .next (x.1.fromTable r.tid.core cl 0 (.decReply r x.2.1 (BitVec.ofNat 64 x.2.2))) := by
    rw [exec_waitingTaskDecrement, execWaitingTaskDecrement]
    dsimp only
    rw [hroute, if_neg (by decide), if_neg (Nat.pos_iff_ne_zero.1 hk), ← hx]
  have hreply (u : State) (hn : u.now = s.now) (hl : u.slack = s.slack) (f : Option Flt) (v : Nat) :
      Undisturbed u (u.fromTable r.tid.core cl 0 (.decReply r f (BitVec.ofNat 64 v))) ∧
        replies (u.fromTable r.tid.core cl 0 (.decReply r f (BitVec.ofNat 64 v))) f v := by
    rw [fromTable_quick (hl.trans hslack) hcore, hn]
    exact ⟨undisturbed_sched .., _, (State.mem_sched ..).2 (.inl rfl), rfl, rfl⟩
  have hfail (f : Flt) (hx : s.decrement cl r.handle r.k r.tenant = (s, some f, 0)) : fails f := by
    obtain ⟨hu, hr⟩ := hreply s rfl rfl (some f) 0
    exact ⟨_, hrun _ hx, fun j => hu.waitEntry cl j, hr⟩
  obtain ⟨h15, h8, h6, h12⟩ := decrement_fails (s := s) (cl := cl) (h := r.handle) (k := r.k) (tenant := r.tenant)
  refine ⟨fun hf => hfail _ (h15 hf), fun hf ht => hfail _ (h8 hf ht), fun hf ht => ⟨fun hb => hfail _ (h6 hf ht hb),
    fun hb hc => hfail _ (h12 hf ht hb hc), fun hb hc => ?_, fun hb hc => ?_⟩⟩
  · have hx := decrement_found hf ht hb hc.le
    dsimp only at hx
    rw [if_neg (Nat.sub_ne_zero_of_lt hc)] at hx
    obtain ⟨hu, hr⟩ := hreply (s.modWait cl i fun x => { x with count := BitVec.ofNat 20 (w.count.toNat - r.k) }) rfl rfl none
      (w.count.toNat - r.k)
    refine ⟨_, hrun _ hx, ?_, fun j hj => ?_, hr, fun v => congrArg Slot.ctx (hu.slots v)⟩
    · rw [hu.waitEntry, waitEntry_modWait, if_pos rfl]
    · rw [hu.waitEntry, waitEntry_modWait, if_neg hj]
  · have hx := decrement_found hf ht hb hc.le
    dsimp only at hx
    rw [← hc, Nat.sub_self, if_pos rfl] at hx
    have rel := released_releaseEntry (s := s.modWait cl i fun w => { w with count := BitVec.ofNat 20 0 }) hslack cl i
    obtain ⟨hu, hr⟩ := hreply _ rel.now rel.slack none 0
    have hother (j : Nat) (hj : j ≠ i) := (rel.others j hj).trans ((waitEntry_modWait s cl i _ j).trans (if_neg hj))
    have hentry := (waitEntry_modWait s cl i (fun w => { w with count := BitVec.ofNat 20 0 }) i).trans (if_pos rfl)
    refine ⟨_, hrun _ hx, ?_, ?_, fun j hj => ?_, hr, fun p hp => ?_, fun hp => ?_, fun v => congrArg Slot.ctx ((hu.slots v).trans (rel.slots v))⟩
    · rw [hu.waitEntry, rel.state]
    · rw [hu.waitEntry, rel.count]
    · rw [hu.waitEntry, hother j hj]
    · obtain ⟨e, he, hcyc, hidx, hpk, hteam, hprio⟩ := rel.ready p (by rw [State.modWait, State.cluster_modCluster_self]; exact hp)
      rw [hentry] at hteam hprio
      exact ⟨e, by rw [hu.cluster]; exact he, hcyc, hidx, hpk, hteam, hprio⟩
    · rw [hu.cluster, rel.relWait (by rw [State.modWait, State.cluster_modCluster_self]; exact hp), State.modWait,
        State.cluster_modCluster_self]
      rfl

end Sys2Proof.Claims

namespace Sys2Proof.Machine

/-! A flit of a message lands (R185, R186, R339). -/

theorem get_setFull (e : Sparse Bool) (a n : Nat) (full : Bool) (g : Nat) :
    (setFull e a n full).get false g = if g ∈ granules a n then !full else e.get false g := by
  unfold setFull
  generalize granules a n = l
  induction l generalizing e with
  | nil => simp
  | cons x l ih =>
    rw [List.foldl_cons, ih, Sparse.get_put]
    by_cases hg : g ∈ l
    · simp [hg]
    · simp [hg]

/-- The granules of a flit. -/
theorem mem_granules_flit {a : Nat} (ha : a % 64 = 0) (g : Nat) : g ∈ granules a 64 ↔ a / 16 ≤ g ∧ g < a / 16 + 4 := by
  rw [mem_granules (by decide)]
  constructor
  · rintro ⟨b, hb, rfl⟩
    omega
  · rintro ⟨h1, h2⟩
    exact ⟨16 * (g - a / 16), by omega, by omega⟩

theorem undisturbed_setStoreFull (s : State) (cl a n : Nat) (full : Bool) :
    Undisturbed (s.modCluster cl fun c => { c with empty := setFull c.empty a n full }) (s.setStoreFull cl a n full) := by
  refine undisturbed_foldl _ (fun s _ g => ?_) _ rfl
  split
  · exact undisturbed_sched ..
  · exact .refl s

theorem unqueue_left (s : State) (cl id k : Nat) : ((s.unqueue cl id).cluster k).mem = (s.cluster k).mem ∧
    ((s.unqueue cl id).cluster k).empty = (s.cluster k).empty ∧ (∀ u, (s.unqueue cl id).slot u = s.slot u) ∧ (s.unqueue cl id).phys = s.phys := by
  unfold State.unqueue
  split
  · exact ⟨rfl, rfl, fun _ => rfl, rfl⟩
  · rw [State.cluster_modCluster]
    split
    · next h => exact ⟨by rw [h], by rw [h], fun _ => rfl, rfl⟩
    · exact ⟨rfl, rfl, fun _ => rfl, rfl⟩

/-- A flit whose cycle it is not waits. -/
theorem msgDelivery_waits {s : State} {cl a : Nat} (data : Vec) (h : (s.cluster cl).queues s.now (flitId a) none a 64 = true) :
    execMsgDelivery cl a data s = .next ((s.queueUp cl (flitId a) none a 64).sched (s.now + 1) Phase.again (.run (.msgDelivery cl a data))) :=
  congrArg Host.Outcome.next (if_pos h)

/-- A flit that lands writes its bytes and fills its granules. -/
theorem msgDelivery_lands {s : State} {cl a : Nat} (data : Vec) (h : (s.cluster cl).queues s.now (flitId a) none a 64 = false) :
    ∃ t, execMsgDelivery cl a data s = .next t ∧ (t.cluster cl).mem = poke (s.cluster cl).mem a 64 data.toNat ∧
      (t.cluster cl).empty = setFull (s.cluster cl).empty a 64 true ∧ (∀ u, t.slot u = s.slot u) ∧ t.phys = s.phys := by
  obtain ⟨hmem, hempty, hslots, hphys⟩ := unqueue_left s cl (flitId a) cl
  refine ⟨_, congrArg Host.Outcome.next (if_neg (by rw [h]; exact Bool.noConfusion)), ?_⟩
  dsimp only
  generalize s.unqueue cl (flitId a) = u at hmem hempty hslots hphys ⊢
  set w := ((({ u with storeErrs := clearErrs u.storeErrs (storeErrBase cl) a 64 } : State).modCluster cl fun c =>
    { c with mem := poke c.mem a 64 data.toNat }).useGranules cl a 64) with hw
  have hfull := undisturbed_setStoreFull w cl a 64 true
  have hcl := hfull.cluster cl
  rw [State.cluster_modCluster_self] at hcl
  have hwritten : (w.cluster cl).mem = poke (u.cluster cl).mem a 64 data.toNat ∧ (w.cluster cl).empty = (u.cluster cl).empty := by
    rw [hw, State.useGranules, State.cluster_modCluster_self, State.cluster_modCluster_self]
    exact ⟨rfl, rfl⟩
  refine ⟨?_, ?_, fun v => (hfull.slots v).trans (hslots v), hfull.phys.trans hphys⟩
  · rw [hcl, ← hmem, ← hwritten.1]
  · rw [hcl, ← hempty, ← hwritten.2]

theorem queues_of_free {c : Cluster} {now a n : Nat} (id : Nat) (hb : c.busy now a n = false)
    (ha : ∀ x ∈ c.arrived, ∀ g ∈ granules a n, g ∉ x.2.2) : c.queues now id none a n = false := by
  unfold Cluster.queues
  rw [hb, Bool.false_or, List.any_eq_false]
  intro x hx
  have hx' := (List.takeWhile_sublist _).subset hx
  simpa using ha x hx'

end Sys2Proof.Machine

namespace Sys2Proof.Claims

open Sys2Proof.Machine

theorem messageLands : MessageLands := by
  intro s cl a data ha
  refine ⟨fun hb => ?_, fun hb harr => ?_⟩
  · have hq : (s.cluster cl).queues s.now (flitId a) none a 64 = true := by unfold Cluster.queues; rw [hb]; rfl
    refine ⟨_, (exec_msgDelivery s).trans (msgDelivery_waits data hq), ?_, ?_, _, (State.mem_sched ..).2 (.inl rfl), rfl, rfl⟩
    · change ((s.queueUp cl (flitId a) none a 64).cluster cl).mem = _
      rw [State.queueUp, State.cluster_modCluster_self]
    · change ((s.queueUp cl (flitId a) none a 64).cluster cl).empty = _
      rw [State.queueUp, State.cluster_modCluster_self]
  · obtain ⟨t, hrun, hmem, hempty, hslots, hphys⟩ := msgDelivery_lands data (queues_of_free (flitId a) hb harr)
    refine ⟨t, (exec_msgDelivery s).trans hrun, fun b hb => ?_, fun x hx => ?_, fun g => ?_, fun u => congrArg Slot.ctx (hslots u), hphys⟩
    · simp only [hmem, peek, get_poke, if_pos (show a ≤ a + b ∧ a + b < a + 64 by omega), Nat.add_sub_cancel_left,
        BitVec.toNat_ofNat]
      rfl
    · rw [hmem, peek_poke_out _ _ (by omega)]
    · rw [hempty, get_setFull]
      simp only [mem_granules_flit ha]
      rfl

end Sys2Proof.Claims

open Sys2Proof.Claims

/-- Settles O44: nothing that a table sends or wakes changes a table, so that each table is left as its own step leaves it;
a reply lands as the rules of a waiting thread say. -/
theorem counterEvents : Obligations.CounterEvents :=
  ⟨messageLands, decrements, releaseTakesPark, tableReads, tableReplies⟩
end
section
/-!
PROOFS. What stores of the Z4 and the writing of images leave alone (R158, R190, R265).
-/

namespace Sys2Proof.Machine

/-! The work of a home slice, in its clusters too. -/

/-- A home slice has worked: beside it, and in the clusters' other parts, nothing differs. -/
structure SliceWork (s u : State) : Prop where
  beside   : u.besideSlices = s.besideSlices
  clusters : ∀ k, { u.cluster k with slice := [] } = { s.cluster k with slice := [] }

section
variable {s u v : State}

theorem SliceWork.refl (s : State) : SliceWork s s := ⟨rfl, fun _ => rfl⟩

theorem SliceWork.trans (h : SliceWork s u) (g : SliceWork u v) : SliceWork s v :=
  ⟨g.beside.trans h.beside, fun k => (g.clusters k).trans (h.clusters k)⟩

theorem sliceWork_modCluster (s : State) (cl : Nat) (f : Cluster → Sparse (Option SLine)) :
    SliceWork s (s.modCluster cl fun c => { c with slice := f c }) := by
  refine ⟨rfl, fun k => ?_⟩
  rw [State.cluster_modCluster]
  split
  · next h => rw [h]
  · rfl

end

theorem sliceWork_revokeLine (s : State) (pa : Nat) (l : SLine) : SliceWork s (s.revokeLine pa l).1 := by
  unfold State.revokeLine
  split
  · exact .refl s
  · split
    · exact ⟨rfl, fun _ => rfl⟩
    · exact ⟨rfl, fun _ => rfl⟩

theorem sliceWork_sliceWay {s t : State} {cl key w : Nat} (h : s.sliceWay cl key = some (w, t)) : SliceWork s t := by
  unfold State.sliceWay at h
  dsimp only at h
  split at h
  · cases h; exact .refl s
  · split at h
    · cases h
      refine .trans ?_ ((sliceWork_revokeLine ..).trans (sliceWork_modCluster _ _ _))
      exact List.foldlRecOn (motive := fun u : State => SliceWork s u) _ _ (.refl s) fun u hu x _ => hu.trans ⟨rfl, fun _ => rfl⟩
    · cases h

theorem sliceWork_setSline (s : State) (team : BitVec 16) (pa : Nat) (l : Option SLine) : SliceWork s (s.setSline team pa l) := by
  unfold State.setSline
  dsimp only
  split
  · exact sliceWork_modCluster _ _ _
  · exact sliceWork_modCluster _ _ _
  · split
    · next h => exact (sliceWork_sliceWay h).trans (sliceWork_modCluster _ _ _)
    · exact .refl s

theorem sliceWork_cleanSline (s : State) (team : BitVec 16) (pa : Nat) : SliceWork s (s.cleanSline team pa).1 := by
  unfold State.cleanSline
  split
  · dsimp only
    split
    · exact (sliceWork_revokeLine ..).trans (sliceWork_setSline ..)
    · exact sliceWork_setSline ..
  · exact sliceWork_setSline ..

theorem sliceWork_mergeCorrect (s : State) (pa n : Nat) : SliceWork s (s.mergeCorrect pa n) :=
  List.foldlRecOn (motive := fun u : State => SliceWork s u) _ _ (.refl s) fun u hu x _ => hu.trans (by
    unfold State.correctAt
    dsimp only
    split
    · exact .refl u
    · exact ⟨rfl, fun _ => rfl⟩)

/-! A store of the Z4 (R258, R262, R363, R364, R367). -/

theorem not_device_of_memory {s : State} {pa : Nat} (h : (∃ k, s.place pa = .hbm k) ∨ (∃ k, s.place pa = .tier k) ∨ ∃ k, s.place pa = .cxl k) :
    isDevice pa = false := by
  refine Bool.eq_false_iff.2 fun hd => ?_
  have hlow : devBase ≤ pa := (Bool.and_eq_true_iff.1 hd).1 |> of_decide_eq_true
  have hp : s.place pa = .device := by
    unfold State.place
    simp only [devBase] at hlow
    rw [if_neg (by omega), if_neg (by omega), if_neg (by omega), if_neg (by omega), if_pos hd]
  rcases h with ⟨k, h⟩ | ⟨k, h⟩ | ⟨k, h⟩ <;> rw [hp] at h <;> cases h

end Sys2Proof.Machine

namespace Sys2Proof.Claims

open Sys2Proof.Machine

section
variable {s : State} {pa : Nat} (p : PlainWord s pa)
include p

theorem PlainWord.hostStore_eq (v : W64) : s.hostStore pa v = s.plainStore pa 8 v.toNat := by
  have hwrite : s.badWriteBack 0 pa (fun _ => true) = false := by rw [State.badWriteBack, p.noLine]
  have hmerge : s.badMerge 0 pa 8 = false := by rw [State.badMerge, p.noLine]
  unfold State.hostStore
  rw [if_neg (by rw [not_device_of_memory p.memory]; decide)]
  rcases p.memory with ⟨k, h⟩ | ⟨k, h⟩ | ⟨k, h⟩ <;>
    simp only [h, p.isRetired, hwrite, hmerge, Bool.false_eq_true, Bool.or_false, if_false]

/-- R190: a store of the Z4 changes the dword that it writes; beside it, its home slice works. -/
theorem PlainWord.hostStore_work (v : W64) :
    SliceWork { s with phys := poke s.phys pa 8 v.toNat } (s.hostStore pa v) := by
  have hwork := (sliceWork_cleanSline s 0 pa).trans (sliceWork_mergeCorrect _ pa 8)
  rw [p.hostStore_eq]
  unfold State.plainStore
  dsimp only
  generalize (s.cleanSline 0 pa).1.mergeCorrect pa 8 = u at hwork ⊢
  have hteam : ({ u with errs := clearErrs u.errs 0 (u.mapped pa) 8 } : State).team 0 = none := by
    rw [State.team, show State.teams _ = s.teams from State.besideSlices_teams hwork.beside]
    exact p.noTeam
  rw [physWrite_eq_poke hteam pa 8 v.toNat fun j hj => mapped_of_inPlace (by
    rw [show State.retired _ = s.retired from State.besideSlices_retired hwork.beside]
    exact p.inPlace_byte hj)]
  exact ⟨congrArg (fun x : State => { x with phys := poke x.phys pa 8 v.toNat }) hwork.beside, hwork.clusters⟩

end

end Sys2Proof.Claims

namespace Sys2Proof.Machine

/-! The writing of images and records (R158, R265): the time stands. -/

/-- Two states of the same cycle. -/
structure SameTime (s u : State) : Prop where
  now  : u.now = s.now
  usec : u.usec = s.usec

theorem SameTime.refl (s : State) : SameTime s s := ⟨rfl, rfl⟩

theorem SameTime.trans {s u v : State} (h : SameTime s u) (g : SameTime u v) : SameTime s v :=
  ⟨g.now.trans h.now, g.usec.trans h.usec⟩

theorem sameTime_foldl {α : Type} {f : State → α → State} (hf : ∀ s x, SameTime s (f s x)) (l : List α) (s : State) :
    SameTime s (l.foldl f s) :=
  List.foldlRecOn (motive := fun u : State => SameTime s u) l f (.refl s) fun _ hu x _ => hu.trans (hf _ x)

theorem sameTime_of_sliceWork {s u : State} (h : SliceWork s u) : SameTime s u :=
  ⟨congrArg (·.now) h.beside, congrArg (·.usec) h.beside⟩

theorem sameTime_physPut (s : State) (team : BitVec 16) (pa : Nat) (b : Byte) : SameTime s (s.physPut team pa b) := by
  unfold State.physPut
  split
  · split
    · exact ⟨rfl, rfl⟩
    · exact ⟨rfl, rfl⟩
  · exact ⟨rfl, rfl⟩

theorem sameTime_physWrite (s : State) (team : BitVec 16) (pa n v : Nat) : SameTime s (s.physWrite team pa n v) := by
  induction n generalizing s pa v with
  | zero => exact .refl s
  | succ n ih => exact (sameTime_physPut ..).trans (ih ..)

theorem sameTime_imageWrite (s : State) (core : Nat) (c : Ctx) (off n data : Nat) : SameTime s (s.imageWrite core c off n data) := by
  unfold State.imageWrite
  split
  · exact ⟨rfl, rfl⟩
  · split
    · exact sameTime_physWrite ..
    · exact .refl s

theorem sameTime_flush (s : State) (t : Tid) : SameTime s (s.flush t) :=
  ((sameTime_foldl (fun _ _ => sameTime_imageWrite ..) _ s).trans (sameTime_foldl (fun _ _ => sameTime_imageWrite ..) _ _)).trans
    ⟨rfl, rfl⟩

theorem sameTime_flushGhost (s : State) (core : Nat) (p : BitVec 26) : SameTime s (s.flushGhost core p) := by
  refine (sameTime_foldl (fun s l => ?_) _ s).trans ⟨rfl, rfl⟩
  unfold State.writeGhost
  split
  · split
    · exact sameTime_imageWrite ..
    · exact .refl s
  · exact .refl s

theorem sameTime_plainStore (s : State) (pa n v : Nat) : SameTime s (s.plainStore pa n v) :=
  have hwork := sameTime_of_sliceWork ((sliceWork_cleanSline s 0 pa).trans (sliceWork_mergeCorrect _ pa n))
  ⟨(sameTime_physWrite ..).now.trans hwork.now, (sameTime_physWrite ..).usec.trans hwork.usec⟩

theorem sameTime_writeRecord (s : State) (r : Region) (v : Nat) (c : Core) : SameTime s (s.writeRecord r v c) := by
  refine sameTime_foldl (fun s k => ?_) _ s
  split
  · split
    · exact .refl s
    · exact .refl s
    · exact sameTime_physWrite ..
    · split
      · exact .refl s
      · exact sameTime_plainStore ..
  · exact .refl s

end Sys2Proof.Machine
end
section
/-!
PROOFS. Placement, loading, completion, drain mode and swap of teams (O52).
-/

namespace Sys2Proof.Machine

/-! Drain mode (R264). -/

theorem drainDue_iff (s : State) (x : Nat × Team) : s.drainDue x = true ↔
    x.2.region.age < s.usec - x.2.since ∧ s.governs x.2.region.tenant = some x.1 ∧
      (s.meshOf x.2.region.tenant.toNat).drain ≠ some (BitVec.ofNat 16 x.1) := by
  simp [State.drainDue, State.aged, and_assoc]

theorem meshOf_setMesh (s : State) (t : Nat) (m : Mesh) (j : Nat) : (s.setMesh t m).meshOf j = if j = t then m else s.meshOf j :=
  Sparse.get_put ..

/-! Folds over the cores of a team. -/

/-- A step that touches one core alone. -/
theorem core_foldl_modCore (f : Core → Core) (hf : ∀ c, f (f c) = f c) (l : List Nat) (s : State) (k : Nat) :
    (l.foldl (fun s k => s.modCore k f) s).core k = if k ∈ l then f (s.core k) else s.core k := by
  induction l generalizing s with
  | nil => rfl
  | cons a l ih =>
    rw [List.foldl_cons, ih, State.core_modCore]
    by_cases hk : k = a
    · subst hk
      by_cases hl : k ∈ l
      · rw [if_pos hl, if_pos rfl, if_pos (by simp), hf]
      · rw [if_neg hl, if_pos rfl, if_pos (by simp)]
    · simp [hk]

/-- What no core holds stays as it is. -/
theorem foldl_modCore_eq (f : Core → Core) (l : List Nat) (s : State) :
    ∃ c, l.foldl (fun s k => s.modCore k f) s = { s with cores := c } := by
  induction l generalizing s with
  | nil => exact ⟨_, rfl⟩
  | cons a l ih => exact ih _

end Sys2Proof.Machine

namespace Sys2Proof.Claims

open Sys2Proof.Machine

theorem drains : Drains := by
  intro s n t hf m
  have hrun : exec (.placementAgeExpiry n) s = .next (if !s.drainDue (n, t) then s else s.setMesh t.region.tenant.toNat
      { m with drain := some (BitVec.ofNat 16 n) }) := by
    rw [exec_placementAgeExpiry, execPlacementAgeExpiry, hf]
  refine ⟨fun h => ?_, fun h hg hd => ⟨_, hrun, ?_⟩⟩
  · rw [hrun, if_pos]
    rw [Bool.not_eq_true', ← Bool.not_eq_true, drainDue_iff]
    exact fun e => absurd e.1 (Nat.not_lt.2 h)
  · rw [if_neg (by rw [(drainDue_iff s (n, t)).2 ⟨h, hg, hd⟩]; decide)]
    exact ⟨rfl, by rw [meshOf_setMesh, if_pos rfl], fun j hj => by rw [meshOf_setMesh, if_neg hj]⟩

end Sys2Proof.Claims

namespace Sys2Proof.Machine

/-! Swapping (R265). -/

theorem swapDue_leaving {s : State} {t : Team} (h : s.swapDue t = true) : t.leaving = false := by
  simp only [State.swapDue, Bool.and_eq_true, Bool.not_eq_true'] at h
  exact h.1.1.1.1.2

theorem swapReady_leaving {s : State} {t : Team} (h : s.swapReady t = true) : t.leaving = true := by
  simp only [State.swapReady, Bool.and_eq_true] at h
  exact h.1.1

theorem swapDue_of_swapReady {s : State} {t : Team} (h : s.swapReady t = true) : s.swapDue t = false :=
  Bool.eq_false_iff.2 fun hd => Bool.noConfusion ((swapReady_leaving h).symm.trans (swapDue_leaving hd))

theorem teams_setTeam (s : State) (n : Nat) (t : Option Team) (k : Nat) :
    (s.setTeam n t).teams.get none k = if k = n then t else s.teams.get none k := Sparse.get_put ..

/-- R265: a core of a team is written to its record, its threads' registers to their images. -/
def State.coreToRecord (t : Team) (r : Region) (s : State) (k : Nat) : State :=
  let s := s.recallWaits k
  let s := (s.core k).ghosts.foldl (fun s (g : BitVec 26 × Ctx) => s.flushGhost k g.1) s
  let s := (s.core k).slots.foldl (fun (s : State) (x : Nat × Slot) => if x.2.st = .empty then s else (s.flush ⟨k, x.1⟩).dropLines ⟨k, x.1⟩) s
  let mine (f : Future) : Bool := (f.res.map Tid.core) == some k
  let s := ((s.cluster (clusterOf k)).futures.filter fun x => mine x.2).foldl (fun (s : State) _ => s.unreserveFut t.region) s
  let s := s.modCluster (clusterOf k) fun c => { c with
    futures := c.futures.map fun (x : Nat × Future) => (x.1, if mine x.2 then { x.2 with res := none } else x.2) }
  s.writeRecord r (s.core k).vcore.toNat (s.core k)

/-- R265: arrivals at cluster points keep the number that stands for a core of a swapped team. -/
def State.pointsAway (s : State) (n : Nat) (t : Team) : State :=
  let away (w : Tid) : Tid := if t.cores.contains w.core then ⟨awayCore n (s.core w.core).vcore.toNat, w.slot⟩ else w
  { s with clusters := s.clusters.map fun (x : Nat × Cluster) => (x.1, { x.2 with
    rdv := x.2.rdv.map fun (y : Nat × Point) => (y.1, { y.2 with waiters := y.2.waiters.map away }) }) }

theorem sameTime_modCluster (s : State) (cl : Nat) (f : Cluster → Cluster) : SameTime s (s.modCluster cl f) := ⟨rfl, rfl⟩
theorem sameTime_modCore (s : State) (k : Nat) (f : Core → Core) : SameTime s (s.modCore k f) := ⟨rfl, rfl⟩

theorem sameTime_coreToRecord (t : Team) (r : Region) (s : State) (k : Nat) : SameTime s (s.coreToRecord t r k) := by
  unfold State.coreToRecord
  dsimp only
  refine .trans (.trans (.trans (.trans (.trans ?recalled (sameTime_foldl ?ghost ..)) (sameTime_foldl ?slot ..))
    (sameTime_foldl ?future ..)) (sameTime_modCluster ..)) (sameTime_writeRecord ..)
  case recalled => exact ⟨rfl, rfl⟩
  case ghost => exact fun s g => sameTime_flushGhost ..
  case slot =>
    intro s x
    split
    · exact .refl s
    · exact (sameTime_flush ..).trans (sameTime_modCore ..)
  case future => exact fun s _ => ⟨rfl, rfl⟩

/-- A core without a team, whose slots are empty. -/
structure Core.Deserted (c : Core) : Prop where
  team  : c.team = none
  slots : ∀ j, (c.slot j).st = .empty

theorem deserted_vacated (c : Core) (dual : Bool) : (c.vacated.dropL1 dual).Deserted := by
  have hc : c.vacated.Deserted := by
    refine ⟨rfl, Sparse.get_of_forall (P := fun x : Slot => x.st = .empty) (fun x hx => ?_) rfl⟩
    obtain ⟨y, -, rfl⟩ := List.mem_map.1 hx
    rfl
  cases dual with
  | false => exact hc
  | true => exact ⟨hc.team, hc.slots⟩

/-- What every step of a fold keeps, and the step of one element brings about, holds at the end. -/
theorem foldl_reaches {α : Type} {f : State → α → State} {P : State → Prop} (hkeep : ∀ s x, P s → P (f s x)) {a : α}
    (hmake : ∀ s, P (f s a)) {l : List α} (ha : a ∈ l) (s : State) : P (l.foldl f s) := by
  induction l generalizing s with
  | nil => cases ha
  | cons x l ih =>
    rcases List.mem_cons.1 ha with rfl | ha
    · exact List.foldlRecOn (motive := P) l f (hmake s) fun u hu x _ => hkeep u x hu
    · exact ih ha _

/-- R265: the cores of a team that leaves are deserted. -/
theorem deserted_vacate (s : State) (t : Team) {k : Nat} (hk : k ∈ t.cores) : ((s.vacate t).core k).Deserted := by
  refine foldl_reaches (P := fun u => (u.core k).Deserted) (fun u c hu => ?_) (fun u => ?_) hk s
  · rw [State.core_modCore]
    split
    · exact deserted_vacated ..
    · exact hu
  · rw [State.core_modCore_self]
    exact deserted_vacated ..

section
variable {s : State} {n : Nat} {t : Team} (ht : s.teams.get none n = some t)
include ht

/-- A team that is due to leave is told so. -/
theorem teamSwapOut_due (h : s.swapDue t = true) : execTeamSwapOut n s =
    .next ((t.cores.foldl (fun s k => s.modCore k fun c => { c with stopped := true }) s).setTeam n (some { t with leaving := true })) := by
  simp only [execTeamSwapOut, ht, h, if_true]

/-- The walks of its records begin. -/
theorem teamSwapOut_begins (h : s.swapReady t = true) (hw : t.writes = none) : execTeamSwapOut n s = .next (s.setTeam n (some { t with
    writes := some (s.recordsEnd t { t.region with swapbase := (s.readRegion (t.region.rcb * 64)).swapbase }) })) := by
  simp only [execTeamSwapOut, ht, swapDue_of_swapReady h, h, hw, Bool.false_eq_true, if_false, if_true, Bool.not_true]

/-- Its records are written, and its cores are free. -/
theorem teamSwapOut_ends (h : s.swapReady t = true) (hw : t.writes ≠ none) : ∃ (v : State) (keep : List Core),
    keep.length = t.cores.length ∧ execTeamSwapOut n s = .next ((v.vacate t).setTeam n (some { t with
      st := .swapped, leaving := false, writes := none, held := keep, cores := [], entered := s.now, since := s.usec, seeded := 0 })) := by
  have htime := sameTime_foldl (sameTime_coreToRecord t { t.region with swapbase := (s.readRegion (t.region.rcb * 64)).swapbase })
    t.cores s
  rw [← htime.now, ← htime.usec]
  refine ⟨(t.cores.foldl (State.coreToRecord t { t.region with swapbase := (s.readRegion (t.region.rcb * 64)).swapbase }) s).pointsAway n t,
    t.cores.map (t.cores.foldl (State.coreToRecord t { t.region with swapbase := (s.readRegion (t.region.rcb * 64)).swapbase }) s).core,
    List.length_map .., ?_⟩
  simp only [execTeamSwapOut, ht, swapDue_of_swapReady h, h, hw, Bool.false_eq_true, if_false, Bool.not_true]
  rfl

theorem teamSwapOut_stays (h1 : s.swapDue t = false) (h2 : s.swapReady t = false) : execTeamSwapOut n s = .next s := by
  simp only [execTeamSwapOut, ht, h1, h2, Bool.false_eq_true, if_false, if_true, Bool.not_false]

end

theorem recordsEnd_later (s : State) (t : Team) (r : Region) : s.now < s.recordsEnd t r := by
  unfold State.recordsEnd
  omega

end Sys2Proof.Machine

namespace Sys2Proof.Claims

open Sys2Proof.Machine

theorem swaps : Swaps := by
  intro s n t ht
  refine ⟨fun hdue => ?_, fun hready hw => ?_, fun hready hw => ?_, fun hdue hready => teamSwapOut_stays ht hdue hready⟩
  · obtain ⟨c, hc⟩ := foldl_modCore_eq (fun c => { c with stopped := true }) t.cores s
    refine ⟨_, teamSwapOut_due ht hdue, ?_, fun k hk => ?_, fun k hk => ?_, ?_⟩
    · rw [teams_setTeam, if_pos rfl]
    · exact (core_foldl_modCore (fun c => { c with stopped := true }) (fun _ => rfl) t.cores s k).trans (if_pos hk)
    · exact (core_foldl_modCore (fun c => { c with stopped := true }) (fun _ => rfl) t.cores s k).trans (if_neg hk)
    · exact congrArg (·.phys) hc
  · have hlater := recordsEnd_later s t { t.region with swapbase := (s.readRegion (t.region.rcb * 64)).swapbase }
    refine ⟨_, _, teamSwapOut_begins ht hready hw, rfl, ?_, hlater⟩
    rw [teams_setTeam, if_pos rfl]
  · obtain ⟨v, keep, hlen, hrun⟩ := teamSwapOut_ends ht hready hw
    refine ⟨_, keep, hrun, ?_, hlen, fun k hk => ?_⟩
    · rw [teams_setTeam, if_pos rfl]
    · have h := deserted_vacate v t hk
      exact ⟨h.team, h.slots⟩

end Sys2Proof.Claims
end
section
/-!
PROOFS. Placement of a team (O52).
-/

namespace Sys2Proof.Machine

/-! Wakes leave all of a core but its gate (R361). -/

/-- Cores have been woken, and tables changed: beside its gate no core differs. -/
structure Woken (s u : State) : Prop where
  cores  : ∀ k, { u.core k with gate := .powered } = { s.core k with gate := .powered }
  phys   : u.phys = s.phys
  teams  : u.teams = s.teams
  now    : u.now = s.now
  agenda : ∀ e ∈ s.agenda, e ∈ u.agenda

section
variable {s u v : State}

theorem Woken.refl (s : State) : Woken s s := ⟨fun _ => rfl, rfl, rfl, rfl, fun _ h => h⟩

theorem Woken.trans (h : Woken s u) (g : Woken u v) : Woken s v :=
  ⟨fun k => (g.cores k).trans (h.cores k), g.phys.trans h.phys, g.teams.trans h.teams, g.now.trans h.now,
    fun e he => g.agenda e (h.agenda e he)⟩

theorem woken_foldl {α : Type} {f : State → α → State} (hf : ∀ s x, Woken s (f s x)) (l : List α) (s : State) : Woken s (l.foldl f s) :=
  List.foldlRecOn (motive := fun u : State => Woken s u) l f (.refl s) fun _ hu x _ => hu.trans (hf _ x)

end

theorem woken_modCluster (s : State) (cl : Nat) (f : Cluster → Cluster) : Woken s (s.modCluster cl f) :=
  ⟨fun _ => rfl, rfl, rfl, rfl, fun _ h => h⟩

theorem woken_setClusters (s : State) (c : Sparse Cluster) : Woken s { s with clusters := c } :=
  ⟨fun _ => rfl, rfl, rfl, rfl, fun _ h => h⟩

theorem woken_sched (s : State) (due phase : Nat) (ev : Ev) : Woken s (s.sched due phase ev) :=
  ⟨fun _ => rfl, rfl, rfl, rfl, fun _ h => (State.mem_sched ..).2 (.inr h)⟩

theorem woken_wake (s : State) (k : Nat) : Woken s (s.wake k) := by
  unfold State.wake
  split
  · refine ⟨fun j => ?_, rfl, rfl, rfl, fun _ h => h⟩
    rw [State.core_modCore]
    split
    · next h => rw [h]
    · rfl
  · exact woken_sched ..
  · exact .refl s

theorem woken_addReady (s : State) (cl : Nat) (r : Ready) : Woken s (s.addReady cl r) := by
  refine (woken_modCluster ..).trans (woken_foldl (fun s j => ?_) _ _)
  split
  · exact woken_wake ..
  · exact .refl s

theorem woken_takeParks (s : State) (no : Nat) (t : Team) (core : Nat) : Woken s (s.takeParks no t core) := by
  refine woken_foldl (fun s j => ?_) _ s
  split
  · exact woken_modCluster ..
  · exact .refl s

theorem woken_foldl_fst {α β : Type} {f : State × β → α → State × β} (hf : ∀ x r, Woken x.1 (f x r).1) (l : List α) (x : State × β) :
    Woken x.1 (l.foldl f x).1 := by
  induction l generalizing x with
  | nil => exact .refl _
  | cons r l ih => exact (hf x r).trans (ih (f x r))

theorem woken_dealReady (s : State) (no : Nat) (cores : List Nat) : Woken s (s.dealReady no cores) := by
  unfold State.dealReady
  dsimp only
  split
  · exact .refl s
  · refine Woken.trans (woken_setClusters s _) (woken_foldl_fst (fun x r => ?_) _ (_, 0))
    dsimp only
    exact woken_addReady ..

/-! A core is taken (R195, R261). -/

/-- R195: a core as a team of a tenant finds it: cleared after one of another. -/
def Core.wiped (c : Core) (tenant : BitVec 6) : Core :=
  if c.lastTenant.all (· == tenant) then c else { c with mem := [], empty := [] }

theorem mem_wiped (c : Core) (tenant : BitVec 6) :
    (c.wiped tenant).mem = if c.lastTenant.all (· == tenant) then c.mem else [] := by
  unfold Core.wiped
  split
  · rfl
  · rfl

def Core.lentTo (c : Core) (tenant : BitVec 6) : Core := { c with lastTenant := some tenant }

/-- Core c has become x; no other core, no byte of memory and nothing on the agenda differs. -/
structure Replaced (c : Nat) (x : Core) (s u : State) : Prop where
  core   : u.core c = x
  others : ∀ k, k ≠ c → u.core k = s.core k
  phys   : u.phys = s.phys
  teams  : u.teams = s.teams
  now    : u.now = s.now
  agenda : u.agenda = s.agenda

theorem replaced_modCore {s u : State} {c : Nat} {x : Core} (f : Core → Core) (h : Replaced c x s u) :
    Replaced c (f x) s (u.modCore c f) :=
  ⟨by rw [State.core_modCore_self, h.core], fun k hk => by rw [State.core_modCore, if_neg hk, h.others k hk], h.phys, h.teams, h.now,
    h.agenda⟩

/-- R195: the clearing before a team of another tenant. -/
theorem replaced_clearFor (s : State) (tenant : BitVec 6) (c : Nat) :
    Replaced c (((s.core c).wiped tenant).lentTo tenant) s (s.clearFor tenant c) := by
  have self : Replaced c (s.core c) s s := ⟨rfl, fun _ _ => rfl, rfl, rfl, rfl, rfl⟩
  have cluster {x : Core} {u : State} (h : Replaced c x s u) (cl : Nat) (f : Cluster → Cluster) : Replaced c x s (u.modCluster cl f) :=
    ⟨h.core, h.others, h.phys, h.teams, h.now, h.agenda⟩
  have storeErrs {x : Core} {u : State} (h : Replaced c x s u) (e : Sparse Err) : Replaced c x s { u with storeErrs := e } :=
    ⟨h.core, h.others, h.phys, h.teams, h.now, h.agenda⟩
  have localErrs {x : Core} {u : State} (h : Replaced c x s u) (e : Sparse Err) : Replaced c x s { u with localErrs := e } :=
    ⟨h.core, h.others, h.phys, h.teams, h.now, h.agenda⟩
  unfold State.clearFor
  dsimp only
  refine cluster (replaced_modCore (x := (s.core c).wiped tenant) (·.lentTo tenant) ?_) _ _
  refine iteInduction (fun _ => ?_) fun _ => storeErrs (cluster ?_ _ _) _
  all_goals
    refine iteInduction (fun h => ?_) fun h => ?_
    · have hw : (s.core c).wiped tenant = s.core c := if_pos (by revert h; cases (s.core c).lastTenant <;> simp)
      rw [hw]
      exact self
    · have hw : (s.core c).wiped tenant = { s.core c with mem := [], empty := [] } :=
        if_neg (by revert h; cases (s.core c).lastTenant <;> simp)
      rw [hw]
      exact localErrs (replaced_modCore (x := s.core c) (fun x => { x with mem := [], empty := [] }) self) _

/-- A core as a team's placement leaves it. -/
structure Core.Taken (old c : Core) (no i : Nat) (tenant : BitVec 6) : Prop where
  team    : c.team = some (BitVec.ofNat 16 no)
  vcore   : c.vcore = BitVec.ofNat 11 i
  stopped : c.stopped = true
  last    : c.lastTenant = some tenant
  mem     : c.mem = (old.wiped tenant).mem

/-- A team takes one core, and its loading begins. -/
def State.takeCore (no : Nat) (t : Team) (ext : List (Nat × Nat)) (s : State) (x : Nat × Nat) : State :=
  let s := s.clearFor t.region.tenant x.1
  let s := s.modCore x.1 fun c => { c with
    team := some (BitVec.ofNat 16 no), vcore := BitVec.ofNat 11 x.2, stopped := true, extents := ext, stall := 0 }
  let s := if t.held.isEmpty then s.takeParks no t x.1 else s
  (s.wake x.1).actAt (s.now + s.loadTime t x.1 x.2) (.seed no x.1)

theorem placeTeam_eq (s : State) (no : Nat) (t : Team) (cores : List Nat) : s.placeTeam no t cores =
    ((cores.zip (List.range cores.length)).foldl
      (State.takeCore no t ((s.setTeam no (some { t with st := .loading, cores := cores, seeded := 0, leaving := false })).extents t.region))
      (s.setTeam no (some { t with st := .loading, cores := cores, seeded := 0, leaving := false }))).dealReady no cores := rfl

theorem loadTime_pos (s : State) (t : Team) (core v : Nat) : 0 < s.loadTime t core v := by
  unfold State.loadTime
  split <;> omega

/-- What the taking of one core leaves. -/
structure TookCore (no : Nat) (tenant : BitVec 6) (s u : State) (x : Nat × Nat) : Prop where
  taken  : Core.Taken (s.core x.1) (u.core x.1) no x.2 tenant
  others : ∀ k, k ≠ x.1 → { u.core k with gate := .powered } = { s.core k with gate := .powered }
  phys   : u.phys = s.phys
  teams  : u.teams = s.teams
  now    : u.now = s.now
  agenda : ∀ e ∈ s.agenda, e ∈ u.agenda
  seed   : ∃ e ∈ u.agenda, e.ev = .act (.seed no x.1) ∧ s.now < e.due

theorem taken_of_gate {old c d : Core} {no i : Nat} {tenant : BitVec 6} (h : Core.Taken old c no i tenant)
    (hg : { d with gate := .powered } = { c with gate := .powered }) : Core.Taken old d no i tenant :=
  ⟨(congrArg Core.team hg).trans h.team, (congrArg Core.vcore hg).trans h.vcore, (congrArg Core.stopped hg).trans h.stopped,
    (congrArg Core.lastTenant hg).trans h.last, (congrArg Core.mem hg).trans h.mem⟩

theorem tookCore_takeCore (no : Nat) (t : Team) (ext : List (Nat × Nat)) (s : State) (x : Nat × Nat) :
    TookCore no t.region.tenant s (s.takeCore no t ext x) x := by
  have hr := replaced_modCore (fun c => { c with
    team := some (BitVec.ofNat 16 no), vcore := BitVec.ofNat 11 x.2, stopped := true, extents := ext, stall := 0 })
    (replaced_clearFor s t.region.tenant x.1)
  unfold State.takeCore
  dsimp only
  generalize (s.clearFor t.region.tenant x.1).modCore x.1 _ = u at hr ⊢
  have hp : Woken u (if t.held.isEmpty then u.takeParks no t x.1 else u) := by
    split
    · exact woken_takeParks ..
    · exact .refl u
  generalize (if t.held.isEmpty then u.takeParks no t x.1 else u) = p at hp ⊢
  have hw := hp.trans (woken_wake p x.1)
  refine ⟨taken_of_gate ?_ (hw.cores x.1), fun k hk => ?_, hw.phys.trans hr.phys, hw.teams.trans hr.teams, hw.now.trans hr.now,
    fun e he => (State.mem_sched ..).2 (.inr (hw.agenda e (hr.agenda ▸ he))), _, (State.mem_sched ..).2 (.inl rfl), rfl, ?_⟩
  · rw [hr.core]
    exact ⟨rfl, rfl, rfl, rfl, rfl⟩
  · exact (hw.cores k).trans (by rw [hr.others k hk])
  · change s.now < p.now + p.loadTime t x.1 x.2
    rw [hp.now, hr.now]
    exact Nat.lt_add_of_pos_right (loadTime_pos ..)

/-- What the taking of several cores leaves. -/
structure TookCores (no : Nat) (tenant : BitVec 6) (s u : State) (l : List (Nat × Nat)) : Prop where
  taken  : ∀ x ∈ l, Core.Taken (s.core x.1) (u.core x.1) no x.2 tenant
  others : ∀ k, k ∉ l.map (·.1) → { u.core k with gate := .powered } = { s.core k with gate := .powered }
  phys   : u.phys = s.phys
  teams  : u.teams = s.teams
  now    : u.now = s.now
  agenda : ∀ e ∈ s.agenda, e ∈ u.agenda
  seeds  : ∀ x ∈ l, ∃ e ∈ u.agenda, e.ev = .act (.seed no x.1) ∧ s.now < e.due

theorem wiped_of_gate {c d : Core} (hg : { d with gate := .powered } = { c with gate := .powered }) (tenant : BitVec 6) :
    (d.wiped tenant).mem = (c.wiped tenant).mem := by
  have hl : d.lastTenant = c.lastTenant := by have := congrArg Core.lastTenant hg; exact this
  have hm : d.mem = c.mem := by have := congrArg Core.mem hg; exact this
  unfold Core.wiped
  rw [hl]
  split
  · exact hm
  · rfl

/-- The cores of a placement are taken one after the other. -/
theorem tookCores_foldl (no : Nat) (t : Team) (ext : List (Nat × Nat)) (l : List (Nat × Nat)) (hl : (l.map (·.1)).Nodup) (s : State) :
    TookCores no t.region.tenant s (l.foldl (State.takeCore no t ext) s) l := by
  induction l generalizing s with
  | nil => exact ⟨by simp, fun _ _ => rfl, rfl, rfl, rfl, fun _ h => h, by simp⟩
  | cons x l ih =>
    obtain ⟨hx, hl'⟩ := List.nodup_cons.1 hl
    have h1 := tookCore_takeCore no t ext s x
    have h2 := ih hl' (s.takeCore no t ext x)
    rw [List.foldl_cons]
    refine ⟨fun y hy => ?_, fun k hk => ?_, h2.phys.trans h1.phys, h2.teams.trans h1.teams, h2.now.trans h1.now,
      fun e he => h2.agenda e (h1.agenda e he), fun y hy => ?_⟩
    · rcases List.mem_cons.1 hy with rfl | hy
      · exact taken_of_gate h1.taken (h2.others y.1 hx)
      · have hne : y.1 ≠ x.1 := fun e => hx (List.mem_map.2 ⟨y, hy, e⟩)
        have ht := h2.taken y hy
        exact ⟨ht.team, ht.vcore, ht.stopped, ht.last, ht.mem.trans (wiped_of_gate (h1.others y.1 hne) _)⟩
    · rw [List.map_cons, List.mem_cons, not_or] at hk
      exact (h2.others k hk.2).trans (h1.others k hk.1)
    · rcases List.mem_cons.1 hy with rfl | hy
      · obtain ⟨e, he, hev, hdue⟩ := h1.seed
        exact ⟨e, h2.agenda e he, hev, hdue⟩
      · obtain ⟨e, he, hev, hdue⟩ := h2.seeds y hy
        exact ⟨e, he, hev, h1.now ▸ hdue⟩

/-- What the placement of a team leaves. -/
structure TeamPlaced (no : Nat) (t : Team) (cores : List Nat) (s u : State) : Prop where
  team   : u.teams.get none no = some { t with st := .loading, cores := cores, seeded := 0, leaving := false }
  taken  : ∀ i k, cores[i]? = some k → Core.Taken (s.core k) (u.core k) no i t.region.tenant ∧
    ∃ e ∈ u.agenda, e.ev = .act (.seed no k) ∧ s.now < e.due
  others : ∀ k, k ∉ cores → { u.core k with gate := .powered } = { s.core k with gate := .powered }
  phys   : u.phys = s.phys

theorem placed_placeTeam (s : State) (no : Nat) (t : Team) (cores : List Nat) (hn : cores.Nodup) :
    TeamPlaced no t cores s (s.placeTeam no t cores) := by
  have hmap : (cores.zip (List.range cores.length)).map (·.1) = cores := List.map_fst_zip (by simp)
  have mem {i k : Nat} (hi : cores[i]? = some k) : (k, i) ∈ cores.zip (List.range cores.length) := by
    obtain ⟨hlt, -⟩ := List.getElem?_eq_some_iff.1 hi
    refine List.mem_of_getElem? (i := i) (List.getElem?_zip_eq_some.2 ⟨hi, ?_⟩)
    rw [List.getElem?_range hlt]
  rw [placeTeam_eq]
  generalize State.extents _ _ = ext
  have h := tookCores_foldl no t ext _ (by rw [hmap]; exact hn)
    (s.setTeam no (some { t with st := .loading, cores := cores, seeded := 0, leaving := false }))
  generalize List.foldl _ _ _ = u at h ⊢
  have hd := woken_dealReady u no cores
  refine ⟨?_, fun i k hi => ⟨?_, ?_⟩, fun k hk => ?_, hd.phys.trans h.phys⟩
  · rw [hd.teams, h.teams, teams_setTeam, if_pos rfl]
  · exact taken_of_gate (h.taken _ (mem hi)) (hd.cores k)
  · obtain ⟨e, he, hev, hdue⟩ := h.seeds _ (mem hi)
    exact ⟨e, hd.agenda e he, hev, hdue⟩
  · exact (hd.cores k).trans (h.others k (by rw [hmap]; exact hk))

/-! The team that is placed (R261, R263). -/

theorem mem_coresFor {s : State} {t : Team} {k : Nat} (h : k ∈ s.coresFor t) :
    s.coreFits t k = true ∧ (s.meshOf t.region.tenant.toNat).holds (clusterOf k) = true := by
  unfold State.coresFor at h
  dsimp only at h
  split at h
  · cases h
  · obtain ⟨cl, -, hk⟩ := List.mem_flatMap.1 h
    split at hk
    · cases hk
    · next hh =>
      have hf : k ∈ ((List.range 8).map fun j => 8 * cl + j).filter (s.coreFits t) := by
        split at hk
        · exact List.mem_of_mem_take hk
        · exact hk
      obtain ⟨hm, hfit⟩ := List.mem_filter.1 hf
      obtain ⟨j, hj, rfl⟩ := List.mem_map.1 hm
      have hcl : clusterOf (8 * cl + j) = cl := by
        have := List.mem_range.1 hj
        unfold clusterOf
        omega
      rw [hcl]
      exact ⟨hfit, by simpa using hh⟩

/-- R261: what a lone team takes are cores of its sub-mesh, as many as it has. -/
theorem fits_single {s : State} {t : Team} {a b : List Nat} (h : s.fits t = some (a, b)) (hp : t.partner = none) :
    a.length = t.n ∧ ∀ k ∈ a, k ∈ s.coresFor t := by
  unfold State.fits at h
  simp only [hp, Option.isNone_none, Bool.true_or, if_true] at h
  split at h
  · cases h
  · split at h
    · next hn =>
      cases h
      exact ⟨by rw [List.length_take, Nat.min_eq_left hn], fun k hk => List.mem_of_mem_take hk⟩
    · cases h

theorem coreFits_iff {s : State} {t : Team} {k : Nat} (h : s.coreFits t k = true) : (s.core k).kind = .program ∧ (s.core k).quar = false ∧
    (s.core k).team = none ∧ (s.core k).part = t.part ∧ ∀ y ∈ (s.core k).slots, y.2.st = .empty := by
  simp only [State.coreFits, Bool.and_eq_true, beq_iff_eq, Bool.not_eq_true', Option.isNone_iff_eq_none, List.all_eq_true] at h
  obtain ⟨⟨⟨⟨⟨⟨⟨⟨hkind, hquar⟩, hteam⟩, hpart⟩, -⟩, -⟩, -⟩, hslots⟩, -⟩ := h
  exact ⟨hkind, hquar, hteam, hpart, hslots⟩

theorem assignBudgets_eq (s : State) (r : Region) : ∃ b, s.assignBudgets r = { s with budgets := b } := by
  refine List.foldlRecOn (motive := fun u : State => ∃ b, u = { s with budgets := b }) _ _ ⟨_, rfl⟩ fun u hu rcb _ => ?_
  obtain ⟨b, rfl⟩ := hu
  split
  · exact ⟨_, rfl⟩
  · exact ⟨_, rfl⟩

theorem teamPlacement_stays {s : State} {n : Nat} {t : Team} (ht : s.teams.get none n = some t) (hp : s.placeable (n, t) = false) :
    execTeamPlacement n s = .next s := by
  simp only [execTeamPlacement, ht, hp, Bool.and_false, Bool.not_false, if_true]

/-- R261, R263: a pending lone team that fits is placed; budgets and drain mode may change before. -/
theorem teamPlacement_places {s : State} {n : Nat} {t : Team} {a b : List Nat} (ht : s.teams.get none n = some t) (hst : t.st = .pending)
    (hr : t.reset = false) (h2 : t.second = false) (hpart : t.partner = none) (hplace : s.placeable (n, t) = true)
    (hfits : s.fits (s.asPlaced t) = some (a, b)) :
    ∃ c m, execTeamPlacement n s = .next (({ s with budgets := c, meshes := m } : State).placeTeam n (s.asPlaced t) a) := by
  obtain ⟨c, hc⟩ := assignBudgets_eq s (s.asPlaced t).region
  have hst' : (s.asPlaced t).st = .pending := hst
  have hpart' : (s.asPlaced t).partner = none := hpart
  have hwaits : t.st.waits = true := by rw [hst]; rfl
  simp only [execTeamPlacement, ht, hwaits, h2, hr, hplace, hfits, hst', hpart', hc, Bool.false_and, Bool.not_false, Bool.and_true,
    Bool.not_true, Bool.false_eq_true, if_false, if_true]
  split
  · exact ⟨_, _, rfl⟩
  · exact ⟨_, _, rfl⟩

end Sys2Proof.Machine

namespace Sys2Proof.Claims

open Sys2Proof.Machine

theorem placement : Placement := by
  intro s n t ht
  refine ⟨fun hp => teamPlacement_stays ht hp, fun a hst hr h2 hpart hsusp hpow hdrain hfits hn => ?_⟩
  have hplace : s.placeable (n, t) = true := by
    have hd : s.drained n (s.asPlaced t) = false := hdrain
    have hf : s.fits (s.asPlaced t) = some (a, []) := hfits
    simpa [State.placeable, hsusp, hd, hf] using hpow
  obtain ⟨hlen, hcores⟩ := fits_single hfits hpart
  obtain ⟨c, m, hrun⟩ := teamPlacement_places ht hst hr h2 hpart hplace hfits
  have hpl := placed_placeTeam { s with budgets := c, meshes := m } n (s.asPlaced t) a hn
  refine ⟨hlen, fun k hk => ?_, _, hrun, hpl.phys, hpl.team, fun i k hi => ?_, fun k hk => ?_⟩
  · obtain ⟨hfit, hmesh⟩ := mem_coresFor (hcores k hk)
    obtain ⟨hkind, hquar, hteam, hcpart, hslots⟩ := coreFits_iff hfit
    exact ⟨hkind, hquar, hteam, hcpart, hslots, hmesh⟩
  · obtain ⟨htaken, hseed⟩ := hpl.taken i k hi
    refine ⟨htaken.team, htaken.vcore, htaken.stopped, htaken.last, htaken.mem.trans (mem_wiped ..), hseed⟩
  · have hg := hpl.others k hk
    exact ⟨by have := congrArg Core.team hg; exact this, by have := congrArg Core.mem hg; exact this⟩

end Sys2Proof.Claims
end
section
/-!
PROOFS. Completion of a team (O52).
-/

namespace Sys2Proof.Machine

/-! What a team leaves in the tables is given up (R262, R301). -/

/-- The package but for its clusters, its budgets, the agenda and what goes to peers. -/
def State.besideTables (s : State) : State := { s with clusters := [], budgets := [], agenda := [], seq := 0, linkWait := [], slack := [] }

/-- Only tables, budgets and messages have changed, and no directory of lines. -/
structure TablesWork (s u : State) : Prop where
  beside : u.besideTables = s.besideTables
  slices : ∀ k, (u.cluster k).slice = (s.cluster k).slice

section
variable {s u v : State}

theorem TablesWork.refl (s : State) : TablesWork s s := ⟨rfl, fun _ => rfl⟩

theorem TablesWork.trans (h : TablesWork s u) (g : TablesWork u v) : TablesWork s v :=
  ⟨g.beside.trans h.beside, fun k => (g.slices k).trans (h.slices k)⟩

theorem tablesWork_foldl {α : Type} {f : State → α → State} (hf : ∀ s x, TablesWork s (f s x)) (l : List α) (s : State) :
    TablesWork s (l.foldl f s) :=
  List.foldlRecOn (motive := fun u : State => TablesWork s u) l f (.refl s) fun _ hu x _ => hu.trans (hf _ x)

end

theorem tablesWork_modCluster (s : State) (cl : Nat) {f : Cluster → Cluster} (hf : ∀ c, (f c).slice = c.slice) :
    TablesWork s (s.modCluster cl f) := by
  refine ⟨rfl, fun k => ?_⟩
  rw [State.cluster_modCluster]
  split
  · next h => rw [hf, h]
  · rfl

theorem delay_left (s : State) : s.delay.2.clusters = s.clusters ∧ s.delay.2.besideTables = s.besideTables := by
  unfold State.delay
  split
  · exact ⟨rfl, rfl⟩
  · exact ⟨rfl, rfl⟩

theorem clusters_fromTable (s : State) (core cl extra : Nat) (a : Act) : (s.fromTable core cl extra a).clusters = s.clusters ∧
    (s.fromTable core cl extra a).besideTables = s.besideTables := by
  unfold State.fromTable
  split
  · exact ⟨rfl, rfl⟩
  · exact delay_left s

/-- The answers to held WAITs change no cluster. -/
theorem answers_left (cl code : Nat) (l : List (Tid × Nat × W64)) (s : State) :
    (l.foldl (fun s x => s.fromTable x.1.core cl 0 (.waitReply x.1 x.2.1 code x.2.2)) s).clusters = s.clusters ∧
    (l.foldl (fun s x => s.fromTable x.1.core cl 0 (.waitReply x.1 x.2.1 code x.2.2)) s).besideTables = s.besideTables := by
  refine List.foldlRecOn (motive := fun u : State => u.clusters = s.clusters ∧ u.besideTables = s.besideTables) _ _ ⟨rfl, rfl⟩ ?_
  intro u hu x _
  obtain ⟨h1, h2⟩ := clusters_fromTable u x.1.core cl 0 (.waitReply x.1 x.2.1 code x.2.2)
  exact ⟨h1.trans hu.1, h2.trans hu.2⟩

theorem answerWaits_left (s : State) (cl i code : Nat) : (s.answerWaits cl i code).besideTables = s.besideTables ∧
    ∀ k, (s.answerWaits cl i code).cluster k = (s.modCluster cl fun c =>
      { c with waitHeld := c.waitHeld.filter fun x => !(hEnt x.2.2 == i) }).cluster k := by
  obtain ⟨hc, hb⟩ := answers_left cl code ((s.cluster cl).waitHeld.filter fun x => hEnt x.2.2 == i)
    (s.modCluster cl fun c => { c with waitHeld := c.waitHeld.filter fun x => !(hEnt x.2.2 == i) })
  refine ⟨hb, fun k => ?_⟩
  rw [State.cluster, State.cluster, ← hc]
  rfl

/-- An entry of a team is given up, if it is ARMED. -/
def State.freeEntry (no cl : Nat) (s : State) (w : Nat × WaitTask) : State :=
  if w.2.state = 1 ∧ w.2.team.toNat = no then
    let s := s.uncharge (s.regionByRcb w.2.rcb.toNat) 2 1
    (s.modWait cl w.1 fun e => { e with state := 0 }).answerWaits cl w.1 1
  else s

/-- A cluster's entries and scoreboards of a team are given up. -/
def State.freeTable (no : Nat) (s : State) (x : Nat × Cluster) : State :=
  (x.2.waits.foldl (State.freeEntry no x.1) s).modCluster x.1 fun c =>
    { c with boards := c.boards.filter fun b => !(b.2.owned && b.2.team.toNat == no) }

theorem freeTables_eq (s : State) (no : Nat) : s.freeTables no = s.clusters.foldl (State.freeTable no) s := rfl

/-- What the giving up of an entry leaves: the entry, free, where the team had it ARMED; the scoreboards as they were. -/
theorem freeEntry_left (no cl : Nat) (s : State) (w : Nat × WaitTask) : TablesWork s (s.freeEntry no cl w) ∧
    (∀ k, ((s.freeEntry no cl w).cluster k).boards = (s.cluster k).boards) ∧
    ∀ k i, (s.freeEntry no cl w).waitEntry k i = if (w.2.state = 1 ∧ w.2.team.toNat = no) ∧ k = cl ∧ i = w.1 then
      { s.waitEntry k i with state := 0 } else s.waitEntry k i := by
  unfold State.freeEntry
  split
  · next h =>
    dsimp only
    generalize s.regionByRcb _ = r
    have hcl (k : Nat) := (answerWaits_left ((s.uncharge r 2 1).modWait cl w.1 fun e => { e with state := 0 }) cl w.1 1).2 k
    have hbeside := (answerWaits_left ((s.uncharge r 2 1).modWait cl w.1 fun e => { e with state := 0 }) cl w.1 1).1
    generalize State.answerWaits _ _ _ _ = u at hcl hbeside ⊢
    have hsame {k : Nat} (hk : k ≠ cl) : u.cluster k = s.cluster k := by
      rw [hcl, State.cluster_modCluster, if_neg hk, State.modWait, State.cluster_modCluster, if_neg hk]
      rfl
    have hself := hcl cl
    rw [State.cluster_modCluster_self, State.modWait, State.cluster_modCluster_self] at hself
    refine ⟨⟨hbeside, fun k => ?_⟩, fun k => ?_, fun k i => ?_⟩
    · by_cases hk : k = cl
      · rw [hk, hself]; rfl
      · rw [hsame hk]
    · by_cases hk : k = cl
      · rw [hk, hself]; rfl
      · rw [hsame hk]
    · by_cases hk : k = cl
      · rw [hk, State.waitEntry, hself, Sparse.get_put]
        by_cases hi : i = w.1
        · rw [if_pos hi, if_pos ⟨h, rfl, hi⟩, hi]; rfl
        · rw [if_neg hi, if_neg fun e => hi e.2.2]; rfl
      · rw [if_neg fun e => hk e.2.1, State.waitEntry, hsame hk]; rfl
  · next h => exact ⟨.refl s, fun _ => rfl, fun k i => by rw [if_neg fun e => h e.1]⟩

/-- What giving up the entries of a cluster leaves. -/
theorem freeEntries_left (no cl : Nat) (l : List (Nat × WaitTask)) (s : State) :
    TablesWork s (l.foldl (State.freeEntry no cl) s) ∧ (∀ k, ((l.foldl (State.freeEntry no cl) s).cluster k).boards = (s.cluster k).boards) := by
  refine List.foldlRecOn (motive := fun u : State => TablesWork s u ∧ ∀ k, (u.cluster k).boards = (s.cluster k).boards) l _
    ⟨.refl s, fun _ => rfl⟩ fun u hu w _ => ?_
  obtain ⟨h1, h2, -⟩ := freeEntry_left no cl u w
  exact ⟨hu.1.trans h1, fun k => (h2 k).trans (hu.2 k)⟩

theorem freeTable_work (no : Nat) (s : State) (x : Nat × Cluster) : TablesWork s (s.freeTable no x) :=
  (freeEntries_left no x.1 x.2.waits s).1.trans (tablesWork_modCluster _ _ (by exact fun _ => rfl))

theorem freeTables_work (s : State) (no : Nat) : TablesWork s (s.freeTables no) := by
  rw [freeTables_eq]
  exact tablesWork_foldl (freeTable_work no) _ s

/-- A listed entry other than the default is what its key reads as. -/
theorem Sparse.mem_of_get {α : Type} {d : α} {m : Sparse α} {k : Nat} (h : m.get d k ≠ d) : (k, m.get d k) ∈ m := by
  induction m with
  | nil => exact absurd rfl h
  | cons x m ih =>
    obtain ⟨j, v⟩ := x
    rw [Sparse.get_cons] at h ⊢
    split
    · next e => rw [e]; exact List.mem_cons_self
    · next e =>
      rw [if_neg e] at h
      exact List.mem_cons_of_mem _ (ih h)

theorem waitEntry_freeTable (no : Nat) (s : State) (x : Nat × Cluster) (k i : Nat) :
    (s.freeTable no x).waitEntry k i = (x.2.waits.foldl (State.freeEntry no x.1) s).waitEntry k i := by
  unfold State.freeTable State.waitEntry
  rw [State.cluster_modCluster]
  split
  · next h => rw [h]
  · rfl

/-- An entry that is FREE stays so. -/
theorem free_freeEntry {no cl k i : Nat} (s : State) (w : Nat × WaitTask) (h : (s.waitEntry k i).state = 0) :
    ((s.freeEntry no cl w).waitEntry k i).state = 0 := by
  rw [(freeEntry_left no cl s w).2.2]
  split
  · rfl
  · exact h

/-- R262: the ARMED entries of a team that is done are free. -/
theorem freeTables_frees {s : State} {no cl i : Nat} (hst : (s.waitEntry cl i).state = 1) (hteam : (s.waitEntry cl i).team.toNat = no) :
    ((s.freeTables no).waitEntry cl i).state = 0 := by
  have hentry : s.waitEntry cl i ≠ {} := fun e => by rw [e] at hst; exact absurd hst (by decide)
  have hcluster : s.cluster cl ≠ {} := fun e => hentry (by rw [State.waitEntry, e]; rfl)
  rw [freeTables_eq]
  refine foldl_reaches (P := fun u => (u.waitEntry cl i).state = 0) (a := (cl, s.cluster cl)) (fun u x hu => ?_) (fun u => ?_)
    (Sparse.mem_of_get hcluster) s
  · rw [waitEntry_freeTable]
    exact List.foldlRecOn (motive := fun v : State => (v.waitEntry cl i).state = 0) _ _ hu fun v hv w _ => free_freeEntry v w hv
  · rw [waitEntry_freeTable]
    refine foldl_reaches (P := fun u => (u.waitEntry cl i).state = 0) (a := (i, s.waitEntry cl i)) (fun v w hv => free_freeEntry v w hv)
      (fun v => ?_) (Sparse.mem_of_get hentry) u
    rw [(freeEntry_left no cl v _).2.2, if_pos ⟨⟨hst, hteam⟩, rfl, rfl⟩]

/-- No scoreboard of a cluster is the team's. -/
def Cluster.boardless (c : Cluster) (no : Nat) : Prop := ∀ y ∈ c.boards, ¬ (y.2.owned = true ∧ y.2.team.toNat = no)

/-- R262: no scoreboard is left to a team that is done. -/
theorem freeTables_boardless (s : State) (no cl : Nat) : ((s.freeTables no).cluster cl).boardless no := by
  have hmake (u : State) (x : Nat × Cluster) (hx : x.1 = cl) : ((u.freeTable no x).cluster cl).boardless no := by
    subst hx
    unfold State.freeTable
    rw [State.cluster_modCluster_self]
    rintro y hy ⟨ho, ht⟩
    have hkept := (List.mem_filter.1 hy).2
    simp [ho, ht] at hkept
  have hkeep (u : State) (x : Nat × Cluster) (hu : (u.cluster cl).boardless no) : ((u.freeTable no x).cluster cl).boardless no := by
    by_cases hx : x.1 = cl
    · exact hmake u x hx
    · have hb : ((u.freeTable no x).cluster cl).boards = (u.cluster cl).boards := by
        unfold State.freeTable
        rw [State.cluster_modCluster, if_neg fun e => hx e.symm]
        exact (freeEntries_left no x.1 x.2.waits u).2 cl
      unfold Cluster.boardless
      rw [hb]
      exact hu
  rw [freeTables_eq]
  by_cases hc : s.cluster cl = {}
  · refine List.foldlRecOn (motive := fun u : State => (u.cluster cl).boardless no) _ _ ?_ fun u hu x _ => hkeep u x hu
    rw [hc]
    exact fun y hy => by cases hy
  · exact foldl_reaches (P := fun u => (u.cluster cl).boardless no) hkeep (fun u => hmake u (cl, s.cluster cl) rfl)
      (Sparse.mem_of_get hc) s

/-! The cores of the team become free (R262). -/

theorem freeCores_eq (s : State) (no : Nat) (t : Team) : ∃ c, s.freeCores no t = { s with cores := c } :=
  foldl_modCore_eq _ t.cores s

theorem team_freeCores (s : State) (no : Nat) (t : Team) {k : Nat} (hk : k ∈ t.cores) : ((s.freeCores no t).core k).team = none := by
  refine foldl_reaches (P := fun u => (u.core k).team = none) (fun u j hu => ?_) (fun u => ?_) hk s
  · rw [State.core_modCore]
    split
    · rfl
    · exact hu
  · rw [State.core_modCore_self]

/-- A team that is done has left the tables and its cores. -/
def State.teamLeft (s : State) (n : Nat) (t : Team) : State :=
  ((s.freeTables n).freeCores n t).setTeam n (some { t with done := true, cores := [] })

/-- What such a team leaves. -/
structure TeamLeft (s u : State) (n : Nat) (t : Team) : Prop where
  phys    : u.phys = s.phys
  hqRun   : u.hqRun = s.hqRun
  retired : u.retired = s.retired
  place   : ∀ pa, u.place pa = s.place pa
  slices  : ∀ k, (u.cluster k).slice = (s.cluster k).slice
  team    : u.teams.get none n = some { t with done := true, cores := [] }
  teams   : ∀ k, k ≠ n → u.teams.get none k = s.teams.get none k
  cores   : ∀ k ∈ t.cores, (u.core k).team = none
  waits   : ∀ cl i, (s.waitEntry cl i).state = 1 → (s.waitEntry cl i).team.toNat = n → (u.waitEntry cl i).state = 0
  boards  : ∀ cl, (u.cluster cl).boardless n

theorem teamLeft_left (s : State) (n : Nat) (t : Team) : TeamLeft s (s.teamLeft n t) n t := by
  have hw := freeTables_work s n
  obtain ⟨c, hc⟩ := freeCores_eq (s.freeTables n) n t
  have hteams : (s.freeTables n).teams = s.teams := by have := congrArg State.teams hw.beside; exact this
  have hcores (k : Nat) (hk : k ∈ t.cores) := team_freeCores (s.freeTables n) n t hk
  unfold State.teamLeft
  rw [hc] at hcores ⊢
  refine ⟨?_, ?_, ?_, fun pa => ?_, hw.slices, ?_, fun k hk => ?_, hcores, fun cl i => freeTables_frees, freeTables_boardless s n⟩
  · have := congrArg State.phys hw.beside; exact this
  · have := congrArg State.hqRun hw.beside; exact this
  · have := congrArg State.retired hw.beside; exact this
  · have := congrArg (State.place · pa) hw.beside; exact this
  · rw [teams_setTeam, if_pos rfl]
  · rw [teams_setTeam, if_neg hk]
    exact congrArg (Sparse.get none · k) hteams

end Sys2Proof.Machine

namespace Sys2Proof.Claims

open Sys2Proof.Machine

/-- The dword stays one of plain memory when a team leaves. -/
theorem PlainWord.teamLeft {s u : State} {pa n : Nat} {t : Team} (p : PlainWord s pa) (h : TeamLeft s u n t) (hn : n ≠ 0) : PlainWord u pa := by
  have hteam : u.team 0 = none := (h.teams 0 (Ne.symm hn)).trans p.noTeam
  refine ⟨p.aligned, by simp only [h.place]; exact p.memory, by rw [h.retired]; exact p.inPlace, ?_, hteam⟩
  have hline := p.noLine
  have hhome : u.home pa = s.home pa := by rw [State.home, State.home, h.place]
  have hkey : u.lineKey 0 pa = s.lineKey 0 pa := by
    have hs := p.noTeam
    simp only [State.lineKey, hteam, hs]
  unfold State.slineAt at hline ⊢
  rw [hhome, hkey, h.slices]
  exact hline

/-- The bytes of a store stand, where no team with the number 0 shadows them. -/
theorem PlainWord.stored_of_team {s u : State} {pa : Nat} {v : W64} (p : PlainWord s pa) (hphys : u.phys = poke s.phys pa 8 v.toNat)
    (hteam : u.team 0 = none) (hretired : u.retired = s.retired) : Stored s u pa v := by
  refine ⟨fun b hb => ?_, fun x hx => by rw [hphys, get_poke, if_neg hx]⟩
  have hplace : u.retired.get 0 ((pa + b) / 65536) = 0 := by rw [hretired]; exact p.inPlace_byte hb
  simp only [State.physRead, physByte_plain hteam hplace, hphys, get_poke]
  rw [if_pos (by omega), Nat.add_sub_cancel_left, BitVec.toNat_ofNat]
  rfl

/-- What a team that has completed leaves, where its launch's store has left the bytes m. -/
structure Completed (s u : State) (n : Nat) (t : Team) (m : Sparse Byte) : Prop where
  team    : u.teams.get none n = none
  teams   : ∀ k, k ≠ n → u.teams.get none k = s.teams.get none k
  cores   : ∀ k ∈ t.cores, (u.core k).team = none
  hqRun   : u.hqRun = s.hqRun.filter fun c => !(c.queue == t.queue && c.index == t.index)
  phys    : u.phys = m
  retired : u.retired = s.retired
  waits   : ∀ cl i, ((s.cluster cl).waits.get {} i).state = 1 → ((s.cluster cl).waits.get {} i).team.toNat = n →
    ((u.cluster cl).waits.get {} i).state = 0
  boards  : ∀ cl b, ¬ (((u.cluster cl).boards.get {} b).owned = true ∧ ((u.cluster cl).boards.get {} b).team.toNat = n)

theorem completed_of_work {s v w : State} {n : Nat} {t : Team} {m : Sparse Byte} (left : TeamLeft s v n t)
    (hw : SliceWork { v with phys := m } w) : Completed s ((w.setTeam n none).dropCmd t.queue t.index) n t m := by
  have hteams : w.teams = v.teams := by have := State.besideSlices_teams hw.beside; exact this
  have hcores : w.cores = v.cores := by have := State.besideSlices_cores hw.beside; exact this
  refine ⟨?_, fun k hk => ?_, fun k hk => ?_, ?_, State.besideSlices_phys hw.beside, ?_, fun cl i h1 h2 => ?_, fun cl b => ?_⟩
  · exact (teams_setTeam w n none n).trans (if_pos rfl)
  · exact ((teams_setTeam w n none k).trans (if_neg hk)).trans (hteams ▸ left.teams k hk)
  · change (w.core k).team = none
    rw [State.core, hcores]
    exact left.cores k hk
  · have hrun : w.hqRun = v.hqRun := by have := congrArg State.hqRun hw.beside; exact this
    change w.hqRun.filter _ = _
    rw [hrun, left.hqRun]
  · exact (State.besideSlices_retired hw.beside).trans left.retired
  · have hwaits : (w.cluster cl).waits = (v.cluster cl).waits := by have := congrArg Cluster.waits (hw.clusters cl); exact this
    change ((w.cluster cl).waits.get {} i).state = 0
    rw [hwaits]
    exact left.waits cl i h1 h2
  · have hboards : (w.cluster cl).boards = (v.cluster cl).boards := by have := congrArg Cluster.boards (hw.clusters cl); exact this
    change ¬ (((w.cluster cl).boards.get {} b).owned = true ∧ ((w.cluster cl).boards.get {} b).team.toNat = n)
    rw [hboards]
    exact Sparse.get_of_forall (P := fun x : Board => ¬ (x.owned = true ∧ x.team.toNat = n)) (left.boards cl)
      (fun e => Bool.noConfusion e.1) b

theorem teamCompletion_lone {s : State} {n : Nat} {t : Team} (ht : s.teams.get none n = some t) (hd : s.teamDone n t = true)
    (hp : t.partner = none) : execTeamCompletion n s = .next ((s.teamLeft n t).launchDone n) := by
  simp only [execTeamCompletion, ht, hd, Bool.not_true, Bool.false_eq_true, if_false]
  split
  · rfl
  · next p h => rw [hp] at h; cases h

theorem launchDone_teamLeft (s : State) (n : Nat) (t : Team) : (s.teamLeft n t).launchDone n =
    ((if t.caddr = 0 then s.teamLeft n t else (s.teamLeft n t).hostStore t.caddr.toNat t.cval).setTeam n none).dropCmd t.queue t.index := by
  unfold State.launchDone
  rw [(teamLeft_left s n t).team]

theorem completion : Completion := by
  intro s n t ht
  refine ⟨fun hd => ?_, fun hd hn hp hplain => ?_⟩
  · simp only [exec_teamCompletion, execTeamCompletion, ht, hd, Bool.not_false, if_true]
  · have left := teamLeft_left s n t
    have hrun := teamCompletion_lone ht hd hp
    rw [launchDone_teamLeft] at hrun
    by_cases h0 : t.caddr = 0
    · rw [if_pos h0] at hrun
      have done := completed_of_work (m := (s.teamLeft n t).phys) left (.refl _)
      exact ⟨_, hrun, done.team, done.cores, done.hqRun, fun _ => done.phys.trans left.phys, fun h => absurd h0 h, done.waits, done.boards⟩
    · rw [if_neg h0] at hrun
      have p := hplain.resolve_left h0
      have hne : n ≠ 0 := fun e => by rw [e] at ht; exact absurd (ht.symm.trans p.noTeam) (by simp)
      have done := completed_of_work left ((p.teamLeft left hne).hostStore_work t.cval)
      refine ⟨_, hrun, done.team, done.cores, done.hqRun, fun h => absurd h h0, fun _ => ?_, done.waits, done.boards⟩
      exact p.stored_of_team (done.phys.trans (by rw [left.phys])) ((done.teams 0 hne.symm).trans p.noTeam) done.retired

end Sys2Proof.Claims
end
section
/-!
PROOFS. Loading and seeds of a team's cores (O52).
-/

namespace Sys2Proof.Machine

/-! Reads of virtual memory (R192). -/

/-- A read leaves the cores, the teams and the bytes of memory as they are. -/
structure ReadAlone (s u : State) : Prop where
  cores : u.cores = s.cores
  teams : u.teams = s.teams
  phys  : u.phys = s.phys

theorem ReadAlone.trans {s u v : State} (h : ReadAlone s u) (g : ReadAlone u v) : ReadAlone s v :=
  ⟨g.cores.trans h.cores, g.teams.trans h.teams, g.phys.trans h.phys⟩

theorem read_of_besideSlices {s u : State} (h : u.besideSlices = s.besideSlices) : ReadAlone s u :=
  ⟨State.besideSlices_cores h, State.besideSlices_teams h, State.besideSlices_phys h⟩

theorem read_virtBytes (r : Region) (fuel : Nat) (s : State) (va n : Nat) : ReadAlone s (s.virtBytes r fuel va n).2 := by
  induction fuel generalizing s va n with
  | zero => exact ⟨rfl, rfl, rfl⟩
  | succ fuel ih =>
    unfold State.virtBytes
    split
    · exact ⟨rfl, rfl, rfl⟩
    · dsimp only
      refine .trans ?_ (ih ..)
      split
      · exact read_of_besideSlices (besideSlices_correct ..)
      · exact ⟨rfl, rfl, rfl⟩

/-! Bytes of local memory. -/

theorem holdsBytes_poke (m : Sparse Byte) (a n v : Nat) : Claims.HoldsBytes (fun x => peek (poke m a n v) x 1) a n v := by
  intro b hb
  simp only [peek, get_poke, if_pos (show a ≤ a + b ∧ a + b < a + n by omega), Nat.add_sub_cancel_left, BitVec.toNat_ofNat]
  rfl

theorem holdsBytes_poke_out {m : Sparse Byte} {a n v b k w : Nat} (h : Claims.HoldsBytes (fun x => peek m x 1) a n v) (hout : a + n ≤ b) :
    Claims.HoldsBytes (fun x => peek (poke m b k w) x 1) a n v := fun j hj =>
  (peek_poke_out m w (by omega)).trans (h j hj)

/-- R261: the image of a new team in a core's local memory. -/
structure Loaded (s u : State) (t : Team) (k : Nat) (code data : Nat) : Prop where
  mem     : (u.core k).mem = poke (poke (s.core k).mem 0 t.code.2 code) t.exb.toNat t.data.2 data
  exb     : (u.core k).exb = t.exb
  ovh     : (u.core k).ovh = t.ovh &&& 0x7FFFC
  full    : (u.core k).empty = []
  stopped : (u.core k).stopped = false
  vcore   : (u.core k).vcore = (s.core k).vcore
  teams   : u.teams = s.teams
  phys    : u.phys = s.phys

theorem core_localWrite_mem (s : State) (k a n v : Nat) : ((s.localWrite k a n v).core k).mem = poke (s.core k).mem a n v := by
  rw [State.localWrite, State.core_modCore_self]

theorem core_localWrite_vcore (s : State) (k a n v : Nat) : ((s.localWrite k a n v).core k).vcore = (s.core k).vcore := by
  rw [State.localWrite, State.core_modCore_self]

/-- The sections have been written: the errors that they cover, EXB, OVH and the granules follow. -/
def State.imageReady (s : State) (t : Team) (k : Nat) : State :=
  { s with localErrs := clearErrs (clearErrs s.localErrs (localErrBase k) 0 t.code.2) (localErrBase k) t.exb.toNat t.data.2 }.modCore k
    fun c => { c with empty := [], exb := t.exb, ovh := t.ovh &&& ovhMask, stopped := false }

theorem core_imageReady (s : State) (t : Team) (k : Nat) : (s.imageReady t k).core k =
    { s.core k with empty := [], exb := t.exb, ovh := t.ovh &&& 0x7FFFC, stopped := false } :=
  State.core_modCore_self ..

theorem loaded_loadImage (s : State) (t : Team) (k : Nat) :
    let code := s.virtBytes t.region (t.code.2 / 64 + 2) (t.image.toNat + t.code.1) t.code.2
    let data := code.2.virtBytes t.region (t.data.2 / 64 + 2) (t.image.toNat + t.data.1) t.data.2
    Loaded s (s.loadImage t k) t k code.1 data.1 := by
  intro code data
  have hread : ReadAlone s data.2 := (read_virtBytes ..).trans (read_virtBytes ..)
  have hcore : data.2.core k = s.core k := by rw [State.core, State.core, hread.cores]
  have heq : s.loadImage t k = ((data.2.localWrite k 0 t.code.2 code.1).localWrite k t.exb.toNat t.data.2 data.1).imageReady t k := rfl
  rw [heq]
  constructor
  case mem => rw [core_imageReady, core_localWrite_mem, core_localWrite_mem, hcore]
  case vcore => rw [core_imageReady, core_localWrite_vcore, core_localWrite_vcore, hcore]
  case teams => exact hread.teams
  case phys => exact hread.phys
  all_goals rw [core_imageReady]

/-! The contexts of the team (R154, R261). -/

/-- Slots have been reserved, and messages have left: beside its slots no core differs. -/
structure Reserved (s u : State) : Prop where
  cores  : ∀ k, { u.core k with slots := [] } = { s.core k with slots := [] }
  teams  : u.teams = s.teams
  phys   : u.phys = s.phys
  agenda : ∀ e ∈ s.agenda, e ∈ u.agenda

theorem Reserved.trans {s u v : State} (h : Reserved s u) (g : Reserved u v) : Reserved s v :=
  ⟨fun k => (g.cores k).trans (h.cores k), g.teams.trans h.teams, g.phys.trans h.phys, fun e he => g.agenda e (h.agenda e he)⟩

theorem reserved_self (s : State) : Reserved s s := ⟨fun _ => rfl, rfl, rfl, fun _ h => h⟩

theorem reserved_bindSlot (s : State) (t : Tid) (c : Ctx) (k : Task) (e : BindEnd) : Reserved s (s.bindSlot t c k e) ∧
    ∃ p ∈ (s.bindSlot t c k e).agenda, p.ev = .act (.bind t c k e) := by
  have hslot : Reserved s (s.modSlot t fun x => { x with reserved := true }) := by
    refine ⟨fun j => ?_, rfl, rfl, fun _ h => h⟩
    rw [State.core_modSlot]
    split
    · next h => rw [h]; rfl
    · rfl
  have hsched (u : State) (due phase : Nat) (ev : Ev) : Reserved u (u.sched due phase ev) :=
    ⟨fun _ => rfl, rfl, rfl, fun _ h => (State.mem_sched ..).2 (.inr h)⟩
  unfold State.bindSlot
  dsimp only
  split
  · exact ⟨hslot.trans ((hsched ..).trans (hsched ..)), _, (State.mem_sched ..).2 (.inl rfl), rfl⟩
  · exact ⟨hslot.trans (hsched ..), _, (State.mem_sched ..).2 (.inl rfl), rfl⟩

/-- The binding of a context, and of its partner where the team is paired. -/
theorem reserved_bindPair (s : State) (paired : Bool) (t u : Tid) (c d : Ctx) (k : Task) :
    Reserved s (if paired then (s.bindSlot t c k .fresh).bindSlot u d k .fresh else s.bindSlot t c k .fresh) ∧
    ∃ p ∈ (if paired then (s.bindSlot t c k .fresh).bindSlot u d k .fresh else s.bindSlot t c k .fresh).agenda,
      p.ev = .act (.bind t c k .fresh) := by
  obtain ⟨h1, e, he, hev⟩ := reserved_bindSlot s t c k .fresh
  split
  · have h2 := (reserved_bindSlot (s.bindSlot t c k .fresh) u d k .fresh).1
    exact ⟨h1.trans h2, e, h2.agenda e he, hev⟩
  · exact ⟨h1, e, he, hev⟩

/-- A new context has the pc and the seeds that it is given. -/
theorem newCtx_seeded (s : State) (r : Region) (core slot : Nat) (pc : W64) (priv trail : Bool) (a b c d : W64) :
    let x := s.newCtx r core slot pc priv trail [(1, a), (2, b), (3, c), (4, d)]
    x.pc = pc ∧ x.rg 1 = a ∧ x.rg 2 = b ∧ x.rg 3 = c ∧ x.rg 4 = d := by
  simp [State.newCtx, Ctx.rg_wg]

/-- A context of the team is on its way to slot j of core k. -/
def State.seeds (s : State) (t : Team) (k j : Nat) (v : BitVec 11) : Prop :=
  ∃ e ∈ s.agenda, ∃ c task, e.ev = .act (.bind ⟨k, j⟩ c task .fresh) ∧ c.pc = t.seedPc ∧ c.rg 1 = v.zeroExtend 64 ∧
    c.rg 2 = BitVec.ofNat 64 j ∧ c.rg 3 = t.arg ∧ c.rg 4 = BitVec.ofNat 64 (t.n * t.quota)

theorem Reserved.seeds {s u : State} (h : Reserved s u) {t : Team} {k j : Nat} {v : BitVec 11} (hs : s.seeds t k j v) : u.seeds t k j v := by
  obtain ⟨e, he, hx⟩ := hs
  exact ⟨e, h.agenda e he, hx⟩

theorem seedContexts_seeds (s : State) (no : Nat) (t : Team) (k : Nat) : Reserved s (s.seedContexts no t k) ∧
    ∀ j, j < t.quota → (s.seedContexts no t k).seeds t k j (s.core k).vcore := by
  unfold State.seedContexts
  dsimp only
  generalize (s.core k).vcore = v
  refine ⟨List.foldlRecOn (motive := fun u : State => Reserved s u) _ _ (reserved_self s) fun u hu j _ => ?_, fun j hj => ?_⟩
  · exact hu.trans (reserved_bindPair ..).1
  · refine foldl_reaches (P := fun u => u.seeds t k j v) (a := j) (fun u i hu => ?_) (fun u => ?_) (List.mem_range.2 hj) s
    · exact (reserved_bindPair ..).1.seeds hu
    · obtain ⟨e, he, hev⟩ := (reserved_bindPair u t.paired ⟨k, j⟩ ⟨k, j + 8⟩
        (u.newCtx t.region k j t.seedPc (t.priv && t.region.privb) false
          [(1, v.zeroExtend 64), (2, BitVec.ofNat 64 j), (3, t.arg), (4, BitVec.ofNat 64 (t.n * t.quota))])
        (u.newCtx t.region k (j + 8) t.seedPc (t.priv && t.region.privb) true
          [(1, v.zeroExtend 64), (2, BitVec.ofNat 64 j), (3, t.arg), (4, BitVec.ofNat 64 (t.n * t.quota))]) _).2
      exact ⟨e, he, _, _, hev, newCtx_seeded ..⟩

/-- R154, R261: the last load write of a core of a new team. -/
theorem seedBinding_fresh {s : State} {n k : Nat} {t : Team} (ht : s.teams.get none n = some t) (hst : t.st = .loading) (hk : k ∈ t.cores)
    (hr : t.reset = false) (hh : t.held = []) (hg : (s.core k).gate = .powered) :
    execSeedBinding n k s = .next (((s.loadImage t k).seedContexts n t k).setTeam n (some { t with
      seeded := t.seeded + 1, st := if t.cores.length ≤ t.seeded + 1 then .placed else .loading
      held := if t.cores.length ≤ t.seeded + 1 then [] else t.held })) := by
  have hteams : ((s.loadImage t k).seedContexts n t k).teams = s.teams :=
    (seedContexts_seeds (s.loadImage t k) n t k).1.teams.trans (loaded_loadImage s t k).teams
  have hcond : ¬ (t.st ≠ .loading ∨ !t.cores.contains k ∨ t.reset) := by simp [hst, hk, hr]
  have hheld : t.held.isEmpty = true := by rw [hh]; rfl
  unfold execSeedBinding
  simp only [ht]
  rw [if_neg hcond, if_neg (Classical.not_not.2 hg), if_pos hheld, hteams, ht]

end Sys2Proof.Machine

namespace Sys2Proof.Claims

open Sys2Proof.Machine

theorem seeds : Seeds := by
  intro s n k t ht hst hk hr hh hg code data
  have hrun := seedBinding_fresh ht hst hk hr hh hg
  obtain ⟨hres, hseeds⟩ := seedContexts_seeds (s.loadImage t k) n t k
  have hload := loaded_loadImage s t k
  generalize (s.loadImage t k).seedContexts n t k = u at hrun hres hseeds
  generalize s.loadImage t k = v at hload hres hseeds
  have hcore := hres.cores k
  have hmem : (u.core k).mem = poke (poke (s.core k).mem 0 t.code.2 code.1) t.exb.toNat t.data.2 data.1 := by
    have := congrArg Core.mem hcore; exact this.trans hload.mem
  have hlocal (w : State) (x : Option Team) : (fun a => (w.setTeam n x).localRead k a 1) = fun a => peek (w.core k).mem a 1 := rfl
  refine ⟨_, (exec_seedBinding s).trans hrun, fun hcode => ?_, ?_, ?_, ?_, ?_, ?_, hres.phys.trans hload.phys, fun j hj => ?_, _,
    (teams_setTeam ..).trans (if_pos rfl), rfl, rfl⟩
  · rw [hlocal, hmem]
    exact holdsBytes_poke_out (holdsBytes_poke _ _ _ _) (by omega)
  · rw [hlocal, hmem]
    exact holdsBytes_poke _ _ _ _
  · have := congrArg Core.exb hcore; exact this.trans hload.exb
  · have := congrArg Core.ovh hcore; exact this.trans hload.ovh
  · have := congrArg Core.empty hcore; exact this.trans hload.full
  · have := congrArg Core.stopped hcore; exact this.trans hload.stopped
  · have h := hseeds j hj
    rw [hload.vcore] at h
    exact h

end Sys2Proof.Claims

open Sys2Proof.Claims

/-- Settles O52: what wakes, messages, reads and the work of home slices leave alone is said once each, and the placement,
loading, completion and swap of a team go core by core through them. -/
theorem teams : Obligations.Teams := ⟨placement, seeds, completion, drains, swaps⟩
end
section
/-!
PROOFS. Host commands 0x10 to 0x19 (O53): the counterexample.

A SLOTLOAD reads its tables at the address that it names, and that may lie in the debug window of a core (R364). A read of
the window wakes the core (R361): where the core enters gating, the wake is latched in it, so that the cores are not what
they were.
-/

namespace Sys2Proof.Machine

/-- A SLOTLOAD for tenant 1, without CADDR, whose tables start in the debug window of core 0. -/
def windowLoad : HCmd := { queue := 1, index := 0, entry := BitVec.ofNat 512 (0xF0040000000 * 2 ^ 64 + 2 ^ 38), kind := 0x18 }

/-- The command has started; tenant 1 has the sub-mesh of cluster 0, and core 0 enters gating. -/
def gatingCore : State :=
  { State.reset.setCore 0 { gate := .entering 0 false } with
    hqRun := [windowLoad], meshes := [(1, { formed := true, rows := 1, cols := 1 })] }

/-- The command leaves the wake latched in core 0. -/
theorem windowLoad_wakes : (match exec (.slotload 1 0) gatingCore with
    | .next t => (t.core 0).gate == .entering 0 true
    | _ => false) = true := by decide +kernel

/-- A command without CADDR ends without a store. -/
theorem cores_complete_of_caddr {c : HCmd} (h : c.caddr = 0) (s : State) (st : Status) : (s.complete c st).cores = s.cores := by
  unfold State.complete
  rw [if_pos h]
  rfl

end Sys2Proof.Machine

open Sys2Proof.Machine

/-- Refutes O53: a SLOTLOAD that reads its tables in the debug window of a core that enters gating wakes the core. -/
theorem not_boundaryCommands : ¬ Obligations.BoundaryCommands := by
  rintro ⟨-, -, -, -, -, -, hslotloads, -, -⟩
  obtain ⟨-, -, -, hloads⟩ := hslotloads gatingCore 1 0 windowLoad (by decide +kernel)
  have hidle : ¬ ∃ x ∈ gatingCore.teams, ∃ u, x.2 = some u ∧ u.st.placed' = true ∧
      u.region.tenant.toNat = (windowLoad.entry.extractLsb' 38 6).toNat := by
    rintro ⟨x, hx, -⟩
    cases hx
  obtain ⟨u, hrun, -, hcores, -, -⟩ := hloads (by decide +kernel) (by decide +kernel) hidle (.inl (by decide +kernel))
  have hgate := windowLoad_wakes
  rw [hrun] at hgate
  have hcore : (u.complete windowLoad .done).core 0 = gatingCore.core 0 := by
    rw [State.core, State.core, cores_complete_of_caddr (by decide +kernel), hcores]
  change (((u.complete windowLoad .done).core 0).gate == .entering 0 true) = true at hgate
  rw [hcore] at hgate
  exact absurd hgate (by decide +kernel)
end
section
/-!
PROOFS. Local stores that commit (O16), and what acquires, acknowledgements and revokes leave (O24).
-/

namespace Sys2Proof.Machine

theorem countStore_core (s : State) (t : Tid) (k : Nat) : ((s.countStore t).core k).mem = (s.core k).mem ∧
    ((s.countStore t).core k).empty = (s.core k).empty := by
  unfold State.countStore State.modCtx
  split
  · exact ⟨rfl, rfl⟩
  · rw [State.core_modSlot]
    split <;> exact ⟨rfl, rfl⟩

/-- R323: a store that counts changes the registers of no thread. -/
theorem countStore_ctx (s : State) (t v : Tid) : ((s.countStore t).ctx v).g = (s.ctx v).g ∧
    ((s.countStore t).ctx v).k = (s.ctx v).k ∧ ((s.countStore t).ctx v).v = (s.ctx v).v ∧
    ((s.countStore t).ctx v).pc = (s.ctx v).pc := by
  unfold State.countStore
  split
  · exact ⟨rfl, rfl, rfl, rfl⟩
  · rw [State.ctx_modCtx]
    split
    · next h => subst h; exact ⟨rfl, rfl, rfl, rfl⟩
    · exact ⟨rfl, rfl, rfl, rfl⟩

/-- What lies outside the cores and slots. -/
theorem countStore_beside (s : State) (t : Tid) : (s.countStore t).phys = s.phys ∧ (s.countStore t).teams = s.teams ∧
    (s.countStore t).retired = s.retired ∧ (s.countStore t).clusters = s.clusters ∧ (s.countStore t).agenda = s.agenda := by
  unfold State.countStore
  split <;> exact ⟨rfl, rfl, rfl, rfl, rfl⟩

theorem physByte_of_beside {s t : State} (hphys : t.phys = s.phys) (hteams : t.teams = s.teams) (hretired : t.retired = s.retired)
    (team : BitVec 16) (pa : Nat) : t.physByte team pa = s.physByte team pa := by
  unfold State.physByte State.team State.mapped
  rw [hphys, hteams, hretired]

theorem localRead_localWrite_out (s : State) (c k a n v x : Nat) (h : ¬ (k = c ∧ a ≤ x ∧ x < a + n)) :
    (s.localWrite c a n v).localRead k x 1 = s.localRead k x 1 := by
  unfold State.localRead
  by_cases hk : k = c
  · subst hk
    rw [core_localWrite_mem, peek_poke_out _ _ (by omega)]
  · rw [State.localWrite, State.core_modCore, if_neg hk]

theorem core_localWrite_empty (s : State) (c k a n v : Nat) : ((s.localWrite c a n v).core k).empty = (s.core k).empty := by
  rw [State.localWrite, State.core_modCore]
  split
  · next h => rw [h]
  · rfl

theorem ctx_localWrite (s : State) (c a n v : Nat) (u : Tid) : (s.localWrite c a n v).ctx u = s.ctx u := by
  unfold State.ctx
  rw [State.localWrite, State.slot_modCore]
  split
  · next h => subst h; rfl
  · rfl

/-- R210: the words that a full acquire leaves valid in a line. -/
def Core.acquireLine (c : Core) (l : L1Line) : L1Line := { l with val := if c.keeps l.tag then l.val else l.val &&& l.own }

theorem l1_acquire_all (c : Core) : (c.acquire fun _ => true).l1 = c.l1.map c.acquireLine := by
  unfold Core.acquire
  refine List.map_congr_left fun l _ => ?_
  unfold Core.acquireLine
  cases c.keeps l.tag <;> rfl

end Sys2Proof.Machine

namespace Sys2Proof.Claims

open Sys2Proof.Machine

theorem acquireDrops : AcquireDrops := by
  intro s k slot
  refine ⟨s.modCore k (·.acquire fun _ => true), rfl, ?_⟩
  rw [State.core_modCore_self, l1_acquire_all]
  refine ⟨List.length_map .., fun j l hl => ?_, fun j hj => ?_, rfl, rfl, rfl, rfl⟩
  · rw [List.getElem?_map, hl]
    rfl
  · rw [State.core_modCore, if_neg hj]

theorem ackAndRevoke : AckAndRevoke := by
  intro s k
  constructor
  · intro id
    refine ⟨s.dropOut k id, rfl, ?_⟩
    unfold State.dropOut
    rw [State.core_modCore_self]
    refine ⟨fun o => by simp, rfl, rfl, fun j hj => ?_, rfl, rfl⟩
    rw [State.core_modCore, if_neg hj]
  · intro line words
    refine ⟨s.modCore k fun c => c.l1Map line fun l => { l with own := l.own &&& ~~~words, val := l.val &&& ~~~words }, rfl, ?_⟩
    rw [State.core_modCore_self]
    refine ⟨fun j l hl => ?_, rfl, rfl, fun j hj => ?_, rfl, rfl⟩
    · rw [Core.l1Map, List.getElem?_map, hl]
      rfl
    · rw [State.core_modCore, if_neg hj]

end Sys2Proof.Claims

open Sys2Proof.Machine Sys2Proof.Claims

/-- Settles O16: the write of local memory is a `poke` of one core, and what follows it, the errors that it clears and its
count in the containment entries, lies beside the bytes, the FULL bits and the registers. -/
theorem localStoreCommits : Obligations.LocalStoreCommits := by
  intro s t a n data
  let w : State := { s.localWrite t.core a n data with localErrs := clearErrs s.localErrs (localErrBase t.core) a n }
  obtain ⟨hphys, hteams, hretired, hclusters, hagenda⟩ := countStore_beside w t
  have hread (k x : Nat) : (w.countStore t).localRead k x 1 = (s.localWrite t.core a n data).localRead k x 1 := by
    unfold State.localRead
    rw [(countStore_core w t k).1]
    rfl
  refine ⟨w.countStore t, rfl, ?_, fun k x h => ?_, fun team pa => ?_, hclusters, fun k => ?_, fun v => ?_, hagenda⟩
  · intro b hb
    dsimp only
    rw [hread, State.localRead, core_localWrite_mem]
    exact holdsBytes_poke _ a n data b hb
  · rw [hread, localRead_localWrite_out s t.core k a n data x h]
  · exact physByte_of_beside hphys hteams hretired team pa
  · rw [(countStore_core w t k).2]
    exact core_localWrite_empty ..
  · rw [← ctx_localWrite s t.core a n data v]
    exact countStore_ctx w t v

/-- Settles O24: an acquire and a revoke map the L1's lines, an acknowledgement filters the outstanding accesses. -/
theorem orderEvents : Obligations.OrderEvents := ⟨acquireDrops, ackAndRevoke⟩
end
section
/-!
PROOFS. Loads, stores and atomics of virtual memory at their issue (O18, O19), and LDC and STC (O23).

What an access reads at its issue, the translations, the L1's lines and the checks of R316, is what an issue leaves alone:
the lemmas over `Worked` say so once each.
-/

namespace Sys2Proof.Machine

section
variable {s t : State} {c : Ctx}

theorem Worked.coreTlb (w : Worked s t c) (k : Nat) : (t.core k).tlb = (s.core k).tlb := by
  have := congrArg Core.tlb (w.cores k); exact this
theorem Worked.corePart (w : Worked s t c) (k : Nat) : (t.core k).part = (s.core k).part := by
  have := congrArg Core.part (w.cores k); exact this

theorem Worked.l1Load (w : Worked s t c) (k pa n : Nat) : (t.core k).l1Load pa n = (s.core k).l1Load pa n := by
  have := congrArg (fun x : Core => x.l1Load pa n) (w.cores k); exact this
theorem Worked.l1Err (w : Worked s t c) (k pa n : Nat) : t.l1Err k pa n = s.l1Err k pa n := by
  have := congrArg (fun x : State => x.l1Err k pa n) w.rest; exact this
theorem Worked.far (w : Worked s t c) (k pa : Nat) : t.far k pa = s.far k pa := by
  have := congrArg (fun x : State => x.far k pa) w.rest; exact this

theorem Worked.bind (w : Worked s t c) (u : Tid) : (t.slot u).bind = (s.slot u).bind := by
  have := congrArg Slot.bind (w.slot_rest u); exact this

theorem Worked.ldns (w : Worked s t c) (u : Tid) : (t.slot u).ldns = (s.slot u).ldns := by
  have := congrArg Slot.ldns (w.slot_rest u); exact this

/-- R316: what the checks of a translated access read. -/
theorem Worked.checkLeaf (w : Worked s t c) (r : Region) (priv : Bool) (x : Ctx) (mode : AccMode) (va pa n : Nat) (leaf : W64) :
    t.checkLeaf r priv x mode va pa n leaf = s.checkLeaf r priv x mode va pa n leaf := by
  have := congrArg (fun y : State => y.checkLeaf r priv x mode va pa n leaf) w.rest; exact this

theorem Worked.resolve (w : Worked s t (s.ctx s.cur)) {a : Acc} (ha : a.tid = s.cur) (e : Tlb) : t.resolve a e = s.resolve a e := by
  simp only [State.resolve, w.checkLeaf, w.regionOf, ha, w.ctx]

theorem newAcc_eq (s : State) (h : Hdr) (kind : AccKind) (q : Qual) (va n : Nat) (dst : Dst) (wc : BitVec 2) (d d2 : Nat) :
    s.newAcc h kind q va n dst wc d d2 =
      ({ id := s.fresh, tid := s.cur, bind := (s.slot s.cur).bind, pc := (s.ctx s.cur).pc, len := bytesOf h, kind := kind,
         qual := q, va := va, pa := va, n := n, data := d, data2 := d2, dst := dst, wc := wc, issue := s.now,
         priv := (s.ctx s.cur).priv, pasid := (s.ctx s.cur).pasid, tenant := (s.ctx s.cur).tenant }, s.newId.2) := rfl

section
variable {h : Hdr} {kind : AccKind} {q : Qual} {va n : Nat} {dst : Dst} {wc : BitVec 2} {d d2 : Nat} {a : Acc} {s' : State}
  (hacc : s.newAcc h kind q va n dst wc d d2 = (a, s'))
include hacc

theorem state_of_newAcc : s.newId.2 = s' := congrArg Prod.snd hacc
theorem tid_of_newAcc : a.tid = s.cur := (congrArg (fun p : Acc × State => p.1.tid) hacc).symm
theorem cur_of_newAcc : s'.cur = s.cur := (congrArg (fun p : Acc × State => p.2.cur) hacc).symm
theorem va_of_newAcc : a.va = va := (congrArg (fun p : Acc × State => p.1.va) hacc).symm
theorem n_of_newAcc : a.n = n := (congrArg (fun p : Acc × State => p.1.n) hacc).symm
theorem kind_of_newAcc : a.kind = kind := (congrArg (fun p : Acc × State => p.1.kind) hacc).symm

end

/-- The access of an issuing instruction is made from what its issue leaves alone. -/
theorem Worked.newAcc (w : Worked s t (s.ctx s.cur)) (h : Hdr) (kind : AccKind) (q : Qual) (va n : Nat) (dst : Dst)
    (wc : BitVec 2) (d d2 : Nat) : t.newAcc h kind q va n dst wc d d2 = ((s.newAcc h kind q va n dst wc d d2).1, t.newId.2) := by
  have hfresh : t.fresh = s.fresh := w.newId.1
  rw [newAcc_eq, newAcc_eq, w.cur, hfresh, w.bind, w.ctx, w.now]

/-! The same request leaves. -/

theorem Worked.addOut (w : Worked s t c) (k : Nat) (o : Out) : Worked (s.addOut k o) (t.addOut k o) c :=
  w.modCore k _ (fun _ => rfl) fun x y h => by
    have := congrArg (fun z : Core => { z with outs := (z.outs.filter fun p : Out => p.id ≠ o.id) ++ [o] }) h
    exact this

theorem Worked.l1Touch (w : Worked s t c) (k line : Nat) : Worked (s.modCore k (·.l1Touch line)) (t.modCore k (·.l1Touch line)) c :=
  w.modCoreRest k (·.l1Touch line) (fun _ => rfl) fun _ => rfl

/-- A counter of the same core counts in both. -/
theorem Worked.countBoth (w : Worked s t c) (k n j : Nat) : Worked (s.count k n j) (t.count k n j) c :=
  w.modCore k _ (by exact fun _ => rfl) (by exact fun _ _ h => h)

theorem Worked.missTlb (w : Worked s t c) (a : Acc) : Worked (s.missTlb a) (t.missTlb a) c := by
  unfold State.missTlb State.runAt
  rw [w.now]
  exact (w.countBoth ..).sched ..

theorem Worked.fetchLine (w : Worked s t c) (a : Acc) (base : Nat) : Worked (s.fetchLine a base) (t.fetchLine a base) c := by
  unfold State.fetchLine State.arriveAt
  dsimp only
  split
  · rw [w.far]
    exact w.sched ..
  · have wf : Worked ((s.count a.tid.core 14).modCore a.tid.core fun c => { c with fills := c.fills ++ [⟨a.id, a.pa / 64, []⟩] })
        ((t.count a.tid.core 14).modCore a.tid.core fun c => { c with fills := c.fills ++ [⟨a.id, a.pa / 64, []⟩] }) c :=
      (w.countBoth ..).modCoreRest _ _ (fun _ => rfl) fun _ => rfl
    rw [wf.far]
    exact wf.sched ..

theorem ctx_addOut (s : State) (k : Nat) (o : Out) (u : Tid) : (s.addOut k o).ctx u = s.ctx u :=
  State.ctx_modCore_of_slots s k _ (by exact fun _ => rfl) u

theorem ctx_count (s : State) (k n j : Nat) (u : Tid) : (s.count k n j).ctx u = s.ctx u :=
  State.ctx_modCore_of_slots s k _ (by exact fun _ => rfl) u

theorem ctx_missTlb (s : State) (a : Acc) (u : Tid) : (s.missTlb a).ctx u = s.ctx u := ctx_count ..

theorem missTlb_cur (s : State) (a : Acc) : (s.missTlb a).cur = s.cur := rfl

theorem ctx_fetchLine (s : State) (a : Acc) (base : Nat) (u : Tid) : (s.fetchLine a base).ctx u = s.ctx u := by
  unfold State.fetchLine State.arriveAt
  rw [State.ctx_sched]
  split
  · rfl
  · rw [State.ctx_modCore_of_slots _ _ _ (by exact fun _ => rfl), ctx_count]

theorem fetchLine_cur (s : State) (a : Acc) (base : Nat) : (s.fetchLine a base).cur = s.cur := by
  unfold State.fetchLine
  split <;> rfl

theorem fixL1_of_clean {s : State} {k pa n : Nat} (h : s.l1Err k pa n = .clean) : s.fixL1 k pa n = s := by
  have hfix := fixErrs_of_clean (e := s.l1Errs) (base := l1ErrBase k) (a := pa) (n := n) h
  simp only [State.fixL1, hfix, if_true]

theorem emit_of_unpaired {s : State} {u : Tid} (hp : (s.ctx u).paired = false) (delay : Nat) (words : List Nat) (addr : W64)
    (store : Bool) (a : Act) : s.emit u delay words addr store a = s.actAt (s.now + delay) a := by
  simp [State.emit, hp]

end

end Sys2Proof.Machine
end
section
namespace Sys2Proof.Machine

/-- Two bodies that agree on the state that the effect starts from issue alike. -/
theorem issue_congr {h : Hdr} {uses : List Use} {s : State} {kpriv vec resv stepped : Bool} {body body' : Bool → State → Step1}
    (hi : Issues h uses s kpriv vec stepped) (hb : body true (s.begun h uses stepped) = body' true (s.begun h uses stepped)) :
    issue h uses body s kpriv vec resv stepped = issue h uses body' s kpriv vec resv stepped := by
  rw [issue_passes resv hi, issue_passes resv hi, hb]

end Sys2Proof.Machine

namespace Sys2Proof.Claims

open Sys2Proof.Machine

/-! What the first-level TLB says (R317). -/

section
variable {s b : State} {a : Acc} (w : Worked s.newId.2 b (s.ctx s.cur)) (ha : a.tid = s.cur)
include w ha

/-- The state that goes on with an access finds what `look` found. -/
theorem look_of_worked : look s a = match findTlb (b.core s.cur.core).tlb a.pasid a.va with
    | none => .miss
    | some e => match b.resolve a e with
      | .error f => .fault f
      | .ok pa => .hit pa := by
  simp only [w.coreTlb, w.resolve ha]
  rfl

theorem findTlb_of_miss (hl : look s a = .miss) : findTlb (b.core s.cur.core).tlb a.pasid a.va = none := by
  rw [look_of_worked w ha] at hl
  split at hl
  · next h => exact h
  · split at hl <;> cases hl

theorem findTlb_of_fault {f : Flt} (hl : look s a = .fault f) :
    ∃ e, findTlb (b.core s.cur.core).tlb a.pasid a.va = some e ∧ b.resolve a e = .error f := by
  rw [look_of_worked w ha] at hl
  split at hl
  · cases hl
  · next e he =>
    split at hl
    · next f' hf => cases hl; exact ⟨e, he, hf⟩
    · cases hl

theorem findTlb_of_hit {pa : Nat} (hl : look s a = .hit pa) :
    ∃ e, findTlb (b.core s.cur.core).tlb a.pasid a.va = some e ∧ b.resolve a e = .ok pa := by
  rw [look_of_worked w ha] at hl
  split at hl
  · cases hl
  · next e he =>
    split at hl
    · cases hl
    · next pa' hpa => cases hl; exact ⟨e, he, hpa⟩

omit ha in
theorem cached_of_worked (pa n : Nat) : (if isDevice pa = true then none else (b.core s.cur.core).l1Load pa n) = cached s pa n := by
  rw [w.l1Load]
  rfl

end

/-- An issue whose thread waits for the answer to the request that it has sent. -/
theorem issue_awaits {h : Hdr} {uses : List Use} {s r t : State} {body : Bool → State → Step1} {id : Nat} (hi : Issues h uses s)
    (hb : body true (s.begun h uses) = .sent t id) (w : Worked r t (s.ctx s.cur)) (hcur : r.cur = s.cur)
    (hctx : r.ctx s.cur = s.ctx s.cur) : ∃ t, issue h uses body s = .next t ∧ Leaves (State.awaits r id) t := by
  rw [State.awaits, hcur]
  exact issue_sent _ _ hi hb w hcur hctx

theorem div_of_ge {n : Nat} (h : 2 ^ 55 ≤ n) : n / 2 ^ 55 ≠ 0 := by omega

theorem ofNat_eaOf (s : State) (m : MemOps) : BitVec.ofNat 64 (atOf s m) = eaOf s m := BitVec.ofNat_toNat ..

/-! LD (R188, R197 to R199). -/

/-- What LD comes to once its address has passed, outside paired mode: R317's first level, then the L1. -/
def ldGo (b : State) (u : Tid) (a : Acc) (m : MemOps) : Step1 :=
  let out (line : Nat) (s : State) : State := s.addOut u.core { id := a.id, slot := u.slot, kind := .load, line := line }
  match findTlb (b.core u.core).tlb a.pasid a.va with
  | none => .sent (out (2 ^ 60) (b.missTlb a)) a.id
  | some e => match b.resolve a e with
    | .error f => .fault f
    | .ok pa => match if isDevice pa then none else (b.core u.core).l1Load pa (accessBytes m) with
      | some v =>
        if b.l1Err u.core pa (accessBytes m) = .uncorrectable then .fault (ueFault a.va)
        else .next ((((b.fixL1 u.core pa (accessBytes m)).modCore u.core (·.l1Touch (pa / 64))).modCtx u (·.wdst (dstOf m) v)).pass u v)
      | none => .sent (out (pa / 64) (b.fetchLine { a with pa := pa } b.now)) a.id


section
variable {s : State} {h : Hdr} {m : MemOps} (hi : Issues h (memUses m true) s) (ha : Aligned s m isLoadKind)
  (hp : (s.ctx s.cur).paired = false)
include hi ha

theorem ld_tooFar (hea : 2 ^ 55 ≤ atOf s m) : ∃ t, exec (.ld h m) s = .next t ∧
    Leaves (s.raiseLater s.cur { code := 7, sub := 2, addr := eaOf s m }) t := by
  have hfar : (eaOf s m).toNat / 2 ^ 55 ≠ 0 := div_of_ge hea
  simp only [exec_ld, execLd]
  refine issue_fault _ hi _ ?_
  simp only [ha.withAddress, if_pos hfar]

include hp
variable (hea : atOf s m < 2 ^ 55) {a : Acc} {s' : State}
  (hacc : s.newAcc h .ld m.qual (atOf s m) (accessBytes m) (dstOf m) 0 0 0 = (a, s'))
include hea hacc

/-- LD of an unpaired thread is an issue that goes on to its translation. -/
theorem ld_eq : exec (.ld h m) s = issue h (memUses m true) (fun _ b => ldGo b.newId.2 s.cur a m) s := by
  have w := worked_begun s h (memUses m true) false
  have htrail : (s.ctx s.cur).isTrail = false := by simp [Ctx.isTrail, hp]
  have hlead : (s.ctx s.cur).isLead = false := by simp [Ctx.isLead, hp]
  have hnear : atOf s m / 2 ^ 55 = 0 := Nat.div_eq_of_lt hea
  have hat : (eaOf s m).toNat = atOf s m := rfl
  rw [exec_ld, execLd]
  refine issue_congr hi ?_
  simp only [ha.withAddress, hat, hnear, begun_cur, begun_ctx, htrail, hlead, w.newAcc, hacc, ne_eq, not_true, Bool.false_and,
    Bool.false_eq_true, if_false]
  rfl

theorem ld_missesTlb (hl : look s a = .miss) : ∃ t, exec (.ld h m) s = .next t ∧
    Leaves (State.awaits ((s'.missTlb a).addOut s.cur.core { id := a.id, slot := s.cur.slot, kind := .load, line := 2 ^ 60 }) a.id) t := by
  have w := (worked_begun s h (memUses m true) false).newId.2
  obtain rfl := state_of_newAcc hacc
  rw [ld_eq hi ha hp hea hacc]
  refine issue_awaits hi ?_ ((w.missTlb a).addOut s.cur.core { id := a.id, slot := s.cur.slot, kind := .load, line := 2 ^ 60 }) rfl
    ((ctx_addOut ..).trans (ctx_missTlb ..))
  simp only [ldGo, findTlb_of_miss w (tid_of_newAcc hacc) hl]

theorem ld_refused {f : Flt} (hl : look s a = .fault f) : ∃ t, exec (.ld h m) s = .next t ∧ Leaves (s.raiseLater s.cur f) t := by
  have w := (worked_begun s h (memUses m true) false).newId.2
  obtain ⟨e, hf, hr⟩ := findTlb_of_fault w (tid_of_newAcc hacc) hl
  rw [ld_eq hi ha hp hea hacc]
  refine issue_fault _ hi _ ?_
  simp only [ldGo, hf, hr]

section
variable {pa : Nat} (hl : look s a = .hit pa)
include hl

theorem ld_fetches (hc : cached s pa (accessBytes m) = none) : ∃ t, exec (.ld h m) s = .next t ∧
    Leaves (State.awaits ((s'.fetchLine { a with pa := pa } s.now).addOut s.cur.core
      { id := a.id, slot := s.cur.slot, kind := .load, line := pa / 64 }) a.id) t := by
  have w := (worked_begun s h (memUses m true) false).newId.2
  obtain rfl := state_of_newAcc hacc
  obtain ⟨e, hf, hr⟩ := findTlb_of_hit w (tid_of_newAcc hacc) hl
  have hnow : (s.begun h (memUses m true)).newId.2.now = s.now := w.now
  rw [ld_eq hi ha hp hea hacc]
  refine issue_awaits hi ?_ ((w.fetchLine { a with pa := pa } s.now).addOut s.cur.core
    { id := a.id, slot := s.cur.slot, kind := .load, line := pa / 64 }) (fetchLine_cur _ _ s.now) ((ctx_addOut ..).trans (ctx_fetchLine ..))
  simp only [ldGo, hf, hr, cached_of_worked w, hc, hnow]

variable {v : Nat} (hc : cached s pa (accessBytes m) = some v)
include hc

theorem ld_errs (he : s.l1Err s.cur.core pa (accessBytes m) = .uncorrectable) : ∃ t, exec (.ld h m) s = .next t ∧
    Leaves (s.raiseLater s.cur { code := 9, addr := eaOf s m }) t := by
  have w := (worked_begun s h (memUses m true) false).newId.2
  obtain ⟨e, hf, hr⟩ := findTlb_of_hit w (tid_of_newAcc hacc) hl
  have herr := (w.l1Err s.cur.core pa (accessBytes m)).trans he
  have hva : ueFault a.va = { code := 9, addr := eaOf s m } := by rw [va_of_newAcc hacc, ueFault, ofNat_eaOf]
  rw [ld_eq hi ha hp hea hacc]
  refine issue_fault _ hi _ ?_
  simp only [ldGo, hf, hr, cached_of_worked w, hc, herr, if_true, hva]

theorem ld_hits (he : s.l1Err s.cur.core pa (accessBytes m) = .clean) : ∃ t, exec (.ld h m) s = .next t ∧
    Completes (s'.modCore s.cur.core (·.l1Touch (pa / 64))) t ((s.ctx s.cur).wdst (dstOf m) v) (s.nextPc h) := by
  have w := (worked_begun s h (memUses m true) false).newId.2
  obtain rfl := state_of_newAcc hacc
  obtain ⟨e, hf, hr⟩ := findTlb_of_hit w (tid_of_newAcc hacc) hl
  have herr := (w.l1Err s.cur.core pa (accessBytes m)).trans he
  have wt := (w.l1Touch s.cur.core (pa / 64)).modCtx (·.wdst (dstOf m) v)
  rw [ld_eq hi ha hp hea hacc]
  refine issue_completes _ false hi ?_ wt rfl
  simp only [ldGo, hf, hr, cached_of_worked w, hc, herr, fixL1_of_clean herr, reduceCtorEq, if_false]
  refine congrArg Step1.next (pass_of_unpaired ((congrArg Ctx.paired wt.ctx).trans ?_) v)
  rw [Ctx.paired, Ctx.wdst_stat]
  exact hp

end
end

theorem virtualLoad : VirtualLoad := by
  intro h m s hi ha hp n
  generalize hacc : s.newAcc h .ld m.qual (atOf s m) n (dstOf m) 0 0 0 = p
  obtain ⟨a, s'⟩ := p
  have hmiss : (s'.missTlb a).cur = s.cur := (missTlb_cur ..).trans (cur_of_newAcc hacc)
  have hfetch (pa : Nat) : (s'.fetchLine { a with pa := pa } s.now).cur = s.cur :=
    (fetchLine_cur _ _ s.now).trans (cur_of_newAcc hacc)
  simp only [hmiss, hfetch]
  exact ⟨ld_tooFar hi ha, fun hea => ld_missesTlb hi ha hp hea hacc, fun f hea => ld_refused hi ha hp hea hacc,
    fun pa v hea hl hc he => ld_errs hi ha hp hea hacc hl hc he, fun pa v hea hl hc he => ld_hits hi ha hp hea hacc hl hc he,
    fun pa hea hl hc => ld_fetches hi ha hp hea hacc hl hc⟩

/-! ST (R188, R198). -/

/-- What ST comes to once its address has passed, outside paired mode. -/
def stGo (b : State) (u : Tid) (a : Acc) : Step1 :=
  match findTlb (b.core u.core).tlb a.pasid a.va with
  | none => .sent (b.missTlb a) a.id
  | some e => match b.resolve a e with
    | .error f => .fault f
    | .ok pa => .next (b.storeGo { a with pa := pa })

section
variable {s : State} {h : Hdr} {m : MemOps} (hi : Issues h (memUses m false) s) (ha : Aligned s m isStoreKind)
  (hp : (s.ctx s.cur).paired = false)
include hi ha

theorem st_tooFar (hea : 2 ^ 55 ≤ atOf s m) : ∃ t, exec (.st h m) s = .next t ∧
    Leaves (s.raiseLater s.cur { code := 7, sub := 2, addr := eaOf s m }) t := by
  have hfar : (eaOf s m).toNat / 2 ^ 55 ≠ 0 := div_of_ge hea
  simp only [exec_st, execSt]
  refine issue_fault _ hi _ ?_
  simp only [ha.withAddress, if_pos hfar]

include hp
variable (hea : atOf s m < 2 ^ 55) {a : Acc} {s' : State}
  (hacc : s.newAcc h .st m.qual (atOf s m) (accessBytes m) .none 0 ((s.ctx s.cur).storeData m) 0 = (a, s'))
include hea hacc

theorem st_eq : exec (.st h m) s = issue h (memUses m false) (fun _ b => stGo b.newId.2 s.cur a) s := by
  have w := worked_begun s h (memUses m false) false
  have hnear : atOf s m / 2 ^ 55 = 0 := Nat.div_eq_of_lt hea
  have hat : (eaOf s m).toNat = atOf s m := rfl
  rw [exec_st, execSt]
  refine issue_congr hi ?_
  simp only [ha.withAddress, hat, hnear, begun_cur, begun_ctx, hp, w.newAcc, hacc, ne_eq, not_true, Bool.false_and,
    Bool.false_eq_true, if_false]
  rfl

theorem st_missesTlb (hl : look s a = .miss) : ∃ t, exec (.st h m) s = .next t ∧ Leaves (State.awaits (s'.missTlb a) a.id) t := by
  have w := (worked_begun s h (memUses m false) false).newId.2
  obtain rfl := state_of_newAcc hacc
  rw [st_eq hi ha hp hea hacc]
  refine issue_awaits hi ?_ (w.missTlb a) rfl (ctx_missTlb ..)
  simp only [stGo, findTlb_of_miss w (tid_of_newAcc hacc) hl]

theorem st_refused {f : Flt} (hl : look s a = .fault f) : ∃ t, exec (.st h m) s = .next t ∧ Leaves (s.raiseLater s.cur f) t := by
  have w := (worked_begun s h (memUses m false) false).newId.2
  obtain ⟨e, hf, hr⟩ := findTlb_of_fault w (tid_of_newAcc hacc) hl
  rw [st_eq hi ha hp hea hacc]
  refine issue_fault _ hi _ ?_
  simp only [stGo, hf, hr]

theorem st_goes {pa : Nat} (hl : look s a = .hit pa) : ∃ t, exec (.st h m) s = .next t ∧
    Completes (s'.actAt (s.now + 3) (.l1Store { a with pa := pa })) t (s.ctx s.cur) (s.nextPc h) := by
  have w := (worked_begun s h (memUses m false) false).newId.2
  obtain rfl := state_of_newAcc hacc
  obtain ⟨e, hf, hr⟩ := findTlb_of_hit w (tid_of_newAcc hacc) hl
  have hunpaired : ((s.begun h (memUses m false)).newId.2.ctx a.tid).paired = false := by
    rw [tid_of_newAcc hacc]
    exact (congrArg Ctx.paired w.ctx).trans hp
  rw [st_eq hi ha hp hea hacc]
  refine issue_completes _ false hi ?_ (w.actAt 3 (.l1Store { a with pa := pa })) rfl
  simp only [stGo, hf, hr, State.storeGo, emit_of_unpaired hunpaired]

end

theorem virtualStore : VirtualStore := by
  intro h m s hi ha hp n
  generalize hacc : s.newAcc h .st m.qual (atOf s m) n .none 0 ((s.ctx s.cur).storeData m) 0 = p
  obtain ⟨a, s'⟩ := p
  exact ⟨st_tooFar hi ha, fun hea => st_missesTlb hi ha hp hea hacc, fun f hea => st_refused hi ha hp hea hacc,
    fun pa hea hl => st_goes hi ha hp hea hacc hl⟩

/-! LDN and PREF (R199, R200). -/

section
variable {s : State} {h : Hdr} {m : MemOps} (hi : Issues h (memUses m true) s)
include hi

/-- R199: at the limit of its counter LDN waits for it to fall. -/
theorem ldn_waits (hwc : (s.ctx s.cur).rwc m.wc = 255) : ∃ t, exec (.ldn h m) s = .next t ∧
    Leaves (s.setSt s.cur (.waiting (.counter m.wc 254))) t := by
  rw [exec_ldn, execLdn]
  refine issue_waits _ false hi ?_
  simp only [begun_cur, begun_ctx, hwc, if_true]

theorem ldn_starts (hp : (s.ctx s.cur).paired = false) {a : Acc} {s' : State}
    (hacc : s.newAcc h .ldn m.qual (atOf s m) (accessBytes m) (dstOf m) m.wc 0 (2 ^ 48 * (s.slot s.cur).ldns) = (a, s'))
    (hwc : (s.ctx s.cur).rwc m.wc ≠ 255) (ha : Aligned s m isLoadKind) (hea : atOf s m < 2 ^ 55) :
    ∃ t, exec (.ldn h m) s = .next t ∧
      Completes ((s'.addOut s.cur.core
        { id := a.id, slot := s.cur.slot, kind := .ldn, reg := dstLine (s.core s.cur.core).part a.dst }).actAt
        (s.now + 3) (.ldnStart a)) t (s.ctx s.cur) (s.nextPc h) := by
  have w := worked_begun s h (memUses m true) false
  have hlead : (s.ctx s.cur).isLead = false := by simp [Ctx.isLead, hp]
  have hnear : atOf s m / 2 ^ 55 = 0 := Nat.div_eq_of_lt hea
  have hat : (eaOf s m).toNat = atOf s m := rfl
  obtain rfl := state_of_newAcc hacc
  have wo := (w.newId.2.addOut s.cur.core
    { id := a.id, slot := s.cur.slot, kind := .ldn, reg := dstLine (s.core s.cur.core).part a.dst }).actAt 3 (.ldnStart a)
  rw [exec_ldn, execLdn]
  refine issue_completes _ false hi ?_ wo rfl
  simp only [ha.withAddress, hat, hnear, begun_cur, begun_ctx, hwc, hp, hlead, w.ldns, w.newAcc, hacc, w.newId.2.corePart, ne_eq, not_true,
    Bool.false_and, Bool.false_eq_true, if_false]
  rfl

end

/-- What PREF comes to at an address that it admits. -/
def prefGo (b : State) (u : Tid) (a : Acc) : Step1 :=
  match findTlb (b.core u.core).tlb a.pasid a.va with
  | none => .next (b.missTlb a)
  | some e => .next (b.looseLoad a b.now e)

section
variable {s : State} {h : Hdr} {m : MemOps} (hi : Issues h [rG m.a, rG m.b] s)
include hi

theorem pref_ignores (hea : atOf s m % 8 ≠ 0 ∨ 2 ^ 55 ≤ atOf s m) : ∃ t, exec (.pref h m) s = .next t ∧
    Completes s t (s.ctx s.cur) (s.nextPc h) := by
  have hstop : ((s.ctx s.cur).ea m).toNat % 8 ≠ 0 ∨ ((s.ctx s.cur).ea m).toNat / 2 ^ 55 ≠ 0 ∨ (s.ctx s.cur).isTrail = true := by
    rcases hea with h8 | hfar
    · exact .inl h8
    · exact .inr (.inl (div_of_ge hfar))
  rw [exec_pref, execPref]
  refine issue_nothing _ hi ?_
  simp only [begun_cur, begun_ctx, if_pos hstop]

variable (h8 : atOf s m % 8 = 0) (hea : atOf s m < 2 ^ 55) (hp : (s.ctx s.cur).paired = false) {a : Acc} {s' : State}
  (hacc : s.newAcc h .pref m.qual (atOf s m) 8 .none 0 0 0 = (a, s'))
include h8 hea hp hacc

theorem pref_eq : exec (.pref h m) s = issue h [rG m.a, rG m.b] (fun _ b => prefGo b.newId.2 s.cur a) s := by
  have w := worked_begun s h [rG m.a, rG m.b] false
  have hgo : ¬ (atOf s m % 8 ≠ 0 ∨ atOf s m / 2 ^ 55 ≠ 0 ∨ (s.ctx s.cur).isTrail = true) := by
    rintro (h | h | h)
    · exact h h8
    · exact h (Nat.div_eq_of_lt hea)
    · simp [Ctx.isTrail, hp] at h
  have hat : ((s.ctx s.cur).ea m).toNat = atOf s m := rfl
  rw [exec_pref, execPref]
  refine issue_congr hi ?_
  simp only [begun_cur, begun_ctx, hat, if_neg hgo, w.newAcc, hacc]
  rfl

theorem pref_missesTlb (hl : look s a = .miss) : ∃ t, exec (.pref h m) s = .next t ∧
    Completes (s'.missTlb a) t (s.ctx s.cur) (s.nextPc h) := by
  have w := (worked_begun s h [rG m.a, rG m.b] false).newId.2
  obtain rfl := state_of_newAcc hacc
  rw [pref_eq hi h8 hea hp hacc]
  refine issue_completes _ false hi ?_ (w.missTlb a) rfl
  simp only [prefGo, findTlb_of_miss w (tid_of_newAcc hacc) hl]

theorem pref_fetches {pa : Nat} (hl : look s a = .hit pa) (hdev : isDevice pa = false) (hc : cached s pa 8 = none) :
    ∃ t, exec (.pref h m) s = .next t ∧ Completes (s'.fetchLine { a with pa := pa } s.now) t (s.ctx s.cur) (s.nextPc h) := by
  have w := (worked_begun s h [rG m.a, rG m.b] false).newId.2
  obtain rfl := state_of_newAcc hacc
  obtain ⟨e, hf, hr⟩ := findTlb_of_hit w (tid_of_newAcc hacc) hl
  have hnow : (s.begun h [rG m.a, rG m.b]).newId.2.now = s.now := w.now
  have hcache := (cached_of_worked w pa 8).trans hc
  rw [hdev, if_neg Bool.false_ne_true] at hcache
  rw [pref_eq hi h8 hea hp hacc]
  refine issue_completes _ false hi ?_ (w.fetchLine { a with pa := pa } s.now) (fetchLine_cur _ _ s.now)
  simp only [prefGo, hf, State.looseLoad, hr, hnow, tid_of_newAcc hacc, n_of_newAcc hacc, hcache, hdev, Bool.and_false, Bool.false_eq_true,
    if_false]

end

theorem looseLoads : LooseLoads := by
  constructor
  · intro h m s hi hp
    generalize hacc : s.newAcc h .ldn m.qual (atOf s m) (accessBytes m) (dstOf m) m.wc 0 (2 ^ 48 * (s.slot s.cur).ldns) = p
    obtain ⟨a, s'⟩ := p
    exact ⟨ldn_starts hi hp hacc, ldn_waits hi⟩
  · intro h m s hi
    generalize hacc : s.newAcc h .pref m.qual (atOf s m) 8 .none 0 0 0 = p
    obtain ⟨a, s'⟩ := p
    exact ⟨pref_ignores hi, fun h8 hea hp => pref_missesTlb hi h8 hea hp hacc,
      fun pa h8 hea hp hl hdev hc => pref_fetches hi h8 hea hp hacc hl hdev hc⟩

end Sys2Proof.Claims

open Sys2Proof.Claims

/-- Settles O18: each instruction is an issue that goes on to its translation; what the first-level TLB says of it (`look`)
gives the case. -/
theorem virtualAccess : Obligations.VirtualAccess := ⟨virtualLoad, virtualStore, looseLoads⟩
end
section
/-!
PROOFS. Atomics at their issue (O19).
-/

namespace Sys2Proof.Machine

/-- An unpaired thread's atomic leaves at c + 3. -/
theorem atomGo_of_unpaired {s : State} {a : Acc} (hp : (s.ctx a.tid).paired = false) : s.atomGo a =
    (s.addOut a.tid.core { id := a.id, slot := a.tid.slot, kind := .atomic, line := a.pa / 64 }).actAt (s.now + 3) (.atomSend a) := by
  have hout : ((s.addOut a.tid.core { id := a.id, slot := a.tid.slot, kind := .atomic, line := a.pa / 64 }).ctx a.tid).paired = false := by
    rw [ctx_addOut]
    exact hp
  simp only [State.atomGo, hp, Bool.false_eq_true, if_false, emit_of_unpaired hout]
  rfl

theorem pow_bits (n : Nat) : 2 ^ (8 * n) = 256 ^ n := Nat.pow_mul 2 8 n

end Sys2Proof.Machine

namespace Sys2Proof.Claims

open Sys2Proof.Machine

section
variable {h : Hdr} {uses : List Use} {kind : AccKind} {a : Reg} {n : Nat} {dst : Dst} {data data2 : Ctx → Nat}

theorem intAtom_of_row {h' : Hdr} {o : AtomOps} {k : AtomKind} (hi : intAtomic h' o k = some (h, uses, kind, a, n, dst, data, data2))
    (s : State) : intAtom h' o k s = atomicIssue h uses kind a n dst data data2 s := by
  cases hi
  simp only [intAtom, pow_bits]

theorem floatAtom_of_row {h' : Hdr} {o : FAtomOps} {k : AtomKind} (hi : floatAtomic h' o k = some (h, uses, kind, a, n, dst, data, data2))
    (s : State) : floatAtom h' o k s = atomicIssue h uses kind a n dst data data2 s := by
  cases hi
  simp only [floatAtom, pow_bits]

/-- The rows of R203 to R205 are issues of the model's atomic. -/
theorem exec_of_atomics {i : Instr} (hi : atomics i = some (h, uses, kind, a, n, dst, data, data2)) (s : State) :
    exec i s = atomicIssue h uses kind a n dst data data2 s := by
  unfold atomics at hi
  split at hi
  · exact intAtom_of_row hi s
  · exact intAtom_of_row hi s
  · exact intAtom_of_row hi s
  · exact intAtom_of_row hi s
  · exact intAtom_of_row hi s
  · exact intAtom_of_row hi s
  · exact intAtom_of_row hi s
  · exact intAtom_of_row hi s
  · exact floatAtom_of_row hi s
  · exact floatAtom_of_row hi s
  · exact floatAtom_of_row hi s
  · cases hi
    rfl
  · cases hi

/-- The request of thread u's atomic has its place among the outstanding accesses, and leaves at c + 3. -/
def atomSent (u : Tid) (b : State) (acc : Acc) (pa : Nat) : State :=
  (b.addOut u.core { id := acc.id, slot := u.slot, kind := .atomic, line := pa / 64 }).actAt (b.now + 3)
    (.atomSend { acc with pa := pa })

theorem worked_atomSent {s b : State} {c : Ctx} (w : Worked s b c) (u : Tid) (acc : Acc) (pa : Nat) :
    Worked (atomSent u s acc pa) (atomSent u b acc pa) c := (w.addOut ..).actAt 3 _

/-- What an atomic comes to once its address has passed, outside paired mode (R204, R317). -/
def atomGoes (b : State) (u : Tid) (a : Acc) : Step1 :=
  match findTlb (b.core u.core).tlb a.pasid a.va with
  | none => .sent (b.missTlb a) a.id
  | some e => match b.resolve a e with
    | .error f => .fault f
    | .ok pa => if a.kind = .aacc then .next (b.atomGo { a with pa := pa }) else .sent (b.atomGo { a with pa := pa }) a.id

section
variable {s : State} (hi : Issues h (rG a :: uses) s)
include hi

theorem atomic_misaligned (hea : ((s.ctx s.cur).rg a).toNat % n ≠ 0) : ∃ t, atomicIssue h uses kind a n dst data data2 s = .next t ∧
    Leaves (s.raiseLater s.cur { code := 5, addr := (s.ctx s.cur).rg a }) t := by
  refine issue_fault _ hi _ ?_
  simp only [begun_cur, begun_ctx, if_pos hea]
  rfl

variable (hal : ((s.ctx s.cur).rg a).toNat % n = 0)
  (hw : s.watch (if kind = .aacc then isStoreKind else isAnyKind) ((s.ctx s.cur).rg a) = none)
include hal hw

theorem atomic_tooFar (hea : 2 ^ 55 ≤ ((s.ctx s.cur).rg a).toNat) : ∃ t, atomicIssue h uses kind a n dst data data2 s = .next t ∧
    Leaves (s.raiseLater s.cur { code := 7, sub := 2, addr := (s.ctx s.cur).rg a }) t := by
  have hfar := div_of_ge hea
  refine issue_fault _ hi _ ?_
  simp only [begun_cur, begun_ctx, begun_watch, hal, hw, if_pos hfar, ne_eq, not_true, if_false]

variable (hp : (s.ctx s.cur).paired = false) (hea : ((s.ctx s.cur).rg a).toNat < 2 ^ 55) {acc : Acc} {s' : State}
  (hacc : s.newAcc h kind .none ((s.ctx s.cur).rg a).toNat n dst 0 (data (s.ctx s.cur)) (data2 (s.ctx s.cur)) = (acc, s'))
include hp hea hacc

theorem atomicIssue_eq : atomicIssue h uses kind a n dst data data2 s =
    issue h (rG a :: uses) (fun _ b => atomGoes b.newId.2 s.cur acc) s := by
  have w := worked_begun s h (rG a :: uses) false
  have htrail : (s.ctx s.cur).isTrail = false := by simp [Ctx.isTrail, hp]
  have hlead : (s.ctx s.cur).isLead = false := by simp [Ctx.isLead, hp]
  have hnear : ((s.ctx s.cur).rg a).toNat / 2 ^ 55 = 0 := Nat.div_eq_of_lt hea
  refine issue_congr hi ?_
  simp only [begun_cur, begun_ctx, begun_watch, hal, hw, hnear, htrail, hlead, hp, w.newAcc, hacc, ne_eq, not_true, Bool.false_and,
    Bool.or_self, Bool.false_eq_true, if_false, atomGoes, kind_of_newAcc hacc] <;> rfl

theorem atomic_missesTlb (hl : look s acc = .miss) : ∃ t, atomicIssue h uses kind a n dst data data2 s = .next t ∧
    Leaves (State.awaits (s'.missTlb acc) acc.id) t := by
  have w := (worked_begun s h (rG a :: uses) false).newId.2
  obtain rfl := state_of_newAcc hacc
  rw [atomicIssue_eq hi hal hw hp hea hacc]
  refine issue_awaits hi ?_ (w.missTlb acc) rfl (ctx_missTlb ..)
  simp only [atomGoes, findTlb_of_miss w (tid_of_newAcc hacc) hl]

theorem atomic_refused {f : Flt} (hl : look s acc = .fault f) : ∃ t, atomicIssue h uses kind a n dst data data2 s = .next t ∧
    Leaves (s.raiseLater s.cur f) t := by
  have w := (worked_begun s h (rG a :: uses) false).newId.2
  obtain ⟨e, hf, hr⟩ := findTlb_of_fault w (tid_of_newAcc hacc) hl
  rw [atomicIssue_eq hi hal hw hp hea hacc]
  refine issue_fault _ hi _ ?_
  simp only [atomGoes, hf, hr]

omit hi hal hw hea in
theorem atomGo_of_newAcc {b : State} (w : Worked s.newId.2 b (s.ctx s.cur)) (pa : Nat) :
    b.atomGo { acc with pa := pa } = atomSent s.cur b acc pa := by
  have hunpaired : (b.ctx acc.tid).paired = false := by
    rw [tid_of_newAcc hacc]
    exact (congrArg Ctx.paired w.ctx).trans hp
  rw [atomGo_of_unpaired (a := { acc with pa := pa }) hunpaired, atomSent, tid_of_newAcc hacc]

section
variable {pa : Nat} (hl : look s acc = .hit pa)
include hl

theorem atomic_sends (hk : kind ≠ .aacc) : ∃ t, atomicIssue h uses kind a n dst data data2 s = .next t ∧
    Leaves (State.awaits (atomSent s.cur s' acc pa) acc.id) t := by
  have w := (worked_begun s h (rG a :: uses) false).newId.2
  obtain rfl := state_of_newAcc hacc
  obtain ⟨e, hf, hr⟩ := findTlb_of_hit w (tid_of_newAcc hacc) hl
  rw [atomicIssue_eq hi hal hw hp hea hacc]
  refine issue_awaits hi ?_ (worked_atomSent w s.cur acc pa) rfl (ctx_addOut ..)
  have hkind : acc.kind ≠ .aacc := (kind_of_newAcc hacc).symm ▸ hk
  simp only [atomGoes, hf, hr, if_neg hkind, atomGo_of_newAcc hp hacc w]

/-- R205: AACC does not wait. -/
theorem aacc_sends (hk : kind = .aacc) : ∃ t, atomicIssue h uses kind a n dst data data2 s = .next t ∧
    Completes (atomSent s.cur s' acc pa) t (s.ctx s.cur) (s.nextPc h) := by
  have w := (worked_begun s h (rG a :: uses) false).newId.2
  obtain rfl := state_of_newAcc hacc
  obtain ⟨e, hf, hr⟩ := findTlb_of_hit w (tid_of_newAcc hacc) hl
  rw [atomicIssue_eq hi hal hw hp hea hacc]
  refine issue_completes _ false hi ?_ (worked_atomSent w s.cur acc pa) rfl
  have hkind : acc.kind = .aacc := (kind_of_newAcc hacc).trans hk
  simp only [atomGoes, hf, hr, if_pos hkind, atomGo_of_newAcc hp hacc w]

end
end
end

end Sys2Proof.Claims

open Sys2Proof.Machine Sys2Proof.Claims

/-- Settles O19: every row is the model's one atomic issue, and what the first-level TLB says of it (`look`) gives the case. -/
theorem atomicIssue : Obligations.AtomicIssue := by
  intro i h uses kind a n dst data data2 hrow s hi hp
  rw [exec_of_atomics hrow]
  dsimp only
  generalize hacc : s.newAcc h kind .none ((s.ctx s.cur).rg a).toNat n dst 0 (data (s.ctx s.cur)) (data2 (s.ctx s.cur)) = p
  obtain ⟨acc, s'⟩ := p
  obtain rfl := state_of_newAcc hacc
  exact ⟨atomic_misaligned hi, atomic_tooFar hi, fun hal hw hea => ⟨atomic_missesTlb hi hal hw hp hea hacc,
    fun f => atomic_refused hi hal hw hp hea hacc, fun pa => atomic_sends hi hal hw hp hea hacc,
    fun pa => aacc_sends hi hal hw hp hea hacc⟩⟩
end
section
/-!
PROOFS. LDC and STC, and their requests at the cluster store (O23).
-/

namespace Sys2Proof.Claims

open Sys2Proof.Machine

theorem storeFault_beyond {s : State} {m : MemOps} {n : Nat} (h : 0x400000 < atOf s m + n) :
    storeFault (eaOf s m) n = some { code := 6, addr := eaOf s m } := if_pos h

theorem storeFault_within {s : State} {m : MemOps} {n : Nat} (h : atOf s m + n ≤ 0x400000) : storeFault (eaOf s m) n = none :=
  if_neg (Nat.not_lt.2 h)

section
variable {s : State} {h : Hdr} {m : MemOps} (hi : Issues h (memUses m true) s) (ha : Aligned s m isLoadKind)
include hi ha

theorem ldc_beyond (hout : 0x400000 < atOf s m + accessBytes m) : ∃ t, exec (.ldc h m) s = .next t ∧
    Leaves (s.raiseLater s.cur { code := 6, addr := eaOf s m }) t := by
  rw [exec_ldc, execLdc]
  refine issue_fault _ hi _ ?_
  simp only [ha.withAddress, storeFault_beyond hout]

theorem ldc_sends (hp : Plain s) (hin : atOf s m + accessBytes m ≤ 0x400000) {a : Acc} {s' : State}
    (hacc : s.newAcc h .ldc m.qual (atOf s m) (accessBytes m) (dstOf m) 0 0 0 = (a, s')) : ∃ t, exec (.ldc h m) s = .next t ∧
    Leaves (State.awaits ((s'.addOut s.cur.core { id := a.id, slot := s.cur.slot, kind := .load }).performAt
      (s.now + 24) s.cur (.clusterStorePerform a)) a.id) t := by
  have w := worked_begun s h (memUses m true) false
  have hat : (eaOf s m).toNat = atOf s m := rfl
  have hnow : (s.begun h (memUses m true)).newId.2.now = s.now := w.now
  obtain rfl := state_of_newAcc hacc
  rw [exec_ldc, execLdc]
  refine issue_awaits hi ?_ ((w.newId.2.addOut s.cur.core { id := a.id, slot := s.cur.slot, kind := .load }).sched (s.now + 24)
    (Phase.perform s.cur) (.run (.clusterStorePerform a))) rfl (ctx_addOut ..)
  simp only [ha.withAddress, storeFault_within hin, begun_cur, begun_ctx, hp.isTrail, hp.isLead, regionOf_begun, hp.2, hat, w.newAcc, hacc,
    hnow, Bool.false_and, Bool.false_eq_true, if_false, Nat.add_zero]
  rfl

end

section
variable {s : State} {h : Hdr} {m : MemOps} (hi : Issues h (memUses m false) s) (ha : Aligned s m isStoreKind)
include hi ha

theorem stc_beyond (hout : 0x400000 < atOf s m + accessBytes m) : ∃ t, exec (.stc h m) s = .next t ∧
    Leaves (s.raiseLater s.cur { code := 6, addr := eaOf s m }) t := by
  rw [exec_stc, execStc]
  refine issue_fault _ hi _ ?_
  simp only [ha.withAddress, storeFault_beyond hout]

variable (hp : Plain s) (hin : atOf s m + accessBytes m ≤ 0x400000)
include hp hin

theorem stc_sends (hr : m.qual = .e → s.releaseHeld s.cur = false) {a : Acc} {s' : State}
    (hacc : s.newAcc h .stc m.qual (atOf s m) (accessBytes m) .none 0 ((s.ctx s.cur).storeData m) 0 = (a, s')) :
    ∃ t, exec (.stc h m) s = .next t ∧ Completes (s'.actAt (s.now + 3) (.cstoreSend a)) t (s.ctx s.cur) (s.nextPc h) := by
  have w := worked_begun s h (memUses m false) false
  have hat : (eaOf s m).toNat = atOf s m := rfl
  have hheld : (decide (m.qual = .e) && s.releaseHeld s.cur) = false := by
    by_cases hq : m.qual = .e
    · rw [hr hq, Bool.and_false]
    · simp [hq]
  have hunpaired : ((s.begun h (memUses m false)).newId.2.ctx s.cur).paired = false := (congrArg Ctx.paired w.newId.2.ctx).trans hp.1
  obtain rfl := state_of_newAcc hacc
  rw [exec_stc, execStc]
  refine issue_completes _ false hi ?_ (w.newId.2.actAt 3 (.cstoreSend a)) rfl
  simp only [ha.withAddress, storeFault_within hin, begun_cur, begun_ctx, hp.1, w.releaseHeld, hheld, hat, w.newAcc, hacc,
    Bool.false_and, Bool.false_eq_true, if_false, emit_of_unpaired hunpaired]

/-- R209: STC.e holds behind a release point: its turn is spent. -/
theorem stc_holds (hq : m.qual = .e) (hr : s.releaseHeld s.cur = true) : ∃ t, exec (.stc h m) s = .next t ∧ Leaves s t := by
  have w := worked_begun s h (memUses m false) false
  rw [exec_stc, execStc, issue_passes _ hi]
  simp only [ha.withAddress, storeFault_within hin, begun_cur, begun_ctx, hp.1, w.releaseHeld, hr, hq, decide_true, Bool.and_self,
    Bool.false_and, Bool.false_eq_true, if_false, if_true, State.settle]
  exact ⟨_, rfl, ((w.calm s.cur).count s.cur.core 6 1).leaves⟩

end

theorem clusterAccess : ClusterAccess := by
  intro h m s store i n hi ha hp
  cases store with
  | false =>
    refine ⟨ldc_beyond hi ha, fun hin _ => ?_, fun _ hf => absurd hf Bool.false_ne_true,
      fun _ hf => absurd hf Bool.false_ne_true⟩
    generalize hacc : s.newAcc h .ldc m.qual (atOf s m) n (dstOf m) 0 0 0 = p
    exact ldc_sends hi ha hp hin hacc
  | true =>
    refine ⟨stc_beyond hi ha, fun _ hf => absurd hf.symm Bool.false_ne_true, fun hin _ hr => ?_, fun hin _ => stc_holds hi ha hp hin⟩
    generalize hacc : s.newAcc h .stc m.qual (atOf s m) n .none 0 ((s.ctx s.cur).storeData m) 0 = p
    exact stc_sends hi ha hp hin hr hacc

end Sys2Proof.Claims
end
section
namespace Sys2Proof.Machine

/-! Answers without extra latency, and reads over sound bytes. -/

theorem delay_of_prompt {s : State} (h : s.slack = []) : s.delay = (0, s) := by simp only [State.delay, h]

theorem reply_of_prompt {s : State} (h : s.slack = []) (a : Acc) (time : Nat) :
    s.reply a time = s.landAt (s.now + time) (if a.kind = .ldn then .ldnLanding a else .loadLanding a) := by
  simp only [State.reply, delay_of_prompt h, Nat.add_zero]

theorem errIn_nil (base a n : Nat) : errIn [] base a n = .clean := by
  have hnone (e : Err) (he : e ≠ .clean) :
      ((List.range ((a + n - 1) / 8 + 1 - a / 8)).map fun j => Sparse.get Err.clean [] (base + a / 8 + j)).contains e = false := by
    rw [Bool.eq_false_iff, ne_eq, List.contains_iff_mem, List.mem_map]
    rintro ⟨j, -, hj⟩
    exact he hj.symm
  simp only [errIn, hnone .uncorrectable (by decide), hnone .correctable (by decide), Bool.false_eq_true, if_false]

theorem mem_granules_iff {a n g : Nat} (hn : 0 < n) : g ∈ granules a n ↔ a / 16 ≤ g ∧ g ≤ (a + n - 1) / 16 := by
  rw [mem_granules hn]
  constructor
  · rintro ⟨b, hb, rfl⟩
    omega
  · rintro ⟨h1, h2⟩
    by_cases h0 : g = a / 16
    · exact ⟨0, hn, by omega⟩
    · exact ⟨g * 16 - a, by omega, by omega⟩

/-- R318: the region of a thread is that of its task, or of the team of its core. -/
theorem regionOf_modCore (s : State) (k : Nat) {f : Core → Core} (hs : ∀ c, (f c).slots = c.slots) (ht : ∀ c, (f c).team = c.team)
    (u : Tid) : (s.modCore k f).regionOf u = s.regionOf u := by
  have hslot : (s.modCore k f).slot u = s.slot u := slot_modCore_of_slots s k hs u
  have hteam : ((s.modCore k f).core u.core).team = (s.core u.core).team := by
    rw [State.core_modCore]
    split
    · next h => rw [h, ht]
    · rfl
  simp only [State.regionOf, State.teamNo, hslot, hteam]
  rfl

/-! The FULL bits of a cluster store (R187). -/

theorem cores_setStoreFull (s : State) (cl a n : Nat) (full : Bool) : (s.setStoreFull cl a n full).cores = s.cores := by
  refine List.foldlRecOn (motive := fun t : State => t.cores = s.cores) (granules a n) _ rfl fun t ht g _ => ?_
  split
  · exact ht
  · exact ht

/-- What the qualifier of a performed request does to the granules it touches. -/
def State.storeQual (s : State) (cl : Nat) (a : Acc) : State :=
  if a.kind = .stc ∧ a.qual = .e then s.setStoreFull cl a.va a.n true
  else if a.kind = .ldc ∧ a.qual = .fc then s.setStoreFull cl a.va a.n false
  else s

/-- Whether a granule that the request touches is EMPTY afterwards, from what it was. -/
def leavesEmpty (a : Acc) (b : Bool) : Bool :=
  if a.kind = .stc ∧ a.qual = .e then false else if a.kind = .ldc ∧ a.qual = .fc then true else b

/-- The qualifier touches the FULL bits of the request's granules, and nothing else but the agenda. -/
structure QualDone (s t : State) (cl : Nat) (a : Acc) : Prop where
  cluster : t.cluster cl = { s.cluster cl with empty := (t.cluster cl).empty }
  empty   : ∀ g, (t.cluster cl).empty.get false g =
    if g ∈ granules a.va a.n then leavesEmpty a ((s.cluster cl).empty.get false g) else (s.cluster cl).empty.get false g
  cores   : t.cores = s.cores
  phys    : t.phys = s.phys
  now     : t.now = s.now
  slack   : t.slack = s.slack

theorem qualDone_setStoreFull (s : State) (cl : Nat) (a : Acc) (full : Bool) (h : ∀ b, leavesEmpty a b = !full) :
    QualDone s (s.setStoreFull cl a.va a.n full) cl a := by
  have u := undisturbed_setStoreFull s cl a.va a.n full
  have hcluster : (s.setStoreFull cl a.va a.n full).cluster cl = { s.cluster cl with empty := setFull (s.cluster cl).empty a.va a.n full } := by
    rw [State.cluster, u.clusters]
    exact State.cluster_modCluster_self ..
  refine ⟨by rw [hcluster], fun g => ?_, cores_setStoreFull .., u.phys, u.now, u.slack⟩
  rw [hcluster, h]
  exact get_setFull ..

theorem qualDone_storeQual (s : State) (cl : Nat) (a : Acc) : QualDone s (s.storeQual cl a) cl a := by
  unfold State.storeQual
  split
  · next h => exact qualDone_setStoreFull s cl a true fun b => if_pos h
  · next h1 =>
    split
    · next h2 => exact qualDone_setStoreFull s cl a false fun b => (if_neg h1).trans (if_pos h2)
    · next h2 =>
      refine ⟨rfl, fun g => ?_, rfl, rfl, rfl, rfl⟩
      rw [leavesEmpty, if_neg h1, if_neg h2, ite_self]

/-! The two requests (R185), over sound bytes and outside debug mode. -/

/-- A store's bytes are written; it is outstanding no more. -/
def State.storeWritten (s : State) (cl : Nat) (a : Acc) : State :=
  { (s.useGranules cl a.va a.n).dropOut a.tid.core a.id with
    storeErrs := clearErrs s.storeErrs (storeErrBase cl) a.va a.n }.modCluster cl fun c => { c with mem := poke c.mem a.va a.n a.data }

section
variable {s : State} {cl : Nat} {a : Acc} (herrs : s.storeErrs = [])
include herrs

theorem fixStore_of_sound (a n : Nat) : s.fixStore cl a n = s := by
  have hfix := fixErrs_of_clean (e := s.storeErrs) (base := storeErrBase cl) (a := a) (n := n) (by rw [herrs]; exact errIn_nil ..)
  simp only [State.fixStore, hfix, if_true]

theorem storePerform_stc (hk : a.kind = .stc) (hdbg : (s.regionOf a.tid).dbg = false) :
    s.storePerform cl a = (s.storeWritten cl a).storeQual cl a := by
  have hregion : (((s.useGranules cl a.va a.n).dropOut a.tid.core a.id).regionOf a.tid).dbg = false := by
    rw [State.dropOut, regionOf_modCore _ _ (by exact fun _ => rfl) (by exact fun _ => rfl)]
    exact hdbg
  have hsound : errIn (s.useGranules cl a.va a.n).storeErrs (storeErrBase cl) a.va a.n = .clean := by
    rw [show (s.useGranules cl a.va a.n).storeErrs = [] from herrs]
    exact errIn_nil ..
  have hfix : ((s.useGranules cl a.va a.n).dropOut a.tid.core a.id).fixStore cl a.va a.n = (s.useGranules cl a.va a.n).dropOut a.tid.core a.id :=
    fixStore_of_sound (s := (s.useGranules cl a.va a.n).dropOut a.tid.core a.id) herrs _ _
  simp only [State.storePerform, State.storeQual, hk, hsound, hregion, hfix, reduceCtorEq, false_and, true_and, if_true, if_false,
    Bool.false_and, Bool.false_eq_true, ite_self]
  rfl

theorem storePerform_ldc (hk : a.kind = .ldc) (hprompt : s.slack = []) : s.storePerform cl a =
    ((s.useGranules cl a.va a.n).storeQual cl a).landAt (s.now + 24) (.loadLanding { a with data := peek (s.cluster cl).mem a.va a.n }) := by
  have hsound : errIn (s.useGranules cl a.va a.n).storeErrs (storeErrBase cl) a.va a.n = .clean := by
    rw [show (s.useGranules cl a.va a.n).storeErrs = [] from herrs]
    exact errIn_nil ..
  have hfix : (s.useGranules cl a.va a.n).fixStore cl a.va a.n = s.useGranules cl a.va a.n :=
    fixStore_of_sound (s := s.useGranules cl a.va a.n) herrs _ _
  have q := qualDone_storeQual (s.useGranules cl a.va a.n) cl a
  have hslack : ((s.useGranules cl a.va a.n).storeQual cl a).slack = [] := q.slack.trans hprompt
  have hnow : ((s.useGranules cl a.va a.n).storeQual cl a).now = s.now := q.now
  have hreply := reply_of_prompt hslack { a with data := peek (s.cluster cl).mem a.va a.n } 24
  rw [hnow, if_neg (by rw [hk]; decide)] at hreply
  rw [← hreply]
  simp only [State.storePerform, State.storeQual, hk, hsound, hfix, reduceCtorEq, false_and, true_and, if_false]

end
end Sys2Proof.Machine
end
section
namespace Sys2Proof.Machine

theorem get_foldl_put (l : List Nat) (m : Sparse Nat) (v g : Nat) (hg : g ∈ l) : (l.foldl (fun m g => m.put 0 g v) m).get 0 g = v := by
  have key (l : List Nat) (m : Sparse Nat) : (l.foldl (fun m g => m.put 0 g v) m).get 0 g = if g ∈ l then v else m.get 0 g := by
    induction l generalizing m with
    | nil => simp
    | cons x l ih =>
      rw [List.foldl_cons, ih, Sparse.get_put]
      by_cases h : g ∈ l
      · simp [h]
      · simp [h]
  rw [key, if_pos hg]

theorem cluster_useGranules (s : State) (cl a n : Nat) : (s.useGranules cl a n).cluster cl =
    { s.cluster cl with lastGran := (granules a n).foldl (fun m g => m.put 0 g (s.now + 1)) (s.cluster cl).lastGran } :=
  State.cluster_modCluster_self ..

theorem cluster_storeWritten (s : State) (cl : Nat) (a : Acc) : (s.storeWritten cl a).cluster cl =
    { (s.useGranules cl a.va a.n).cluster cl with mem := poke (s.cluster cl).mem a.va a.n a.data } := by
  rw [State.storeWritten, State.cluster_modCluster_self]
  exact congrArg (fun m => { (s.useGranules cl a.va a.n).cluster cl with mem := poke m a.va a.n a.data })
    (congrArg Cluster.mem (cluster_useGranules s cl a.va a.n))

/-- R185: the granules that a request touches have served their access of the cycle. -/
theorem busy_of_served {c : Cluster} {now a n : Nat} (hn : 0 < n) (h : ∀ g ∈ granules a n, c.lastGran.get 0 g = now + 1) :
    c.busy now a n = true := by
  have hg : a / 16 ∈ granules a n := (mem_granules_iff hn).2 ⟨Nat.le_refl _, Nat.div_le_div_right (by omega)⟩
  exact List.any_eq_true.2 ⟨_, hg, beq_iff_eq.2 (h _ hg)⟩

theorem unqueue_frame (s : State) (cl id : Nat) : (s.unqueue cl id).storeErrs = s.storeErrs ∧ (s.unqueue cl id).slack = s.slack ∧
    (s.unqueue cl id).now = s.now ∧ (s.unqueue cl id).agenda = s.agenda ∧ (∀ u, (s.unqueue cl id).regionOf u = s.regionOf u) := by
  unfold State.unqueue
  split <;> exact ⟨rfl, rfl, rfl, rfl, fun _ => rfl⟩

theorem held_unqueue (s : State) (cl id : Nat) : ((s.unqueue cl id).cluster cl).held = (s.cluster cl).held := by
  unfold State.unqueue
  split
  · rfl
  · rw [State.cluster_modCluster_self]

end Sys2Proof.Machine

namespace Sys2Proof.Claims

open Sys2Proof.Machine

section
variable {s t : State} {cl : Nat} {a : Acc}

/-- What a request leaves besides `PerformedAt`: its granules have served the cycle's access, and the held requests stay. -/
structure Served (s t : State) (cl : Nat) (a : Acc) : Prop where
  performed : PerformedAt s t cl a
  held      : (t.cluster cl).held = (s.cluster cl).held
  busy      : (t.cluster cl).busy t.now a.va a.n = true
  now       : t.now = s.now

/-- A later message takes nothing back. -/
theorem PerformedAt.sched (h : PerformedAt s t cl a) (due phase : Nat) (ev : Ev) : PerformedAt s (t.sched due phase ev) cl a := by
  obtain ⟨hstc, hldc, hrest⟩ := h
  refine ⟨hstc, fun hk => ?_, hrest⟩
  obtain ⟨hbytes, p, hp, hlands⟩ := hldc hk
  exact ⟨hbytes, p, (State.mem_sched ..).2 (.inr hp), hlands⟩

/-- What is performed on a state that has the bytes, the granules and the registers of s is performed on s. -/
theorem PerformedAt.of_same {b : State} (h : PerformedAt b t cl a) (hmem : (b.cluster cl).mem = (s.cluster cl).mem)
    (hempty : (b.cluster cl).empty = (s.cluster cl).empty) (hnow : b.now = s.now) (hctx : ∀ u, b.ctx u = s.ctx u)
    (hphys : b.phys = s.phys) : PerformedAt s t cl a := by
  simp only [PerformedAt, hmem, hempty, hnow, hctx, hphys] at h ⊢
  exact h

theorem emptied_iff (hn : 0 < a.n) (e : Sparse Bool) (g : Nat) :
    (if g ∈ granules a.va a.n then leavesEmpty a (e.get false g) else e.get false g) =
    if a.va / 16 ≤ g ∧ g ≤ (a.va + a.n - 1) / 16 then
      if a.kind = .stc ∧ a.qual = .e then false else if a.kind = .ldc ∧ a.qual = .fc then true else e.get false g
    else e.get false g := by
  simp only [mem_granules_iff hn]
  rfl

variable (hn : 0 < a.n) (herrs : s.storeErrs = [])
include hn herrs

/-- R185, R187: a store's bytes are in the cluster store. -/
theorem served_stc (hk : a.kind = .stc) (hdbg : (s.regionOf a.tid).dbg = false) : Served s (s.storePerform cl a) cl a := by
  have q := qualDone_storeQual (s.storeWritten cl a) cl a
  have hcluster := cluster_storeWritten s cl a
  rw [storePerform_stc herrs hk hdbg]
  generalize hu : (s.storeWritten cl a).storeQual cl a = u at q ⊢
  have hmem : (u.cluster cl).mem = poke (s.cluster cl).mem a.va a.n a.data := by rw [q.cluster, hcluster]
  have hempty : ((s.storeWritten cl a).cluster cl).empty = (s.cluster cl).empty := by rw [hcluster, cluster_useGranules]
  have hnow : u.now = s.now := q.now
  have hctx (v : Tid) : u.ctx v = s.ctx v := by
    rw [State.ctx, State.slot, State.core, q.cores]
    exact State.ctx_modCore_of_slots s a.tid.core (fun c => { c with outs := c.outs.filter fun o => o.id ≠ a.id }) (fun _ => rfl) v
  have houts : (u.core a.tid.core).outs = (s.core a.tid.core).outs.filter fun o => o.id ≠ a.id := by
    rw [State.core, q.cores]
    exact congrArg Core.outs (State.core_modCore_self s a.tid.core fun c => { c with outs := c.outs.filter fun o => o.id ≠ a.id })
  refine ⟨⟨fun _ => ⟨?_, fun x hx => ?_, fun o ho => ?_⟩, fun h => ?_, fun g => ?_, hctx, q.phys⟩, ?_, ?_, hnow⟩
  · dsimp only
    rw [hmem]
    exact holdsBytes_poke _ _ _ _
  · dsimp only
    rw [hmem, peek_poke_out _ _ (by omega)]
  · rw [houts] at ho
    simpa using (List.mem_filter.1 ho).2
  · rw [hk] at h
    cases h
  · rw [q.empty g, hempty]
    exact emptied_iff hn _ g
  · rw [q.cluster, hcluster, cluster_useGranules]
  · refine busy_of_served hn fun g hg => ?_
    rw [q.cluster, hcluster, cluster_useGranules, hnow]
    exact get_foldl_put _ _ _ g hg

/-- R185, R187: a load's bytes are on their way to its core. -/
theorem served_ldc (hk : a.kind = .ldc) (hprompt : s.slack = []) : Served s (s.storePerform cl a) cl a := by
  have q := qualDone_storeQual (s.useGranules cl a.va a.n) cl a
  have hcluster := cluster_useGranules s cl a.va a.n
  rw [storePerform_ldc herrs hk hprompt]
  generalize hu : (s.useGranules cl a.va a.n).storeQual cl a = u at q ⊢
  have hmem : (u.cluster cl).mem = (s.cluster cl).mem := by rw [q.cluster, hcluster]
  have hempty : ((s.useGranules cl a.va a.n).cluster cl).empty = (s.cluster cl).empty := by rw [hcluster]
  have hnow : u.now = s.now := q.now
  have hctx (v : Tid) : u.ctx v = s.ctx v := by
    rw [State.ctx, State.slot, State.core, q.cores]
    rfl
  refine ⟨⟨fun h => ?_, fun _ => ⟨fun x => ?_, _, (State.mem_sched ..).2 (.inl rfl), rfl, _, rfl, rfl, rfl, ?_⟩, fun g => ?_, hctx, q.phys⟩,
    ?_, ?_, hnow⟩
  · rw [hk] at h
    cases h
  · exact congrArg (peek · x 1) hmem
  · exact fun b hb => peek_byte _ a.va a.n hb
  · exact ((q.empty g).trans (by rw [hempty])).trans (emptied_iff hn _ g)
  · rw [State.landAt, State.cluster_sched, q.cluster, hcluster]
  · refine busy_of_served hn fun g hg => ?_
    rw [State.landAt, State.cluster_sched, q.cluster, hcluster]
    refine (get_foldl_put _ _ _ g hg).trans ?_
    exact congrArg (· + 1) hnow.symm

theorem served_storePerform (hk : a.kind = .stc ∨ a.kind = .ldc) (hdbg : (s.regionOf a.tid).dbg = false) (hprompt : s.slack = []) :
    Served s (s.storePerform cl a) cl a := by
  rcases hk with hk | hk
  · exact served_stc hn herrs hk hdbg
  · exact served_ldc hn herrs hk hprompt

end
/-! The request's arrival, its place among those that wait, and its performance (R185, R187, R208). -/

theorem queues_iff_mustWait (c : Cluster) (now : Nat) (a : Acc) :
    c.queues now a.id (some a.tid.core) a.va a.n = true ↔ mustWait c now a := by
  have hbefore : (fun x : Nat × Option Nat × List Nat => x.1 != a.id) = fun x => decide (x.1 ≠ a.id) := by
    funext x
    by_cases h : x.1 = a.id <;> simp [h]
  simp only [Cluster.queues, mustWait, hbefore, Bool.or_eq_true, List.any_eq_true, Option.isSome_some, Bool.true_and, beq_iff_eq,
    List.contains_iff_mem]

theorem matchesStore_eq (s : State) (cl : Nat) {a : Acc} (hn : 0 < a.n) :
    matchesStore s cl a = qualMatches (s.cluster cl).empty a.qual a.va a.n := by
  rw [Bool.eq_iff_iff]
  unfold matchesStore
  cases a.qual with
  | f => simpa [qualMatches] using (allFull_iff (e := (s.cluster cl).empty) (a := a.va) hn).symm
  | fc => simpa [qualMatches] using (allFull_iff (e := (s.cluster cl).empty) (a := a.va) hn).symm
  | e => simpa [qualMatches] using (allEmpty_iff (e := (s.cluster cl).empty) (a := a.va) hn).symm
  | none => simp [qualMatches]
  | k => simp [qualMatches]

section
variable {s : State} {a : Acc}

theorem waits_its_place (h : mustWait (s.cluster (clusterOf a.tid.core)) s.now a) : let cl := clusterOf a.tid.core
    ∃ t, exec (.clusterStorePerform a) s = .next t ∧
      (∃ p ∈ t.agenda, p.due = s.now + 1 ∧ p.ev = .run (.clusterStorePerform a)) ∧
      (t.cluster cl).arrived = (s.cluster cl).arrived ++
        (if (s.cluster cl).arrived.any (·.1 == a.id) then [] else [(a.id, some a.tid.core, granules a.va a.n)]) ∧
      (t.cluster cl).mem = (s.cluster cl).mem ∧ (t.cluster cl).held = (s.cluster cl).held := by
  intro cl
  refine ⟨(s.queueUp cl a.id (some a.tid.core) a.va a.n).sched (s.now + 1) Phase.again (.run (.clusterStorePerform a)),
    congrArg Host.Outcome.next (if_pos ((queues_iff_mustWait ..).2 h)), ⟨_, (State.mem_sched ..).2 (.inl rfl), rfl, rfl⟩, ?_⟩
  rw [State.cluster_sched, State.queueUp, State.cluster_modCluster_self]
  refine ⟨?_, rfl, rfl⟩
  dsimp only
  split
  · exact (List.append_nil _).symm
  · rfl

variable (hn : 0 < a.n) (hgo : ¬ mustWait (s.cluster (clusterOf a.tid.core)) s.now a)
include hn hgo

theorem is_held (hq : matchesStore s (clusterOf a.tid.core) a = false) : let cl := clusterOf a.tid.core
    ∃ t, exec (.clusterStorePerform a) s = .next t ∧ (t.cluster cl).held = (s.cluster cl).held ++ [a] ∧
      (t.cluster cl).mem = (s.cluster cl).mem ∧ t.agenda = s.agenda := by
  intro cl
  have hno : ¬ (s.cluster cl).queues s.now a.id (some a.tid.core) a.va a.n = true := fun h => hgo ((queues_iff_mustWait ..).1 h)
  have hmatch : ¬ qualMatches (s.cluster cl).empty a.qual a.va a.n = true := by
    rw [← matchesStore_eq s cl hn, hq]
    exact Bool.false_ne_true
  refine ⟨(s.unqueue cl a.id).modCluster cl fun c => { c with held := c.held ++ [a] },
    congrArg Host.Outcome.next ((if_neg hno).trans (if_neg hmatch)), ?_⟩
  rw [State.cluster_modCluster_self]
  refine ⟨?_, (unqueue_left s cl a.id cl).1, (unqueue_frame s cl a.id).2.2.2.1⟩
  rw [held_unqueue]

theorem is_performed (hk : a.kind = .stc ∨ a.kind = .ldc) (hdbg : (s.regionOf a.tid).dbg = false) (herrs : s.storeErrs = [])
    (hprompt : s.slack = []) (hq : matchesStore s (clusterOf a.tid.core) a = true) : let cl := clusterOf a.tid.core
    ∃ t, exec (.clusterStorePerform a) s = .next t ∧ PerformedAt s t cl a ∧ (t.cluster cl).busy t.now a.va a.n = true := by
  intro cl
  have hno : ¬ (s.cluster cl).queues s.now a.id (some a.tid.core) a.va a.n = true := fun h => hgo ((queues_iff_mustWait ..).1 h)
  have hmatch : qualMatches (s.cluster cl).empty a.qual a.va a.n = true := by
    rw [← matchesStore_eq s cl hn]
    exact hq
  obtain ⟨hmem, hempty, hslot, hphys⟩ := unqueue_left s cl a.id cl
  obtain ⟨herrs', hslack', hnow', -, hregion'⟩ := unqueue_frame s cl a.id
  have hserved : Served (s.unqueue cl a.id) ((s.unqueue cl a.id).storePerform cl a) cl a :=
    served_storePerform hn (herrs'.trans herrs) hk (by rw [hregion']; exact hdbg) (hslack'.trans hprompt)
  exact ⟨_, congrArg Host.Outcome.next ((if_neg hno).trans (if_pos hmatch)),
    hserved.performed.of_same hmem hempty hnow' (fun u => congrArg Slot.ctx (hslot u)) hphys, hserved.busy⟩

end

section
variable {s : State} {a : Acc} {before after : List Acc} {cl : Nat}

/-- R187: the oldest held request whose granules match is the one that is performed. -/
theorem find_held (hn : 0 < a.n) {g : Nat} (hbefore : ∀ x ∈ before, x.id ≠ a.id ∧ matchesStore s cl x = false ∧ 0 < x.n)
    (hg : a.va / 16 ≤ g) (hg' : g ≤ (a.va + a.n - 1) / 16) (hq : matchesStore s cl a = true) :
    (before ++ a :: after).find? (fun x => (granules x.va x.n).contains g && qualMatches (s.cluster cl).empty x.qual x.va x.n) =
      some a := by
  have hnone : before.find? (fun x => (granules x.va x.n).contains g && qualMatches (s.cluster cl).empty x.qual x.va x.n) = none := by
    rw [List.find?_eq_none]
    intro x hx
    obtain ⟨-, hno, hpos⟩ := hbefore x hx
    rw [← matchesStore_eq s cl hpos, hno, Bool.and_false]
    exact Bool.false_ne_true
  have hmem : (granules a.va a.n).contains g = true := List.contains_iff_mem.2 ((mem_granules_iff hn).2 ⟨hg, hg'⟩)
  rw [List.find?_append, hnone, Option.none_or, List.find?_cons, hmem, ← matchesStore_eq s cl hn, hq]
  rfl

theorem filter_held (hbefore : ∀ x ∈ before, x.id ≠ a.id) (hafter : ∀ x ∈ after, x.id ≠ a.id) :
    (before ++ a :: after).filter (fun x => x.id ≠ a.id) = before ++ after := by
  have hkeep (l : List Acc) (h : ∀ x ∈ l, x.id ≠ a.id) : l.filter (fun x => x.id ≠ a.id) = l :=
    List.filter_eq_self.2 fun x hx => decide_eq_true (h x hx)
  rw [List.filter_append, List.filter_cons_of_neg (by simp), hkeep before hbefore, hkeep after hafter]

theorem held_performs (hk : a.kind = .stc ∨ a.kind = .ldc) (hn : 0 < a.n) (hdbg : (s.regionOf a.tid).dbg = false)
    (herrs : s.storeErrs = []) (hprompt : s.slack = []) {g : Nat} (hheld : (s.cluster cl).held = before ++ a :: after)
    (hbefore : ∀ x ∈ before, x.id ≠ a.id ∧ matchesStore s cl x = false ∧ 0 < x.n) (hafter : ∀ x ∈ after, x.id ≠ a.id)
    (hg : a.va / 16 ≤ g) (hg' : g ≤ (a.va + a.n - 1) / 16) (hq : matchesStore s cl a = true)
    (hfree : (s.cluster cl).busy s.now a.va a.n = false) :
    ∃ t, exec (.clusterWaitPerform cl g) s = .next t ∧ PerformedAt s t cl a ∧ (t.cluster cl).held = before ++ after ∧
      ∃ p ∈ t.agenda, p.due = s.now + 1 ∧ p.ev = .run (.clusterWaitPerform cl g) := by
  have hfind := find_held (after := after) hn hbefore hg hg' hq
  generalize hb : (s.modCluster cl fun c => { c with held := c.held.filter fun x => x.id ≠ a.id }) = b
  have hcluster : b.cluster cl = { s.cluster cl with held := before ++ after } := by
    rw [← hb, State.cluster_modCluster_self, hheld, filter_held (fun x hx => (hbefore x hx).1) hafter]
  have hserved : Served b (b.storePerform cl a) cl a := by
    refine served_storePerform hn ?_ hk ?_ ?_ <;> rw [← hb]
    · exact herrs
    · exact hdbg
    · exact hprompt
  have hnow : (b.storePerform cl a).now = s.now := by rw [hserved.now, ← hb]; rfl
  have hperf : PerformedAt s (b.storePerform cl a) cl a := by
    refine hserved.performed.of_same ?_ ?_ ?_ (fun u => ?_) ?_
    · rw [hcluster]
    · rw [hcluster]
    · rw [← hb]; rfl
    · rw [← hb]; rfl
    · rw [← hb]; rfl
  refine ⟨(b.storePerform cl a).sched (s.now + 1) Phase.again (.run (.clusterWaitPerform cl g)), ?_, hperf.sched .., ?_,
    ⟨_, (State.mem_sched ..).2 (.inl rfl), rfl, rfl⟩⟩
  · simp only [exec_clusterWaitPerform, execClusterWaitPerform, hheld, hfind, hfree, Bool.false_eq_true, if_false]
    rw [hb, hnow]
  · rw [State.cluster_sched, hserved.held, hcluster]

end

theorem clusterStorePerforms : ClusterStorePerforms := by
  intro s a hk hn hdbg herrs hprompt cl
  exact ⟨waits_its_place, is_held hn, fun hgo hq => is_performed hn hgo hk hdbg herrs hprompt hq,
    fun before after g hheld hbefore hafter hg hg' hq hfree =>
      held_performs hk hn hdbg herrs hprompt hheld hbefore hafter hg hg' hq hfree⟩

end Sys2Proof.Claims

open Sys2Proof.Claims

/-- Settles O23: the issues send what they must; a request's performance is told once (`served_storePerform`), at its
arrival and from among the held. -/
theorem clusterStores : Obligations.ClusterStores := ⟨clusterAccess, clusterStorePerforms⟩
end
section
/-!
PROOFS. The home slice: stores that register (O22), atomics (O20), lines that arrive and walks (O26).

Over memory without errors nothing is corrected, and no line is found bad; the bytes of a team that is not dual-die are in
memory itself, at the page that serves them.
-/

namespace Sys2Proof.Machine

/-! Memory without errors (R195). -/

section
variable {s : State} (h : s.errs = [])
include h

theorem errAt_of_sound (pa n : Nat) : s.errAt pa n = .clean := by
  unfold State.errAt
  split
  · simp [h, errIn_nil]
  · rw [h]
    exact errIn_nil ..

theorem freshErr_of_sound (pa n : Nat) : s.freshErr pa n = false := by
  simp only [State.freshErr, h]
  exact List.any_eq_false.2 fun j _ => by simp [Sparse.get]

theorem correctAt_of_sound (pa n : Nat) : s.correctAt pa n = s := by
  have hfix := fixErrs_of_clean (e := s.errs) (base := 0) (a := s.mapped pa) (n := n) (by rw [h]; exact errIn_nil ..)
  simp only [State.correctAt, hfix, if_true]

theorem correct_of_sound (pa n : Nat) : s.correct pa n = s := by
  unfold State.correct
  split
  · dsimp only
    rw [correctAt_of_sound h, correctAt_of_sound h]
  · exact correctAt_of_sound h ..

theorem mergeCorrect_of_sound (pa n : Nat) : s.mergeCorrect pa n = s := by
  refine List.foldlRecOn (motive := fun t : State => t = s) (partialUnits pa n) _ rfl fun t ht u _ => ?_
  rw [ht]
  exact correctAt_of_sound h u 8

theorem badWriteBack_of_sound (team : BitVec 16) (pa : Nat) (p : SLine → Bool) : s.badWriteBack team pa p = false := by
  unfold State.badWriteBack
  split
  · rw [freshErr_of_sound h, Bool.and_false]
  · rfl

theorem badMerge_of_sound (team : BitVec 16) (pa n : Nat) : s.badMerge team pa n = false := by
  unfold State.badMerge
  split
  · rw [List.any_eq_false.2 fun u _ => by rw [freshErr_of_sound h]; exact Bool.false_ne_true, Bool.and_false]
  · rfl

end

theorem with_errs_of_sound {s : State} (h : s.errs = []) (a n : Nat) : { s with errs := clearErrs s.errs 0 a n } = s := by
  have hclear : clearErrs s.errs 0 a n = s.errs := by
    rw [h]
    refine List.foldlRecOn (motive := fun e : Sparse Err => e = []) _ _ rfl fun e he j _ => ?_
    rw [he]
    rfl
  rw [hclear]

/-! The bytes of a team that is not dual-die (R219, R357). -/

section
variable {s : State} {team : BitVec 16} (hsingle : ∀ x, s.team team = some x → x.partner = none)
include hsingle

theorem physByte_of_single (pa : Nat) : s.physByte team pa = s.phys.get 0 (s.mapped pa) := by
  unfold State.physByte
  split
  · next x hx =>
    rw [hsingle x hx]
    rfl
  · rfl

theorem physPut_of_single (pa : Nat) (b : Byte) : s.physPut team pa b = { s with phys := s.phys.put 0 (s.mapped pa) b } := by
  unfold State.physPut
  split
  · next x hx =>
    rw [hsingle x hx]
    rfl
  · rfl

theorem physWrite_of_single (pa n v : Nat) (hpage : ∀ b, b < n → s.mapped (pa + b) = s.mapped pa + b) :
    s.physWrite team pa n v = { s with phys := poke s.phys (s.mapped pa) n v } := by
  induction n generalizing s pa v with
  | zero => rfl
  | succ n ih =>
    rw [State.physWrite, physPut_of_single hsingle]
    have hnext : s.mapped (pa + 1) = s.mapped pa + 1 ∨ n = 0 := by
      rcases Nat.eq_zero_or_pos n with h0 | hpos
      · exact .inr h0
      · exact .inl (hpage 1 (by omega))
    rcases hnext with hnext | rfl
    · refine (ih (s := { s with phys := s.phys.put 0 (s.mapped pa) (BitVec.ofNat 8 v) }) hsingle (pa + 1) (v / 256) fun b hb => ?_).trans ?_
      · change s.mapped (pa + 1 + b) = s.mapped (pa + 1) + b
        rw [hnext, Nat.add_assoc, Nat.add_comm 1 b, hpage (b + 1) (by omega)]
        omega
      · change ({ s with phys := poke (s.phys.put 0 (s.mapped pa) (BitVec.ofNat 8 v)) (s.mapped (pa + 1)) n (v / 256) } : State) = _
        rw [hnext]
        rfl
    · rfl

/-- The bytes that a write leaves, and those that it leaves alone. -/
theorem bytes_of_poke {t : State} {pa n v : Nat} (hpage : ∀ b, b < n → s.mapped (pa + b) = s.mapped pa + b)
    (hphys : t.phys = poke s.phys (s.mapped pa) n v) (hteams : t.teams = s.teams) (hretired : t.retired = s.retired) :
    Claims.HoldsBytes (fun x => (t.physByte team x).toNat) pa n v ∧
      ∀ x, (∀ b, b < n → s.mapped (pa + b) ≠ s.mapped x) → t.physByte team x = s.physByte team x := by
  have hmapped (x : Nat) : t.mapped x = s.mapped x := by rw [State.mapped, hretired]; rfl
  have hbyte (x : Nat) : t.physByte team x = (poke s.phys (s.mapped pa) n v).get 0 (s.mapped x) := by
    rw [physByte_of_single (s := t) (fun x hx => hsingle x (by rwa [State.team, hteams] at hx)), hphys, hmapped]
  constructor
  · intro b hb
    dsimp only
    rw [hbyte, hpage b hb, get_poke, if_pos (by omega), Nat.add_sub_cancel_left, BitVec.toNat_ofNat]
  · intro x hx
    rw [hbyte, physByte_of_single hsingle, get_poke, if_neg]
    rintro ⟨hlo, hhi⟩
    refine hx (s.mapped x - s.mapped pa) (by omega) ?_
    rw [hpage _ (by omega)]
    omega

end

/-! A directory entry is written (R189, R190). -/

theorem oldestLine_isSome {l : List (Nat × SLine)} (h : l ≠ []) : (oldestLine l).isSome = true := by
  have key (l : List (Nat × SLine)) (b : Nat × SLine) : (l.foldl (fun best x => match best with
      | none => some x
      | some b => if x.2.used < b.2.used ∨ (x.2.used = b.2.used ∧ x.2.way < b.2.way) then some x else some b) (some b)).isSome = true := by
    refine List.foldlRecOn (motive := fun o : Option (Nat × SLine) => o.isSome = true) l _ rfl fun o ho x _ => ?_
    split
    · rfl
    · split <;> rfl
  cases l with
  | nil => exact absurd rfl h
  | cons x l => exact key l x

/-- R189: over memory without errors a slice has a way for a new line, unless every way is quarantined. -/
theorem sliceWay_isSome {s : State} (herrs : s.errs = []) (cl key : Nat) (hway : ∃ w < 16, w ∉ (s.cluster cl).badWays) :
    (s.sliceWay cl key).isSome = true := by
  obtain ⟨w, hw, hgood⟩ := hway
  have hin : w ∈ (List.range 16).filter fun w => !(s.cluster cl).badWays.contains w := by
    rw [List.mem_filter]
    exact ⟨List.mem_range.2 hw, by simpa using hgood⟩
  unfold State.sliceWay
  dsimp only
  split
  · rfl
  · next hnone =>
    have htaken := List.find?_eq_none.1 hnone w hin
    obtain ⟨x, hx, hxw⟩ : ∃ x ∈ (s.cluster cl).sliceSet key, x.2.way = w := by simpa using htaken
    split
    · rfl
    · next hold =>
      have hne : ((((s.cluster cl).sliceSet key).filter fun x => ((List.range 16).filter fun w => !(s.cluster cl).badWays.contains w).contains x.2.way).filter
          fun x => !(x.2.dirty && s.freshErr (x.1 % 2 ^ 46 * 64) 64)) ≠ [] := by
        refine List.ne_nil_of_mem (a := x) ?_
        rw [List.mem_filter, List.mem_filter]
        refine ⟨⟨hx, List.contains_iff_mem.2 (hxw ▸ hin)⟩, ?_⟩
        rw [freshErr_of_sound herrs, Bool.and_false]
        rfl
      have := oldestLine_isSome hne
      rw [hold] at this
      cases this

section
variable {s : State} {team : BitVec 16} {pa : Nat}

/-- The line is listed already, or finds a way in its slice. -/
theorem slineAt_setSline_of_room (hroom : s.slineAt team pa ≠ none ∨
    s.errs = [] ∧ ∃ w < 16, w ∉ (s.cluster (s.home pa)).badWays) (l : SLine) :
    ∃ w, (s.setSline team pa (some l)).slineAt team pa = some { l with way := w, used := s.now } := by
  have hsome : (s.setSline team pa (some l)).slineAt team pa ≠ none := by
    rw [State.slineAt, State.besideSlices_home (besideSlices_setSline ..), State.besideSlices_lineKey (besideSlices_setSline ..)]
    unfold State.setSline
    cases hold : (s.cluster (s.home pa)).slice.get none (s.lineKey team pa) with
    | some old =>
      simp only [hold, State.cluster_modCluster_self, Sparse.get_put_self]
      exact Option.some_ne_none _
    | none =>
      rcases hroom with hlisted | ⟨herrs, hway⟩
      · exact absurd hold hlisted
      · obtain ⟨⟨w, t⟩, ht⟩ := Option.isSome_iff_exists.1 (sliceWay_isSome herrs (s.home pa) (s.lineKey team pa) hway)
        simp only [hold, ht, State.cluster_modCluster_self, Sparse.get_put_self]
        exact Option.some_ne_none _
  obtain ⟨x, hx⟩ := Option.ne_none_iff_exists'.1 hsome
  obtain ⟨w, rfl⟩ := slineAt_setSline hx
  exact ⟨w, hx⟩

theorem agenda_setSline_of_listed {o : SLine} (h : s.slineAt team pa = some o) (l : SLine) :
    (s.setSline team pa (some l)).agenda = s.agenda := by
  have hold : (s.cluster (s.home pa)).slice.get none (s.lineKey team pa) = some o := h
  simp only [State.setSline, hold]
  rfl

end

end Sys2Proof.Machine
end
section
namespace Sys2Proof.Machine

/-! Registration (R190). -/

/-- A line with owned words of thread t's. -/
def SLine.owned (pkg : BitVec 8) (t : Tid) (bind : BitVec 12) (words : BitVec 16) : SLine :=
  { dirty := true, ownw := words, opkg := pkg, ocore := BitVec.ofNat 11 t.core, oslot := BitVec.ofNat 4 t.slot, obind := bind }

section
variable {s : State} {team : BitVec 16} {pa n : Nat} {pkg : BitVec 8} {t : Tid} {bind : BitVec 12}

theorem zero_or_words (w : BitVec 16) : (0 : BitVec 16) ||| w = w := BitVec.zero_or

theorem registerSline_of_none (h : s.slineAt team pa = none) :
    s.registerSline team pa n pkg t bind = (s.setSline team pa (some (.owned pkg t bind (wordsOf pa n))), s.now) := by
  simp only [State.registerSline, h, zero_or_words]
  rfl

theorem registerSline_of_kept {o : SLine} (h : s.slineAt team pa = some o) (hkept : o.dirty = false ∨ o.ownedBy pkg t bind = true) :
    s.registerSline team pa n pkg t bind = (s.setSline team pa (some (.owned pkg t bind (o.ownw ||| wordsOf pa n))), s.now) := by
  have hno : (o.dirty && !o.ownedBy pkg t bind) = false := by rcases hkept with h | h <;> simp [h]
  unfold SLine.ownedBy at hno
  simp only [State.registerSline, h, hno, Bool.false_eq_true, if_false]
  rfl

/-- Another owner's words are revoked first. -/
theorem registerSline_of_other {o : SLine} (h : s.slineAt team pa = some o) (hdirty : o.dirty = true)
    (hother : o.ownedBy pkg t bind = false) : s.registerSline team pa n pkg t bind =
      ((s.revokeLine pa o).1.setSline team pa (some (.owned pkg t bind (wordsOf pa n))), (s.revokeLine pa o).2) := by
  have hyes : (o.dirty && !o.ownedBy pkg t bind) = true := by simp [hdirty, hother]
  unfold SLine.ownedBy at hyes
  simp only [State.registerSline, h, hyes, if_true, zero_or_words]
  rfl

end

theorem revokeLine_of_local {s : State} {pa : Nat} {l : SLine} (hw : l.ownw ≠ 0) (hp : l.opkg = s.pkg.pkgid) :
    s.revokeLine pa l = (s.landAt (s.now + 60 + s.far l.ocore.toNat pa) (.revoke l.ocore.toNat (pa / 64) l.ownw),
      s.now + 60 + s.far l.ocore.toNat pa) := by
  simp only [State.revokeLine, if_neg hw, hp, ne_eq, not_true, if_false]

theorem slineAt_revokeLine (s : State) (pa' : Nat) (l : SLine) (team : BitVec 16) (pa : Nat) :
    (s.revokeLine pa' l).1.slineAt team pa = s.slineAt team pa := by
  unfold State.revokeLine
  split
  · rfl
  · split <;> rfl

/-- What the work of a home slice leaves alone of a thread's registers, and of what an answer reads. -/
theorem answer_of_besideSlices {s t : State} (h : t.besideSlices = s.besideSlices) :
    (∀ u, t.ctx u = s.ctx u) ∧ t.slack = s.slack ∧ (∀ k pa, t.far k pa = s.far k pa) := by
  have hcores := State.besideSlices_cores h
  refine ⟨fun u => ?_, congrArg (·.slack) h, fun k pa => ?_⟩
  · simp only [State.ctx, State.slot, State.core, hcores]
  · exact congrArg (·.far k pa) h

theorem ack_of_prompt {s : State} (h : s.slack = []) {a : Acc} (hk : a.kind ≠ .walk true) (after : Nat) :
    s.ack a after none = s.landAt (max (s.now + 60 + s.far a.tid.core a.pa) after) (.storeAck a.tid.core a.id) := by
  simp only [State.ack, delay_of_prompt h, if_neg hk, Nat.add_zero]

end Sys2Proof.Machine

namespace Sys2Proof.Claims

open Sys2Proof.Machine

section
variable {s : State} {a : Acc} (hk : a.kind = .st) (hr : Reachable s (s.teamNo a.tid) a.pa a.n)
include hk hr

/-- The state in which the home slice has the store's bytes, and its line is yet to be registered. -/
def stored (s : State) (a : Acc) : State := { s with phys := poke s.phys (s.mapped a.pa) a.n a.data }

theorem storeRegistration_eq : exec (.storeRegistration a) s =
    let r := (stored s a).registerSline (s.teamNo a.tid) a.pa a.n s.pkg.pkgid a.tid a.bind
    .next (r.1.ack a r.2 none) := by
  have hwalk : a.kind ≠ .walk true := by rw [hk]; decide
  simp only [exec_storeRegistration, execStoreRegistration, if_neg hwalk, hr.memory, hr.free, hr.live, badWriteBack_of_sound hr.clean,
    badMerge_of_sound hr.clean, mergeCorrect_of_sound hr.clean, with_errs_of_sound hr.clean, Bool.false_eq_true, Bool.or_self, if_false,
    physWrite_of_single hr.single a.pa a.n a.data hr.page]
  rfl

/-- R190, R209: the bytes, the registers and the acknowledgement of a store that registers; the line is listed with its words. -/
structure Acknowledged (s t : State) (a : Acc) (due : Nat) (words : BitVec 16) : Prop where
  bytes  : HoldsBytes (fun x => (t.physByte (s.teamNo a.tid) x).toNat) a.pa a.n a.data
  others : ∀ x, (∀ b, b < a.n → s.mapped (a.pa + b) ≠ s.mapped x) → t.physByte (s.teamNo a.tid) x = s.physByte (s.teamNo a.tid) x
  ctx    : ∀ u, t.ctx u = s.ctx u
  line   : ∃ w, t.slineAt (s.teamNo a.tid) a.pa = some { SLine.owned s.pkg.pkgid a.tid a.bind words with way := w, used := s.now }
  ack    : ∃ p ∈ t.agenda, p.due = max (s.now + 60 + s.far a.tid.core a.pa) due ∧ p.ev = .run (.storeAck a.tid.core a.id)

omit hk in
/-- The slice b has the store's bytes and is ready for its line. -/
theorem acknowledged {b : State} (hb : b.besideSlices = (stored s a).besideSlices)
    (hroom : b.slineAt (s.teamNo a.tid) a.pa ≠ none ∨ b.errs = [] ∧ ∃ w < 16, w ∉ (b.cluster (b.home a.pa)).badWays)
    (due : Nat) (words : BitVec 16) (hwalk : a.kind ≠ .walk true) :
    Acknowledged s ((b.setSline (s.teamNo a.tid) a.pa (some (.owned s.pkg.pkgid a.tid a.bind words))).ack a due none) a due words := by
  obtain ⟨w, hline⟩ := slineAt_setSline_of_room hroom (.owned s.pkg.pkgid a.tid a.bind words)
  have hbeside := (besideSlices_setSline b (s.teamNo a.tid) a.pa (some (.owned s.pkg.pkgid a.tid a.bind words))).trans hb
  rw [State.besideSlices_now (s := stored s a) hb] at hline
  generalize b.setSline (s.teamNo a.tid) a.pa (some (.owned s.pkg.pkgid a.tid a.bind words)) = u at hline hbeside ⊢
  obtain ⟨hctx, hslack, hfar⟩ := answer_of_besideSlices hbeside
  have hfar' : u.far a.tid.core a.pa = s.far a.tid.core a.pa := hfar ..
  have hnow : u.now = s.now := State.besideSlices_now (s := stored s a) hbeside
  obtain ⟨hbytes, hothers⟩ := bytes_of_poke (t := u) hr.single hr.page (State.besideSlices_phys (s := stored s a) hbeside)
    (State.besideSlices_teams (s := stored s a) hbeside) (State.besideSlices_retired (s := stored s a) hbeside)
  rw [ack_of_prompt (hslack.trans hr.prompt) hwalk, hfar', hnow]
  exact ⟨hbytes, hothers, hctx, ⟨w, hline⟩, _, (State.mem_sched ..).2 (.inl rfl), rfl, rfl⟩

theorem registers_unlisted (hs : s.slineAt (s.teamNo a.tid) a.pa = none) :
    ∃ t, exec (.storeRegistration a) s = .next t ∧ Acknowledged s t a s.now (wordsOf a.pa a.n) := by
  refine ⟨_, storeRegistration_eq hk hr, ?_⟩
  rw [registerSline_of_none (s := stored s a) hs]
  exact acknowledged hr rfl (.inr ⟨hr.clean, hr.way⟩) _ _ (by rw [hk]; decide)

variable {o : SLine} (hs : s.slineAt (s.teamNo a.tid) a.pa = some o)
include hs

theorem registers_kept (hkept : o.dirty = false ∨ o.ownedBy s.pkg.pkgid a.tid a.bind = true) :
    ∃ t, exec (.storeRegistration a) s = .next t ∧ Acknowledged s t a s.now (o.ownw ||| wordsOf a.pa a.n) := by
  refine ⟨_, storeRegistration_eq hk hr, ?_⟩
  rw [registerSline_of_kept (s := stored s a) hs hkept]
  exact acknowledged hr rfl (.inl (hs ▸ Option.some_ne_none o)) _ _ (by rw [hk]; decide)

/-- R190: another owner's words are revoked, and the acknowledgement follows the revoke. -/
theorem registers_other (hdirty : o.dirty = true) (hother : o.ownedBy s.pkg.pkgid a.tid a.bind = false) :
    ∃ t due, exec (.storeRegistration a) s = .next t ∧ Acknowledged s t a due (wordsOf a.pa a.n) ∧
      (o.ownw ≠ 0 → o.opkg = s.pkg.pkgid → due = s.now + 60 + s.far o.ocore.toNat a.pa ∧
        ∃ p ∈ t.agenda, p.due = due ∧ p.ev = .run (.revoke o.ocore.toNat (a.pa / 64) o.ownw)) := by
  have hline : ((stored s a).revokeLine a.pa o).1.slineAt (s.teamNo a.tid) a.pa = some o := (slineAt_revokeLine ..).trans hs
  have hwalk : a.kind ≠ .walk true := by rw [hk]; decide
  have hack := acknowledged (b := ((stored s a).revokeLine a.pa o).1) hr (besideSlices_revokeLine ..) (.inl (hline ▸ Option.some_ne_none o))
    ((stored s a).revokeLine a.pa o).2 (wordsOf a.pa a.n) hwalk
  have hrun := storeRegistration_eq hk hr
  rw [registerSline_of_other (s := stored s a) hs hdirty hother] at hrun
  refine ⟨_, _, hrun, hack, fun hw hp => ?_⟩
  have hrevoke := revokeLine_of_local (s := stored s a) (pa := a.pa) hw hp
  have hlater : ((stored s a).revokeLine a.pa o).2 = s.now + 60 + s.far o.ocore.toNat a.pa := by rw [hrevoke]; rfl
  obtain ⟨p, hmem, hdue, hev⟩ : ∃ p ∈ ((stored s a).revokeLine a.pa o).1.agenda, p.due = s.now + 60 + s.far o.ocore.toNat a.pa ∧
      p.ev = .run (.revoke o.ocore.toNat (a.pa / 64) o.ownw) := by
    rw [hrevoke]
    exact ⟨_, (State.mem_sched ..).2 (.inl rfl), rfl, rfl⟩
  have hbeside := besideSlices_setSline ((stored s a).revokeLine a.pa o).1 (s.teamNo a.tid) a.pa
    (some (.owned s.pkg.pkgid a.tid a.bind (wordsOf a.pa a.n)))
  have hslack := (answer_of_besideSlices (hbeside.trans (besideSlices_revokeLine ..))).2.1.trans hr.prompt
  refine ⟨hlater, p, ?_, hdue.trans hlater.symm, hev⟩
  rw [ack_of_prompt hslack hwalk]
  refine (State.mem_sched ..).2 (.inr ?_)
  rw [agenda_setSline_of_listed hline]
  exact hmem

end
end Sys2Proof.Claims

open Sys2Proof.Machine Sys2Proof.Claims

/-- Settles O22: the bytes are poked into memory, and the line is entered over nothing, over the thread's own, or, after
the revoke, over another owner's. -/
theorem storeRegisters : Obligations.StoreRegisters := by
  intro s a team mine hk hr far
  have hnow : max far s.now = far := by simp only [far]; omega
  cases hs : s.slineAt team a.pa with
  | none =>
    obtain ⟨t, hrun, h⟩ := registers_unlisted hk hr hs
    obtain ⟨w, hline⟩ := h.line
    obtain ⟨p, hp, hdue, hev⟩ := h.ack
    exact ⟨t, hrun, h.bytes, h.others, h.ctx, ⟨_, hline, rfl, rfl, rfl, rfl, rfl, fun _ ho => (nomatch ho), fun _ ho => (nomatch ho), fun _ => rfl⟩,
      fun _ => ⟨p, hp, hdue.trans hnow, hev⟩, fun _ ho => (nomatch ho)⟩
  | some o =>
    by_cases hkept : o.dirty = false ∨ mine o = true
    · obtain ⟨t, hrun, h⟩ := registers_kept hk hr hs hkept
      obtain ⟨w, hline⟩ := h.line
      obtain ⟨p, hp, hdue, hev⟩ := h.ack
      refine ⟨t, hrun, h.bytes, h.others, h.ctx, ⟨_, hline, rfl, rfl, rfl, rfl, rfl, fun _ ho _ _ => ?_, fun _ ho hd hm => ?_, fun ho => ?_⟩,
        fun _ => ⟨p, hp, hdue.trans hnow, hev⟩, fun _ ho hd hm => ?_⟩
      · cases ho; rfl
      · cases ho
        rcases hkept with h | h
        · exact absurd (h.symm.trans hd) Bool.false_ne_true
        · exact absurd (hm.symm.trans h) Bool.false_ne_true
      · cases ho
      · cases ho
        rcases hkept with h | h
        · exact absurd (h.symm.trans hd) Bool.false_ne_true
        · exact absurd (hm.symm.trans h) Bool.false_ne_true
    · obtain ⟨hdirty, hother⟩ := not_or.1 hkept
      rw [Bool.not_eq_false] at hdirty
      rw [Bool.not_eq_true] at hother
      obtain ⟨t, due, hrun, h, hrevoked⟩ := registers_other hk hr hs hdirty hother
      obtain ⟨w, hline⟩ := h.line
      refine ⟨t, hrun, h.bytes, h.others, h.ctx, ⟨_, hline, rfl, rfl, rfl, rfl, rfl, fun _ ho _ hm => ?_, fun _ ho _ _ => ?_, fun ho => ?_⟩,
        fun hall => ?_, fun _ ho _ _ hw hp => ?_⟩
      · cases ho
        exact absurd (hother.symm.trans hm) Bool.false_ne_true
      · rfl
      · cases ho
      · exact absurd (hall o rfl) hkept
      · cases ho
        obtain ⟨hdue, q, hq, hqdue, hqev⟩ := hrevoked hw hp
        obtain ⟨p, hp, hpdue, hpev⟩ := h.ack
        exact ⟨⟨q, hq, hqdue.trans hdue, hqev⟩, p, hp, hpdue.trans (by rw [hdue]), hpev⟩
end
section
namespace Sys2Proof.Machine

theorem physRead_congr {s t : State} {team : BitVec 16} (h : ∀ pa, t.physByte team pa = s.physByte team pa) (pa n : Nat) :
    t.physRead team pa n = s.physRead team pa n := by
  induction n generalizing pa with
  | zero => rfl
  | succ n ih => rw [State.physRead, State.physRead, h, ih]

/-- R190: a clean line is entered again as it is. -/
theorem cleanSline_of_clean {s : State} {team : BitVec 16} {pa : Nat} (h : ∀ l, s.slineAt team pa = some l → l.dirty = false) :
    (s.cleanSline team pa).1.besideSlices = s.besideSlices := by
  unfold State.cleanSline
  split
  · next l hl =>
    simp only [h l hl, Bool.false_eq_true, if_false]
    exact besideSlices_setSline ..
  · exact besideSlices_setSline ..

/-- R220: the record of a write is one slot's. -/
theorem digest_eq (s : State) (t : Tid) (id va pa n data : Nat) :
    s.digest t id va pa n data = s ∨ ∃ f : Slot → Slot, (∀ x, (f x).ctx = x.ctx) ∧ s.digest t id va pa n data = s.modSlot t f := by
  unfold State.digest
  dsimp only
  split
  · split
    · refine .inr ⟨_, ?_, rfl⟩
      exact fun _ => rfl
    · exact .inl rfl
  · exact .inl rfl

theorem digest_left (s : State) (t : Tid) (id va pa n data : Nat) : (∀ u, (s.digest t id va pa n data).ctx u = s.ctx u) ∧
    (s.digest t id va pa n data).phys = s.phys ∧ (s.digest t id va pa n data).teams = s.teams ∧
    (s.digest t id va pa n data).retired = s.retired ∧ (s.digest t id va pa n data).slack = s.slack ∧
    (s.digest t id va pa n data).now = s.now := by
  rcases digest_eq s t id va pa n data with h | ⟨f, hf, h⟩
  · rw [h]
    exact ⟨fun _ => rfl, rfl, rfl, rfl, rfl, rfl⟩
  · rw [h]
    refine ⟨fun u => ?_, rfl, rfl, rfl, rfl, rfl⟩
    rw [State.ctx_modSlot]
    split
    · next h => rw [h, hf]; rfl
    · rfl

end Sys2Proof.Machine

namespace Sys2Proof.Claims

open Sys2Proof.Machine

theorem atomNew_eq {kind : AccKind} {k : AtomKind} {uns : Bool} {ty : Fmt} {rnd : Rnd} (hk : kind = .atom k uns ty rnd) (n old b c : Nat) :
    atomNew kind n old b c = atomicValue n old b c k uns ty rnd := by
  rw [hk]
  cases k with
  | add => simp only [atomNew, atomicValue, pow_bits]
  | _ => rfl

/-- The old value goes back to the core that asked (R204). -/
def atomAnswered (u : State) (a : Acc) (team : BitVec 16) (k : AtomKind) (uns : Bool) (ty : Fmt) (rnd : Rnd) (far : Nat) : State :=
  let old := u.physRead team a.pa a.n
  let new := atomicValue a.n old a.data a.data2 k uns ty rnd
  (((u.physWrite team a.pa a.n new).digest a.tid a.id a.va a.pa a.n new).reply (answer { a with data := old } 0 none) (60 + far))

theorem atomicPerform_eq {s : State} {a : Acc} {k : AtomKind} {uns : Bool} {ty : Fmt} {rnd : Rnd} (hk : a.kind = .atom k uns ty rnd)
    (hlive : s.isRetired a.pa = false) (herrs : s.errs = []) : exec (.atomicPerform a) s =
      .next (atomAnswered (s.cleanSline (s.teamNo a.tid) a.pa).1 a (s.teamNo a.tid) k uns ty rnd (s.far a.tid.core a.pa)) := by
  have haacc : a.kind ≠ .aacc := by rw [hk]; exact nofun
  simp only [exec_atomicPerform, execAtomicPerform, hlive, errAt_of_sound herrs, badWriteBack_of_sound herrs, correct_of_sound herrs,
    if_neg haacc, atomNew_eq hk, Bool.false_eq_true, reduceCtorEq, if_false]
  rfl

end Sys2Proof.Claims

open Sys2Proof.Machine Sys2Proof.Claims

/-- Settles O20: the slice's own work lies beside the bytes; the new value is poked into memory, and the old one returns. -/
theorem atomicPerforms : Obligations.AtomicPerforms := by
  intro s a k uns ty rnd hk team hsingle hlive herrs hclean hpage hprompt old
  refine ⟨_, atomicPerform_eq hk hlive herrs, ?_⟩
  have hbeside := cleanSline_of_clean hclean
  generalize (s.cleanSline (s.teamNo a.tid) a.pa).1 = u at hbeside ⊢
  obtain ⟨hctx, hslack, -⟩ := answer_of_besideSlices hbeside
  have hphys := State.besideSlices_phys hbeside
  have hteams := State.besideSlices_teams hbeside
  have hretired := State.besideSlices_retired hbeside
  have hmapped (x : Nat) : u.mapped x = s.mapped x := by rw [State.mapped, hretired]; rfl
  have hold : u.physRead team a.pa a.n = old := physRead_congr (physByte_of_beside hphys hteams hretired team) ..
  have hwrite := physWrite_of_single (s := u) (team := team) (fun x hx => hsingle x (by rwa [State.team, hteams] at hx)) a.pa a.n
    (atomicValue a.n old a.data a.data2 k uns ty rnd) fun b hb => by rw [hmapped, hmapped]; exact hpage b hb
  unfold atomAnswered
  simp only [show s.teamNo a.tid = team from rfl, hold, hwrite, hmapped, hphys]
  generalize hw : ({ u with phys := poke s.phys (s.mapped a.pa) a.n (atomicValue a.n old a.data a.data2 k uns ty rnd) } : State) = w
  obtain ⟨hdctx, hdphys, hdteams, hdretired, hdslack, hdnow⟩ :=
    digest_left w a.tid a.id a.va a.pa a.n (atomicValue a.n old a.data a.data2 k uns ty rnd)
  generalize w.digest a.tid a.id a.va a.pa a.n (atomicValue a.n old a.data a.data2 k uns ty rnd) = d at *
  subst hw
  rw [reply_of_prompt (hdslack.trans (hslack.trans hprompt)), if_neg (by change a.kind ≠ .ldn; rw [hk]; exact nofun)]
  have hnow : d.now = s.now := hdnow.trans (State.besideSlices_now (t := u) hbeside)
  obtain ⟨hbytes, hothers⟩ := bytes_of_poke (t := d) hsingle hpage hdphys (hdteams.trans hteams) (hdretired.trans hretired)
  refine ⟨hbytes, hothers, ⟨_, (State.mem_sched ..).2 (.inl rfl), ?_, _, rfl, rfl, rfl, rfl⟩, fun v => ?_⟩
  · dsimp only
    rw [hnow]
    omega
  · have hv : d.ctx v = s.ctx v := (hdctx v).trans (hctx v)
    exact ⟨congrArg Ctx.g hv, congrArg Ctx.pc hv⟩
end
section
/-!
PROOFS. Lines arrive at a slice, and translations and walks start (O26).
-/

namespace Sys2Proof.Machine

/-! The entry of a line leaves the dies, and the errors of memory. -/

/-- The dies and the errors of memory are as before. -/
structure ErrsKept (s t : State) : Prop where
  dies : t.dies = s.dies
  errs : t.errs = s.errs

theorem ErrsKept.trans {s t u : State} (h : ErrsKept s t) (g : ErrsKept t u) : ErrsKept s u :=
  ⟨g.dies.trans h.dies, g.errs.trans h.errs⟩

theorem errsKept_revokeLine (s : State) (pa : Nat) (l : SLine) : ErrsKept s (s.revokeLine pa l).1 := by
  unfold State.revokeLine
  split
  · exact ⟨rfl, rfl⟩
  · split <;> exact ⟨rfl, rfl⟩

theorem errsKept_evictSline (s : State) (cl key : Nat) (l : SLine) : ErrsKept s (s.evictSline cl key l) :=
  (errsKept_revokeLine s (key % 2 ^ 46 * 64) l).trans ⟨rfl, rfl⟩

theorem errsKept_sliceWay {s t : State} {cl key w : Nat} (h : s.sliceWay cl key = some (w, t)) : ErrsKept s t := by
  unfold State.sliceWay at h
  dsimp only at h
  split at h
  · cases h
    exact ⟨rfl, rfl⟩
  · split at h
    · cases h
      refine .trans ?_ (errsKept_evictSline ..)
      exact List.foldlRecOn (motive := fun u : State => ErrsKept s u) _ _ ⟨rfl, rfl⟩ fun u hu x _ => ⟨hu.dies, hu.errs⟩
    · cases h

theorem errsKept_setSline (s : State) (team : BitVec 16) (pa : Nat) (l : Option SLine) : ErrsKept s (s.setSline team pa l) := by
  unfold State.setSline
  dsimp only
  split
  · exact ⟨rfl, rfl⟩
  · exact ⟨rfl, rfl⟩
  · split
    · next h => exact (errsKept_sliceWay h).trans ⟨rfl, rfl⟩
    · exact ⟨rfl, rfl⟩

/-- The package but for its clusters, the agenda and the messages to peers. -/
def State.besideListing (s : State) : State := { s with clusters := [], agenda := [], seq := 0, linkWait := [] }

theorem besideListing_fillSline (s : State) (team : BitVec 16) (pa : Nat) : (s.fillSline team pa).besideListing = s.besideListing := by
  obtain ⟨hdies, herrs⟩ := errsKept_setSline s team pa (some ((s.slineAt team pa).getD .clean))
  have h := congrArg (fun u : State => { u with dies := s.dies, errs := s.errs }) (besideSlices_fillSline s team pa)
  have hself (t : State) : t.besideListing = { t.besideSlices with dies := t.dies, errs := t.errs } := rfl
  rw [hself, hself, show (s.fillSline team pa).dies = s.dies from hdies, show (s.fillSline team pa).errs = s.errs from herrs]
  exact h

theorem holdsBytes_loadBytes (s : State) (team : BitVec 16) (pa n : Nat) :
    Claims.HoldsBytes (fun x => (s.loadByte team x).toNat) pa n (s.loadBytes team pa n) := by
  intro b hb
  induction n generalizing b pa with
  | zero => omega
  | succ n ih =>
    have hlt := (s.loadByte team pa).isLt
    cases b with
    | zero => simp only [State.loadBytes, Nat.pow_zero, Nat.div_one, Nat.add_zero]; omega
    | succ b =>
      rw [State.loadBytes, Nat.pow_succ', ← Nat.div_div_eq_div_mul, Nat.add_mul_div_left _ _ (by decide), Nat.div_eq_of_lt hlt,
        Nat.zero_add, ← ih (pa + 1) b (Nat.lt_of_succ_lt_succ hb), Nat.add_right_comm, Nat.add_assoc]

theorem kind_answer (a : Acc) (good : BitVec 16) (f : Option Flt) : (answer a good f).kind = a.kind := rfl

theorem accFault_answer_none (a : Acc) (good : BitVec 16) : accFault (answer a good none) = none := by
  have hgood := good.isLt
  have hfield : (good.toNat + 2 ^ 16 * 0 + 2 ^ 48 * accIndex a) / 2 ^ 16 % 2 ^ 32 = 0 := by omega
  simp only [accFault, answer, packFault, hfield, unpackFault, if_true]

end Sys2Proof.Machine
namespace Sys2Proof.Claims

open Sys2Proof.Machine

/-- R188, R195: what a load finds at its home slice over memory without errors. -/
theorem loadPerform_of_sound {s : State} {a : Acc} (hlive : s.isRetired a.pa = false) (herrs : s.errs = []) :
    let u := s.fillSline (s.teamNo a.tid) a.pa
    let data := u.loadBytes (s.teamNo a.tid) (a.pa / 64 * 64) 64
    ∃ good, s.loadPerform a = u.reply (answer { a with data := data } good none) (60 + s.far a.tid.core a.pa) := by
  have hfilled : (s.fillSline (s.teamNo a.tid) a.pa).errs = [] := (errsKept_setSline ..).errs.trans herrs
  refine ⟨wordMask fun w => decide ((s.fillSline (s.teamNo a.tid) a.pa).errAt (a.pa / 64 * 64 + 4 * w) 4 ≠ .uncorrectable), ?_⟩
  simp only [State.loadPerform, hlive, errAt_of_sound herrs, badWriteBack_of_sound herrs, correct_of_sound hfilled, Bool.false_eq_true,
    reduceCtorEq, if_false]

/-- R189: the line is listed, clean; the second entry, at the load's performance, changes no more than the first. -/
theorem slineAt_fillSline {s : State} {team : BitVec 16} {pa : Nat} (herrs : s.errs = [])
    (hway : ∃ w < 16, w ∉ (s.cluster (s.home pa)).badWays) :
    ∃ w, (s.fillSline team pa).slineAt team pa = some { (s.slineAt team pa).getD .clean with way := w, used := s.now } :=
  slineAt_setSline_of_room (.inr ⟨herrs, hway⟩) _

theorem slineAt_fillSline_of_listed {s : State} {team : BitVec 16} {pa : Nat} {l : SLine} (h : s.slineAt team pa = some l) :
    ∃ w, (s.fillSline team pa).slineAt team pa = some { l with way := w, used := s.now } := by
  have hself : (s.slineAt team pa).getD .clean = l := by rw [h]; rfl
  rw [State.fillSline, hself]
  exact slineAt_setSline_of_room (.inl (h ▸ Option.some_ne_none l)) l

theorem sliceLineFills : SliceLineFills := by
  intro s a hk team hr hnone
  have hlisting := besideListing_fillSline s team a.pa
  obtain ⟨w, hline⟩ := slineAt_fillSline (team := team) hr.clean hr.way
  rw [hnone] at hline
  have hrun : exec (.sliceLineFill a) s = .next ((s.fillSline team a.pa).loadPerform a) := by
    have hfetch : fetches a.kind = true := by rw [hk]; rfl
    simp only [exec_sliceLineFill, execSliceLineFill, hfetch, if_true]
    rfl
  generalize s.fillSline team a.pa = u at hlisting hline hrun
  have hteam : u.teamNo a.tid = team := by
    have := congrArg (fun x : State => x.teamNo a.tid) hlisting; exact this
  have hnow : u.now = s.now := congrArg (·.now) hlisting
  obtain ⟨good, hperf⟩ := loadPerform_of_sound (s := u) (a := a) ((congrArg (·.isRetired a.pa) hlisting).trans hr.live)
    ((congrArg (·.errs) hlisting).trans hr.clean)
  rw [hteam] at hperf
  have hlisting' := (besideListing_fillSline u team a.pa).trans hlisting
  obtain ⟨w', hline'⟩ := slineAt_fillSline_of_listed hline
  rw [hnow] at hline'
  generalize u.fillSline team a.pa = v at hperf hlisting' hline'
  have hfar : u.far a.tid.core a.pa = s.far a.tid.core a.pa := congrArg (·.far a.tid.core a.pa) hlisting
  have hbytes (x : Nat) : v.loadByte team x = s.loadByte team x := congrArg (·.loadByte team x) hlisting'
  have hcores : v.cores = s.cores := congrArg (·.cores) hlisting'
  have hslack : v.slack = [] := (congrArg (·.slack) hlisting').trans hr.prompt
  have hnow' : v.now = s.now := congrArg (·.now) hlisting'
  have hblocks : a.kind ≠ .ldn := by rw [hk]; exact nofun
  rw [reply_of_prompt hslack, kind_answer, if_neg hblocks, hfar, hnow'] at hperf
  have hload := holdsBytes_loadBytes v team (a.pa / 64 * 64) 64
  generalize v.loadBytes team (a.pa / 64 * 64) 64 = data at hperf hload
  simp only [hbytes] at hload
  rw [hperf] at hrun
  refine ⟨_, hrun, ⟨_, hline', rfl, rfl, rfl⟩, ⟨_, (State.mem_sched ..).2 (.inl rfl), ?_, _, rfl, rfl, rfl, accFault_answer_none .., hload⟩,
    congrArg (·.phys) hlisting', fun x => ?_⟩
  · dsimp only
    omega
  · rw [State.landAt, State.ctx_sched, State.ctx, State.slot, State.core, hcores]
    rfl

/-! Translations at the second level (R317). -/

theorem mem_pushTlb (cap : Nat) (l : List Tlb) (e : Tlb) : e ∈ pushTlb cap l e := List.mem_append.2 (.inr (List.mem_singleton.2 rfl))

theorem pageWalkStarts : PageWalkStarts := by
  intro s a hk cl d
  refine ⟨fun e he => ?_, fun hmiss hbusy => ?_, fun root hmiss hfree hroot => ?_⟩
  · have hrun : exec (.pageWalk a) s =
        .next ((s.modCore a.tid.core fun c => { c with tlb := pushTlb 256 c.tlb e }).actAt s.now (.translated a none)) := by
      cases hkind : a.kind with
      | walk b => exact absurd hkind (hk b)
      | _ => simp only [exec_pageWalk, execPageWalk, show findTlb (s.cluster (clusterOf a.tid.core)).tlb2 a.pasid a.va = some e from he, hkind]
    refine ⟨_, hrun, ?_, ⟨_, (State.mem_sched ..).2 (.inl rfl), rfl, rfl⟩, fun u => ?_⟩
    · rw [State.actAt, State.core_sched, State.core_modCore_self]
      exact mem_pushTlb ..
    · rw [State.actAt, State.ctx_sched]
      exact State.ctx_modCore_of_slots s a.tid.core (fun c => { c with tlb := pushTlb 256 c.tlb e }) (fun _ => rfl) u
  · refine ⟨s.modDie d fun x => { x with walkWait := x.walkWait ++ [a] }, ?_, by rw [State.die_modDie_self], rfl⟩
    simp only [exec_pageWalk, execPageWalk, show findTlb (s.cluster (clusterOf a.tid.core)).tlb2 a.pasid a.va = none from hmiss]
    exact congrArg Host.Outcome.next (if_pos hbusy)
  · have hpasid : s.pasidFault a.pasid a.tenant a.va = none := by
      simp only [State.pasidFault, hroot, ne_eq, not_true, if_false]
    have hwalk : s.startWalk a = (s.modDie d fun x => { x with walkers := x.walkers + 1 }).actAt
        (s.now + s.walkTime d (entryAddr a.va 1 root)) (.walk a 1 root) := by
      simp only [State.startWalk, hpasid, hroot]
      rfl
    refine ⟨s.startWalk a, ?_, ?_, ?_⟩
    · simp only [exec_pageWalk, execPageWalk, show findTlb (s.cluster (clusterOf a.tid.core)).tlb2 a.pasid a.va = none from hmiss]
      exact congrArg Host.Outcome.next (if_neg (Nat.not_le.2 hfree))
    · rw [hwalk]
      exact congrArg Die.walkers (State.die_modDie_self s d fun x => { x with walkers := x.walkers + 1 })
    · rw [hwalk]
      exact ⟨_, (State.mem_sched ..).2 (.inl rfl), rfl, rfl⟩

end Sys2Proof.Claims

open Sys2Proof.Claims

/-- Settles O26: the entry of the line changes no byte that the load reads; a translation is one look in the second level. -/
theorem sliceLinesAndWalks : Obligations.SliceLinesAndWalks := ⟨sliceLineFills, pageWalkStarts⟩
end
section
/-!
PROOFS. Commands of a tile walk enter and leave their queues (R234).
-/

namespace Sys2Proof.Machine

/-! What work on a command queue leaves. -/

/-- A core without its command queues and their joins. -/
def Core.besideQueues (c : Core) : Core := { c with cmdqs := [], joins := [] }

/-- Beside the commands that a core's queues hold, their joins and the agenda, nothing differs. -/
structure QueueWork (s t : State) : Prop where
  cores    : ∀ k, (t.core k).besideQueues = (s.core k).besideQueues
  clusters : t.clusters = s.clusters
  phys     : t.phys = s.phys
  now      : t.now = s.now

section
variable {s t u : State}

theorem QueueWork.refl (s : State) : QueueWork s s := ⟨fun _ => rfl, rfl, rfl, rfl⟩

theorem QueueWork.trans (h : QueueWork s t) (g : QueueWork t u) : QueueWork s u :=
  ⟨fun k => (g.cores k).trans (h.cores k), g.clusters.trans h.clusters, g.phys.trans h.phys, g.now.trans h.now⟩

theorem QueueWork.sched (h : QueueWork s t) (due phase : Nat) (ev : Ev) : QueueWork s (t.sched due phase ev) := ⟨h.cores, h.clusters, h.phys, h.now⟩

theorem QueueWork.slot (h : QueueWork s t) (v : Tid) : t.slot v = s.slot v := by
  have : (t.core v.core).slots = (s.core v.core).slots := (congrArg Core.slots (h.cores v.core) :)
  rw [State.slot, State.slot, Core.slot, Core.slot, this]

theorem QueueWork.ctx (h : QueueWork s t) (v : Tid) : t.ctx v = s.ctx v := congrArg Slot.ctx (h.slot v)

theorem QueueWork.cluster (h : QueueWork s t) (cl : Nat) : t.cluster cl = s.cluster cl := by
  rw [State.cluster, State.cluster, h.clusters]

theorem QueueWork.localRead (h : QueueWork s t) (k a n : Nat) : t.localRead k a n = s.localRead k a n := by
  have : (t.core k).mem = (s.core k).mem := (congrArg Core.mem (h.cores k) :)
  rw [State.localRead, State.localRead, this]

theorem QueueWork.stalled (h : QueueWork s t) (k : Nat) : (t.core k).stalled = (s.core k).stalled :=
  (congrArg Core.stalled (h.cores k) :)

end

theorem queueWork_modCore (s : State) (k : Nat) {f : Core → Core}
    (hf : ∀ c, (f c).besideQueues = c.besideQueues) : QueueWork s (s.modCore k f) := by
  refine ⟨fun j => ?_, rfl, rfl, rfl⟩
  rw [State.core_modCore]
  split
  · next h => rw [h]; exact hf _
  · rfl

theorem queueWork_modCmdq (s : State) (k q : Nat) (f : List Cmd → List Cmd) : QueueWork s (s.modCmdq k q f) :=
  queueWork_modCore s k fun _ => rfl

theorem queueWork_wakeNext (s : State) (k : Nat) (keys : List Nat) : QueueWork s (s.wakeNext k keys) := by
  rw [wakeNext_eq]
  split
  · exact (QueueWork.refl s).sched ..
  · exact .refl s

theorem cmdq_modCmdq (s : State) (k q : Nat) (f : List Cmd → List Cmd) (j p : Nat) : ((s.modCmdq k q f).core j).cmdq p =
    if j = k ∧ p = q then f ((s.core k).cmdq q) else (s.core j).cmdq p := by
  rw [State.modCmdq, State.core_modCore]
  by_cases hj : j = k
  · subst hj
    rw [if_pos rfl, Core.cmdq, Sparse.get_put]
    by_cases hp : p = q
    · rw [if_pos hp, if_pos ⟨rfl, hp⟩]
    · rw [if_neg hp, if_neg fun h => hp h.2, Core.cmdq]
  · rw [if_neg hj, if_neg fun h => hj h.1]

/-! Heads become eligible (R234). -/

/-- What eligibility keeps of a command. -/
def Cmd.standing (c : Cmd) : Nat × Bool := (c.id, c.entered)

/-- The commands of every queue stand as they stood, and nothing beside the queues differs. -/
def Stands (s t : State) : Prop :=
  QueueWork s t ∧ ∀ j p, ((t.core j).cmdq p).map Cmd.standing = ((s.core j).cmdq p).map Cmd.standing

theorem Stands.sched {s t : State} (h : Stands s t) (due phase : Nat) (ev : Ev) : Stands s (t.sched due phase ev) := ⟨h.1.sched .., h.2⟩

/-- R234: the head of a queue becomes eligible. -/
theorem stands_eligible {s t : State} (h : Stands s t) {k q : Nat} {c : Cmd} {l : List Cmd} (hq : (t.core k).cmdq q = c :: l) (elig : Nat) :
    Stands s (t.modCmdq k q fun _ => { c with elig := elig } :: l) := by
  refine ⟨h.1.trans (queueWork_modCmdq ..), fun j p => ?_⟩
  rw [← h.2 j p, cmdq_modCmdq]
  split
  · next hjp => obtain ⟨rfl, rfl⟩ := hjp; rw [hq]; rfl
  · rfl

theorem stands_heads (s : State) (k : Nat) : Stands s (s.heads k) := by
  unfold State.heads
  split
  next t any hfold =>
  have h : Stands s (t, any).1 := by
    rw [← hfold]
    refine List.foldlRecOn (motive := fun x : State × Bool => Stands s x.1) _ _ ⟨.refl s, fun _ _ => rfl⟩ fun x hx q _ => ?_
    dsimp only
    split
    · next c l hq =>
      split
      · exact stands_eligible hx hq _
      · exact hx
    · exact hx
  split
  · exact h.sched ..
  · exact h

/-- A command that stands in a queue still does. -/
theorem Stands.mem {s t : State} (h : Stands s t) {j p : Nat} {c : Cmd} (hc : c ∈ (s.core j).cmdq p) :
    ∃ c' ∈ (t.core j).cmdq p, c'.id = c.id ∧ c'.entered = c.entered := by
  have : c.standing ∈ ((t.core j).cmdq p).map Cmd.standing := h.2 j p ▸ List.mem_map_of_mem hc
  obtain ⟨c', hc', he⟩ := List.mem_map.1 this
  exact ⟨c', hc', congrArg Prod.fst he, congrArg Prod.snd he⟩

theorem Stands.mem_of {s t : State} (h : Stands s t) {j p : Nat} {c : Cmd} (hc : c ∈ (t.core j).cmdq p) :
    ∃ c' ∈ (s.core j).cmdq p, c'.id = c.id := by
  have : c.standing ∈ ((s.core j).cmdq p).map Cmd.standing := h.2 j p ▸ List.mem_map_of_mem hc
  obtain ⟨c', hc', he⟩ := List.mem_map.1 this
  exact ⟨c', hc', congrArg Prod.fst he⟩

theorem bothWc_of_unpaired {s : State} {t : Tid} (h : (s.ctx t).paired = false) (f : State → Tid → State) : s.bothWc t f = f s t := by
  rw [State.bothWc, h]
  rfl

/-- R328: a rise changes one counter of one thread. -/
theorem riseWc_ctx (s : State) (t : Tid) (n : BitVec 2) (u : Tid) :
    (s.riseWc t n).ctx u = if u = t then (s.ctx t).wwc n ((s.ctx t).rwc n + 1) else s.ctx u := State.ctx_modCtx ..

theorem cmdq_modSlot (s : State) (t : Tid) (f : Slot → Slot) (k q : Nat) : ((s.modSlot t f).core k).cmdq q = (s.core k).cmdq q := by
  rw [State.core_modSlot]
  split
  · next h => subst h; rfl
  · rfl

/-! A command leaves its queue. -/

theorem forgotten (c : Core) (id q : Nat) : ∀ y ∈ (c.forget id).cmdq q, y.id ≠ id := by
  intro y hy
  have hne : (c.forget id).cmdq q ≠ [] := List.ne_nil_of_mem hy
  obtain ⟨⟨p, l⟩, -, hp⟩ := List.mem_map.1 (List.mem_filter.1 (Sparse.mem_of_get hne)).1
  have hl : (l.filter fun x => x.id ≠ id).map (fun x => { x with after := x.after.filter (· ≠ id) }) = (c.forget id).cmdq q :=
    congrArg Prod.snd hp
  obtain ⟨x, hx, rfl⟩ := List.mem_map.1 (hl ▸ hy)
  exact of_decide_eq_true (List.mem_filter.1 hx).2

section
variable {c : Cmd} (hp : c.packs = false) (s : State) (k q : Nat)
include hp

theorem battenCores_of_plain : c.battenCores = [] := by rw [Cmd.battenCores, hp]; rfl

theorem leaveQueue_of_plain : s.leaveQueue k q c = ((s.modCore k fun x => x.forget c.id).wakeNext k [Res.cmdq q]).heads k := by
  unfold State.leaveQueue
  rw [battenCores_of_plain hp, List.foldl_nil]

theorem queueWork_leaveQueue : QueueWork s (s.leaveQueue k q c) := by
  rw [leaveQueue_of_plain hp]
  have hforget : QueueWork s (s.modCore k fun x => x.forget c.id) := queueWork_modCore s k fun _ => rfl
  exact (hforget.trans (queueWork_wakeNext ..)).trans (stands_heads ..).1

theorem left_leaveQueue (p : Nat) : ∀ y ∈ ((s.leaveQueue k q c).core k).cmdq p, y.id ≠ c.id := by
  intro y hy
  rw [leaveQueue_of_plain hp] at hy
  obtain ⟨x, hx, hid⟩ := (stands_heads ..).mem_of hy
  rw [State.core, wakeNext_cores] at hx
  change x ∈ ((s.modCore k _).core k).cmdq p at hx
  rw [State.core_modCore_self] at hx
  exact hid ▸ forgotten _ _ _ x hx

end

/-! Counters that fall (R246). -/

/-- A fall changes the counter, and may make the thread ready. -/
theorem fallWc_eq (s : State) (t : Tid) (n : BitVec 2) : let m := s.modCtx t fun c => c.wwc n (c.rwc n - 1)
    s.fallWc t n = m ∨ s.fallWc t n = m.setSt t .ready := by
  unfold State.fallWc
  dsimp only
  split
  · split
    · exact .inl rfl
    · exact .inr rfl
  · split
    · exact .inr rfl
    · exact .inl rfl
  · exact .inl rfl

section
variable (s : State) (t : Tid) (n : BitVec 2)

theorem fallWc_ctx (u : Tid) : (s.fallWc t n).ctx u = if u = t then (s.ctx t).wwc n ((s.ctx t).rwc n - 1) else s.ctx u := by
  rcases fallWc_eq s t n with h | h
  · rw [h, State.ctx_modCtx]
  · rw [h, State.ctx_setSt, State.ctx_modCtx]

theorem fallWc_slot : ((s.fallWc t n).slot t).bind = (s.slot t).bind ∧ ((s.fallWc t n).slot t).deferred = (s.slot t).deferred ∧
    ((s.slot t).st ≠ .empty → ((s.fallWc t n).slot t).st ≠ .empty) := by
  rcases fallWc_eq s t n with h | h
  · rw [h, State.modCtx, State.slot_modSlot_self]
    exact ⟨rfl, rfl, id⟩
  · rw [h, State.slot_setSt, if_pos rfl, State.modCtx, State.slot_modSlot_self]
    exact ⟨rfl, rfl, fun _ h => nomatch h⟩

theorem fallWc_frame : (s.fallWc t n).clusters = s.clusters ∧ (s.fallWc t n).phys = s.phys := by
  rcases fallWc_eq s t n with h | h <;> rw [h] <;> exact ⟨rfl, rfl⟩

theorem localRead_modSlot (f : Slot → Slot) (k a m : Nat) : (s.modSlot t f).localRead k a m = s.localRead k a m := by
  rw [State.localRead, State.core_modSlot]
  split
  · next h => subst h; rfl
  · rfl

theorem fallWc_localRead (k a m : Nat) : (s.fallWc t n).localRead k a m = s.localRead k a m := by
  rcases fallWc_eq s t n with h | h
  · rw [h]; exact localRead_modSlot ..
  · rw [h]; exact (localRead_modSlot ..).trans (localRead_modSlot ..)

end

end Sys2Proof.Machine

namespace Sys2Proof.Claims

open Sys2Proof.Machine

theorem commandEnters : CommandEnters := by
  intro s k q c hfind hk hp
  let m := s.modCmdq k q fun l => l.map fun x => if x.id = c.id then { x with entered := true } else x
  have hm : QueueWork s m := queueWork_modCmdq ..
  have hrun : perform (.enqueue k q c.id) s = .next ((m.riseWc c.tid c.wc).heads k) := by
    change Host.Outcome.next (s.enqueueCmd k q c.id) = _
    simp only [State.enqueueCmd, hfind]
    rw [bothWc_of_unpaired (by rw [hm.ctx]; exact hp)]
  have hstands := stands_heads (m.riseWc c.tid c.wc) k
  refine ⟨_, hrun, ?_, fun u hu => ?_, ?_, hstands.1.phys.trans hm.phys⟩
  · rw [hstands.1.ctx, riseWc_ctx, if_pos rfl, hm.ctx]
  · rw [hstands.1.ctx, riseWc_ctx, if_neg hu, hm.ctx]
  · have hc : { c with entered := true } ∈ ((m.riseWc c.tid c.wc).core k).cmdq q := by
      rw [State.riseWc, State.modCtx, cmdq_modSlot, cmdq_modCmdq, if_pos ⟨rfl, rfl⟩]
      exact List.mem_map.2 ⟨c, List.mem_of_find?_eq_some hfind, if_pos rfl⟩
    obtain ⟨c', hc', hid, hent⟩ := hstands.mem hc
    exact ⟨c', hc', hid, hent⟩


section
variable {s : State} {cl k : Nat} {r : Run} {others : List Run}

/-- The command's engine has it no more. -/
def engineFreed (s : State) (cl id : Nat) : State :=
  (s.modCluster cl fun x => { x with engines := x.engines.filter fun y => y.cmd.id ≠ id }).sched s.now (Phase.engine cl 0) (.act (.engines cl))

theorem engines_engineFreed (hengines : (s.cluster cl).engines = r :: others) (hothers : ∀ x ∈ others, x.cmd.id ≠ r.cmd.id) :
    ((engineFreed s cl r.cmd.id).cluster cl).engines = others := by
  rw [engineFreed, State.cluster_sched, State.cluster_modCluster_self]
  dsimp only
  rw [hengines, List.filter_cons_of_neg (by simp)]
  exact List.filter_eq_self.2 fun x hx => decide_eq_true (hothers x hx)

end

section
variable {s : State} {k : Nat} {r : Run}

/-- The command's counter falls as its engine frees itself. -/
def counterFell (s : State) (k : Nat) (c : Cmd) : State := (engineFreed s (clusterOf k) c.id).fallWc c.tid c.wc

/-- A queue that a slot's fault holds. -/
def holdQueue (q : Nat) (v : Nat × Flt) (c : Core) : Core := { c with stalled := c.stalled.put none q (some v) }

/-- A thread with one more deferred fault. -/
def deferring (f : Flt) (x : Slot) : Slot := { x with deferred := x.deferred ++ [f] }

/-- R243: the fault that has stopped the command, deferred to its thread; it holds the queue. -/
def faultHeld (s : State) (k : Nat) (c : Cmd) (f : Flt) : State :=
  (s.modSlot c.tid (deferring f)).modCore k (holdQueue c.queue (c.tid.slot, f))

/-- A command of a core's queue that completes: its counter falls, its fault is deferred, and it leaves. -/
theorem commandCompletion_own (hrun : (s.cluster (clusterOf k)).run r.cmd.id = some r) (hqueue : r.cmd.queue < 8) :
    let c := r.cmd
    let e := engineFreed s (clusterOf k) c.id
    let live := (e.slot c.tid).st ≠ .empty ∧ (e.slot c.tid).bind = c.bind
    let b := if live then e.bothWc c.tid fun s t => s.fallWc t c.wc else e
    exec (.commandCompletion k c.id) s = .next (State.leaveQueue (match r.fault with
      | none => if decide (c.messages ≤ r.limit) then b.remDone c else b
      | some f =>
        if live then (b.deferFault c.tid c.bind f).modCore k fun x => { x with stalled := x.stalled.put none c.queue (some (c.tid.slot, f)) }
        else b) k c.queue c) := by
  have hridge : r.cmd.isRidge = false := decide_eq_false (Nat.not_le_of_lt hqueue)
  change execCommandCompletion k r.cmd.id s = _
  simp only [execCommandCompletion, hrun, hridge, Bool.false_eq_true, if_false]
  rfl

theorem commandCompletion_eq (hrun : (s.cluster (clusterOf k)).run r.cmd.id = some r) (hplain : PlainWalk r.cmd)
    (hlive : (s.slot r.cmd.tid).st ≠ .empty) (hbind : (s.slot r.cmd.tid).bind = r.cmd.bind) (hp : (s.ctx r.cmd.tid).paired = false) :
    exec (.commandCompletion k r.cmd.id) s = .next (State.leaveQueue (match r.fault with
      | none => counterFell s k r.cmd
      | some f => faultHeld (counterFell s k r.cmd) k r.cmd f) k r.cmd.queue r.cmd) := by
  let e := engineFreed s (clusterOf k) r.cmd.id
  have hlive' : (e.slot r.cmd.tid).st ≠ .empty ∧ (e.slot r.cmd.tid).bind = r.cmd.bind := ⟨hlive, hbind⟩
  have hfell : (e.bothWc r.cmd.tid fun s t => s.fallWc t r.cmd.wc) = counterFell s k r.cmd := bothWc_of_unpaired (s := e) hp _
  obtain ⟨hop, -, hqueue⟩ := hplain
  rw [commandCompletion_own hrun hqueue, if_pos hlive', hfell]
  obtain ⟨hb, -, he⟩ := fallWc_slot e r.cmd.tid r.cmd.wc
  cases r.fault with
  | none =>
    have hrem : (counterFell s k r.cmd).remDone r.cmd = counterFell s k r.cmd := if_pos (Or.inl (by rw [hop]; decide))
    dsimp only
    rw [hrem, ite_self]
  | some f =>
    dsimp only
    rw [if_pos hlive', deferFault_of_bound (s := counterFell s k r.cmd) (he hlive) (hb.trans hbind)]
    rfl

/-- The completed command's thread, its engine and its queue, as it leaves after its counter has fallen. -/
theorem done_leaveQueue {u : State} {others : List Run} (hpacks : r.cmd.packs = false)
    (hengines : (s.cluster (clusterOf k)).engines = r :: others) (hothers : ∀ x ∈ others, x.cmd.id ≠ r.cmd.id)
    (hctx : ∀ v, u.ctx v = (counterFell s k r.cmd).ctx v) (hclusters : u.clusters = (counterFell s k r.cmd).clusters)
    (hphys : u.phys = (counterFell s k r.cmd).phys)
    (hlocal : ∀ a, u.localRead k a 1 = (counterFell s k r.cmd).localRead k a 1) :
    let c := r.cmd
    let t := u.leaveQueue k c.queue c
    t.ctx c.tid = (s.ctx c.tid).wwc c.wc ((s.ctx c.tid).rwc c.wc - 1) ∧ (∀ v, v ≠ c.tid → t.ctx v = s.ctx v) ∧
      (t.cluster (clusterOf k)).engines = others ∧ (∀ y ∈ (t.core k).cmdq c.queue, y.id ≠ c.id) ∧ t.phys = s.phys ∧
      ∀ a, t.localRead k a 1 = s.localRead k a 1 := by
  have hq := queueWork_leaveQueue hpacks u k r.cmd.queue
  obtain ⟨hfellClusters, hfellPhys⟩ := fallWc_frame (engineFreed s (clusterOf k) r.cmd.id) r.cmd.tid r.cmd.wc
  refine ⟨?_, fun v hv => ?_, ?_, left_leaveQueue hpacks u k _ _, ?_, fun a => ?_⟩
  · rw [hq.ctx, hctx, counterFell, fallWc_ctx, if_pos rfl]; rfl
  · rw [hq.ctx, hctx, counterFell, fallWc_ctx, if_neg hv]; rfl
  · rw [hq.cluster, State.cluster, hclusters, counterFell, hfellClusters]
    exact engines_engineFreed hengines hothers
  · rw [hq.phys, hphys, counterFell, hfellPhys]; rfl
  · rw [hq.localRead, hlocal, counterFell, fallWc_localRead]; rfl

theorem slot_faultHeld (s : State) (k : Nat) (c : Cmd) (f : Flt) (v : Tid) :
    (faultHeld s k c f).slot v = if v = c.tid then deferring f (s.slot c.tid) else s.slot v :=
  (slot_modCore_of_slots _ k (f := holdQueue c.queue (c.tid.slot, f)) (fun _ => rfl) v).trans (State.slot_modSlot ..)

theorem ctx_faultHeld (s : State) (k : Nat) (c : Cmd) (f : Flt) (v : Tid) : (faultHeld s k c f).ctx v = s.ctx v := by
  rw [State.ctx, slot_faultHeld]
  split
  · next h => rw [h]; rfl
  · rfl

theorem faultHeld_clusters (s : State) (k : Nat) (c : Cmd) (f : Flt) : (faultHeld s k c f).clusters = s.clusters := rfl
theorem faultHeld_phys (s : State) (k : Nat) (c : Cmd) (f : Flt) : (faultHeld s k c f).phys = s.phys := rfl

theorem localRead_faultHeld (s : State) (k : Nat) (c : Cmd) (f : Flt) (a : Nat) :
    (faultHeld s k c f).localRead k a 1 = s.localRead k a 1 := by
  rw [faultHeld, State.localRead, State.core_modCore_self]
  exact localRead_modSlot ..

theorem stalled_faultHeld (s : State) (k : Nat) (c : Cmd) (f : Flt) :
    ((faultHeld s k c f).core k).stalled.get none c.queue = some (c.tid.slot, f) := by
  rw [faultHeld, State.core_modCore_self, holdQueue]
  dsimp only
  rw [Sparse.get_put_self]

end

theorem commandCompletes : CommandCompletes := by
  rintro s cl k r others rfl hengines hothers hplain hk c x hlive hbind hp done
  have hpacks : c.packs = false := hplain.2.1
  have hrun : (s.cluster (clusterOf k)).run c.id = some r := by
    rw [Cluster.run, hengines]
    exact List.find?_cons_of_pos (beq_self_eq_true _)
  have heq := commandCompletion_eq hrun hplain hlive hbind hp
  obtain ⟨-, hdeferred, -⟩ := fallWc_slot (engineFreed s (clusterOf k) c.id) c.tid c.wc
  constructor
  · intro hfault
    rw [hfault] at heq
    refine ⟨_, heq, done_leaveQueue hpacks hengines hothers (fun _ => rfl) rfl rfl fun _ => rfl, ?_⟩
    rw [(queueWork_leaveQueue hpacks ..).slot]
    exact hdeferred
  · intro f hfault
    rw [hfault] at heq
    have hq := queueWork_leaveQueue hpacks (faultHeld (counterFell s k c) k c f) k c.queue
    refine ⟨_, heq, done_leaveQueue hpacks hengines hothers (ctx_faultHeld _ k c f) (faultHeld_clusters ..)
      (faultHeld_phys ..) (localRead_faultHeld _ k c f), ?_, ?_⟩
    · rw [hq.slot, slot_faultHeld, if_pos rfl]
      exact congrArg (· ++ [f]) hdeferred
    · rw [hq.stalled]
      exact stalled_faultHeld ..

end Sys2Proof.Claims
end
section
/-!
PROOFS. A flit of a tile-walk command lands in local memory (R186, R242, R244).
-/

namespace Sys2Proof.Machine

/-! What an engine that packs nothing changes as it frees itself and ends. -/

/-- What freeing, ending and filling leave of a run that packs nothing. -/
def Run.standing (r : Run) : Cmd × Nat × Nat × List Flit × Option Flt × List Fill := (r.cmd, r.port, r.next, r.flits, r.fault, r.fills)

/-- Beside what no run's standing shows, and entries added to the agenda, nothing differs. -/
structure EngineWork (cl : Nat) (s t : State) : Prop where
  cores   : t.cores = s.cores
  phys    : t.phys = s.phys
  now     : t.now = s.now
  agenda  : ∀ e ∈ s.agenda, e ∈ t.agenda
  engines : (t.cluster cl).engines.map Run.standing = (s.cluster cl).engines.map Run.standing

section
variable {cl : Nat} {s t u : State}

theorem EngineWork.refl (cl : Nat) (s : State) : EngineWork cl s s := ⟨rfl, rfl, rfl, fun _ h => h, rfl⟩

theorem EngineWork.trans (h : EngineWork cl s t) (g : EngineWork cl t u) : EngineWork cl s u :=
  ⟨g.cores.trans h.cores, g.phys.trans h.phys, g.now.trans h.now, fun e he => g.agenda e (h.agenda e he), g.engines.trans h.engines⟩

theorem EngineWork.sched (h : EngineWork cl s t) (due phase : Nat) (ev : Ev) : EngineWork cl s (t.sched due phase ev) :=
  ⟨h.cores, h.phys, h.now, fun e he => (State.mem_sched ..).2 (.inr (h.agenda e he)), h.engines⟩

theorem EngineWork.core (h : EngineWork cl s t) (k : Nat) : t.core k = s.core k := by rw [State.core, State.core, h.cores]

theorem EngineWork.ctx (h : EngineWork cl s t) (v : Tid) : t.ctx v = s.ctx v := by
  rw [State.ctx, State.ctx, State.slot, State.slot, h.core]

theorem EngineWork.localRead (h : EngineWork cl s t) (k a n : Nat) : t.localRead k a n = s.localRead k a n := by
  rw [State.localRead, State.localRead, h.core]

/-- The one run of a cluster still stands, alone. -/
theorem EngineWork.single {r : Run} (h : EngineWork cl s t) (hr : (s.cluster cl).engines = [r]) :
    ∃ r', (t.cluster cl).engines = [r'] ∧ r'.standing = r.standing := by
  have := h.engines
  rw [hr] at this
  obtain ⟨r', l, ht, hst, hl⟩ := List.map_eq_cons_iff.1 this
  exact ⟨r', by rw [ht, List.map_eq_nil_iff.1 hl], hst⟩

end

theorem run_of_single {c : Cluster} {r : Run} (h : c.engines = [r]) : c.run r.cmd.id = some r := by
  rw [Cluster.run, h]
  exact List.find?_cons_of_pos (beq_self_eq_true _)

theorem mem_of_run {c : Cluster} {id : Nat} {r : Run} (h : c.run id = some r) : r ∈ c.engines := List.mem_of_find?_eq_some h

theorem engineWork_modRun (s : State) (cl id : Nat) {f : Run → Run} (hf : ∀ r ∈ (s.cluster cl).engines, (f r).standing = r.standing) :
    EngineWork cl s (s.modRun cl id f) := by
  refine ⟨rfl, rfl, rfl, fun _ h => h, ?_⟩
  rw [State.modRun, State.cluster_modCluster_self, List.map_map]
  refine List.map_congr_left fun r hr => ?_
  rw [Function.comp]
  split
  · exact hf r hr
  · rfl

theorem engineWork_freeEngine (s : State) (cl id : Nat) : EngineWork cl s (s.freeEngine cl id) := by
  unfold State.freeEngine
  split
  · exact .refl ..
  · split
    · exact (engineWork_modRun s cl id (by exact fun _ _ => rfl)).sched ..
    · exact .refl ..

/-- No run of the cluster fills a batten. -/
def Cluster.fillsNone (c : Cluster) : Prop := ∀ r ∈ c.engines, r.fills = []

theorem EngineWork.fillsNone {cl : Nat} {s t : State} (h : EngineWork cl s t) (hs : (s.cluster cl).fillsNone) : (t.cluster cl).fillsNone := by
  intro r hr
  have : r.standing ∈ (s.cluster cl).engines.map Run.standing := h.engines ▸ List.mem_map_of_mem hr
  obtain ⟨r', hr', he⟩ := List.mem_map.1 this
  exact (congrArg (fun x => x.2.2.2.2.2) he).symm.trans (hs r' hr')

theorem engineWork_endRun (s : State) (cl id : Nat) (hs : (s.cluster cl).fillsNone) : EngineWork cl s (s.endRun cl id) := by
  have hfree := engineWork_freeEngine s cl id
  have hnone := hfree.fillsNone hs
  unfold State.endRun
  generalize s.freeEngine cl id = t at hfree hnone
  dsimp only
  split
  · exact hfree
  · next r hr =>
    have hfills := hnone r (mem_of_run hr)
    split
    · exact hfree
    · rw [hfills, List.foldl_nil, List.isEmpty_nil, if_pos rfl]
      refine ((hfree.trans (engineWork_modRun t cl id fun x hx => ?_)).sched ..).sched ..
      rw [Run.standing, Run.standing, hnone x hx]
      rfl

/-! A flit in local memory. -/

/-- The bytes written, and the core woken. -/
def State.flitBytes (s : State) (k : Nat) (f : Flit) : State :=
  let s := (s.localWrite k f.near f.n f.data).wake k
  { s with localErrs := clearErrs s.localErrs (localErrBase k) f.near f.n }

/-- What a flit writes in the local memory of a core, and the granules that it covers whole become FULL. -/
def State.flitStored (s : State) (k : Nat) (f : Flit) : State :=
  if (wholeGranules f.near f.n).2 = 0 then s.flitBytes k f
  else (s.flitBytes k f).setLocalFull k (wholeGranules f.near f.n).1 (wholeGranules f.near f.n).2 true

theorem flitWrite_of_local {s : State} {cl k : Nat} {r : Run} {f : Flit} (hnear : r.cmd.near = .localMem) (hcores : f.cores = [k]) :
    s.flitWrite cl r f = s.flitStored k f := by
  unfold State.flitWrite
  simp only [hnear, hcores]
  rfl

/-- The granules that n bytes at a cover whole. -/
theorem whole_mem_granules {a n g : Nat} (hlo : a ≤ 16 * g) (hhi : 16 * g + 16 ≤ a + n) :
    (wholeGranules a n).2 ≠ 0 ∧ g ∈ granules (wholeGranules a n).1 (wholeGranules a n).2 := by
  have hne : 0 < (wholeGranules a n).2 := by
    unfold wholeGranules
    dsimp only
    omega
  refine ⟨Nat.pos_iff_ne_zero.1 hne, (mem_granules_iff hne).2 ?_⟩
  unfold wholeGranules
  dsimp only
  omega

theorem unqueue_beside (s : State) (cl id : Nat) : (s.unqueue cl id).cores = s.cores ∧ (s.unqueue cl id).phys = s.phys ∧
    (s.unqueue cl id).now = s.now := by
  unfold State.unqueue
  split <;> exact ⟨rfl, rfl, rfl⟩

theorem localRead_localWrite_congr {s t : State} (h : t.cores = s.cores) (k a n v j x m : Nat) :
    (t.localWrite k a n v).localRead j x m = (s.localWrite k a n v).localRead j x m := by
  have hcore (i : Nat) : t.core i = s.core i := by rw [State.core, State.core, h]
  unfold State.localRead
  by_cases hj : j = k
  · rw [hj, core_localWrite_mem, core_localWrite_mem, hcore]
  · rw [State.localWrite, State.localWrite, State.core_modCore, State.core_modCore, if_neg hj, if_neg hj, hcore]

theorem wake_clusters (s : State) (k : Nat) : (s.wake k).clusters = s.clusters := by
  unfold State.wake
  split <;> rfl

theorem core_setLocalFull (s : State) (k a n : Nat) (full : Bool) (j : Nat) : (s.setLocalFull k a n full).core j =
    if j = k then { s.core k with empty := setFull (s.core k).empty a n full } else s.core j := by
  rw [State.core, State.setLocalFull, wakeNext_cores]
  exact State.core_modCore ..

section
variable (s : State) (k : Nat) (f : Flit)

theorem core_flitBytes (j : Nat) : ({ (s.flitBytes k f).core j with gate := .powered } : Core) =
    { (s.localWrite k f.near f.n f.data).core j with gate := .powered } := (woken_wake (s.localWrite k f.near f.n f.data) k).cores j

theorem localRead_flitStored (j a n : Nat) : (s.flitStored k f).localRead j a n = (s.localWrite k f.near f.n f.data).localRead j a n := by
  have hmem : ((s.flitBytes k f).core j).mem = ((s.localWrite k f.near f.n f.data).core j).mem := (congrArg Core.mem (core_flitBytes s k f j) :)
  have hbytes : (s.flitBytes k f).localRead j a n = (s.localWrite k f.near f.n f.data).localRead j a n := by
    rw [State.localRead, State.localRead, hmem]
  unfold State.flitStored
  split
  · exact hbytes
  · exact (localRead_setLocalFull ..).trans hbytes

theorem ctx_flitStored (u : Tid) : (s.flitStored k f).ctx u = s.ctx u := by
  have hslots : ((s.flitBytes k f).core u.core).slots = ((s.localWrite k f.near f.n f.data).core u.core).slots :=
    (congrArg Core.slots (core_flitBytes s k f u.core) :)
  have hbytes : (s.flitBytes k f).ctx u = s.ctx u := by
    rw [← ctx_localWrite s k f.near f.n f.data u, State.ctx, State.ctx, State.slot, State.slot, Core.slot, Core.slot, hslots]
  unfold State.flitStored
  split
  · exact hbytes
  · rw [State.ctx, slot_setLocalFull]
    exact hbytes

theorem full_flitStored {g : Nat} (hlo : f.near ≤ 16 * g) (hhi : 16 * g + 16 ≤ f.near + f.n) :
    ((s.flitStored k f).core k).empty.get false g = false := by
  obtain ⟨hne, hg⟩ := whole_mem_granules hlo hhi
  unfold State.flitStored
  rw [if_neg hne, core_setLocalFull, if_pos rfl]
  dsimp only
  rw [get_setFull, if_pos hg]
  rfl

theorem flitStored_beside : (s.flitStored k f).phys = s.phys ∧ (s.flitStored k f).clusters = s.clusters ∧ (s.flitStored k f).now = s.now := by
  have hw := woken_wake (s.localWrite k f.near f.n f.data) k
  have hclusters : (s.flitBytes k f).clusters = s.clusters := wake_clusters ..
  unfold State.flitStored
  split
  · exact ⟨hw.phys, hclusters, hw.now⟩
  · refine ⟨?_, ?_, ?_⟩
    · exact (wakeNext_phys ..).trans hw.phys
    · rw [State.setLocalFull, wakeNext_eq]
      split <;> exact hclusters
    · exact (setLocalFull_now ..).trans hw.now

end

end Sys2Proof.Machine

namespace Sys2Proof.Claims

open Sys2Proof.Machine

section
variable {s : State} {cl port k : Nat} {r : Run} {f : Flit} {rest : List Flit} (hengines : (s.cluster cl).engines = [r])
  (hport : r.port = port) (hflits : r.flits = f :: rest)
include hengines hport hflits

theorem find_flits : (s.cluster cl).engines.find? (fun r => r.port == port && !r.flits.isEmpty) = some r := by
  rw [hengines]
  exact List.find?_cons_of_pos (by simp [hport, hflits])

/-- A flit that is not due waits. -/
theorem flit_waits (hdue : s.now < f.due) : exec (.engineFlitLanding cl port) s =
    .next (s.sched f.due (Phase.engine cl port) (.run (.engineFlitLanding cl port))) := by
  change execEngineFlitLanding cl port s = _
  simp only [execEngineFlitLanding, find_flits hengines hport hflits, hflits, if_pos hdue]

/-- The run whose flit lands. -/
def landing (s : State) (f : Flit) (rest : List Flit) (r : Run) : Run :=
  { r with flits := rest, begun := Max.max r.begun (f.msg + 1), landAt := s.now + 1, waited := 0, last := Max.max r.last s.now }

/-- The state in which the flit's bytes have been written. -/
def flitLanded (s : State) (cl k : Nat) (r : Run) (f : Flit) (rest : List Flit) : State :=
  ((s.unqueue cl r.cmd.id).modRun cl r.cmd.id (landing (s.unqueue cl r.cmd.id) f rest)).flitStored k f

variable (hplain : PlainWalk r.cmd) (hnear : r.cmd.near = .localMem) (hcores : f.cores = [k])
  (hdbg : (s.cmdRegion r.cmd).dbg = false) (hstream : r.cmd.stream = 0)
include hplain hnear hcores hdbg hstream

/-- What follows the write: the next flit's cycle, or the engine's end. -/
theorem flit_lands (hdue : f.due ≤ s.now) : let w := flitLanded s cl k r f rest
    exec (.engineFlitLanding cl port) s = .next ((match (w.cluster cl).run r.cmd.id with
      | some y =>
        if !y.flits.isEmpty then w.sched (w.now + 1) (Phase.engine cl port) (.run (.engineFlitLanding cl port))
        else if y.landed then (w.freeEngine cl r.cmd.id).ridgeLanded cl y
        else w
      | none => w).endRun cl r.cmd.id) := by
  have hslot : s.slotHazard cl 4 r.cmd = false := by rw [State.slotHazard, hdbg]; rfl
  have hopen : s.slotOpen cl 4 r.cmd = true := by rw [State.slotOpen, State.scheduled, hstream]; rfl
  have hmessage : s.messageHazard cl r f.msg = false := by simp [State.messageHazard, State.writeHazard, hdbg]
  have hbusy : (r.cmd.near == .store) = false := by rw [hnear]; rfl
  have hpacks : r.cmd.packs = false := hplain.2.1
  change execEngineFlitLanding cl port s = _
  simp only [execEngineFlitLanding, find_flits hengines hport hflits, hflits, if_neg (Nat.not_lt.2 hdue), hslot, hopen, hbusy, hmessage,
    hpacks, Bool.false_and, Bool.not_true, Bool.false_eq_true, if_false, flitWrite_of_local hnear hcores]
  rfl

omit hport hflits hplain hnear hcores hdbg hstream in
theorem engines_flitLanded : ((flitLanded s cl k r f rest).cluster cl).engines = [landing (s.unqueue cl r.cmd.id) f rest r] := by
  obtain ⟨-, hclusters, -⟩ := flitStored_beside
    ((s.unqueue cl r.cmd.id).modRun cl r.cmd.id (landing (s.unqueue cl r.cmd.id) f rest)) k f
  have hqueue : ((s.unqueue cl r.cmd.id).cluster cl).engines = [r] := by
    rw [← hengines, State.unqueue]
    split
    · rfl
    · rw [State.cluster_modCluster_self]
  rw [State.cluster, flitLanded, hclusters]
  change (State.cluster (State.modRun ..) cl).engines = _
  rw [State.modRun, State.cluster_modCluster_self, hqueue, List.map_singleton, if_pos rfl]

/-- Beyond the write, the landing changes only when the engine is free, and what is to come. -/
theorem flit_settles (hfills : r.fills = []) (hdue : f.due ≤ s.now) : let w := flitLanded s cl k r f rest
    ∃ u, exec (.engineFlitLanding cl port) s = .next u ∧ EngineWork cl w u ∧
      (rest ≠ [] → ∃ p ∈ u.agenda, p.due = w.now + 1 ∧ p.ev = .run (.engineFlitLanding cl port)) := by
  intro w
  let y := landing (s.unqueue cl r.cmd.id) f rest r
  have hone : (w.cluster cl).engines = [y] := engines_flitLanded hengines
  have hrun : (w.cluster cl).run r.cmd.id = some y := run_of_single hone
  have hnone : (w.cluster cl).fillsNone := by
    intro x hx
    rw [hone, List.mem_singleton] at hx
    rw [hx]
    exact hfills
  have hridge (u : State) : u.ridgeLanded cl y = u := by
    have : y.cmd.isRidge = false := decide_eq_false (Nat.not_le_of_lt hplain.2.2)
    rw [State.ridgeLanded, this]
    rfl
  have hends {u : State} (h : EngineWork cl w u) : EngineWork cl w (u.endRun cl r.cmd.id) :=
    h.trans (engineWork_endRun u cl _ (h.fillsNone hnone))
  have heq := flit_lands hengines hport hflits hplain hnear hcores hdbg hstream hdue
  dsimp only at heq
  rw [hrun] at heq
  refine ⟨_, heq, hends ?_, fun hrest => ?_⟩
  · dsimp only
    split
    · exact (EngineWork.refl ..).sched ..
    · split
      · rw [hridge]
        exact engineWork_freeEngine ..
      · exact .refl ..
  · have hmore : (!y.flits.isEmpty) = true := by
      change (!rest.isEmpty) = true
      rw [Bool.not_eq_true', List.isEmpty_eq_false_iff]
      exact hrest
    dsimp only
    rw [if_pos hmore]
    refine ⟨_, (engineWork_endRun _ cl _ ?_).agenda _ ((State.mem_sched ..).2 (.inl rfl)), rfl, rfl⟩
    exact hnone

end

theorem flitLands : FlitLands := by
  rintro s cl port k r f rest hengines hport hflits hplain hfills hnear hcores hk hcl hdbg hstream hn
  refine ⟨fun hdue => ?_, fun hdue => ?_⟩
  · obtain ⟨t, ht, hwork, hnext⟩ := flit_settles hengines hport hflits hplain hnear hcores hdbg hstream hfills hdue
    let b := (s.unqueue cl r.cmd.id).modRun cl r.cmd.id (landing (s.unqueue cl r.cmd.id) f rest)
    obtain ⟨hbcores, hbphys, hbnow⟩ : b.cores = s.cores ∧ b.phys = s.phys ∧ b.now = s.now := unqueue_beside s cl r.cmd.id
    obtain ⟨hphys, -, hnow⟩ := flitStored_beside b k f
    have hlocal (j a n : Nat) : t.localRead j a n = (s.localWrite k f.near f.n f.data).localRead j a n :=
      (hwork.localRead ..).trans ((localRead_flitStored b k f j a n).trans (localRead_localWrite_congr hbcores ..))
    refine ⟨t, ht, ⟨fun x hx => ?_, fun x hx => ?_, fun g hlo hhi => ?_⟩, fun u => ?_, fun j a hj => ?_, ?_, ?_, fun hrest => ?_⟩
    · dsimp only
      rw [hlocal, State.localRead, core_localWrite_mem]
      exact holdsBytes_poke _ f.near f.n f.data x hx
    · rw [hlocal, localRead_localWrite_out _ _ _ _ _ _ _ fun h => hx h.2]
    · rw [hwork.core]
      exact full_flitStored b k f hlo hhi
    · rw [hwork.ctx, State.ctx]
      refine (ctx_flitStored b k f u).trans ?_
      rw [State.ctx, State.slot, State.core, hbcores]
      rfl
    · rw [hlocal, localRead_localWrite_out _ _ _ _ _ _ _ fun h => hj h.1]
    · exact (hwork.phys.trans hphys).trans hbphys
    · obtain ⟨r', hr', hst⟩ := hwork.single (engines_flitLanded hengines)
      exact ⟨r', by rw [hr']; exact List.mem_singleton_self _, congrArg Prod.fst hst, congrArg (fun x => x.2.2.2.1) hst⟩
    · obtain ⟨p, hp, hdue', hev⟩ := hnext hrest
      exact ⟨p, hp, hdue'.trans (congrArg (· + 1) (hnow.trans hbnow)), hev⟩
  · exact ⟨_, flit_waits hengines hport hflits hdue, rfl, rfl, _, (State.mem_sched ..).2 (.inl rfl), rfl, rfl⟩

end Sys2Proof.Claims
end
section
/-!
PROOFS. A free engine starts a command (R234, R238, R242).
-/

namespace Sys2Proof.Machine

/-! What the checks of a message read. -/

/-- The package but for its cores, its clusters and the agenda. -/
def State.besideEngines (s : State) : State := { s with cores := [], clusters := [], agenda := [], seq := 0 }

section
variable {s t : State} (h : t.besideEngines = s.besideEngines)
include h

theorem engineCheck_of_beside (c : Cmd) (write : Bool) (va pa n : Nat) (leaf : W64) :
    t.engineCheck c write va pa n leaf = s.engineCheck c write va pa n leaf :=
  (congrArg (fun s : State => s.engineCheck c write va pa n leaf) h :)

theorem cmdRegion_of_beside (c : Cmd) : t.cmdRegion c = s.cmdRegion c := (congrArg (fun s : State => s.cmdRegion c) h :)

theorem placeMessage_of_beside (c : Cmd) (htlb : (t.cluster (clusterOf c.tid.core)).tlb2 = (s.cluster (clusterOf c.tid.core)).tlb2)
    (pasid : BitVec 20) (write : Bool) (fuel va n : Nat) : t.placeMessage c pasid write fuel va n = s.placeMessage c pasid write fuel va n := by
  induction fuel generalizing va n with
  | zero => rfl
  | succ fuel ih =>
    cases n with
    | zero => rfl
    | succ n =>
      simp only [State.placeMessage, htlb, engineCheck_of_beside h, ih]

end

/-! FULL is cleared where a command will write (R238). -/

theorem besideEngines_setLocalFull (s : State) (k a n : Nat) (full : Bool) : (s.setLocalFull k a n full).besideEngines = s.besideEngines := by
  rw [State.setLocalFull, wakeNext_eq]
  split <;> rfl

theorem clusters_setLocalFull (s : State) (k a n : Nat) (full : Bool) : (s.setLocalFull k a n full).clusters = s.clusters := by
  rw [State.setLocalFull, wakeNext_eq]
  split <;> rfl

/-- R238: the granules of a command's rows in its core's local memory become EMPTY. -/
def State.rowsEmptied (s : State) (c : Cmd) : State :=
  (List.range c.rows).foldl (fun s r => s.setLocalFull c.tid.core (c.nearAddr r 0) c.rowBytes false) s

theorem feClear_of_kept {c : Cmd} (hfe : c.fe = false) (s : State) (cl : Nat) : s.feClear cl c = (s, false) := by
  rw [State.feClear, hfe]
  rfl

theorem feClear_of_local {c : Cmd} (hop : c.op = 0xC0) (hfe : c.fe = true) (hnear : c.near = .localMem) (s : State) (cl : Nat) :
    (s.feClear cl c).1 = s.rowsEmptied c := by
  have hrow (r : Nat) : (c.rowTo r).1 = [c.tid.core] := by
    rw [Cmd.rowTo, hop]
    rfl
  rw [State.feClear, hfe]
  refine (List.foldl_hom (f := Prod.fst) fun x r => ?_).symm
  rw [hnear, hrow]
  rfl

section
variable (s : State) (c : Cmd)

theorem rowsEmptied_beside : (s.rowsEmptied c).besideEngines = s.besideEngines ∧ (s.rowsEmptied c).clusters = s.clusters ∧
    ∀ u, (s.rowsEmptied c).ctx u = s.ctx u := by
  unfold State.rowsEmptied
  refine List.foldlRecOn (motive := fun t : State => t.besideEngines = s.besideEngines ∧ t.clusters = s.clusters ∧ ∀ u, t.ctx u = s.ctx u)
    _ _ ⟨rfl, rfl, fun _ => rfl⟩ fun t ht r _ => ?_
  obtain ⟨hbeside, hclusters, hctx⟩ := ht
  refine ⟨(besideEngines_setLocalFull ..).trans hbeside, (clusters_setLocalFull ..).trans hclusters, fun u => ?_⟩
  rw [← hctx u, State.ctx, slot_setLocalFull]
  rfl

theorem empty_rowsEmptied {r g : Nat} (hr : r < c.rows) (hn : 0 < c.rowBytes) (hlo : c.nearAddr r 0 / 16 ≤ g)
    (hhi : g ≤ (c.nearAddr r 0 + c.rowBytes - 1) / 16) : ((s.rowsEmptied c).core c.tid.core).empty.get false g = true := by
  refine foldl_reaches (P := fun t => (t.core c.tid.core).empty.get false g = true) (fun t x ht => ?_) (fun t => ?_) (List.mem_range.2 hr) s
  · rw [core_setLocalFull, if_pos rfl]
    dsimp only
    rw [get_setFull, ht, Bool.not_false, ite_self]
  · rw [core_setLocalFull, if_pos rfl]
    dsimp only
    rw [get_setFull, if_pos ((mem_granules_iff hn).2 ⟨hlo, hhi⟩), Bool.not_false]

end

/-! The first message of a command leaves (R242). -/

/-- The run of a command that an engine has just taken and that packs nothing. -/
def Cmd.firstRun (c : Cmd) (port now : Nat) : Run := { cmd := c, port := port, limit := c.messages, leave := now, last := now, fills := [] }

/-- A run whose first message, of n bytes, has left. -/
def Run.sentFirst (now n : Nat) (r : Run) : Run := ({ r with next := 1, leave := now + (n + 63) / 64 } : Run).addAsked 0 n

theorem message_zero (c : Cmd) : c.message 0 = (0, 0, (c.message 0).2.2) := by
  unfold Cmd.message
  rw [Nat.zero_div, Nat.zero_mod, Nat.zero_mul]

theorem engineSend_first {s : State} {cl port : Nat} {c : Cmd} {pieces : List (Nat × Nat)} (hop : c.op = 0xC0)
    (hengines : (s.cluster cl).engines = [c.firstRun port s.now]) (htmem : (s.cluster cl).tmem.getLsbD c.tenant.toNat = true)
    (hmessages : 0 < c.messages) (hplace : s.placeMessage c c.pasid false 10 c.ma.toNat (c.message 0).2.2 = .at pieces) :
    let n := (c.message 0).2.2
    let slate := pieces.any fun p => isSlate (s.place p.1)
    let u := s.modRun cl c.id (Run.sentFirst s.now n)
    s.engineSend cl c.id = (if 1 < c.messages then u.sched (s.now + (n + 63) / 64) (Phase.engine cl port) (.act (.engine cl c.id .send)) else u).sched
      (s.now + (if slate then 80 else 60) + pieces.foldl (fun m p => Max.max m (s.far c.tid.core p.1)) 0) (Phase.engine cl port)
      (.act (.engine cl c.id (.arrive 0 pieces slate))) := by
  have hrun : (s.cluster cl).run c.id = some (c.firstRun port s.now) := run_of_single hengines
  have hread : c.readSide (s.cmdRegion c).peer = (c.ma.toNat, c.mstride, c.pasid) := by
    rw [Cmd.readSide, hop]
    rfl
  have hearlier : s.earlierStores c = false := by
    rw [State.earlierStores, hop]
    rfl
  have hva : (c.ma.toNat + 0 * c.mstride + 0) % 2 ^ 64 = c.ma.toNat := by
    rw [Nat.zero_mul, Nat.add_zero, Nat.mod_eq_of_lt c.ma.isLt]
  have hput : c.op ≠ 0xC1 := by rw [hop]; decide
  have hrem : c.op ≠ 0xC3 := by rw [hop]; decide
  have hremote : (c.op == 0xC3) = false := beq_eq_false_iff_ne.2 hrem
  unfold State.engineSend
  rw [hrun]
  dsimp only [Cmd.firstRun]
  rw [message_zero]
  simp only [hearlier, htmem, hread, hva, hplace, hput, hrem, hremote, Nat.not_le.2 hmessages, Nat.lt_irrefl, decide_false, Bool.or_false,
    Bool.false_and, Bool.not_true, Bool.and_false, Bool.false_eq_true, false_or, false_and, if_false, List.isEmpty_nil, if_true,
    Option.isSome_none]
  by_cases hmore : 1 < c.messages
  · simp only [Nat.zero_add, hmore, if_true]
    rfl
  · simp only [Nat.zero_add, hmore, if_false]
    rfl

theorem engineWork_fillRun (s : State) (cl id : Nat) (hs : (s.cluster cl).fillsNone) : EngineWork cl s (s.fillRun cl id) := by
  unfold State.fillRun
  split
  · exact .refl ..
  · next r hr =>
    have hfills := hs r (mem_of_run hr)
    split
    · exact .refl ..
    · simp only [hfills, List.foldl_nil, List.any_nil, Bool.false_eq_true, if_false, Nat.lt_irrefl, decide_false, Bool.false_and]
      refine engineWork_modRun s cl id fun x hx => ?_
      rw [Run.standing, Run.standing, hs x hx]

/-- What an engine that has just taken a command leaves: its first request is on its way. -/
structure Sent (s t : State) (cl port : Nat) (c : Cmd) (pieces : List (Nat × Nat)) : Prop where
  cores   : t.cores = s.cores
  phys    : t.phys = s.phys
  engines : ∃ r, (t.cluster cl).engines = [r] ∧ r.standing = (c, port, 1, [], none, [])
  arrives : ∃ p ∈ t.agenda, ∃ slate, p.ev = .act (.engine cl c.id (.arrive 0 pieces slate)) ∧
    p.due = s.now + (if slate then 80 else 60) + pieces.foldl (fun m x => max m (s.far c.tid.core x.1)) 0

theorem Sent.after {s t u : State} {cl port : Nat} {c : Cmd} {pieces : List (Nat × Nat)} (h : Sent s t cl port c pieces)
    (g : EngineWork cl t u) : Sent s u cl port c pieces := by
  obtain ⟨r, hr, hst⟩ := h.engines
  obtain ⟨r', hr', hst'⟩ := g.single hr
  obtain ⟨p, hp, harrives⟩ := h.arrives
  exact ⟨g.cores.trans h.cores, g.phys.trans h.phys, ⟨r', hr', hst'.trans hst⟩, p, g.agenda p hp, harrives⟩

theorem Sent.fillsNone {s t : State} {cl port : Nat} {c : Cmd} {pieces : List (Nat × Nat)} (h : Sent s t cl port c pieces) :
    (t.cluster cl).fillsNone := by
  obtain ⟨r, hr, hst⟩ := h.engines
  intro x hx
  rw [hr, List.mem_singleton] at hx
  rw [hx]
  exact congrArg (fun x => x.2.2.2.2.2) hst

theorem sent_engineSend {s : State} {cl port : Nat} {c : Cmd} {pieces : List (Nat × Nat)} (hop : c.op = 0xC0)
    (hengines : (s.cluster cl).engines = [c.firstRun port s.now]) (htmem : (s.cluster cl).tmem.getLsbD c.tenant.toNat = true)
    (hmessages : 0 < c.messages) (hplace : s.placeMessage c c.pasid false 10 c.ma.toNat (c.message 0).2.2 = .at pieces) :
    Sent s (s.engineSend cl c.id) cl port c pieces := by
  let u := s.modRun cl c.id (Run.sentFirst s.now (c.message 0).2.2)
  have hu : (u.cluster cl).engines = [(c.firstRun port s.now).sentFirst s.now (c.message 0).2.2] := by
    change (State.cluster (State.modRun ..) cl).engines = _
    rw [State.modRun, State.cluster_modCluster_self, hengines, List.map_singleton]
    exact congrArg (fun r => [r]) (if_pos rfl)
  rw [engineSend_first hop hengines htmem hmessages hplace]
  refine ⟨?_, ?_, ?_, _, (State.mem_sched ..).2 (.inl rfl), _, rfl, rfl⟩
  · split <;> rfl
  · split <;> rfl
  · refine ⟨(c.firstRun port s.now).sentFirst s.now (c.message 0).2.2, ?_, rfl⟩
    rw [← hu]
    split <;> rfl

end Sys2Proof.Machine

namespace Sys2Proof.Claims

open Sys2Proof.Machine

section
variable {s : State} {cl port k q : Nat} {c : Cmd} {rest : List Cmd} {pieces : List (Nat × Nat)} (hq : q < 8)
  (hqueue : (s.core k).cmdq q = c :: rest) (hstarted : c.started = true) (hplain : PlainWalk c)
  (hengines : (s.cluster cl).engines = [])
include hq hqueue hstarted hplain hengines

/-- An engine that is free takes the command; a hazard of .fe stops it at once. -/
theorem commandStart_eq (hbad : (s.feClear cl c).2 = false ∨ (s.cmdRegion c).dbg = false)
    (hbeside : (s.feClear cl c).1.besideEngines = s.besideEngines) :
    let e := (s.feClear cl c).1.modCluster cl fun x => { x with engines := x.engines ++ [c.firstRun port (s.feClear cl c).1.now] }
    exec (.engineCommandStart cl port k q) s = .next (((e.engineSend cl c.id).fillRun cl c.id).endRun cl c.id) := by
  have hrun : (s.cluster cl).run c.id = none := by rw [Cluster.run, hengines]; rfl
  have hgo : ((s.feClear cl c).2 && ((s.feClear cl c).1.cmdRegion c).dbg) = false := by
    rw [cmdRegion_of_beside hbeside, Bool.and_eq_false_iff]
    exact hbad
  have hgroups : c.packs = false := hplain.2.1
  change execEngineCommandStart cl port k q s = _
  simp only [execEngineCommandStart, if_neg (Nat.not_le.2 hq), hqueue, List.head?_cons, hstarted, hrun, hgroups, Bool.not_true, Bool.not_false,
    Option.isSome_none, Bool.or_false, Bool.false_eq_true, if_false, if_true, List.map_nil]
  exact congrArg Host.Outcome.next (if_neg ((Bool.not_eq_true _).mpr hgo))

/-- The started command's first request is on its way, and its rows have been emptied. -/
theorem engine_starts (hbad : (s.feClear cl c).2 = false ∨ (s.cmdRegion c).dbg = false)
    (hbeside : (s.feClear cl c).1.besideEngines = s.besideEngines) (hclusters : (s.feClear cl c).1.clusters = s.clusters)
    (htmem : (s.cluster cl).tmem.getLsbD c.tenant.toNat = true) (hmessages : 0 < c.messages)
    (hplace : s.placeMessage c c.pasid false 10 c.ma.toNat (c.message 0).2.2 = .at pieces) :
    ∃ t, exec (.engineCommandStart cl port k q) s = .next t ∧ Sent (s.feClear cl c).1 t cl port c pieces := by
  have heq := commandStart_eq (port := port) hq hqueue hstarted hplain hengines hbad hbeside
  generalize (s.feClear cl c).1 = b at *
  let e := b.modCluster cl fun x => { x with engines := x.engines ++ [c.firstRun port b.now] }
  have hbcluster (j : Nat) : b.cluster j = s.cluster j := by rw [State.cluster, State.cluster, hclusters]
  have hcluster : e.cluster cl = { s.cluster cl with engines := [c.firstRun port b.now] } := by
    change (State.modCluster ..).cluster cl = _
    rw [State.cluster_modCluster_self, hbcluster, hengines]
    rfl
  have htlb (j : Nat) : (e.cluster j).tlb2 = (s.cluster j).tlb2 := by
    by_cases hj : j = cl
    · rw [hj, hcluster]
    · exact congrArg Cluster.tlb2 ((State.cluster_modCluster ..).trans ((if_neg hj).trans (hbcluster j)))
  have hsent : Sent e (e.engineSend cl c.id) cl port c pieces := by
    refine sent_engineSend hplain.1 (by rw [hcluster]; rfl) (by rw [hcluster]; exact htmem) hmessages ?_
    rw [placeMessage_of_beside (s := s) (t := e) hbeside c (htlb _), hplace]
  have hfilled := hsent.after (engineWork_fillRun _ cl c.id hsent.fillsNone)
  have hended := hfilled.after (engineWork_endRun _ cl c.id hfilled.fillsNone)
  exact ⟨_, heq, hended.cores, hended.phys, hended.engines, hended.arrives⟩

end

theorem engineStarts : EngineStarts := by
  rintro s cl port k q c rest pieces hq - hqueue hstarted hk hplain hengines htmem hmessages hplace
  have hstart (hbad : (s.feClear cl c).2 = false ∨ (s.cmdRegion c).dbg = false) :=
    engine_starts (port := port) (pieces := pieces) hq hqueue hstarted hplain hengines hbad
  constructor
  · intro hfe
    have hkept := feClear_of_kept hfe s cl
    rw [hkept] at hstart
    obtain ⟨t, ht, hsent⟩ := hstart (.inl rfl) rfl rfl htmem hmessages hplace
    obtain ⟨r, hr, hst⟩ := hsent.engines
    have hcore (j : Nat) : t.core j = s.core j := by rw [State.core, State.core, hsent.cores]
    refine ⟨t, r, ht, hr, congrArg Prod.fst hst, congrArg (·.2.1) hst, congrArg (·.2.2.1) hst, congrArg (·.2.2.2.1) hst,
      congrArg (·.2.2.2.2.1) hst, hsent.arrives, fun u => ?_, fun a => ?_, hsent.phys⟩
    · rw [State.ctx, State.slot, hcore]
      rfl
    · rw [State.localRead, hcore]
      rfl
  · intro hfe hdbg hnear
    have hb := feClear_of_local hplain.1 hfe hnear s cl
    obtain ⟨hbeside, hclusters, hctx⟩ := rowsEmptied_beside s c
    rw [hb] at hstart
    obtain ⟨t, ht, hsent⟩ := hstart (.inr hdbg) hbeside hclusters htmem hmessages hplace
    have hcore (j : Nat) : t.core j = (s.rowsEmptied c).core j := by rw [State.core, State.core, hsent.cores]
    refine ⟨t, ht, fun u => ?_, fun r g hr hlo hhi => ?_⟩
    · rw [← hctx u, State.ctx, State.slot, hcore]
      rfl
    · have hbytes : 0 < c.rowBytes := by
        refine Nat.pos_of_ne_zero fun h => ?_
        rw [Cmd.messages, Cmd.perRow, h] at hmessages
        exact absurd hmessages (by omega)
      rw [hcore, ← hk]
      exact empty_rowsEmptied s c hr hbytes hlo hhi

end Sys2Proof.Claims
end
section
/-!
PROOFS. An engine takes the permits that have come back (R231), and the statement on engines (O34).
-/

namespace Sys2Proof.Machine

/-! What a fill reserves while none of its bytes have landed. -/

/-- The entries that a fill reserves in this cycle. -/
def State.taken (s : State) (c : Cmd) (f : Fill) : Nat :=
  Min.min (c.wanted (c.fillBytes f) f.asked - f.pushed - f.res) (s.permits f.cores c.bat.toNat)

def State.reserved (s : State) (c : Cmd) (f : Fill) : State :=
  if s.taken c f = 0 then s else s.reserveEntries f c.bat.toNat c.id (s.taken c f)

section
variable {s : State} {cl : Nat} {r : Run} {f : Fill}

theorem canPush_of_short {c : Cmd} (hlen : f.len = 0) (hcovered : 0 < c.covered (c.fillBytes f) (f.pushed + 1)) :
    s.canPush c (c.fillBytes f) f = false := by
  rw [State.canPush, hlen, decide_eq_false (Nat.not_le.2 hcovered), Bool.and_false, Bool.false_and]

theorem workFill_of_short {c : Cmd} (hlen : f.len = 0) (hcovered : 0 < c.covered (c.fillBytes f) (f.pushed + 1)) (n : Nat) :
    s.workFill c f n = (s.reserved c f, { f with res := f.res + s.taken c f }, n) := by
  change pushFill c (c.fillBytes f) n (s.reserved c f, { f with res := f.res + s.taken c f }) = _
  cases n with
  | zero => rfl
  | succ n =>
    have hshort : (s.reserved c f).canPush c (c.fillBytes f) { f with res := f.res + s.taken c f } = false :=
      canPush_of_short (f := { f with res := f.res + s.taken c f }) hlen hcovered
    rw [pushFill, hshort]
    rfl

/-- The pushes that are left to a run in this cycle. -/
def Run.pushesLeft (r : Run) (now : Nat) : Nat := if r.pushAt = now + 1 then 32 - r.pushN else 32

/-- A run whose one fill has reserved n entries. -/
def Run.reserving (f : Fill) (n now k : Nat) (r : Run) : Run :=
  { r with fills := [{ f with res := f.res + n }], pushAt := now + 1, pushN := 32 - k }

theorem fillRun_of_short (hone : (s.cluster cl).engines = [r]) (hclosed : r.closed = false) (hfills : r.fills = [f]) (hlen : f.len = 0)
    (hcovered : 0 < r.cmd.covered (r.cmd.fillBytes f) (f.pushed + 1)) : s.fillRun cl r.cmd.id =
      (s.reserved r.cmd f).modRun cl r.cmd.id (Run.reserving f (s.taken r.cmd f) (s.reserved r.cmd f).now (r.pushesLeft s.now)) := by
  unfold State.fillRun
  rw [run_of_single hone]
  have hshort (t : State) (n : Nat) : t.canPush r.cmd (r.cmd.fillBytes f) { f with res := f.res + n } = false :=
    canPush_of_short (f := { f with res := f.res + n }) hlen hcovered
  have hbytes (n : Nat) : r.cmd.fillBytes { f with res := f.res + n } = r.cmd.fillBytes f := rfl
  simp only [hclosed, hfills, List.foldl_cons, List.foldl_nil, workFill_of_short hlen hcovered, List.nil_append, List.any_cons, List.any_nil,
    hbytes, hshort, Bool.or_false, Bool.false_eq_true, if_false, Nat.lt_irrefl, decide_false, Bool.false_and]
  rfl

end

/-! The permits of one batten. -/

theorem permits_of_one {s : State} {k b : Nat} (hpop : (s.batten k b).popAt ≠ s.now + 1) :
    s.permits [k] b = Min.min 32 ((s.batten k b).depth.toNat - (s.batten k b).count.toNat - (s.batten k b).res.toNat) := by
  rw [State.permits, List.foldl_cons, List.foldl_nil]
  dsimp only
  rw [if_neg hpop, Nat.sub_zero]

/-- A batten in which a command has reserved n entries. -/
def Batten.reserving (id n : Nat) (x : Batten) : Batten :=
  { x with res := x.res + BitVec.ofNat 6 n, resq := x.resq ++ List.replicate n id }

theorem Batten.reserving_zero (id : Nat) (x : Batten) : x.reserving id 0 = x := by
  rw [Batten.reserving, List.replicate_zero, List.append_nil]
  exact congrArg (fun v => { x with res := v }) (BitVec.add_zero _)

section
variable {s : State} {k : Nat} {c : Cmd} {f : Fill} (hcores : f.cores = [k])
include hcores

theorem reserved_eq : s.reserved c f = if s.taken c f = 0 then s
    else s.setBatten k c.bat.toNat ((s.batten k c.bat.toNat).reserving c.id (s.taken c f)) := by
  rw [State.reserved, State.reserveEntries, hcores]
  rfl

/-- R231: the batten's RES rises by the entries that are reserved, and they take their places in the ring. -/
theorem batten_reserved : (s.reserved c f).batten k c.bat.toNat = (s.batten k c.bat.toNat).reserving c.id (s.taken c f) := by
  rw [reserved_eq hcores]
  split
  · next h => rw [h, Batten.reserving_zero]
  · rw [batten_setBatten, if_pos rfl]

theorem reserved_left : (s.reserved c f).phys = s.phys ∧ (s.reserved c f).now = s.now ∧ (s.reserved c f).clusters = s.clusters ∧
    ∀ u, (s.reserved c f).ctx u = s.ctx u := by
  rw [reserved_eq hcores]
  split
  · exact ⟨rfl, rfl, rfl, fun _ => rfl⟩
  · refine ⟨setBatten_phys .., setBatten_now .., ?_, fun u => ctx_setBatten ..⟩
    rw [State.setBatten, wakeNext_eq]
    split <;> rfl

/-- Once an engine has taken its permits, none is left that it needs. -/
theorem taken_once {t : State} (hbatten : t.batten k c.bat.toNat = (s.batten k c.bat.toNat).reserving c.id (s.taken c f))
    (hnow : t.now = s.now) (hpop : (s.batten k c.bat.toNat).popAt ≠ s.now + 1) (hdepth : (s.batten k c.bat.toNat).depth.toNat ≤ 32)
    (hroom : (s.batten k c.bat.toNat).res.toNat + s.taken c f < 64) : t.taken c { f with res := f.res + s.taken c f } = 0 := by
  have hpermits := permits_of_one (s := t) (k := k) (b := c.bat.toNat) (by rw [hbatten, hnow]; exact hpop)
  have hres : ((s.batten k c.bat.toNat).reserving c.id (s.taken c f)).res.toNat = (s.batten k c.bat.toNat).res.toNat + s.taken c f := by
    rw [Batten.reserving, BitVec.toNat_add, BitVec.toNat_ofNat]
    omega
  have hsame : (t.batten k c.bat.toNat).depth = (s.batten k c.bat.toNat).depth ∧ (t.batten k c.bat.toNat).count = (s.batten k c.bat.toNat).count := by
    rw [hbatten]
    exact ⟨rfl, rfl⟩
  have htaken : s.taken c f = Min.min (c.wanted (c.fillBytes f) f.asked - f.pushed - f.res)
      (Min.min 32 ((s.batten k c.bat.toNat).depth.toNat - (s.batten k c.bat.toNat).count.toNat - (s.batten k c.bat.toNat).res.toNat)) := by
    rw [State.taken, hcores, permits_of_one hpop]
  have hagain : t.taken c { f with res := f.res + s.taken c f } = Min.min (c.wanted (c.fillBytes f) f.asked - f.pushed - (f.res + s.taken c f))
      (t.permits f.cores c.bat.toNat) := rfl
  rw [hagain, hcores, hpermits, hsame.1, hsame.2, hbatten, hres]
  omega

end

/-! Runs that fill a batten. -/

theorem engines_modRun {s : State} {cl : Nat} {r : Run} (hone : (s.cluster cl).engines = [r]) (f : Run → Run) :
    ((s.modRun cl r.cmd.id f).cluster cl).engines = [f r] := by
  rw [State.modRun, State.cluster_modCluster_self, hone, List.map_singleton, if_pos rfl]

/-- A command that packs and has entries left to push is not finished. -/
theorem unfinished_of_left {r : Run} {f : Fill} (hpacks : r.cmd.packs = true) (hfills : r.fills = [f]) (hfault : r.fault = none)
    (hstop : r.stop = false) (hleft : f.pushed < f.total) : r.finished = false := by
  have hput : r.cmd.op ≠ 0xC1 := by
    rw [Cmd.packs, Bool.and_eq_true, Bool.and_eq_true] at hpacks
    exact bne_iff_ne.1 hpacks.1.1
  rw [Run.finished, if_neg hput, hfills, hfault, hstop]
  simp [Nat.ne_of_lt hleft]

theorem endRun_of_unfinished {s : State} {cl : Nat} {r : Run} (hone : (s.cluster cl).engines = [r]) (h : r.finished = false) :
    s.endRun cl r.cmd.id = s.freeEngine cl r.cmd.id := by
  have hfree : ∃ y, ((s.freeEngine cl r.cmd.id).cluster cl).engines = [y] ∧ y.cmd = r.cmd ∧ y.finished = false := by
    rw [State.freeEngine, run_of_single hone]
    dsimp only
    split
    · exact ⟨_, engines_modRun hone _, rfl, h⟩
    · exact ⟨r, hone, rfl, h⟩
  obtain ⟨y, hy, hcmd, hfin⟩ := hfree
  have hrun := run_of_single hy
  rw [hcmd] at hrun
  rw [State.endRun, hrun]
  dsimp only
  rw [hfin, Bool.not_false, Bool.or_true, if_pos rfl]

theorem engineSend_of_asking {s : State} {cl : Nat} {r : Run} (hone : (s.cluster cl).engines = [r]) (hasking : r.asking = true) :
    s.engineSend cl r.cmd.id = s := by
  rw [State.engineSend, run_of_single hone]
  simp [hasking]

end Sys2Proof.Machine

namespace Sys2Proof.Claims

open Sys2Proof.Machine

theorem permitReserve_of_one {s : State} {cl port : Nat} {r : Run} (hengines : (s.cluster cl).engines = [r]) (hport : r.port = port)
    (hclosed : r.closed = false) (hfills : r.fills ≠ []) : exec (.enginePermitReserve cl port) s =
      .next ((((s.fillRun cl r.cmd.id).engineSend cl r.cmd.id).fillRun cl r.cmd.id).endRun cl r.cmd.id) := by
  change execEnginePermitReserve cl port s = _
  rw [execEnginePermitReserve, hengines, List.filter_cons_of_pos (by simp [hport, hclosed, hfills])]
  rfl

theorem permitsTaken : PermitsTaken := by
  intro s cl port k r f hengines hport hclosed hfills hcores hpacks hasking hfault hstop b x total free n hpop hdepth hlen hcovered
    hleft hroom
  have hbytes : r.cmd.fillBytes f = total := by rw [Cmd.fillBytes, hcores]; rfl
  have htaken : s.taken r.cmd f = n := by
    rw [State.taken, hbytes, hcores, permits_of_one hpop, Nat.min_comm 32]
  let v := s.reserved r.cmd f
  let a := v.modRun cl r.cmd.id (Run.reserving f n v.now (r.pushesLeft s.now))
  let f1 : Fill := { f with res := f.res + n }
  let r1 := Run.reserving f n v.now (r.pushesLeft s.now) r
  obtain ⟨hphys, hnow, hclusters, hctx⟩ := reserved_left (s := s) (c := r.cmd) hcores
  have hfirst : s.fillRun cl r.cmd.id = a := by
    rw [fillRun_of_short hengines hclosed hfills hlen (by rw [hbytes]; exact hcovered), htaken]
  have hbatten : v.batten k b = x.reserving r.cmd.id n := by
    rw [← htaken]
    exact batten_reserved hcores
  have hone : (a.cluster cl).engines = [r1] :=
    engines_modRun (s := v) (by rw [State.cluster, hclusters]; exact hengines) _
  have hnone : a.taken r1.cmd f1 = 0 := by
    have hb : v.batten k r.cmd.bat.toNat = (s.batten k r.cmd.bat.toNat).reserving r.cmd.id (s.taken r.cmd f) := batten_reserved hcores
    have := taken_once (t := a) hcores hb hnow hpop hdepth (by rw [htaken]; exact hroom)
    rwa [htaken] at this
  have hsecond : a.fillRun cl r.cmd.id = a.modRun cl r.cmd.id (Run.reserving f1 0 a.now (r1.pushesLeft a.now)) := by
    have := fillRun_of_short (f := f1) hone hclosed rfl hlen (by rw [← hbytes] at hcovered; exact hcovered)
    rw [State.reserved, hnone, if_pos rfl] at this
    exact this
  have hasks : a.engineSend cl r.cmd.id = a := engineSend_of_asking (r := r1) hone hasking
  let w := a.modRun cl r.cmd.id (Run.reserving f1 0 a.now (r1.pushesLeft a.now))
  let r2 := Run.reserving f1 0 a.now (r1.pushesLeft a.now) r1
  have htwo : (w.cluster cl).engines = [r2] := engines_modRun hone _
  have hend : w.endRun cl r.cmd.id = w.freeEngine cl r.cmd.id :=
    endRun_of_unfinished (r := r2) htwo (unfinished_of_left (f := { f1 with res := f1.res + 0 }) hpacks rfl hfault hstop hleft)
  have hfree := engineWork_freeEngine w cl r.cmd.id
  have heq := permitReserve_of_one hengines hport hclosed (by rw [hfills]; exact List.cons_ne_nil f [])
  rw [hfirst, hasks, hsecond, hend] at heq
  have hlast : (w.freeEngine cl r.cmd.id).batten k b = x.reserving r.cmd.id n := by
    rw [State.batten, hfree.core]
    exact hbatten
  refine ⟨_, heq, ?_, ?_, ?_, ?_, fun u => ?_, hfree.phys.trans hphys⟩
  · rw [hlast, Batten.reserving, BitVec.toNat_add, BitVec.toNat_ofNat]
    omega
  · rw [hlast]; rfl
  · rw [hlast]; rfl
  · rw [hlast]; rfl
  · exact (hfree.ctx u).trans (hctx u)

end Sys2Proof.Claims

open Sys2Proof.Machine Sys2Proof.Claims

/-- Settles O34: a command's queue, its engine's run and the cores that it writes are changed one after the other, and each
part's lemmas say what it keeps of the others. -/
theorem engines : Obligations.Engines := ⟨commandEnters, engineStarts, flitLands, permitsTaken, commandCompletes⟩
end
section
/-!
PROOFS. Mismatches of pairs (R354, R355), soft errors (R195) and the signatures of dual-die launches (R220, R356).
-/

namespace Sys2Proof.Machine

/-! A mismatch. -/

/-- A thread whose entries have gone and that faults at its next issue; one that waits for the answer to a discarded
request is ready. -/
def Slot.disagrees (shown : List Act) (f : Flt) (x : Slot) : Slot :=
  { x with
    cmp := [], presented := false, deferred := f :: x.deferred
    st := (match x.st with
      | .waiting (.change _) => .ready
      | .waiting (.event id) => if shown.any fun a => a.asks == some id then .ready else x.st
      | st => st) }

/-- The requests of a thread that its entries and those on their way to the comparator hold. -/
def State.shown (s : State) (t : Tid) : List Act :=
  ((s.slot t).cmp.filterMap Cmp.act) ++ s.agenda.filterMap fun p => match p.ev with
    | .present u _ _ _ a => if u = t then a else none
    | _ => none

/-- The commands of a thread that have not entered their queues are gone, and the thread disagrees. -/
def State.disagree (s : State) (t : Tid) (shown : List Act) (f : Flt) : State :=
  (s.modCore t.core fun c => { c with cmdqs := c.cmdqs.map fun (q, l) => (q, l.filter fun c => c.entered || c.tid ≠ t) }).modSlot t
    (Slot.disagrees shown f)

/-- The entries of a pair that are on their way to the comparator are gone. -/
def State.presentsGone (s : State) (l : Tid) : State :=
  { s with agenda := s.agenda.filter fun p => match p.ev with
    | .present u _ _ _ _ => u ≠ l && u ≠ partner l
    | _ => true }

theorem slot_presentsGone (s : State) (l v : Tid) : (s.presentsGone l).slot v = s.slot v := rfl
theorem phys_presentsGone (s : State) (l : Tid) : (s.presentsGone l).phys = s.phys := rfl
theorem phys_disagree (s : State) (t : Tid) (shown : List Act) (f : Flt) : (s.disagree t shown f).phys = s.phys := rfl

theorem mismatch_eq (s : State) (t : Tid) (sub : BitVec 8) (addr : W64) : s.mismatch t sub addr =
    ((s.disagree (leadOf t) (s.shown (leadOf t)) { code := 18, sub := sub, addr := addr }).disagree (partner (leadOf t))
      (s.shown (partner (leadOf t))) { code := 18, sub := sub, addr := addr }).presentsGone (leadOf t) := rfl

theorem slot_disagree (s : State) (t : Tid) (shown : List Act) (f : Flt) (v : Tid) :
    (s.disagree t shown f).slot v = if v = t then (s.slot t).disagrees shown f else s.slot v := by
  have hqueues (w : Tid) : (s.modCore t.core fun c => { c with
      cmdqs := c.cmdqs.map fun (q, l) => (q, l.filter fun c => c.entered || c.tid ≠ t) }).slot w = s.slot w :=
    slot_modCore_of_slots s t.core (by exact fun _ => rfl) w
  rw [State.disagree, State.slot_modSlot, hqueues, hqueues]

theorem partner_leadOf_ne (t : Tid) : partner (leadOf t) ≠ leadOf t := by
  intro h
  have hslot := congrArg Tid.slot h
  simp only [partner, leadOf, Nat.mod_lt t.slot (by decide : 0 < 8), if_true] at hslot
  omega

section
variable (s : State) (t : Tid) (sub : BitVec 8) (addr : W64)

theorem slot_mismatch (v : Tid) : (s.mismatch t sub addr).slot v =
    if v = leadOf t ∨ v = partner (leadOf t) then (s.slot v).disagrees (s.shown v) { code := 18, sub := sub, addr := addr } else s.slot v := by
  rw [mismatch_eq, slot_presentsGone, slot_disagree, slot_disagree, slot_disagree, if_neg (partner_leadOf_ne t)]
  by_cases hp : v = partner (leadOf t)
  · rw [if_pos hp, if_pos (.inr hp), hp]
  · rw [if_neg hp]
    by_cases hl : v = leadOf t
    · rw [if_pos hl, if_pos (.inl hl), hl]
    · rw [if_neg hl, if_neg (not_or.2 ⟨hl, hp⟩)]

theorem ctx_mismatch (v : Tid) : (s.mismatch t sub addr).ctx v = s.ctx v := by
  rw [State.ctx, slot_mismatch]
  split <;> rfl

theorem phys_mismatch : (s.mismatch t sub addr).phys = s.phys := by
  rw [mismatch_eq, phys_presentsGone, phys_disagree, phys_disagree]

end

/-! A soft error. -/

/-- R195: a soft error marks one unit: correctable where it was clean, or uncorrectable. -/
theorem get_markErr (e : Sparse Err) (key : Nat) (c : Bool) (x : Nat) : (markErr e key c).get .clean x =
    if x = key then (if c then (if e.get .clean key = .clean then .correctable else e.get .clean key) else .uncorrectable)
    else e.get .clean x := by
  unfold markErr
  cases c with
  | false =>
    rw [if_neg Bool.false_ne_true, if_neg Bool.false_ne_true]
    exact Sparse.get_put ..
  | true =>
    rw [if_pos rfl, if_pos rfl]
    split
    · exact Sparse.get_put ..
    · split
      · next h => rw [h]
      · rfl

end Sys2Proof.Machine

namespace Sys2Proof.Claims

open Sys2Proof.Machine

theorem timeout : Timeout := by
  intro s u e l hcmp hdue
  have hrun : exec (.mismatchTimeout u) s = .next (s.mismatch u 1 (if (s.ctx u).trail then 0 else e.addr)) := by
    have hmismatch : (s.slot u).mismatchDue s.now = true := by
      rw [Slot.mismatchDue, hcmp]
      exact decide_eq_true hdue
    change execMismatchTimeout u s = _
    rw [execMismatchTimeout, hmismatch, hcmp]
    rfl
  refine ⟨_, hrun, fun w hw => ?_, fun w hl hp => ?_, fun w => ctx_mismatch .., phys_mismatch ..⟩
  · rw [slot_mismatch, if_pos hw]
    exact ⟨rfl, rfl⟩
  · rw [slot_mismatch, if_neg (not_or.2 ⟨hl, hp⟩)]

theorem softErrors : SoftErrors := by
  intro s c struck
  have hstruck (e : Sparse Err) (key : Nat) : struck e (markErr e key c) key :=
    ⟨fun x hx => by rw [get_markErr, if_neg hx], by rw [get_markErr, if_pos rfl]⟩
  refine ⟨fun k a hk ha => ?_, fun cl a hcl ha => ?_, fun pa hcoded => ?_, fun k pa hk hline => ?_⟩
  · exact ⟨_, congrArg Host.Outcome.next (if_pos ⟨hk, ha⟩), rfl, hstruck ..⟩
  · exact ⟨_, congrArg Host.Outcome.next (if_pos ⟨hcl, ha⟩), rfl, hstruck ..⟩
  · refine ⟨_, congrArg Host.Outcome.next (if_pos hcoded), rfl, hstruck .., fun x => ?_⟩
    rw [List.mem_filter, decide_eq_true_iff]
  · have hheld : (decide (k < 1152) && (s.core k).l1.any (·.tag == pa / 64)) = true := by
      obtain ⟨y, hy, htag⟩ := hline
      rw [Bool.and_eq_true, decide_eq_true_iff, List.any_eq_true]
      exact ⟨hk, y, hy, beq_iff_eq.2 htag⟩
    exact ⟨_, congrArg Host.Outcome.next (if_pos hheld), rfl, hstruck ..⟩

end Sys2Proof.Claims
end
section
/-!
PROOFS. The signatures of a dual-die launch (R220, R356).
-/

namespace Sys2Proof.Machine

/-! Shadow bytes are committed. -/

/-- Memory in which a team's shadow bytes have been committed. -/
def committed (m : Sparse Byte) (shadow : Sparse (Option Byte)) : Sparse Byte :=
  shadow.foldl (fun m z => match z.2 with
    | some v => m.put 0 z.1 v
    | none => m) m

theorem get_committed {shadow : Sparse (Option Byte)} {lo : Nat} (h : Sparse.wfFrom none lo shadow = true) (m : Sparse Byte) (pa : Nat) :
    (committed m shadow).get 0 pa = (shadow.get none pa).getD (m.get 0 pa) := by
  induction shadow generalizing m lo with
  | nil => rfl
  | cons z shadow ih =>
    obtain ⟨j, v⟩ := z
    simp only [Sparse.wfFrom, Bool.and_eq_true, decide_eq_true_iff] at h
    obtain ⟨⟨-, hv⟩, htail⟩ := h
    obtain ⟨b, rfl⟩ := Option.ne_none_iff_exists'.1 hv
    change (committed (m.put 0 j b) shadow).get 0 pa = _
    rw [ih htail, Sparse.get_cons, Sparse.get_put]
    by_cases hj : pa = j
    · subst hj
      rw [if_pos rfl, if_pos rfl, Sparse.get_below htail (Nat.lt_succ_self _)]
      rfl
    · rw [if_neg hj, if_neg (Ne.symm hj)]

section
variable {s : State}

theorem physPut_of_plain (hplain : Claims.plainPages s) (pa : Nat) (v : Byte) : s.physPut 0 pa v = { s with phys := s.phys.put 0 pa v } := by
  obtain ⟨hretired, hteam⟩ := hplain
  have hmapped : s.mapped pa = pa := by rw [State.mapped, hretired]; rfl
  rw [State.physPut, hteam, hmapped]

theorem commit_of_plain (hplain : Claims.plainPages s) (shadow : Sparse (Option Byte)) :
    shadow.foldl (fun (s : State) (z : Nat × Option Byte) => match z.2 with
      | some v => s.physPut 0 z.1 v
      | none => s) s = { s with phys := committed s.phys shadow } := by
  induction shadow generalizing s with
  | nil => rfl
  | cons z shadow ih =>
    obtain ⟨j, v⟩ := z
    cases v with
    | none => exact ih hplain
    | some v =>
      rw [List.foldl_cons]
      dsimp only
      rw [physPut_of_plain hplain]
      exact ih (s := { s with phys := s.phys.put 0 j v }) hplain

end

/-! The packet of kind 7. -/

/-- R366: the fields of an event's packet. -/
theorem bits_of_eventPacket {tick info place seq dropped no pasid rcb : Nat} (hinfo : info < 2 ^ 64) (hplace : place < 2 ^ 224)
    (hlow : place % 2 ^ 205 = 0) (hseq : seq < 2 ^ 16) (hdropped : dropped < 2 ^ 8) (hpasid : pasid < 2 ^ 20) (hrcb : rcb < 2 ^ 46)
    (hno : no < 2 ^ 16) :
    let v := (tick * 2 ^ 448 + info * 2 ^ 384 + place + 7 * 2 ^ 24 + seq * 2 ^ 8 + dropped) % 2 ^ 512 + no * 2 ^ 240 + pasid * 2 ^ 174 + rcb * 2 ^ 128
    v % 2 ^ 512 / 2 ^ 24 % 2 ^ 8 = 7 ∧ v % 2 ^ 512 / 2 ^ 384 % 2 ^ 64 = info := by
  intro v
  omega

theorem eventPacket_seven (s : State) (k : Nat) (info : W64) : s.eventPacket k 7 info 0 =
    BitVec.ofNat 512 ((s.tick k).toNat * 2 ^ 448 + info.toNat * 2 ^ 384 + (k % 2048 * 2 ^ 213 + s.pkg.pkgid.toNat * 2 ^ 205) + 7 * 2 ^ 24 +
      (s.core k).pktSeq.toNat * 2 ^ 8 + (s.core k).dropped.toNat) := by
  have hzero : (0 : W64).toNat = 0 := rfl
  unfold State.eventPacket
  dsimp only
  rw [if_pos rfl, hzero, Nat.zero_mul, Nat.add_zero]

/-- R356: what the packet of kind 7 holds. -/
theorem mismatchPacket_eq (s : State) (no : Nat) (a : Team) (info : W64) (hno : no < 65536)
    (hfew : ((s.core (s.firmwareCore 0)).pkts.filter (·.slot.isNone)).length < 4) :
    ∃ x, ((s.mismatchPacket no a info).core (s.firmwareCore 0)).pkts = (s.core (s.firmwareCore 0)).pkts ++ [x] ∧
      x.bits.extractLsb' 24 8 = 7 ∧ x.dest = a.region.supv ∧ x.bits.extractLsb' 384 64 = info := by
  let bits := BitVec.ofNat 512 ((s.eventPacket (s.firmwareCore 0) 7 info 0).toNat + no * 2 ^ 240 + a.region.pasid.toNat * 2 ^ 174 +
    a.region.rcb % 2 ^ 46 * 2 ^ 128)
  have hsend : s.mismatchPacket no a info = s.modCore (s.firmwareCore 0) fun c => { c with
      pkts := c.pkts ++ [⟨bits, none, s.now + s.packetTime (s.firmwareCore 0) a.region.supv, a.region.supv⟩], pktSeq := c.pktSeq + 1, dropped := 0 } :=
    if_neg fun h => absurd h.2 (Nat.not_le.2 hfew)
  have hbits : bits.toNat / 2 ^ 24 % 2 ^ 8 = 7 ∧ bits.toNat / 2 ^ 384 % 2 ^ 64 = info.toNat := by
    have := bits_of_eventPacket (tick := (s.tick (s.firmwareCore 0)).toNat) (info := info.toNat)
      (place := s.firmwareCore 0 % 2048 * 2 ^ 213 + s.pkg.pkgid.toNat * 2 ^ 205) (seq := (s.core (s.firmwareCore 0)).pktSeq.toNat)
      (dropped := (s.core (s.firmwareCore 0)).dropped.toNat) (no := no) (pasid := a.region.pasid.toNat) (rcb := a.region.rcb % 2 ^ 46)
      info.isLt (by omega) (by omega) (BitVec.isLt _) (BitVec.isLt _) (BitVec.isLt _) (Nat.mod_lt _ (by decide)) hno
    rw [BitVec.toNat_ofNat, eventPacket_seven, BitVec.toNat_ofNat]
    exact this
  refine ⟨⟨bits, none, s.now + s.packetTime (s.firmwareCore 0) a.region.supv, a.region.supv⟩, ?_, ?_, rfl, ?_⟩
  · rw [hsend, State.core_modCore_self]
  · refine BitVec.eq_of_toNat_eq ?_
    rw [BitVec.extractLsb'_toNat, Nat.shiftRight_eq_div_pow]
    exact hbits.1
  · refine BitVec.eq_of_toNat_eq ?_
    rw [BitVec.extractLsb'_toNat, Nat.shiftRight_eq_div_pow]
    exact hbits.2

theorem mismatchPacket_left (s : State) (no : Nat) (a : Team) (info : W64) :
    (s.mismatchPacket no a info).teams = s.teams ∧ (s.mismatchPacket no a info).phys = s.phys := by
  unfold State.mismatchPacket State.sendPacket
  dsimp only
  split <;> exact ⟨rfl, rfl⟩

end Sys2Proof.Machine

namespace Sys2Proof.Claims

open Sys2Proof.Machine

/-- A team whose shadow pages are gone. -/
def alone (b : Team) : Team := { b with shadow := [], partner := none }

/-- The teams of a launch whose shadow pages are gone. -/
def parted (s : State) (n p : Nat) (a b : Team) : State :=
  (((s.dropShadow n).dropShadow p).setTeam n (some a)).setTeam p (some (alone b))

theorem teams_parted (s : State) (n p : Nat) (a b : Team) : (parted s n p a b).teams =
    Sparse.put none (Sparse.put none s.teams n (some a)) p (some (alone b)) := rfl

theorem plainPages_parted {s : State} {n p : Nat} (hplain : plainPages s) (hn : n ≠ 0) (hp : p ≠ 0) (a b : Team) :
    plainPages (parted s n p a b) := by
  refine ⟨hplain.1, ?_⟩
  rw [State.team, teams_parted]
  exact (Sparse.get_put_ne none _ _ hp.symm).trans ((Sparse.get_put_ne none _ _ hn.symm).trans hplain.2)

theorem signatures : Signatures := by
  intro s n a b p hplain ha hpartner hp hn hb hsecond hdone hdone' hwf gone
  have hne : n ≠ 0 ∧ p.toNat ≠ 0 := by
    refine ⟨fun h => ?_, fun h => ?_⟩
    · rw [h] at ha
      exact absurd (hplain.2.symm.trans ha) (fun h => nomatch h)
    · rw [h] at hb
      exact absurd (hplain.2.symm.trans hb) (fun h => nomatch h)
  have hgone (a' : Team) (t : State) (hshadow : a'.shadow = []) (hnone : a'.partner = none)
      (ht : t.teams = (parted s n p.toNat a' b).teams) : gone t a'.cval := by
    rw [teams_parted] at ht
    have hfirst : t.teams.get none n = some a' := by
      rw [ht, Sparse.get_put_ne none _ _ hp.symm, Sparse.get_put_self]
    refine ⟨fun x hx => ?_, by rw [hfirst]; rfl, by rw [ht, Sparse.get_put_self]; rfl⟩
    rw [hfirst] at hx
    cases hx
    exact ⟨hshadow, hnone, rfl⟩
  have hready : (a.second || !a.done || !b.done) = false := by rw [hsecond, hdone, hdone']; rfl
  constructor
  · intro hequal
    let u := parted s n p.toNat (alone a) b
    have hcommit := commit_of_plain (plainPages_parted hplain hne.1 hne.2 (alone a) b) a.shadow
    refine ⟨{ u with phys := committed u.phys a.shadow }, ?_, hgone (alone a) _ rfl rfl rfl, fun pa => get_committed hwf s.phys pa⟩
    rw [← hcommit]
    change execSignatureCompare n s = _
    simp only [execSignatureCompare, ha, hpartner, hb, hready, Bool.false_eq_true, if_false]
    exact congrArg Host.Outcome.next (if_pos hequal)
  · intro hdiffer
    let a' : Team := { alone a with cval := a.cval ^^^ BitVec.twoPow 64 63 }
    let info := BitVec.ofNat 64 (leWord (a.signature.take 4) + 2 ^ 32 * leWord (b.signature.take 4))
    let u := parted s n p.toNat a' b
    have hrun : exec (.signatureCompare n) s = .next (u.mismatchPacket n a info) := by
      change execSignatureCompare n s = _
      simp only [execSignatureCompare, ha, hpartner, hb, hready, Bool.false_eq_true, if_false]
      exact congrArg Host.Outcome.next (if_neg hdiffer)
    refine ⟨_, hrun, hgone a' _ rfl rfl ?_, ?_, fun hfew => mismatchPacket_eq u n a info hn hfew⟩
    · exact (mismatchPacket_left u n a info).1
    · exact (mismatchPacket_left u n a info).2

end Sys2Proof.Claims
end
section
/-!
PROOFS. Errors in dirty lines, the retirement of pages and the sweeps of bindings (R357, R358).
-/

namespace Sys2Proof.Machine

/-! Tables whose entries change each by its key. -/

theorem Sparse.get_map {α : Type} {d : α} {f : Nat × α → Nat × α} {g : Nat → α → α} (hf : ∀ j v, f (j, v) = (j, g j v)) (hd : ∀ j, g j d = d)
    (m : Sparse α) (k : Nat) : Sparse.get d (m.map f) k = g k (Sparse.get d m k) := by
  induction m with
  | nil => exact (hd k).symm
  | cons x m ih =>
    obtain ⟨j, v⟩ := x
    rw [List.map_cons, hf, Sparse.get_cons, Sparse.get_cons, ih]
    split
    · next h => rw [h]
    · rfl

/-! What is put on the agenda. -/

/-- The package but for the agenda. -/
def State.besideAgenda (s : State) : State := { s with agenda := [], seq := 0 }

section
variable {α : Type} (act : α → Act) (l : List α) (s : State)

/-- An action for each of a list, all due now. -/
def State.actEach : State := l.foldl (fun s x => s.actAt s.now (act x)) s

theorem agenda_actEach : ∀ e ∈ s.agenda, e ∈ (s.actEach act l).agenda :=
  List.foldlRecOn (motive := fun t : State => ∀ e ∈ s.agenda, e ∈ t.agenda) l _ (fun _ h => h)
    fun _ ht _ _ e he => (State.mem_sched ..).2 (.inr (ht e he))

theorem mem_actEach {x : α} (hx : x ∈ l) : ∃ e ∈ (s.actEach act l).agenda, e.ev = .act (act x) ∧ e.due = s.now := by
  induction l generalizing s with
  | nil => cases hx
  | cons y l ih =>
    change ∃ e ∈ ((s.actAt s.now (act y)).actEach act l).agenda, _
    rcases List.mem_cons.1 hx with rfl | hx
    · exact ⟨_, agenda_actEach act l _ _ ((State.mem_sched ..).2 (.inl rfl)), rfl, rfl⟩
    · exact ih _ hx

end

/-! Directory lines that leave a slice. -/

/-- Beside the lines of the slices, the messages to peers and entries added to the agenda, nothing differs. -/
structure LineWork (s t : State) : Prop where
  beside   : t.besideListing = s.besideListing
  clusters : ∀ k, { t.cluster k with slice := [] } = { s.cluster k with slice := [] }
  agenda   : ∀ e ∈ s.agenda, e ∈ t.agenda

section
variable {s t u : State}

theorem LineWork.refl (s : State) : LineWork s s := ⟨rfl, fun _ => rfl, fun _ h => h⟩

theorem LineWork.trans (h : LineWork s t) (g : LineWork t u) : LineWork s u :=
  ⟨g.beside.trans h.beside, fun k => (g.clusters k).trans (h.clusters k), fun e he => g.agenda e (h.agenda e he)⟩

theorem LineWork.now (h : LineWork s t) : t.now = s.now := (congrArg State.now h.beside :)
theorem LineWork.errs (h : LineWork s t) : t.errs = s.errs := (congrArg State.errs h.beside :)
theorem LineWork.poison (h : LineWork s t) : t.poison = s.poison := (congrArg State.poison h.beside :)
theorem LineWork.phys (h : LineWork s t) : t.phys = s.phys := (congrArg State.phys h.beside :)
theorem LineWork.pkg (h : LineWork s t) : t.pkg = s.pkg := (congrArg State.pkg h.beside :)
theorem LineWork.cores (h : LineWork s t) : t.cores = s.cores := (congrArg State.cores h.beside :)

theorem LineWork.ctx (h : LineWork s t) (v : Tid) : t.ctx v = s.ctx v := by
  rw [State.ctx, State.slot, State.core, h.cores]
  rfl

theorem LineWork.badWays (h : LineWork s t) (k : Nat) : (t.cluster k).badWays = (s.cluster k).badWays :=
  (congrArg Cluster.badWays (h.clusters k) :)
theorem LineWork.heldPages (h : LineWork s t) (k : Nat) : (t.cluster k).heldPages = (s.cluster k).heldPages :=
  (congrArg Cluster.heldPages (h.clusters k) :)

theorem lineWork_sched (s : State) (due phase : Nat) (ev : Ev) : LineWork s (s.sched due phase ev) :=
  ⟨rfl, fun _ => rfl, fun _ he => (State.mem_sched ..).2 (.inr he)⟩

theorem lineWork_revokeLine (s : State) (pa : Nat) (l : SLine) : LineWork s (s.revokeLine pa l).1 := by
  unfold State.revokeLine
  split
  · exact .refl s
  · split
    · exact ⟨rfl, fun _ => rfl, fun _ h => h⟩
    · exact lineWork_sched ..

theorem revokeLine_clusters (s : State) (pa : Nat) (l : SLine) : (s.revokeLine pa l).1.clusters = s.clusters := by
  unfold State.revokeLine
  split
  · rfl
  · split <;> rfl

theorem lineWork_evictSline (s : State) (cl key : Nat) (l : SLine) : LineWork s (s.evictSline cl key l) := by
  refine (lineWork_revokeLine s (key % 2 ^ 46 * 64) l).trans ⟨rfl, fun k => ?_, fun _ h => h⟩
  rw [State.evictSline, State.cluster_modCluster]
  split
  · next h => rw [h]
  · rfl

theorem slice_evictSline (s : State) (cl key : Nat) (l : SLine) (k : Nat) : ((s.evictSline cl key l).cluster cl).slice.get none k =
    if k = key then none else (s.cluster cl).slice.get none k := by
  rw [State.evictSline, State.cluster_modCluster_self, State.cluster, revokeLine_clusters]
  exact Sparse.get_put none _ key none k

end

/-- A line that leaves a slice of its own, or whose error is dealt with first by its owner tag. -/
def State.lineLeaves (cl : Nat) (found : List Nat) (s : State) (x : Nat × SLine) : State :=
  if found.contains x.1 then s.actAt s.now (.dirtyLineUe x.1) else s.evictSline cl x.1 x.2

section
variable (cl : Nat) (found : List Nat) (lines : List (Nat × SLine)) (s : State)

theorem lineWork_lineLeaves (x : Nat × SLine) : LineWork s (s.lineLeaves cl found x) := by
  unfold State.lineLeaves
  split
  · exact lineWork_sched ..
  · exact lineWork_evictSline ..

theorem slice_lineLeaves (x : Nat × SLine) (k : Nat) : ((s.lineLeaves cl found x).cluster cl).slice.get none k =
    if k = x.1 ∧ x.1 ∉ found then none else (s.cluster cl).slice.get none k := by
  unfold State.lineLeaves
  by_cases hfound : x.1 ∈ found
  · rw [if_pos (List.contains_iff_mem.2 hfound), if_neg fun h => h.2 hfound]
    rfl
  · rw [if_neg (mt List.contains_iff_mem.1 hfound), slice_evictSline]
    simp only [hfound, not_false_eq_true, and_true]

theorem lineWork_linesLeave : LineWork s (lines.foldl (State.lineLeaves cl found) s) :=
  List.foldlRecOn (motive := fun t : State => LineWork s t) lines _ (.refl s) fun _ ht _ _ => ht.trans (lineWork_lineLeaves ..)

/-- A key's line is gone, unless its error is to be dealt with first. -/
theorem slice_linesLeave (k : Nat) : ((lines.foldl (State.lineLeaves cl found) s).cluster cl).slice.get none k =
    if (∃ x ∈ lines, x.1 = k) ∧ k ∉ found then none else (s.cluster cl).slice.get none k := by
  induction lines generalizing s with
  | nil => simp
  | cons x lines ih =>
    rw [List.foldl_cons, ih, slice_lineLeaves]
    by_cases hk : k = x.1
    · subst hk
      by_cases hfound : x.1 ∈ found <;> simp [hfound]
    · have hx : ¬ x.1 = k := fun h => hk h.symm
      simp only [List.exists_mem_cons_iff, hk, hx, false_or, false_and, if_false]

theorem acts_linesLeave {x : Nat × SLine} (hx : x ∈ lines) (hfound : x.1 ∈ found) :
    ∃ e ∈ (lines.foldl (State.lineLeaves cl found) s).agenda, e.ev = .act (.dirtyLineUe x.1) ∧ e.due = s.now := by
  induction lines generalizing s with
  | nil => cases hx
  | cons y lines ih =>
    rw [List.foldl_cons]
    rcases List.mem_cons.1 hx with rfl | hx
    · have hfirst : ∃ e ∈ (s.lineLeaves cl found x).agenda, e.ev = .act (.dirtyLineUe x.1) ∧ e.due = s.now := by
        rw [State.lineLeaves, if_pos (List.contains_iff_mem.2 hfound)]
        exact ⟨_, (State.mem_sched ..).2 (.inl rfl), rfl, rfl⟩
      obtain ⟨e, he, hact⟩ := hfirst
      exact ⟨e, (lineWork_linesLeave ..).agenda e he, hact⟩
    · obtain ⟨e, he, hev, hdue⟩ := ih (s.lineLeaves cl found y) hx
      exact ⟨e, he, hev, hdue.trans (lineWork_lineLeaves ..).now⟩

end

end Sys2Proof.Machine
end
section
/-!
PROOFS. An uncorrectable error in a dirty line (R357).
-/

namespace Sys2Proof.Machine

theorem Sparse.get_foldl_put {α : Type} [DecidableEq α] (d v : α) (l : List Nat) (m : Sparse α) (g : Nat) :
    Sparse.get d (l.foldl (fun m u => Sparse.put d m u v) m) g = if g ∈ l then v else Sparse.get d m g := by
  induction l generalizing m with
  | nil => simp
  | cons u l ih =>
    rw [List.foldl_cons, ih, Sparse.get_put]
    by_cases hl : g ∈ l
    · rw [if_pos hl, if_pos (List.mem_cons_of_mem _ hl)]
    · by_cases hu : g = u
      · rw [if_neg hl, if_pos hu, if_pos (hu ▸ List.mem_cons_self)]
      · rw [if_neg hl, if_neg hu, if_neg fun h => (List.mem_cons.1 h).elim hu hl]

/-! The lines of a way. -/

/-- A line and those of its way, as a slice lists them. -/
def Cluster.linesOfWay (c : Cluster) (line : Nat) (l : SLine) : List (Nat × SLine) :=
  c.slice.filterMap fun x => x.2.bind fun y => if x.1 = line ∨ y.way = l.way then some (x.1, y) else none

theorem mem_linesOfWay {c : Cluster} {line : Nat} {l : SLine} {k : Nat} {y : SLine} :
    (k, y) ∈ c.linesOfWay line l ↔ (k, some y) ∈ c.slice ∧ (k = line ∨ y.way = l.way) := by
  rw [Cluster.linesOfWay, List.mem_filterMap]
  constructor
  · rintro ⟨⟨j, z⟩, hz, hy⟩
    obtain ⟨w, rfl, hw⟩ := Option.bind_eq_some_iff.1 hy
    dsimp only at hw
    split at hw
    · next h =>
      cases hw
      exact ⟨hz, h⟩
    · cases hw
  · rintro ⟨hy, h⟩
    exact ⟨(k, some y), hy, if_pos h⟩

/-- Another dirty line with an error that no access has found. -/
def State.badLine (s : State) (line : Nat) (x : Nat × SLine) : Bool := x.1 != line && x.2.dirty && s.freshErr (x.1 % 2 ^ 46 * 64) 64

/-- The lines of the way that are dealt with by their own owner tags. -/
def State.badLines (s : State) (cl line : Nat) (l : SLine) : List Nat :=
  (((s.cluster cl).linesOfWay line l).filter (s.badLine line)).map (·.1)

theorem mem_badLines {s : State} {cl line : Nat} {l : SLine} {k : Nat} : k ∈ s.badLines cl line l ↔
    ∃ y, (k, y) ∈ (s.cluster cl).linesOfWay line l ∧ k ≠ line ∧ y.dirty = true ∧ s.freshErr (k % 2 ^ 46 * 64) 64 = true := by
  simp only [State.badLines, List.mem_map, List.mem_filter, State.badLine, Bool.and_eq_true, bne_iff_ne, Prod.exists, and_assoc]
  constructor
  · rintro ⟨j, y, hy, hne, hdirty, herr, rfl⟩
    exact ⟨y, hy, hne, hdirty, herr⟩
  · rintro ⟨y, hy, hne, hdirty, herr⟩
    exact ⟨k, y, hy, hne, hdirty, herr, rfl⟩

/-! What follows the error. -/

/-- The eight units of a line that begins at a unit. -/
def unitsAt (unit : Nat) : List Nat := (List.range 8).map (unit + ·)

theorem mem_unitsAt {unit x : Nat} : x ∈ unitsAt unit ↔ unit ≤ x ∧ x < unit + 8 := by
  rw [unitsAt, List.mem_map]
  constructor
  · rintro ⟨j, hj, rfl⟩
    have := List.mem_range.1 hj
    omega
  · rintro ⟨hlo, hhi⟩
    exact ⟨x - unit, List.mem_range.2 (by omega), by omega⟩

/-- The ways that are given up, with one more. -/
def withWay (ways : List Nat) (way : Nat) : List Nat := if ways.contains way then ways else ways ++ [way]

theorem way_mem_withWay (ways : List Nat) (way : Nat) : way ∈ withWay ways way := by
  unfold withWay
  split
  · next h => exact List.contains_iff_mem.1 h
  · exact List.mem_append_right _ (List.mem_singleton_self _)

/-- The units are poisoned, and the way is given up. -/
def State.wayLost (s : State) (cl unit way : Nat) : State :=
  ({ s with
    errs := (unitsAt unit).foldl (fun e u => e.put .clean u .uncorrectable) s.errs
    poison := s.poison.filter (fun u => !(unitsAt unit).contains u) ++ unitsAt unit } : State).modCluster cl fun c =>
      { c with badWays := withWay c.badWays way }

theorem cluster_wayLost (s : State) (cl unit way : Nat) : (s.wayLost cl unit way).cluster cl =
    { s.cluster cl with badWays := withWay (s.cluster cl).badWays way } := State.cluster_modCluster_self ..

/-- The kill of a line's owner is on its way. -/
def State.ownerCalled (s : State) (cl line : Nat) (l : SLine) : State :=
  if l.opkg ≠ s.pkg.pkgid then s.toPeer l.opkg.toNat line (.act (.ownerKill ⟨l.ocore.toNat, l.oslot.toNat⟩ l.obind))
  else s.actAt (s.now + (if dieOf l.ocore.toNat = dieOfCluster cl then 60 else 80)) (.ownerKill ⟨l.ocore.toNat, l.oslot.toNat⟩ l.obind)

/-- A page is to be copied, unless its retirement has begun. -/
def State.pageCalled (s : State) (cl page : Nat) : State :=
  if (s.cluster cl).heldPages.contains page then s
  else (s.actEach (fun h => .pageRetireRequest h page) (s.pageHomes page)).actAt s.now (.sparePageCopy page)

section
variable (s : State) (cl : Nat)

theorem lineWork_actEach {α : Type} (act : α → Act) (l : List α) : LineWork s (s.actEach act l) :=
  List.foldlRecOn (motive := fun t : State => LineWork s t) l _ (.refl s) fun _ ht _ _ => ht.trans (lineWork_sched ..)

theorem cluster_actEach {α : Type} (act : α → Act) (l : List α) (j : Nat) : (s.actEach act l).cluster j = s.cluster j :=
  List.foldlRecOn (motive := fun t : State => t.cluster j = s.cluster j) l _ rfl fun _ ht _ _ => ht

theorem lineWork_ownerCalled (line : Nat) (l : SLine) : LineWork s (s.ownerCalled cl line l) := by
  unfold State.ownerCalled
  split
  · exact ⟨rfl, fun _ => rfl, fun _ h => h⟩
  · exact lineWork_sched ..

theorem lineWork_pageCalled (page : Nat) : LineWork s (s.pageCalled cl page) := by
  unfold State.pageCalled
  split
  · exact .refl s
  · exact (lineWork_actEach ..).trans (lineWork_sched ..)

theorem mem_ownerCalled (line : Nat) {l : SLine} (h : l.opkg = s.pkg.pkgid) : ∃ e ∈ (s.ownerCalled cl line l).agenda,
    e.ev = .act (.ownerKill ⟨l.ocore.toNat, l.oslot.toNat⟩ l.obind) ∧
      e.due = s.now + (if dieOf l.ocore.toNat = dieOfCluster cl then 60 else 80) := by
  rw [State.ownerCalled, if_neg fun hne => hne h]
  exact ⟨_, (State.mem_sched ..).2 (.inl rfl), rfl, rfl⟩

theorem mem_pageCalled {page : Nat} (h : page ∉ (s.cluster cl).heldPages) :
    ∃ e ∈ (s.pageCalled cl page).agenda, e.ev = .act (.sparePageCopy page) ∧ e.due = s.now := by
  rw [State.pageCalled, if_neg (mt List.contains_iff_mem.1 h)]
  exact ⟨_, (State.mem_sched ..).2 (.inl rfl), rfl, rfl⟩

theorem cluster_ownerCalled (line : Nat) (l : SLine) (j : Nat) : (s.ownerCalled cl line l).cluster j = s.cluster j := by
  unfold State.ownerCalled
  split <;> rfl

theorem cluster_pageCalled (page j : Nat) : (s.pageCalled cl page).cluster j = s.cluster j := by
  unfold State.pageCalled
  split
  · rfl
  · rw [State.actAt, State.cluster_sched, cluster_actEach]

end

end Sys2Proof.Machine

namespace Sys2Proof.Claims

open Sys2Proof.Machine

section
variable {s : State} {line : Nat} {l : SLine}

/-- R357: what an error in a dirty line brings about. -/
def errorFound (s : State) (line : Nat) (l : SLine) : State :=
  let pa := line % 2 ^ 46 * 64
  let cl := s.home pa
  ((((s.cluster cl).linesOfWay line l).foldl (State.lineLeaves cl (s.badLines cl line l)) (s.wayLost cl (s.mapped pa / 8) l.way)).ownerCalled
    cl line l).pageCalled cl (pa / 65536)

theorem dirtyLineUe_eq (hl : (s.cluster (s.home (line % 2 ^ 46 * 64))).slice.get none line = some l) (hdirty : l.dirty = true) :
    exec (.dirtyLineUe line) s = .next (errorFound s line l) := by
  change execDirtyLineUe line s = _
  simp only [execDirtyLineUe, hl, hdirty, Bool.not_true, Bool.false_eq_true, if_false]
  rfl

end

theorem dirtyLine : DirtyLine := by
  intro s line l pa cl held taken bad goes hl hdirty
  let lines := (s.cluster cl).linesOfWay line l
  let found := s.badLines cl line l
  let w := s.wayLost cl (s.mapped pa / 8) l.way
  let v := lines.foldl (State.lineLeaves cl found) w
  let o := v.ownerCalled cl line l
  let t := o.pageCalled cl (pa / 65536)
  have hv : LineWork w v := lineWork_linesLeave cl found lines w
  have ho : LineWork v o := lineWork_ownerCalled v cl line l
  have ht : LineWork o t := lineWork_pageCalled o cl (pa / 65536)
  have hwt : LineWork w t := (hv.trans ho).trans ht
  have htaken (k : Nat) (y : SLine) : (k, y) ∈ lines ↔ taken k y := mem_linesOfWay
  have hfound (k : Nat) : k ∈ found ↔ ∃ y, taken k y ∧ bad k y := by
    rw [mem_badLines]
    exact exists_congr fun y => and_congr_left fun _ => htaken k y
  have hgoes (k : Nat) : goes k ↔ (∃ x ∈ lines, x.1 = k) ∧ k ∉ found := by
    constructor
    · rintro ⟨⟨y, hy⟩, hnone⟩
      refine ⟨⟨(k, y), (htaken k y).2 hy, rfl⟩, fun h => ?_⟩
      obtain ⟨z, hz, hbad⟩ := (hfound k).1 h
      exact hnone z hz hbad
    · rintro ⟨⟨⟨j, y⟩, hy, rfl⟩, hnone⟩
      exact ⟨⟨y, (htaken j y).1 hy⟩, fun z hz hbad => hnone ((hfound j).2 ⟨z, hz, hbad⟩)⟩
  have hslice (k : Nat) : (t.cluster cl).slice.get none k = if (∃ x ∈ lines, x.1 = k) ∧ k ∉ found then none else held.get none k := by
    rw [cluster_pageCalled, cluster_ownerCalled, slice_linesLeave, cluster_wayLost]
  have herrs (x : Nat) : t.errs.get .clean x = if x ∈ unitsAt (s.mapped pa / 8) then .uncorrectable else s.errs.get .clean x := by
    rw [hwt.errs]
    exact Sparse.get_foldl_put ..
  have hme : taken line l := ⟨hl ▸ Sparse.mem_of_get (by rw [hl]; exact nofun), .inl rfl⟩
  refine ⟨t, dirtyLineUe_eq hl hdirty, fun j hj => ?_, fun x hx => ?_, fun j hj => ?_, ⟨⟨l, hme⟩, fun y _ h => h.1 rfl⟩, fun k hk => ?_, fun k hk => ?_,
    fun k y hy hbad => ?_, ?_, hwt.phys, fun u => hwt.ctx u, fun hpkg => ?_, fun hheld => ?_⟩
  · rw [herrs, if_pos (mem_unitsAt.2 (by omega))]
  · rw [herrs, if_neg (mt mem_unitsAt.1 hx)]
  · rw [hwt.poison]
    exact List.mem_append_right _ (mem_unitsAt.2 (by omega))
  · rw [hslice, if_pos ((hgoes k).1 hk)]
  · rw [hslice, if_neg (mt (hgoes k).2 hk)]
  · obtain ⟨e, he, hev, hdue⟩ := acts_linesLeave cl found lines w ((htaken k y).2 hy) ((hfound k).2 ⟨y, hy, hbad⟩)
    exact ⟨e, (ho.trans ht).agenda e he, hev, hdue⟩
  · rw [hwt.badWays, cluster_wayLost]
    exact way_mem_withWay ..
  · obtain ⟨e, he, hev, hdue⟩ := mem_ownerCalled v cl line (l := l) (hpkg.trans (congrArg Pkg.pkgid hv.pkg.symm))
    exact ⟨e, ht.agenda e he, hev, hdue.trans (congrArg (· + _) hv.now)⟩
  · have hpages : (o.cluster cl).heldPages = (s.cluster cl).heldPages := by rw [(hv.trans ho).heldPages, cluster_wayLost]
    obtain ⟨e, he, hev, hdue⟩ := mem_pageCalled o cl (page := pa / 65536) (by rw [hpages]; exact hheld)
    exact ⟨e, he, hev, hdue.trans (hv.trans ho).now⟩

end Sys2Proof.Claims
end
section
/-!
PROOFS. The retirement of pages and the sweeps of bindings (R357, R358).
-/

namespace Sys2Proof.Claims

open Sys2Proof.Machine

/-! A page that is to be retired. -/

/-- The dirty lines of a page with an error. -/
def pageBad (s : State) (cl page : Nat) : Sparse (Option SLine) :=
  (s.cluster cl).slice.filter fun x => linePage x.1 == page && (match x.2 with
    | some l => l.dirty && s.freshErr (x.1 % 2 ^ 46 * 64) 64
    | none => false)

theorem freshErr_of_pageBad {s : State} {cl page : Nat} {x : Nat × Option SLine} (h : x ∈ pageBad s cl page) :
    s.freshErr (x.1 % 2 ^ 46 * 64) 64 = true := by
  obtain ⟨k, v⟩ := x
  have hx := (List.mem_filter.1 h).2
  rw [Bool.and_eq_true] at hx
  cases v with
  | none => exact absurd hx.2 Bool.false_ne_true
  | some l => exact (Bool.and_eq_true_iff.1 hx.2).2

/-- The slice holds the accesses to the page, and has written its other dirty lines back. -/
def pageHeld (s : State) (cl page : Nat) : State :=
  s.modCluster cl fun c => { c with
    heldPages := if c.heldPages.contains page then c.heldPages else c.heldPages ++ [page]
    slice := c.slice.map fun (k, l) => (k, l.map fun (l : SLine) =>
      if linePage k = page ∧ !(pageBad s cl page).any (fun x => x.1 == k) then { l with dirty := false } else l) }

theorem slice_pageHeld (s : State) (cl page k : Nat) : ((pageHeld s cl page).cluster cl).slice.get none k =
    ((s.cluster cl).slice.get none k).map fun (l : SLine) =>
      if linePage k = page ∧ !(pageBad s cl page).any (fun x => x.1 == k) then { l with dirty := false } else l := by
  rw [pageHeld, State.cluster_modCluster_self]
  exact Sparse.get_map (g := fun k (v : Option SLine) => v.map fun (l : SLine) =>
    if linePage k = page ∧ !(pageBad s cl page).any (fun x => x.1 == k) then { l with dirty := false } else l) (fun _ _ => rfl) (fun _ => rfl) _ k

theorem retirePage : RetirePage := by
  intro s cl page
  let act (x : Nat × Option SLine) : Act := .dirtyLineUe x.1
  have hcluster (j : Nat) : ((pageHeld s cl page).actEach act (pageBad s cl page)).cluster j = (pageHeld s cl page).cluster j :=
    cluster_actEach ..
  refine ⟨(pageHeld s cl page).actEach act (pageBad s cl page), rfl, ?_, (lineWork_actEach ..).phys, fun k hk => ?_, fun k hk hsound => ?_,
    fun k l hk herr hl hdirty => ?_⟩
  · rw [hcluster, pageHeld, State.cluster_modCluster_self]
    exact way_mem_withWay ..
  · rw [hcluster, slice_pageHeld]
    simp [hk]
  · have hnone : (pageBad s cl page).any (fun x => x.1 == k) = false := by
      rw [List.any_eq_false]
      intro x hx heq
      rw [← beq_iff_eq.1 heq, freshErr_of_pageBad hx] at hsound
      exact absurd hsound.symm Bool.false_ne_true
    rw [hcluster, slice_pageHeld]
    simp [hk, hnone]
  · have hbad : (k, some l) ∈ pageBad s cl page := by
      refine List.mem_filter.2 ⟨hl ▸ Sparse.mem_of_get (by rw [hl]; exact nofun), ?_⟩
      dsimp only
      rw [hk, hdirty, herr, beq_self_eq_true]
      rfl
    obtain ⟨e, he, hev, -⟩ := mem_actEach act (pageBad s cl page) (pageHeld s cl page) hbad
    exact ⟨e, he, hev⟩

/-! A binding sweep. -/

section
variable (s : State) (u : Tid)

/-- Is a line dirty, of the slot, and of the half that begins? -/
def sweptLine (l : SLine) : Bool :=
  l.dirty && l.opkg == s.pkg.pkgid && l.ocore.toNat == u.core && l.oslot.toNat == u.slot
    && (decide (l.obind.toNat < 2048) == decide ((s.slot u).bind.toNat + 1 ≠ 2048))

/-- A line of the sweep with an uncorrectable error. -/
def sweptBad (x : Nat × Option SLine) : Bool :=
  match x.2 with
  | some l => sweptLine s u l && s.freshErr (x.1 % 2 ^ 46 * 64) 64
  | none => false

theorem sweptBad_some (k : Nat) (l : SLine) : sweptBad s u (k, some l) = (sweptLine s u l && s.freshErr (k % 2 ^ 46 * 64) 64) := rfl

def sweptFound : List Nat := s.clusters.flatMap fun x => (x.2.slice.filter (sweptBad s u)).map (·.1)

/-- A line as a sweep leaves it. -/
def sweepLine (k : Nat) (l : SLine) : SLine := if sweptLine s u l && !sweptBad s u (k, some l) then { l with dirty := false } else l

/-- Every slice has written back its dirty lines of the sweep. -/
def swept : State := { s with clusters := s.clusters.map fun (i, c) => (i, { c with slice := c.slice.map fun (k, l) => (k, l.map (sweepLine s u k)) }) }

theorem bindingSweep_eq : exec (.bindingSweep u) s = .next ((swept s u).actEach .dirtyLineUe (sweptFound s u)) := rfl

theorem slice_swept (cl k : Nat) : ((swept s u).cluster cl).slice.get none k = ((s.cluster cl).slice.get none k).map (sweepLine s u k) := by
  have hcluster : (swept s u).cluster cl = { s.cluster cl with slice := (s.cluster cl).slice.map fun (k, l) => (k, l.map (sweepLine s u k)) } :=
    Sparse.get_map (d := ({} : Cluster)) (g := fun _ c => { c with slice := c.slice.map fun (k, l) => (k, l.map (sweepLine s u k)) })
      (fun _ _ => rfl) (fun _ => rfl) s.clusters cl
  rw [hcluster]
  exact Sparse.get_map (g := fun k (v : Option SLine) => v.map (sweepLine s u k)) (fun _ _ => rfl) (fun _ => rfl) _ k

end

theorem sweeps : Sweeps := by
  intro s u low mine
  have hmine (l : SLine) : sweptLine s u l = true ↔ mine l := by
    simp only [sweptLine, Bool.and_eq_true, beq_iff_eq, decide_eq_decide, and_assoc, mine, low]
  let t := (swept s u).actEach Act.dirtyLineUe (sweptFound s u)
  have hwork : LineWork (swept s u) t := lineWork_actEach ..
  have hget (cl k : Nat) : (t.cluster cl).slice.get none k = ((s.cluster cl).slice.get none k).map (sweepLine s u k) := by
    rw [cluster_actEach, slice_swept]
  refine ⟨t, bindingSweep_eq s u, hwork.cores, hwork.phys, hwork.errs, fun cl k => ⟨fun hnone => ?_, fun l hl => ⟨fun hl' hsound => ?_,
    fun hl' herr => ⟨?_, fun hcl hk => ?_⟩, fun hl' => ?_⟩⟩⟩
  · rw [hget, hnone]
    rfl
  · have hbad : sweptBad s u (k, some l) = false := by rw [sweptBad_some, hsound, Bool.and_false]
    rw [hget, hl, Option.map_some, sweepLine, (hmine l).2 hl', hbad]
    rfl
  · have hbad : sweptBad s u (k, some l) = true := by rw [sweptBad_some, herr, (hmine l).2 hl']; rfl
    rw [hget, hl, Option.map_some, sweepLine, hbad, Bool.not_true, Bool.and_false]
    rfl
  · have hbad : sweptBad s u (k, some l) = true := by rw [sweptBad_some, herr, (hmine l).2 hl']; rfl
    exact mem_actEach Act.dirtyLineUe (sweptFound s u) (swept s u)
      (List.mem_flatMap.2 ⟨_, hcl, List.mem_map.2 ⟨_, List.mem_filter.2 ⟨hk, hbad⟩, rfl⟩⟩)
  · have hother : sweptLine s u l = false := Bool.eq_false_iff.2 (mt (hmine l).1 hl')
    rw [hget, hl, Option.map_some, sweepLine, hother, Bool.false_and]
    rfl

end Sys2Proof.Claims
end
section
/-!
PROOFS. A page moves to a spare, or is retired without one (R357).
-/

namespace Sys2Proof.Machine

/-! Memory that moves. -/

theorem Sparse.get_filter_key {α : Type} (d : α) (p : Nat → Bool) (m : Sparse α) (k : Nat) :
    Sparse.get d (m.filter fun x => p x.1) k = if p k then Sparse.get d m k else d := by
  induction m with
  | nil => simp
  | cons x m ih =>
    obtain ⟨j, v⟩ := x
    by_cases hj : p j = true
    · rw [List.filter_cons_of_pos (p := fun x : Nat × α => p x.1) hj, Sparse.get_cons, Sparse.get_cons, ih]
      by_cases hk : j = k
      · rw [if_pos hk, if_pos hk, if_pos (hk ▸ hj)]
      · rw [if_neg hk, if_neg hk]
    · rw [List.filter_cons_of_neg (p := fun x : Nat × α => p x.1) hj, Sparse.get_cons, ih]
      by_cases hk : j = k
      · rw [if_neg (hk ▸ hj), if_neg (hk ▸ hj)]
      · rw [if_neg hk]

section
variable {src dst : Nat}

/-- Bytes that are copied from `src` on to `dst` on. -/
def copied (src dst : Nat) (bytes old : Sparse Byte) : Sparse Byte := bytes.foldl (fun m x => Sparse.put 0 m (x.1 - src + dst) x.2) old

theorem get_copied {bytes : Sparse Byte} {lo : Nat} (hwf : Sparse.wfFrom 0 lo bytes = true) (hsrc : ∀ x ∈ bytes, src ≤ x.1) (old : Sparse Byte) (o : Nat) :
    Sparse.get 0 (copied src dst bytes old) (dst + o) =
      if Sparse.get 0 bytes (src + o) = 0 then Sparse.get 0 old (dst + o) else Sparse.get 0 bytes (src + o) := by
  induction bytes generalizing old lo with
  | nil => exact (if_pos rfl).symm
  | cons x bytes ih =>
    obtain ⟨j, v⟩ := x
    simp only [Sparse.wfFrom, Bool.and_eq_true, decide_eq_true_iff] at hwf
    obtain ⟨⟨-, hv⟩, htail⟩ := hwf
    have hj : src ≤ j := hsrc (j, v) List.mem_cons_self
    change Sparse.get 0 (copied src dst bytes (Sparse.put 0 old (j - src + dst) v)) (dst + o) = _
    rw [ih htail fun x hx => hsrc x (List.mem_cons_of_mem _ hx), Sparse.get_put, Sparse.get_cons]
    by_cases ho : j = src + o
    · have hbelow : Sparse.get 0 bytes (src + o) = 0 := Sparse.get_below htail (by omega)
      rw [if_pos hbelow, if_pos (by omega), if_pos ho, if_neg hv]
    · rw [if_neg ho, if_neg (show ¬ dst + o = j - src + dst by omega)]

/-- Nothing is copied beyond the place of the bytes. -/
theorem get_copied_out {bytes : Sparse Byte} {n : Nat} (hsrc : ∀ x ∈ bytes, src ≤ x.1 ∧ x.1 < src + n) (old : Sparse Byte) {y : Nat}
    (hy : ¬ (dst ≤ y ∧ y < dst + n)) : Sparse.get 0 (copied src dst bytes old) y = Sparse.get 0 old y := by
  induction bytes generalizing old with
  | nil => rfl
  | cons x bytes ih =>
    have hx := hsrc x List.mem_cons_self
    change Sparse.get 0 (copied src dst bytes (Sparse.put 0 old (x.1 - src + dst) x.2)) y = _
    rw [ih (fun z hz => hsrc z (List.mem_cons_of_mem _ hz)), Sparse.get_put_ne _ _ _ (by omega)]

end

/-- Does an address lie in n bytes from lo on? -/
def inside (x lo n : Nat) : Bool := decide (lo ≤ x) && decide (x < lo + n)

theorem inside_iff {x lo n : Nat} : inside x lo n = true ↔ lo ≤ x ∧ x < lo + n := by
  rw [inside, Bool.and_eq_true, decide_eq_true_iff, decide_eq_true_iff]

/-- Memory in which the bytes of a page have moved to another. -/
def movedPage (src dst : Nat) (m : Sparse Byte) : Sparse Byte :=
  copied src dst (m.filter fun x => inside x.1 src 65536) (m.filter fun x => !inside x.1 dst 65536)

theorem get_movedPage {m : Sparse Byte} (hwf : Sparse.wf 0 m = true) (src dst : Nat) {o : Nat} (ho : o < 65536) :
    Sparse.get 0 (movedPage src dst m) (dst + o) = Sparse.get 0 m (src + o) := by
  have hsrc : ∀ x ∈ m.filter fun x => inside x.1 src 65536, src ≤ x.1 := fun x hx => (inside_iff.1 (List.mem_filter.1 hx).2).1
  rw [movedPage, get_copied (Sparse.wf_filter (fun x => inside x.1 src 65536) hwf) hsrc, Sparse.get_filter_key 0 (fun j => inside j src 65536),
    Sparse.get_filter_key 0 (fun j => !inside j dst 65536), if_pos (inside_iff.2 (by omega)), inside_iff.2 (by omega)]
  split
  · next h => exact h.symm
  · rfl

theorem get_movedPage_out (m : Sparse Byte) (src : Nat) {dst y : Nat} (hy : ¬ (dst ≤ y ∧ y < dst + 65536)) :
    Sparse.get 0 (movedPage src dst m) y = Sparse.get 0 m y := by
  have hout : inside y dst 65536 = false := Bool.eq_false_iff.2 (mt inside_iff.1 hy)
  rw [movedPage, get_copied_out (n := 65536) (fun x hx => inside_iff.1 (List.mem_filter.1 hx).2) _ hy,
    Sparse.get_filter_key 0 (fun j => !inside j dst 65536), hout]
  rfl

/-! Held accesses go on. -/

/-- A slice that holds the accesses to a page no more. -/
def Cluster.releases (page : Nat) (c : Cluster) : Cluster :=
  { c with heldPages := c.heldPages.filter (· ≠ page), pageWait := c.pageWait.filter fun a => !(a.pa / 65536 == page) }

/-- The accesses that a slice has held for a page go on. -/
def State.releaseAt (page : Nat) (s : State) (h : Nat) : State :=
  let l := (s.cluster h).pageWait.filter fun a => a.pa / 65536 == page
  let s := s.modCluster h (Cluster.releases page)
  l.foldl (fun (s : State) a =>
    if a.kind = .st ∨ a.kind = .rstore ∨ a.kind = .walk true then s.sched s.now (Phase.perform a.tid) (.run (.storeRegistration a))
    else s.arriveAt s.now a.tid (.arrive a)) s

theorem releasePage_eq (s : State) (page : Nat) : s.releasePage page = (s.pageHomes page).foldl (State.releaseAt page) s := rfl

section
variable (s : State) (page h : Nat)

/-- Beside its agenda, the package is that in which the slice holds the page no more. -/
theorem releaseAt_left : (s.releaseAt page h).besideAgenda = (s.modCluster h (Cluster.releases page)).besideAgenda := by
  refine List.foldlRecOn (motive := fun t : State => t.besideAgenda = _) _ _ rfl fun t ht a _ => ?_
  split <;> exact ht

theorem besideListing_releaseAt : (s.releaseAt page h).besideListing = s.besideListing :=
  (congrArg State.besideListing (releaseAt_left s page h) :)

theorem heldPages_releaseAt (k : Nat) : ((s.releaseAt page h).cluster k).heldPages =
    if k = h then (s.cluster h).heldPages.filter (· ≠ page) else (s.cluster k).heldPages := by
  have hcluster : (s.releaseAt page h).cluster k = (s.modCluster h (Cluster.releases page)).cluster k :=
    (congrArg (fun t : State => t.cluster k) (releaseAt_left s page h) :)
  rw [hcluster, State.cluster_modCluster]
  split <;> rfl

theorem besideListing_releasePage : (s.releasePage page).besideListing = s.besideListing := by
  rw [releasePage_eq]
  exact List.foldlRecOn (motive := fun t : State => t.besideListing = s.besideListing) _ _ rfl
    fun t ht k _ => (besideListing_releaseAt t page k).trans ht

/-- The homes of a page hold its accesses no more. -/
theorem released {s : State} {page h : Nat} (hh : h ∈ s.pageHomes page) : page ∉ ((s.releasePage page).cluster h).heldPages := by
  rw [releasePage_eq]
  refine foldl_reaches (P := fun t => page ∉ (t.cluster h).heldPages) (fun t j ht => ?_) (fun t => ?_) hh s
  · rw [heldPages_releaseAt]
    split
    · simp
    · exact ht
  · rw [heldPages_releaseAt, if_pos rfl]
    simp

end

theorem parts_of_besideListing {s t : State} (h : t.besideListing = s.besideListing) : t.cores = s.cores ∧ t.phys = s.phys ∧
    t.retired = s.retired ∧ t.pkg = s.pkg :=
  ⟨(congrArg State.cores h :), (congrArg State.phys h :), (congrArg State.retired h :), (congrArg State.pkg h :)⟩

theorem cluster_of_clusters {s t : State} (h : t.clusters = s.clusters) (k : Nat) : t.cluster k = s.cluster k := by
  rw [State.cluster, State.cluster, h]

/-- A packet changes cores, and of them no slot. -/
theorem sendEvent_left (s : State) (core kind : Nat) (info addr : W64) : (∀ u, (s.sendEvent core kind info addr).ctx u = s.ctx u) ∧
    (s.sendEvent core kind info addr).phys = s.phys ∧ (s.sendEvent core kind info addr).retired = s.retired ∧
    (s.sendEvent core kind info addr).pkg = s.pkg ∧ (s.sendEvent core kind info addr).clusters = s.clusters := by
  unfold State.sendEvent State.sendPacket
  dsimp only
  split <;> exact ⟨State.ctx_modCore_of_slots _ _ _ fun _ => rfl, rfl, rfl, rfl, rfl⟩

end Sys2Proof.Machine

namespace Sys2Proof.Claims

open Sys2Proof.Machine

section
variable (s : State) (page : Nat)

/-- A page that is retired without a spare. -/
def pageGone : State := { s with retired := s.retired.put 0 page 1 }

/-- A page whose bytes, and whose units in error, have moved to a spare. -/
def pageMoved : State :=
  let src := s.mapped (page * 65536)
  let spare := s.pkg.spareAt.toNat
  { s with
    phys := movedPage src spare s.phys
    errs := (s.errs.filter fun x => inside x.1 (src / 8) 8192 && x.2 == .uncorrectable).foldl (fun m x => m.put .clean (x.1 - src / 8 + spare / 8) x.2)
      (s.errs.filter fun x => !inside x.1 (spare / 8) 8192)
    poison := s.poison.filter (fun u => !inside u (spare / 8) 8192)
      ++ (s.poison.filter fun u => inside u (src / 8) 8192).map fun u => u - src / 8 + spare / 8
    retired := s.retired.put 0 page (2 + spare / 65536)
    pkg := { s.pkg with spares := s.pkg.spares - 1, spareAt := s.pkg.spareAt + 65536 } }

/-- The held accesses go on, and the event is sent. -/
def pageAnnounced (t : State) (free : Bool) : State :=
  (t.releasePage page).sendEvent (t.firmwareCore (dieOfPlace (page * 65536) (t.place (page * 65536)))) 6 (BitVec.ofNat 64 free.toNat)
    (BitVec.ofNat 64 (page * 65536))

theorem sparePageCopy_none (h : s.pkg.spares = 0) : exec (.sparePageCopy page) s = .next (pageAnnounced page (pageGone s page) false) := by
  change execSparePageCopy page s = _
  have hfree : (s.pkg.spares != 0) = false := by rw [h]; rfl
  unfold execSparePageCopy
  rw [hfree]
  rfl

theorem sparePageCopy_some (h : s.pkg.spares ≠ 0) : exec (.sparePageCopy page) s = .next (pageAnnounced page (pageMoved s page) true) := by
  change execSparePageCopy page s = _
  have hfree : (s.pkg.spares != 0) = true := bne_iff_ne.2 h
  unfold execSparePageCopy
  rw [hfree]
  rfl

end

/-- What the announcement keeps, and that the page's accesses are held no more. -/
theorem announced (page : Nat) (t : State) (free : Bool) : (∀ u, (pageAnnounced page t free).ctx u = t.ctx u) ∧
    (pageAnnounced page t free).phys = t.phys ∧ (pageAnnounced page t free).retired = t.retired ∧ (pageAnnounced page t free).pkg = t.pkg ∧
    ∀ h ∈ t.pageHomes page, page ∉ ((pageAnnounced page t free).cluster h).heldPages := by
  obtain ⟨hcores, hphys, hretired, hpkg⟩ := parts_of_besideListing (besideListing_releasePage t page)
  obtain ⟨hctx, hphys', hretired', hpkg', hclusters⟩ := sendEvent_left (t.releasePage page)
    (t.firmwareCore (dieOfPlace (page * 65536) (t.place (page * 65536)))) 6 (BitVec.ofNat 64 free.toNat) (BitVec.ofNat 64 (page * 65536))
  refine ⟨fun u => (hctx u).trans ?_, hphys'.trans hphys, hretired'.trans hretired, hpkg'.trans hpkg, fun h hh => ?_⟩
  · rw [State.ctx, State.slot, State.core, hcores]
    rfl
  · rw [pageAnnounced, cluster_of_clusters hclusters]
    exact released hh

theorem sparePage : SparePage := by
  intro s page hwf
  by_cases hfree : s.pkg.spares = 0
  · obtain ⟨hctx, hphys, hretired, hpkg, hheld⟩ := announced page (pageGone s page) false
    refine ⟨_, sparePageCopy_none s page hfree, hctx, hheld, fun _ => ⟨?_, hphys, hpkg⟩, fun h => absurd hfree h⟩
    rw [hretired]
    exact Sparse.get_put_self 0 _ page 1
  · obtain ⟨hctx, hphys, hretired, hpkg, hheld⟩ := announced page (pageMoved s page) true
    refine ⟨_, sparePageCopy_some s page hfree, hctx, hheld, fun h => absurd h hfree, fun _ => ⟨?_, ?_, fun o ho => ?_, fun x hx => ?_⟩⟩
    · rw [hretired]
      exact Sparse.get_put_self 0 _ page _
    · rw [hpkg]
      rfl
    · rw [hphys]
      exact get_movedPage hwf _ _ ho
    · rw [hphys]
      exact get_movedPage_out _ _ hx

end Sys2Proof.Claims
end
section
/-!
PROOFS. The kill of a line's owner (R348, R357), and the statement on mismatches and errors (O50).
-/

namespace Sys2Proof.Machine

/-! The slots and the memory stay as commands stop. -/

/-- No slot and no byte of memory differs. -/
structure Still (s t : State) : Prop where
  slots : ∀ v, t.slot v = s.slot v
  phys  : t.phys = s.phys

section
variable {s t u : State}

theorem Still.refl (s : State) : Still s s := ⟨fun _ => rfl, rfl⟩

theorem Still.trans (h : Still s t) (g : Still t u) : Still s u := ⟨fun v => (g.slots v).trans (h.slots v), g.phys.trans h.phys⟩

theorem still_foldl {α : Type} {f : State → α → State} (hf : ∀ s x, Still s (f s x)) (l : List α) (s : State) : Still s (l.foldl f s) :=
  List.foldlRecOn (motive := fun u : State => Still s u) l f (.refl s) fun _ hu x _ => hu.trans (hf _ x)

theorem QueueWork.still (h : QueueWork s t) : Still s t := ⟨h.slot, h.phys⟩

theorem EngineWork.still {cl : Nat} (h : EngineWork cl s t) : Still s t :=
  ⟨fun v => by rw [State.slot, State.slot, h.core], h.phys⟩

end

theorem still_sched (s : State) (due phase : Nat) (ev : Ev) : Still s (s.sched due phase ev) := ⟨fun _ => rfl, rfl⟩

theorem still_modCluster (s : State) (cl : Nat) (f : Cluster → Cluster) : Still s (s.modCluster cl f) := ⟨fun _ => rfl, rfl⟩

theorem still_modCore (s : State) (k : Nat) {f : Core → Core} (hf : ∀ c, (f c).slots = c.slots) : Still s (s.modCore k f) :=
  ⟨slot_modCore_of_slots s k hf, rfl⟩

theorem still_setBatten (s : State) (k b : Nat) (v : Batten) : Still s (s.setBatten k b v) := ⟨slot_setBatten s k b v, setBatten_phys ..⟩

theorem still_withdraw (s : State) (c : Cmd) (f : Fill) : Still s (s.withdraw c f) := still_foldl (fun _ _ => still_setBatten ..) _ s

theorem still_freeBatten (s : State) (k b : Nat) : Still s (s.freeBatten k b) :=
  (still_modCore s k (f := fun c => { c with battens := c.battens.put {} b {} }) fun _ => rfl).trans (queueWork_wakeNext ..).still

theorem still_endRun (s : State) (cl id : Nat) : Still s (s.endRun cl id) := by
  have hfree := (engineWork_freeEngine s cl id).still
  unfold State.endRun
  generalize s.freeEngine cl id = t at hfree
  dsimp only
  split
  · exact hfree
  · next r _ =>
    split
    · exact hfree
    · have hdrawn (f : Run → Run) : Still s ((r.fills.foldl (fun s f => s.withdraw r.cmd f) t).modRun cl id f) :=
        (hfree.trans (still_foldl (fun _ f => still_withdraw _ _ f) r.fills t)).trans (still_modCluster ..)
      refine .trans (.trans ?_ (still_sched ..)) (still_sched ..)
      split
      · exact hdrawn _
      · exact (hdrawn _).trans (still_sched ..)

theorem still_stopRun (s : State) (cl id : Nat) : Still s (s.stopRun cl id) := (still_modCluster ..).trans (still_endRun ..)

theorem still_leaveQueue (s : State) (k q : Nat) (c : Cmd) : Still s (s.leaveQueue k q c) := by
  have hforget : Still s (s.modCore k fun x => x.forget c.id) := still_modCore s k fun _ => rfl
  refine ((hforget.trans (queueWork_wakeNext ..).still).trans (stands_heads ..).1.still).trans (still_foldl (fun t j => ?_) _ _)
  split
  · exact still_freeBatten ..
  · exact .refl t

/-! A slot that is quiet keeps all but its counters. -/

/-- A slot that waits to be quiet keeps all but its context, and no byte of memory differs. -/
structure Quiet (u : Tid) (s t : State) : Prop where
  slot : (s.slot u).st = .waiting .quiet → ∃ c, t.slot u = { s.slot u with ctx := c }
  phys : t.phys = s.phys

section
variable {u : Tid} {s t w : State}

theorem Still.quiet (h : Still s t) : Quiet u s t := ⟨fun _ => ⟨(s.slot u).ctx, h.slots u⟩, h.phys⟩

theorem Quiet.trans (h : Quiet u s t) (g : Quiet u t w) : Quiet u s w := by
  refine ⟨fun hs => ?_, g.phys.trans h.phys⟩
  obtain ⟨c, hc⟩ := h.slot hs
  obtain ⟨d, hd⟩ := g.slot (by rw [hc]; exact hs)
  exact ⟨d, by rw [hd, hc]⟩

theorem quiet_foldl {α : Type} {f : State → α → State} (hf : ∀ s x, Quiet u s (f s x)) (l : List α) (s : State) : Quiet u s (l.foldl f s) :=
  List.foldlRecOn (motive := fun t : State => Quiet u s t) l f (Still.refl s).quiet fun _ ht x _ => ht.trans (hf _ x)

end

/-- A fall makes no quiet thread ready. -/
theorem quiet_fallWc (u : Tid) (s : State) (t : Tid) (n : BitVec 2) : Quiet u s (s.fallWc t n) := by
  refine ⟨fun hquiet => ?_, (fallWc_frame s t n).2⟩
  have hslot : ((s.modCtx t fun c => c.wwc n (c.rwc n - 1)).slot u) =
      { s.slot u with ctx := if u = t then (s.ctx t).wwc n ((s.ctx t).rwc n - 1) else (s.slot u).ctx } := by
    rw [State.modCtx, State.slot_modSlot]
    split
    · next h => subst h; rfl
    · rfl
  rcases fallWc_eq s t n with h | h
  · exact ⟨_, by rw [h]; exact hslot⟩
  · by_cases hu : u = t
    · subst hu
      refine ⟨_, Eq.trans ?_ hslot⟩
      have hst : ((s.modCtx u fun c => c.wwc n (c.rwc n - 1)).slot u).st = .waiting .quiet := by rw [hslot]; exact hquiet
      unfold State.fallWc
      dsimp only
      rw [hst]
    · refine ⟨_, Eq.trans ?_ hslot⟩
      rw [h, State.slot_setSt, if_neg hu]

theorem quiet_bothWc (u : Tid) (s : State) (t : Tid) (n : BitVec 2) : Quiet u s (s.bothWc t fun s t => s.fallWc t n) := by
  unfold State.bothWc
  split
  · exact (quiet_fallWc ..).trans (quiet_fallWc ..)
  · exact quiet_fallWc ..

theorem quiet_stopWhere (u : Tid) (s : State) (k : Nat) (p : Cmd → Bool) : Quiet u s (s.stopWhere k p) := by
  refine quiet_foldl (fun s ql => quiet_foldl (fun s c => ?_) _ s) _ s
  dsimp only
  split
  · exact (Still.refl s).quiet
  · split
    · exact (still_stopRun ..).quiet
    · refine .trans ?_ (still_leaveQueue ..).quiet
      split
      · exact quiet_bothWc ..
      · exact (Still.refl s).quiet

theorem quiet_stopCommands (u : Tid) (s : State) (t : Tid) : Quiet u s (s.stopCommands t) := by
  unfold State.stopCommands
  refine .trans (.trans (Still.quiet ?_) (quiet_stopWhere ..)) (stands_heads ..).1.still.quiet
  exact still_modCore s t.core fun _ => rfl

theorem still_rdvKill (s : State) (t : Tid) : Still s (s.rdvKill t) := by
  unfold State.rdvKill
  refine .trans ?_ (still_modCluster ..)
  exact still_modCore s t.core fun _ => rfl

theorem quiet_stopThread (u : Tid) (s : State) (t : Tid) : Quiet u s (s.stopThread t) :=
  (quiet_stopCommands u s t).trans (still_rdvKill ..).quiet

/-! A kill begins (R349). -/

/-- A slot whose kill, of a code, has begun. -/
def Slot.killed (code : BitVec 6) (x : Slot) : Slot := { x with st := .waiting .quiet, killing := some code, unwinding := none, raising := none }

theorem startKill_slot (s : State) (t : Tid) (code : BitVec 6) :
    (∃ c, (s.startKill t code).slot t = { (s.slot t).killed code with ctx := c }) ∧ (s.startKill t code).phys = s.phys := by
  have hquiet := quiet_stopThread t (s.modSlot t (Slot.killed code)) t
  obtain ⟨c, hc⟩ := hquiet.slot (by rw [State.slot_modSlot_self]; rfl)
  refine ⟨⟨c, ?_⟩, hquiet.phys⟩
  rw [State.slot_modSlot_self] at hc
  exact hc

theorem sendThread_slot (s : State) (t : Tid) (kind : Nat) (f : Flt) : ((s.sendThread t kind f).slot t).code = f.code ∧
    ((s.sendThread t kind f).slot t).sub = f.sub := by
  have hslot : (s.sendThread t kind f).slot t = { s.slot t with spkt := s.threadPacket t kind f, code := f.code, sub := f.sub } := by
    unfold State.sendThread State.sendPacket
    dsimp only
    rw [if_neg fun h => Bool.false_ne_true h.1, slot_modCore_of_slots _ _ (by exact fun _ => rfl), State.slot_modSlot_self]
  rw [hslot]
  exact ⟨rfl, rfl⟩

/-- R348, R357: the kill of a line's owner; its packet leaves at once, or waits for the slot's place. -/
theorem killOwner_slot (s : State) (t : Tid) : ((s.killOwner t).slot t).st = .waiting .quiet ∧ ((s.killOwner t).slot t).killing = some 9 ∧
    (s.placeFree t = true → ((s.killOwner t).slot t).code = 9 ∧ ((s.killOwner t).slot t).sub = 2) ∧
    (s.placeFree t = false → ∃ f, ((s.killOwner t).slot t).raising = some f ∧ f.code = 9 ∧ f.sub = 2) ∧ (s.killOwner t).phys = s.phys := by
  let f : Flt := { code := 9, sub := 2 }
  by_cases hfree : s.placeFree t = true
  · obtain ⟨⟨c, hc⟩, hphys⟩ := startKill_slot (s.sendThread t 1 f) t 9
    have hkilled : s.killOwner t = (s.sendThread t 1 f).startKill t 9 := if_pos hfree
    have hsent := sendThread_slot s t 1 f
    rw [hkilled, hc, hphys]
    generalize (s.sendThread t 1 f).slot t = x at hsent
    exact ⟨rfl, rfl, fun _ => hsent, fun h => absurd (hfree.symm.trans h) (by decide), (reports_sendThread s t 1 f).phys⟩
  · obtain ⟨⟨c, hc⟩, hphys⟩ := startKill_slot s t 9
    have hkilled : s.killOwner t = (s.startKill t 9).modSlot t fun x => { x with raising := some f } := if_neg hfree
    rw [hkilled, State.slot_modSlot_self, State.modSlot_phys, hc, hphys]
    exact ⟨rfl, rfl, fun h => absurd h hfree, fun _ => ⟨f, rfl, rfl, rfl⟩, rfl⟩

theorem park_modPark (s : State) (ref : BitVec 26) (f : Park → Park) : (s.modPark ref f).park ref = f (s.park ref) := by
  rw [State.park, State.parkAt, State.modPark, State.modParkAt, State.cluster_modCluster_self]
  exact Sparse.get_put_self ({} : Park) _ _ _

theorem poisonTask_phys (s : State) (t : Tid) (ref : BitVec 26) : (s.poisonTask t ref).phys = s.phys := by
  unfold State.poisonTask State.toTable
  dsimp only
  split
  · rfl
  · split <;> rfl

end Sys2Proof.Machine

namespace Sys2Proof.Claims

open Sys2Proof.Machine

theorem ownerKills : OwnerKills := by
  intro s u bind v ref
  have hlive (h : v / 2 ^ 129 % 2 = 0) : ¬ v / 2 ^ 129 % 2 = 1 := by omega
  refine ⟨fun h => congrArg Host.Outcome.next (if_pos h), fun h hst hbind hkill => ?_, fun h hgone hpark => ?_⟩
  · have hrun : exec (.ownerKill u bind) s = .next (s.killOwner u) := by
      refine congrArg Host.Outcome.next ((if_neg (hlive h)).trans ((if_pos ⟨hst, hbind⟩).trans (if_neg ?_)))
      rw [hkill]
      exact Bool.false_ne_true
    obtain ⟨hquiet, hkilling, hsent, hwaits, hphys⟩ := killOwner_slot s u
    exact ⟨_, hrun, hquiet, hkilling, hsent, hwaits, hphys⟩
  · have hrun : exec (.ownerKill u bind) s = .next ((s.poisonTask u ref).modPark ref fun (p : Park) => { p with pst := 5 }) := by
      refine congrArg Host.Outcome.next ((if_neg (hlive h)).trans ((if_neg hgone).trans ?_))
      dsimp only
      rw [hpark]
      rfl
    refine ⟨_, hrun, ?_, poisonTask_phys ..⟩
    rw [park_modPark]

end Sys2Proof.Claims

open Sys2Proof.Machine Sys2Proof.Claims

/-- Settles O50: each event's state is one update of the slots, of a table of errors, of a slice's lines or of a page's bytes,
and what follows it is on the agenda. -/
theorem pairsAndErrors : Obligations.PairsAndErrors :=
  ⟨timeout, signatures, softErrors, dirtyLine, retirePage, sparePage, ownerKills, sweeps⟩
end
